-- ==== Sys2Proof/Word.lean ====
section
/-! DEFINITION. The word types of the device (00 R4 to R6) and the keyed lists that State is built of. -/

namespace Sys2Proof

/-- One byte of memory (00 R6). -/
abbrev Byte := BitVec 8
/-- A 32-bit element, instruction word or lane mask. -/
abbrev W32 := BitVec 32
/-- A register lane, a scalar register or a memory word (00 R6). -/
abbrev W64 := BitVec 64
/-- A lane mask of a wave: bit l is lane l (01 R32). -/
abbrev Mask := BitVec 32

/-- Sparse data by number: a list of (number, value), numbers strictly rising. -/
abbrev NMap (α : Type) := List (Nat × α)

namespace NMap

/-- The value at `k`, if the map holds one. -/
def get? {α : Type} (m : List (Nat × α)) (k : Nat) : Option α :=
  match m with
  | [] => none
  | (j, x) :: rest => if j = k then some x else get? rest k

/-- The value at `k`, or `d`. -/
def getD {α : Type} (m : List (Nat × α)) (k : Nat) (d : α) : α :=
  (get? m k).getD d

/-- A value at a number that the map does not hold, in rising order. -/
def insert {α : Type} (m : List (Nat × α)) (k : Nat) (x : α) : List (Nat × α) :=
  match m with
  | [] => [(k, x)]
  | (j, y) :: rest => if k < j then (k, x) :: (j, y) :: rest else (j, y) :: insert rest k x

/-- Another value at a number that the map holds. -/
def replace {α : Type} (m : List (Nat × α)) (k : Nat) (x : α) : List (Nat × α) :=
  match m with
  | [] => []
  | (j, y) :: rest => if j = k then (k, x) :: rest else (j, y) :: replace rest k x

/-- Writes the value at `k`, keeping the numbers in rising order. -/
def set {α : Type} (m : List (Nat × α)) (k : Nat) (x : α) : List (Nat × α) :=
  if (get? m k).isSome then replace m k x else insert m k x

/-- Removes the entry at `k`. -/
def erase {α : Type} (m : List (Nat × α)) (k : Nat) : List (Nat × α) :=
  m.filter (fun e => e.1 != k)

end NMap

end Sys2Proof
end

