-- ==== Sys2Proof/Syntax.lean ====
section
/-! DEFINITION. The steps of the device: one constructor of `Instr` for each row of spec/opcode_table.json.
A wave's instruction holds its operands as the template and the word name them (04 R83 to R91); an event of
another agent holds what that agent brings (95_what_each_step_holds.md). -/

namespace Sys2Proof

/-- The format tags of 06 R127, in the order of their codes. -/
inductive Fmt where
  | b64 | i8 | n8 | i16 | n16 | i32 | n32 | i64 | n64 | f64 | f32 | bf16 | f16
  | e4m3 | e5m2 | mxfp4 | nib4 | e2m1 | e8m0 | mask | addr | idx32
  deriving DecidableEq, Repr

/-- The rounding modes of 06 R130, in the order of their codes. -/
inductive Rnd where
  | rne | rtz | rdn | rup
  deriving DecidableEq, Repr

/-- The scopes of 16 R311, in the order of their codes. -/
inductive Scope where
  | wave | team | cluster | die | device | system
  deriving DecidableEq, Repr

/-- The address spaces of 12 R228, in the order of their codes. -/
inductive Space where
  | global | shared | stash | priv
  deriving DecidableEq, Repr

/-- An operand that is one value for every lane: kinds 01, 10 and 11 of 04 R84. -/
inductive Src where
  | s (r : BitVec 6)      -- scalar register
  | c (e : BitVec 6)      -- constant entry of the window CWIN
  | imm (i : BitVec 5)    -- signed immediate
  | lit (m : BitVec 2)    -- packet literal L, in one of its four modes
  deriving DecidableEq, Repr

/-- An operand of 04 R84: a vector register (bank applied) or one of the kinds above. -/
inductive Operand where
  | v (r : BitVec 7)
  | u (x : Src)
  deriving DecidableEq, Repr

/-- A destination of DKIND 00 or 01 (04 R88). -/
inductive Dest where
  | v (r : BitVec 7)
  | s (r : BitVec 6)
  deriving DecidableEq, Repr

/-- A third source (04 R89): the old destination (HOLES 01), or CSPEC. -/
inductive Third where
  | old
  | op (o : Operand)
  deriving DecidableEq, Repr

/-- Element selection of 09 R186: every element, or element K only. -/
abbrev Sel := Option (BitVec 3)

/-- The conditions of CMP (09 R192). -/
inductive Cond where
  | eq | ne | lt | le | gt | ge | test
  deriving DecidableEq, Repr

/-- The conditions of FCMP (10 R205). -/
inductive FCond where
  | eq | ne | lt | le | gt | ge | un | ord
  deriving DecidableEq, Repr

/-- The functions of BITC (09 R196). -/
inductive BitFn where
  | pop | clz | ctz | brev
  deriving DecidableEq, Repr

/-- The index kinds of LEA (09 R199). -/
inductive IxKind where
  | i64 | n64 | i32 | n32
  deriving DecidableEq, Repr

/-- The functions of SFN (10 R210). -/
inductive SfnFn where
  | rcp | rsq | sqrt | exp2 | log2 | sinpi | cospi | tanh
  deriving DecidableEq, Repr

/-- The modes of SHUF (11 R218). -/
inductive ShufMode where
  | idx | up | down | xor | rot
  deriving DecidableEq, Repr

/-- The functions that SCAN, REDW, SRED, ATOM and COLL combine with (11 R219, 13 R259, R261, 20 R385). -/
inductive RedFn where
  | add | min | max | and | or | xor
  deriving DecidableEq, Repr

/-- The operations of ATOM (13 R261). -/
inductive AtomFn where
  | red (f : RedFn)
  | exch
  deriving DecidableEq, Repr

/-- The functions of REDW (11 R219, R221): a reduction, or the pick of one lane. -/
inductive RedwFn where
  | red (f : RedFn)
  | pick (n : Src)
  deriving DecidableEq, Repr

/-- The operations of MERGE (11 R225). -/
inductive MergeFn where
  | add | sub | min | max
  deriving DecidableEq, Repr

/-- The access sizes of LD and ST (13 R253): 1, 2, 4, 8 or 16 bytes. -/
inductive Sz where
  | b1 | b2 | b4 | b8 | b16
  deriving DecidableEq, Repr

/-- The modes of VOTE (07 R166). -/
inductive VoteMode where
  | any | all | ballot | count
  deriving DecidableEq, Repr

/-- The operations of FLUSH (13 R265). -/
inductive FlushOp where
  | wb | inv | repair
  deriving DecidableEq, Repr

/-- Where a COPY writes (13 R267). -/
inductive CopyDst where
  | global (r : Src)
  | shared (r : Src)
  | regs (r : BitVec 7)
  deriving DecidableEq, Repr

/-- The accumulator of MMA and MMG (14 R280): starting at -0, the destination tile, or another tile. -/
inductive Acc where
  | none
  | own
  | tile (c : BitVec 3)
  deriving DecidableEq, Repr

/-- The operations of MMOVE (14 R288). -/
inductive MmoveOp where
  | copy (a : BitVec 3)
  | fill (a : Src)
  | add (a b : BitVec 3)
  deriving DecidableEq, Repr

/-- The patterns of LDPRUNE (15 R297). -/
inductive Prune where
  | p24 | p14 | p48
  deriving DecidableEq, Repr

/-- The kinds of AWAIT with their operands (18 R353). -/
inductive AwaitForm where
  | rne (glob : Bool) (k : Src)
  | rnf (glob : Bool) (k : Src)
  | kids
  | chan (n v : Src)
  | ev (shared : Bool) (a : Src)
  deriving DecidableEq, Repr

/-- The conditions of WAITV (18 R346). -/
inductive WaitCond where
  | eq | ne | ge | lt
  deriving DecidableEq, Repr

/-- ADD, SUB, MUL, MULH, AND, OR, XOR, MIN, MAX (09 R185). -/
structure Alu2 where
  fmt : Fmt
  sat : Bool
  sel : Sel
  d : Dest
  a : Operand
  b : Operand
  deriving DecidableEq, Repr

/-- MAD and SEL (09 R190, R197). -/
structure Alu3 where
  fmt : Fmt
  sat : Bool
  sel : Sel
  d : Dest
  a : Operand
  b : Operand
  third : Third
  deriving DecidableEq, Repr

/-- SHL and SHR (09 R194). -/
structure ShiftForm where
  fmt : Fmt
  rot : Bool
  sel : Sel
  d : Dest
  a : Operand
  b : Operand
  deriving DecidableEq, Repr

/-- BFX (09 R195); `len1` is LEN - 1. -/
structure BfxForm where
  fmt : Fmt
  sel : Sel
  d : Dest
  a : Operand
  pos : BitVec 6
  len1 : BitVec 6
  deriving DecidableEq, Repr

/-- BFI (09 R195). -/
structure BfiForm where
  fmt : Fmt
  sel : Sel
  d : Dest
  a : Operand
  b : Operand
  pos : BitVec 6
  len1 : BitVec 6
  deriving DecidableEq, Repr

/-- BITC (09 R196). -/
structure BitcForm where
  fmt : Fmt
  fn : BitFn
  sel : Sel
  d : Dest
  a : Operand
  deriving DecidableEq, Repr

/-- CMP (09 R192). -/
structure CmpForm where
  fmt : Fmt
  cond : Cond
  sel : Sel
  d : Dest
  a : Operand
  b : Operand
  deriving DecidableEq, Repr

/-- MOV (09 R198); `el` holds (KD, KS) when SE is 1. -/
structure MovForm where
  fmt : Fmt
  el : Option (BitVec 3 × BitVec 3)
  d : Dest
  a : Operand
  deriving DecidableEq, Repr

/-- LEA (09 R199). -/
structure LeaForm where
  ix : IxKind
  lane : Bool
  shift : BitVec 3
  disp : BitVec 12
  d : Dest
  a : Operand
  b : Operand
  deriving DecidableEq, Repr

/-- FADD and FMUL (10 R203). -/
structure FAlu2 where
  fmt : Fmt
  rnd : Rnd
  sat : Bool
  sel : Sel
  d : Dest
  a : Operand
  b : Operand
  deriving DecidableEq, Repr

/-- FMA (10 R203). -/
structure FAlu3 where
  fmt : Fmt
  rnd : Rnd
  sat : Bool
  sel : Sel
  d : Dest
  a : Operand
  b : Operand
  third : Third
  deriving DecidableEq, Repr

/-- FMIN and FMAX (10 R204). -/
structure FMinForm where
  fmt : Fmt
  nan : Bool
  sel : Sel
  d : Dest
  a : Operand
  b : Operand
  deriving DecidableEq, Repr

/-- FCMP (10 R205). -/
structure FCmpForm where
  fmt : Fmt
  cond : FCond
  sel : Sel
  d : Dest
  a : Operand
  b : Operand
  deriving DecidableEq, Repr

/-- CVT (10 R206). -/
structure CvtForm where
  fmt : Fmt
  src : Fmt
  rnd : Rnd
  sat : Bool
  part : BitVec 3
  d : Dest
  a : Operand
  deriving DecidableEq, Repr

/-- SFN (10 R210). -/
structure SfnForm where
  fmt : Fmt
  fn : SfnFn
  rnd : Rnd
  sel : Sel
  d : BitVec 7
  a : Operand
  deriving DecidableEq, Repr

/-- DOT (10 R211). -/
structure DotForm where
  fmt : Fmt
  src : Fmt
  rnd : Rnd
  sat : Bool
  k : BitVec 3
  d : BitVec 7
  a : Operand
  b : Operand
  third : Third
  deriving DecidableEq, Repr

/-- QUANT (10 R213); `super` is the nib4 superblock scale. -/
structure QuantForm where
  src : Fmt
  super : Option Src
  d : BitVec 7
  a : BitVec 7
  deriving DecidableEq, Repr

/-- DEQ (10 R215). -/
structure DeqForm where
  fmt : Fmt
  super : Option Src
  rnd : Rnd
  d : BitVec 7
  a : BitVec 7
  b : BitVec 7
  deriving DecidableEq, Repr

/-- SHUF (11 R218). -/
structure ShufForm where
  fmt : Fmt
  mode : ShufMode
  sel : Sel
  d : BitVec 7
  a : BitVec 7
  b : Operand
  deriving DecidableEq, Repr

/-- SCAN (11 R220). -/
structure ScanForm where
  fmt : Fmt
  fn : RedFn
  excl : Bool
  sel : Sel
  d : BitVec 7
  a : BitVec 7
  heads : Src
  deriving DecidableEq, Repr

/-- REDW (11 R221). -/
structure RedwForm where
  fmt : Fmt
  fn : RedwFn
  sel : Sel
  d : Dest
  a : BitVec 7
  deriving DecidableEq, Repr

/-- TOPK (11 R223); `k1` is k - 1. -/
structure TopkForm where
  fmt : Fmt
  nz : Bool
  k1 : BitVec 6
  d : BitVec 7
  a : BitVec 7
  b : BitVec 6
  deriving DecidableEq, Repr

/-- MERGE (11 R225). -/
structure MergeForm where
  fmt : Fmt
  fn : MergeFn
  dropz : Bool
  scope : Scope
  d : BitVec 6
  desc : Src
  deriving DecidableEq, Repr

/-- LD (13 R253, R254). -/
structure LdForm where
  fmt : Fmt
  scope : Scope
  space : Space
  hint : BitVec 6
  sz : Sz
  sel : Sel
  d : Dest
  a : Operand
  b : Operand
  deriving DecidableEq, Repr

/-- ST (13 R253, R255); `data` names the data register, scalar under .sdata. -/
structure StForm where
  fmt : Fmt
  scope : Scope
  space : Space
  repair : Bool
  sz : Sz
  sel : Sel
  data : Dest
  a : Operand
  b : Operand
  deriving DecidableEq, Repr

/-- GATHER and SCATTER (13 R257); N is `n1` + 1 and S is `s3` + 3. -/
structure RowsForm where
  fmt : Fmt
  scope : Scope
  n1 : BitVec 3
  s3 : BitVec 5
  d : BitVec 7
  base : Src
  ix : BitVec 7
  deriving DecidableEq, Repr

/-- SRED (13 R259). -/
structure SredForm where
  fmt : Fmt
  scope : Scope
  fn : RedFn
  a : Operand
  b : Operand
  deriving DecidableEq, Repr

/-- ATOM (13 R261); no destination is DKIND 11. -/
structure AtomForm where
  fmt : Fmt
  scope : Scope
  space : Space
  fn : AtomFn
  d : Option Dest
  a : Operand
  b : Operand
  deriving DecidableEq, Repr

/-- CAS (13 R262). -/
structure CasForm where
  fmt : Fmt
  scope : Scope
  space : Space
  d : Dest
  a : Operand
  cmp : Operand
  new : Third
  deriving DecidableEq, Repr

/-- PREF (13 R264). -/
structure PrefForm where
  scope : Scope
  l2 : Bool
  hint : BitVec 6
  a : Operand
  b : Operand
  deriving DecidableEq, Repr

/-- FENCE (16 R318): the order bits, and for .xp the source and destination classes. -/
structure FenceForm where
  scope : Scope
  ord : BitVec 2
  xp : Option (BitVec 6 × BitVec 6)
  deriving DecidableEq, Repr

/-- FLUSH (13 R265). -/
structure FlushForm where
  scope : Scope
  op : FlushOp
  base : Src
  len : Src
  deriving DecidableEq, Repr

/-- COPY (13 R267). -/
structure CopyForm where
  fmt : Fmt
  src : Fmt
  rnd : Rnd
  sat : Bool
  scope : Scope
  chain : BitVec 16
  fromShared : Bool
  ch : BitVec 3
  d : BitVec 6
  srec : Src
  dst : CopyDst
  deriving DecidableEq, Repr

/-- CHWAIT (13 R271). -/
structure ChwaitForm where
  scope : Scope
  try_ : Bool
  d : BitVec 6
  ch : Src
  v : Src
  deriving DecidableEq, Repr

/-- MMA (14 R280). -/
structure MmaForm where
  fmt : Fmt
  src : Fmt
  ecls : BitVec 2
  span : BitVec 2
  pair : Bool
  sp : Bool
  balt : Bool
  d : BitVec 3
  a : BitVec 7
  b : BitVec 7
  acc : Acc
  bx : BitVec 7
  ax : BitVec 7
  deriving DecidableEq, Repr

/-- MMG (14 R284). -/
structure MmgForm where
  fmt : Fmt
  src : Fmt
  ecls : BitVec 2
  span : BitVec 2
  balt : Bool
  d : BitVec 3
  a : BitVec 7
  b : BitVec 7
  acc : Acc
  bx : BitVec 7
  ent : BitVec 6
  deriving DecidableEq, Repr

/-- MLOAD (14 R285). -/
structure MloadForm where
  fmt : Fmt
  ecls : BitVec 2
  scope : Scope
  shared : Bool
  t : Bool
  d : BitVec 3
  rec_ : Src
  org : Src
  deriving DecidableEq, Repr

/-- MSTORE (14 R286). -/
structure MstoreForm where
  fmt : Fmt
  src : Fmt
  rnd : Rnd
  sat : Bool
  ecls : BitVec 2
  scope : Scope
  shared : Bool
  t : Bool
  m : BitVec 3
  rec_ : Src
  org : Src
  deriving DecidableEq, Repr

/-- MMOVE (14 R288). -/
structure MmoveForm where
  fmt : Fmt
  ecls : BitVec 2
  d : BitVec 3
  op : MmoveOp
  deriving DecidableEq, Repr

/-- LDPRUNE (15 R298). -/
structure LdpruneForm where
  fmt : Fmt
  scope : Scope
  shared : Bool
  pat : Prune
  t : Bool
  d : BitVec 7
  rec_ : Src
  m : BitVec 7
  org : Option Src
  deriving DecidableEq, Repr

/-- PATGEN (15 R307). -/
structure PatgenForm where
  slot : BitVec 3
  tr : Bool
  d : BitVec 7
  a : Src
  b : BitVec 6
  deriving DecidableEq, Repr

/-- BAR (18 R343); `cnt` is the operand of .cnt. -/
structure BarForm where
  scope : Scope
  id : BitVec 4
  arrive : Bool
  cnt : Option Src
  deriving DecidableEq, Repr

/-- QPUT (18 R351). -/
structure QputForm where
  scope : Scope
  glob : Bool
  try_ : Bool
  d : BitVec 6
  k : Src
  v : Operand
  deriving DecidableEq, Repr

/-- QTAKE (18 R352). -/
structure QtakeForm where
  scope : Scope
  glob : Bool
  try_ : Bool
  d : Dest
  k : Src
  deriving DecidableEq, Repr

/-- SIGNAL (18 R345). -/
structure SignalForm where
  scope : Scope
  add : Bool
  shared : Bool
  a : Src
  v : Src
  deriving DecidableEq, Repr

/-- WAITV (18 R346). -/
structure WaitvForm where
  scope : Scope
  cond : WaitCond
  shared : Bool
  d : BitVec 6
  a : Src
  v : Src
  deriving DecidableEq, Repr

/-- SPAWN (03 R74) with the footprint of its IMM. -/
structure SpawnForm where
  d : BitVec 6
  entry : Src
  args : Src
  pencils : BitVec 3
  chans : BitVec 4
  tiles : BitVec 4
  blocks1 : BitVec 3
  deriving DecidableEq, Repr

/-- The collective operations that run as a step of a group (20 R385, R388). -/
inductive CollOp where
  | ared | agat | rsc | bcast | bar
  deriving DecidableEq, Repr

/-- COLL with a function, a format and a scope (20 R385). -/
structure CollForm where
  fmt : Fmt
  fn : RedFn
  scope : Scope
  d : BitVec 6
  a : Src
  deriving DecidableEq, Repr

/-- Who reaches device memory from outside the clusters (17 R330, R338). -/
inductive Outside where
  | host (fn : Nat)      -- the host, through function fn
  | peer (p : Nat)       -- peer p, 1 to 13
  deriving DecidableEq, Repr

/-- A lease request on its way from a cluster's L1 to a home (17 R326, R327): the fill range `first` to `last` of
physical frame `frame`, the words wanted of it and those of them that the instruction has missed, the lowest and highest of
these (12 R242), the agent's time and LEASE, the wave that asked and the number of its load, the predictor entry, and the
seal entry of the range with its number (17 R336). `l2only` brings nothing to the L1; `excl` goes before a write, for which
the sharers drop their copies (17 R332). -/
structure LeaseReq where
  cluster : Nat
  frame : Nat
  first : Nat
  last : Nat
  want : W32
  missed : W32
  lo : Nat
  hi : Nat
  time : BitVec 16
  lease : BitVec 12
  wave : Nat
  sprig : Option Nat
  load : Nat
  index : Nat
  sealTag : Option Nat
  sealId : Nat
  l2only : Bool
  excl : Bool
  deriving DecidableEq, Repr

/-- A lease reply on its way back (17 R326): `got` are the words that it brings. -/
structure LeaseRep where
  cluster : Nat
  frame : Nat
  first : Nat
  words : List W64
  got : W32
  lo : Nat
  hi : Nat
  wts : BitVec 16
  rts : BitVec 16
  stamp : Nat
  sealTag : Option Nat
  wave : Nat
  sprig : Option Nat
  load : Nat
  index : Nat
  deriving DecidableEq, Repr

/-- A frame that a stash takes in: the numbers of the global frame and of the physical one (12 R246). -/
structure FrameName where
  va : Nat
  pa : Nat
  deriving DecidableEq, Repr

/-- What a rank on a peer brings to a step of a collective group (20 R388). -/
structure PeerPost where
  rank : Nat
  op : CollOp
  fn : RedFn
  fmt : Fmt
  count : Nat
  root : Nat
  data : List Byte
  deriving DecidableEq, Repr

/-- How a step of KVX or of a collective ends on the fabric's side (13 R274, 20 R388). -/
inductive FabricEnd where
  | done
  | refused
  | linkLost
  | poisoned
  deriving DecidableEq, Repr

/-- What a register of a sprig's cache is (08 R174). -/
inductive RegName where
  | s (r : Nat)
  | v (r : Nat)
  deriving DecidableEq, Repr

/-- Which thread of a wave: a split by index, a sprig by slot, or the handler split (07 R155, 08, 19 R367). -/
inductive Who where
  | split (n : Nat)
  | sprig (j : Nat)
  | handler
  deriving DecidableEq, Repr

/-- The causes of a throttle step (20 R397, R400). -/
inductive Throttle where
  | power | temperature | current
  deriving DecidableEq, Repr

/-- One constructor for each row of spec/opcode_table.json, in the table's order. -/
inductive Instr where
  | deviceReset  -- DEVICE_RESET (R323)
  | registerWrite (fn off : Nat) (val : W64)  -- REGISTER_WRITE (R10)
  | slotOwnerWrite (slot : Nat) (val : Byte)  -- SLOT_OWNER_WRITE (R56)
  | enable (slot : Nat) (on : Bool)  -- ENABLE (R58)
  | teardown (slot : Nat)  -- TEARDOWN (R75)
  | teardownComplete (slot : Nat)  -- TEARDOWN_COMPLETE (R75)
  | bump (slot : Nat)  -- BUMP (R58)
  | bumpComplete (slot : Nat)  -- BUMP_COMPLETE (R235)
  | scrubPassEnd  -- SCRUB_PASS_END (R236)
  | atsInvalidate (pasid : BitVec 20)  -- ATS_INVALIDATE (R235)
  | plateRegister (slot p : Nat) (val : W64)  -- PLATE_REGISTER (R62)
  | plateUnregister (slot p : Nat) (val : W64)  -- PLATE_UNREGISTER (R62)
  | plateSealRelease (slot p : Nat)  -- PLATE_SEAL_RELEASE (R62)
  | kick (slot : Nat) (val : W64)  -- KICK (R64)
  | kickValidate (slot p : Nat)  -- KICK_VALIDATE (R65)
  | kickRetry (slot p : Nat)  -- KICK_RETRY (R65)
  | impressionStart (slot p : Nat)  -- IMPRESSION_START (R48)
  | nodeStart (imp node : Nat)  -- NODE_START (R47)
  | writeNodeDone (imp node : Nat)  -- WRITE_NODE_DONE (R47)
  | impressionComplete (imp : Nat)  -- IMPRESSION_COMPLETE (R396)
  | launchAccept (ticket : Nat)  -- LAUNCH_ACCEPT (R67)
  | placeWork (die : Nat)  -- PLACE_WORK (R70)
  | waveStart (w : Nat)  -- WAVE_START (R420)
  | waveRetire (w : Nat)  -- WAVE_RETIRE (R394)
  | launchComplete (l : Nat)  -- LAUNCH_COMPLETE (R395)
  | tick  -- TICK (R324)
  | inkwellRefill  -- INKWELL_REFILL (R148)
  | logjamScan  -- LOGJAM_SCAN (R356)
  | leaseRequest (r : LeaseReq)  -- LEASE_REQUEST (R327)
  | leaseReply (r : LeaseRep)  -- LEASE_REPLY (R326)
  | homeStore (cluster id : Nat)  -- HOME_STORE (R327)
  | storeAck (cluster id : Nat) (wts : BitVec 16)  -- STORE_ACK (R326)
  | invalidationAnswer (sector sharer : Nat)  -- INVALIDATION_ANSWER (R332)
  | fanoutTimeout (sector : Nat)  -- FANOUT_TIMEOUT (R339)
  | recallReturn (sector : Nat) (words : List (Nat × W64))  -- RECALL_RETURN (R334)
  | stashFill (cluster team : Nat) (frame : FrameName) (write : Bool)  -- STASH_FILL (R335)
  | l2Evict (frame : Nat)  -- L2_EVICT (R329)
  | millUpdate (id : Nat)  -- MILL_UPDATE (R240)
  | eccError (sector : Nat) (uncorrectable : Bool)  -- ECC_ERROR (R239)
  | hostPeerWrite (who : Outside) (pa : Nat) (bytes : List Byte)  -- HOST_PEER_WRITE (R338)
  | hostPeerRead (who : Outside) (pa n : Nat)  -- HOST_PEER_READ (R333)
  | hostPeerOwnRequest (who : Outside) (sector : Nat)  -- HOST_PEER_OWN_REQUEST (R334)
  | hostSnoop (line : Nat)  -- HOST_SNOOP (R331)
  | hostFunctionViolation (fn : Nat)  -- HOST_FUNCTION_VIOLATION (R76)
  | peerViolation (p : Nat)  -- PEER_VIOLATION (R76)
  | functionLevelReset (fn : Nat)  -- FUNCTION_LEVEL_RESET (R76)
  | linkFail (link : Nat)  -- LINK_FAIL (R383)
  | peerLost (p : Nat)  -- PEER_LOST (R383)
  | linkReset (p : Nat)  -- LINK_RESET (R339)
  | sealOpeningDrop (entry cluster : Nat)  -- SEAL_OPENING_DROP (R337)
  | variableLatencyResult (w id : Nat)  -- VARIABLE_LATENCY_RESULT (R145)
  | flumePull (w j : Nat) (r : RegName)  -- FLUME_PULL (R174)
  | flumePush (w j : Nat) (r : RegName)  -- FLUME_PUSH (R174)
  | sprigReexport (w j : Nat)  -- SPRIG_REEXPORT (R183)
  | sprigRejoin (w j : Nat)  -- SPRIG_REJOIN (R179)
  | joinMerge (w entry : Nat)  -- JOIN_MERGE (R159)
  | trapTake (w : Nat)  -- TRAP_TAKE (R366)
  | abortToken (w : Nat) (handle : BitVec 4) (reason : Byte) (sender : Option Nat)  -- ABORT_TOKEN (R391)
  | mmaRendezvous (w : Nat)  -- MMA_RENDEZVOUS (R281)
  | mmaTileDone (w : Nat)  -- MMA_TILE_DONE (R282)
  | batchRetire (w : Nat)  -- BATCH_RETIRE (R289)
  | copyProgress (w ch : Nat)  -- COPY_PROGRESS (R269)
  | kvxComplete (id : Nat) (e : FabricEnd)  -- KVX_COMPLETE (R274)
  | collStepRun (gid : Nat) (posts : List PeerPost) (gone : List Nat) (e : FabricEnd)  -- COLL_STEP_RUN (R388)
  | barPhaseComplete (w id : Nat)  -- BAR_PHASE_COMPLETE (R344)
  | waitvRecheck (w : Nat) (who : Who)  -- WAITV_RECHECK (R346)
  | ringWake (w : Nat) (who : Who)  -- RING_WAKE (R351)
  | awaitWake (w : Nat) (who : Who)  -- AWAIT_WAKE (R353)
  | waveSwapOut (w : Nat)  -- WAVE_SWAP_OUT (R354)
  | waveSwapIn (w : Nat)  -- WAVE_SWAP_IN (R354)
  | txConflictAbort (w : Nat)  -- TX_CONFLICT_ABORT (R359)
  | txCapacityEvict (w : Nat)  -- TX_CAPACITY_EVICT (R360)
  | txTimeout (w : Nat)  -- TX_TIMEOUT (R360)
  | save (slot : Nat)  -- SAVE (R376)
  | saveComplete (slot : Nat)  -- SAVE_COMPLETE (R376)
  | restore (slot : Nat)  -- RESTORE (R379)
  | restoreComplete (slot : Nat)  -- RESTORE_COMPLETE (R379)
  | lifetimeFlush  -- LIFETIME_FLUSH (R397)
  | orderlyPowerDown  -- ORDERLY_POWER_DOWN (R397)
  | readHistogram (hist bin : Nat)  -- READ_HISTOGRAM (R398)
  | lastFlashWrite  -- LAST_FLASH_WRITE (R398)
  | unknownMctpCommand (cmd : Byte)  -- UNKNOWN_MCTP_COMMAND (R398)
  | spdmRequest (index : Nat)  -- SPDM_REQUEST (R399)
  | firmwareBoot (image version : Nat)  -- FIRMWARE_BOOT (R399)
  | throttleStep (down : Bool) (why : Throttle)  -- THROTTLE_STEP (R400)
  | nop  -- NOP (R98)
  | xload (first : BitVec 7) (count addr : Src)  -- XLOAD (R99)
  | xfence  -- XFENCE (R100)
  | trap (code : BitVec 7)  -- TRAP (R368)
  | trapRet  -- TRAP_RET (R368)
  | trapRetTo (a : Src)  -- TRAP_RET_TO (R368)
  | brk (code : BitVec 7)  -- BRK (R101)
  | exit  -- EXIT (R167)
  | sgetFixed (d : BitVec 6) (ix : BitVec 12)  -- SGET_FIXED (R169)
  | sget (fmt : Fmt) (d : Dest) (ix : BitVec 12) (pinned : Bool)  -- SGET (R169)
  | sset (ix : BitVec 12) (a : Src)  -- SSET (R169)
  | brAlways (off : BitVec 16)  -- BR_ALWAYS (R162)
  | brP (off : BitVec 16)  -- BR_P (R162)
  | brNp (off : BitVec 16)  -- BR_NP (R162)
  | brS (r : BitVec 6) (off : BitVec 16)  -- BR_S (R162)
  | brx (a : BitVec 7)  -- BRX (R163)
  | brxTbl (a : BitVec 7) (base : Src)  -- BRX_TBL (R163)
  | call (d : BitVec 6) (off : BitVec 16)  -- CALL (R164)
  | callR (d : BitVec 6) (a : Src)  -- CALL_R (R164)
  | ret (a : Src)  -- RET (R164)
  | retE (a : Src)  -- RET_E (R164)
  | reconv (off : BitVec 16)  -- RECONV (R158)
  | vote (mode : VoteMode) (d : BitVec 6) (a : Option (BitVec 7))  -- VOTE (R166)
  | ppush (neg : Bool) (a : Operand)  -- PPUSH (R154)
  | pinv  -- PINV (R154)
  | ppop (n : BitVec 8)  -- PPOP (R154)
  | spawn (f : SpawnForm)  -- SPAWN (R74)
  | launch (d : BitVec 6) (rec_ : Src) (args : Option Src)  -- LAUNCH (R73)
  | await (f : AwaitForm)  -- AWAIT (R353)
  | bar (f : BarForm)  -- BAR (R343)
  | tfence  -- TFENCE (R369)
  | blkacq (d : BitVec 6) (n : Src)  -- BLKACQ (R72)
  | blkrel (d : BitVec 6) (n : Src)  -- BLKREL (R72)
  | pencil (hold : Bool) (off : BitVec 16)  -- PENCIL (R292)
  | ink (a : Src)  -- INK (R294)
  | add (f : Alu2)  -- ADD (R190)
  | sub (f : Alu2)  -- SUB (R190)
  | mul (f : Alu2)  -- MUL (R190)
  | mulh (f : Alu2)  -- MULH (R190)
  | mad (f : Alu3)  -- MAD (R190)
  | and (f : Alu2)  -- AND (R193)
  | or (f : Alu2)  -- OR (R193)
  | xor (f : Alu2)  -- XOR (R193)
  | shl (f : ShiftForm)  -- SHL (R194)
  | shr (f : ShiftForm)  -- SHR (R194)
  | bfx (f : BfxForm)  -- BFX (R195)
  | bfi (f : BfiForm)  -- BFI (R195)
  | bitc (f : BitcForm)  -- BITC (R196)
  | min (f : Alu2)  -- MIN (R191)
  | max (f : Alu2)  -- MAX (R191)
  | cmp (f : CmpForm)  -- CMP (R192)
  | sel (f : Alu3)  -- SEL (R197)
  | mov (f : MovForm)  -- MOV (R198)
  | lea (f : LeaForm)  -- LEA (R199)
  | cvt (f : CvtForm)  -- CVT (R206)
  | fadd (f : FAlu2)  -- FADD (R203)
  | fmul (f : FAlu2)  -- FMUL (R203)
  | fma (f : FAlu3)  -- FMA (R203)
  | fmin (f : FMinForm)  -- FMIN (R204)
  | fmax (f : FMinForm)  -- FMAX (R204)
  | fcmp (f : FCmpForm)  -- FCMP (R205)
  | sfn (f : SfnForm)  -- SFN (R210)
  | dot (f : DotForm)  -- DOT (R211)
  | quant (f : QuantForm)  -- QUANT (R213)
  | deq (f : DeqForm)  -- DEQ (R215)
  | shuf (f : ShufForm)  -- SHUF (R218)
  | scan (f : ScanForm)  -- SCAN (R220)
  | redw (f : RedwForm)  -- REDW (R221)
  | rebal (d a : BitVec 7) (b : BitVec 6)  -- REBAL (R222)
  | topk (f : TopkForm)  -- TOPK (R223)
  | merge (f : MergeForm)  -- MERGE (R225)
  | ld (f : LdForm)  -- LD (R254)
  | st (f : StForm)  -- ST (R255)
  | gather (f : RowsForm)  -- GATHER (R257)
  | scatter (f : RowsForm)  -- SCATTER (R257)
  | sred (f : SredForm)  -- SRED (R259)
  | atom (f : AtomForm)  -- ATOM (R261)
  | cas (f : CasForm)  -- CAS (R262)
  | pref (f : PrefForm)  -- PREF (R264)
  | fence (f : FenceForm)  -- FENCE (R319)
  | flush (f : FlushForm)  -- FLUSH (R265)
  | sealRange (d : BitVec 6) (base len : Src)  -- SEAL (R266)
  | sealOpen (d : BitVec 6) (entry : Src)  -- SEAL_OPEN (R337)
  | copy (f : CopyForm)  -- COPY (R267)
  | chwait (f : ChwaitForm)  -- CHWAIT (R271)
  | kvx (scope : Scope) (d : BitVec 6) (desc : Src)  -- KVX (R274)
  | mma (f : MmaForm)  -- MMA (R280)
  | mmg (f : MmgForm)  -- MMG (R284)
  | mload (f : MloadForm)  -- MLOAD (R285)
  | mstore (f : MstoreForm)  -- MSTORE (R286)
  | mmove (f : MmoveForm)  -- MMOVE (R288)
  | mbatch (d : BitVec 6)  -- MBATCH (R289)
  | mwait (n : Src)  -- MWAIT (R289)
  | ldprune (f : LdpruneForm)  -- LDPRUNE (R298)
  | patbind (slot : BitVec 3) (rec_ : Src)  -- PATBIND (R305)
  | patbindClear (slot : BitVec 3)  -- PATBIND_CLEAR (R305)
  | patgen (f : PatgenForm)  -- PATGEN (R307)
  | txbegin (ro : Bool) (d : BitVec 6) (off : BitVec 16)  -- TXBEGIN (R357)
  | txend  -- TXEND (R358)
  | txabort (code : BitVec 8)  -- TXABORT (R358)
  | qput (f : QputForm)  -- QPUT (R351)
  | qtake (f : QtakeForm)  -- QTAKE (R352)
  | signal (f : SignalForm)  -- SIGNAL (R345)
  | waitv (f : WaitvForm)  -- WAITV (R346)
  | pull (scalar : Bool) (r : BitVec 7) (n1 : BitVec 5)  -- PULL (R184)
  | collJoin (scope : Scope) (d : BitVec 6) (a : Src)  -- COLL_JOIN (R387)
  | collAred (f : CollForm)  -- COLL_ARED (R388)
  | collAgat (fmt : Fmt) (scope : Scope) (d : BitVec 6) (a : Src)  -- COLL_AGAT (R388)
  | collRsc (f : CollForm)  -- COLL_RSC (R388)
  | collBcast (fmt : Fmt) (scope : Scope) (d : BitVec 6) (a : Src)  -- COLL_BCAST (R388)
  | collBar (scope : Scope) (d : BitVec 6) (a : Src)  -- COLL_BAR (R388)
  | stepagr (d : BitVec 6) (h s : Src)  -- STEPAGR (R390)
  | stepagrRead (d : BitVec 6) (h : Src)  -- STEPAGR_READ (R390)
  | matrixOpComplete (w : Nat)  -- MATRIX_OP_COMPLETE (R289)
  | linkRetrained (link : Nat)  -- LINK_RETRAINED (R383)
  | stepagrAgreed (gid : Nat) (peers : List (Nat × W32)) (gone : List Nat)  -- STEPAGR_AGREED (R390)
  | powerLoss  -- POWER_LOSS (R397)
  deriving DecidableEq, Repr

end Sys2Proof
end

