-- ==== Sys2Proof/Config.lean ====
section
/-! DEFINITION. The values that the spec leaves open, as constants without a body: nothing in Lean can evaluate them, so
a statement about them holds for every choice (log entries 4, 5, 8, 9 and the ones each docstring names). Most are
applied to the counter `State.fresh`, which the step advances, so that two choices need not agree. -/

namespace Sys2Proof

/-- 07 R147: whether lane `lane` of a read of register `reg` sees the pending variable-latency result (log entry 9). -/
opaque Config.pendingSeen : (fresh reg lane : Nat) → Bool
/-- Which of the waiting events of other agents comes next, as an index modulo their number (log entry 4). -/
opaque Config.pick : (fresh : Nat) → Nat
/-- Whether a ready wave issues before a waiting event happens (log entry 4). -/
opaque Config.issueFirst : (fresh : Nat) → Bool
/-- 13 R256, R263: the order of the lanes of one instruction that touch one granule, as a sort key (log entry 10). -/
opaque Config.laneKey : (fresh lane : Nat) → Nat
/-- 04 R96: whether a packet between XLOAD and XFENCE decodes under the old table (log entry 11). -/
opaque Config.oldTable : (fresh : Nat) → Bool
/-- 04 R97: whether a packet fetched before is fetched again as it then was (log entry 11). -/
opaque Config.stalePacket : (fresh : Nat) → Bool
/-- 02 R55: whether an engine reads a word of a shape record with the stores of its wave that have not reached the home (log entry
52). -/
opaque Config.recordNew : (fresh word : Nat) → Bool
/-- 12 R235: whether a translation held in a TLB is used where a walk would give another (log entry 8). -/
opaque Config.tlbUsed : (fresh : Nat) → Bool
/-- 13 R274, 20 R388: which bytes at the destination of a failed transfer are new (log entry 12). -/
opaque Config.failedNew : (fresh addr : Nat) → Bool
/-- 10 R210: a function value that the model's interval arithmetic could not round (log entry 13). -/
opaque Config.sfnValue : SfnFn → Fmt → Rnd → W64 → W64
/-- 10 R214: which of several even codes at one distance QUANT.nib4 takes, as an index (log entry 16). -/
opaque Config.nib4Tie : (scale value : Nat) → Nat
/-- 20 R399: the public key by which the boot ROM verifies a firmware image (log entry 14). -/
opaque Config.bootKey : List Byte
/-- 20 R399: the bytes of a firmware image that its signature covers (log entry 14). -/
opaque Config.imageBytes : (image : Nat) → List Byte
/-- 20 R399: the Ed448 signature of a firmware image (log entry 14). -/
opaque Config.imageSignature : (image : Nat) → List Byte
/-- 20 R399: the bytes that a SPDM measurement measures: of the boot firmware, of the runtime firmware, which is the image in force,
or of the device's configuration (log entry 14). -/
opaque Config.measured : (index : Nat) → (image : Option Nat) → List (BitVec 8)
/-- 20 R399: the identity certificate chain (log entry 14). -/
opaque Config.certificateChain : List Byte
/-- 20 R398: the time of a flash write, in seconds since first power-on (log entry 14). -/
opaque Config.flashTime : (fresh : Nat) → W64
/-- 12 R231: whether a global-space read of an 8-byte word of a wave's private range sees the wave's value or the home's
(log entry 18). -/
opaque Config.privSeen : (fresh word : Nat) → Bool
/-- 12 R231: whether a global-space write to an 8-byte word of a wave's private range is kept or will be overwritten by the
wave's value (log entry 18). -/
opaque Config.privKept : (fresh word : Nat) → Bool
/-- 17 R331: whether an L2 serves a lease from its copy of a frame of the other die while the copy's lease lasts (log entry
79). -/
opaque Config.copyServes : (fresh sector : Nat) → Bool
/-- 01 R22: which frame a full slice of the L2 evicts, as an index (log entry 79). -/
opaque Config.victim : (fresh : Nat) → Nat
/-- 19 R374: whether a long instruction stops before one of its units while a SAVE of its context waits (log entry 83). -/
opaque Config.stopsShort : (fresh unit : Nat) → Bool
/-- 17 R340: the old value that an ATOM or CAS dropped at a poisoned sector returns (log entry 19). -/
opaque Config.poisonedOld : (fresh : Nat) → W64
/-- 18 R359, 11 R226: whether a read at an address that the same instruction writes sees the new value (log entry 10). -/
opaque Config.overlapSeen : (fresh addr : Nat) → Bool
/-- 13 R269: whether the write pointer of a channel stays behind what a COPY has just written (log entry 22). -/
opaque Config.pointerLags : (fresh : Nat) → Bool
/-- 20 R388: a byte of the undefined mix that a failed collective step leaves at its destination (log entry 12). -/
opaque Config.mixByte : (fresh addr : Nat) → Byte
/-- 13 R274: which of the pages left a KVX moves next, as an index (log entry 12). -/
opaque Config.nextPage : (fresh : Nat) → Nat

/-- 20 R396: the window index in the vector of a context that has no window (log entry 24). -/
opaque Config.noWindow : (slot : Nat) → Nat
/-- 20 R397: seconds spent in a bin of the temperature and voltage histograms (log entry 14). -/
opaque Config.secondsSpent : (fresh hist bin : Nat) → W64

/-- 12 R233: the page of 16 KiB of host memory at which the host's tables of a PASID put a page of its virtual addresses (log
entry 28). -/
opaque Config.atsPage : (pasid page : Nat) → Nat

/-- 20 R381: the peer, 1 to 13, to which the physical function has given a link, or 0 (log entry 23). -/
opaque Config.linkPeer : (link : Nat) → Nat

/-- 20 R382: whether a peer grants this device an address of its memory (log entry 23). -/
opaque Config.peerGrants : (p pa : Nat) → Bool

end Sys2Proof
end

