-- ==== Sys2Proof/WellFormed.lean ====
section
/-! DEFINITION. What the spec asks of an instruction apart from the state it runs in: the template properties of 04 R90
to R93 and the field values that the instruction chapters define. An executed word that breaks one raises 0x07. -/

namespace Sys2Proof

/-- The code of a format tag (06 R127). -/
def Fmt.code : Fmt → BitVec 5
  | .b64 => 0x00 | .i8 => 0x01 | .n8 => 0x02 | .i16 => 0x03 | .n16 => 0x04 | .i32 => 0x05 | .n32 => 0x06
  | .i64 => 0x07 | .n64 => 0x08 | .f64 => 0x09 | .f32 => 0x0A | .bf16 => 0x0B | .f16 => 0x0C | .e4m3 => 0x0D
  | .e5m2 => 0x0E | .mxfp4 => 0x0F | .nib4 => 0x10 | .e2m1 => 0x11 | .e8m0 => 0x12 | .mask => 0x13
  | .addr => 0x14 | .idx32 => 0x15

/-- The format tags by code (06 R127). -/
def Fmt.all : List Fmt :=
  [.b64, .i8, .n8, .i16, .n16, .i32, .n32, .i64, .n64, .f64, .f32, .bf16, .f16, .e4m3, .e5m2, .mxfp4, .nib4,
    .e2m1, .e8m0, .mask, .addr, .idx32]

/-- The format that a code names; codes 0x16 to 0x1F name none (06 R127). -/
def Fmt.ofCode (c : BitVec 5) : Option Fmt := Fmt.all[c.toNat]?

/-- The element width of a format (06 R127); mask has width 64 where an operation accepts it (09 R188). -/
def Fmt.width : Fmt → Nat
  | .b64 | .i64 | .n64 | .f64 | .mask | .addr => 64
  | .i32 | .n32 | .f32 | .idx32 => 32
  | .i16 | .n16 | .bf16 | .f16 => 16
  | .i8 | .n8 | .e4m3 | .e5m2 | .e8m0 => 8
  | .mxfp4 | .nib4 | .e2m1 => 4

/-- The eight integer formats (06 R117). -/
def Fmt.isInt : Fmt → Bool
  | .i8 | .n8 | .i16 | .n16 | .i32 | .n32 | .i64 | .n64 => true
  | _ => false

/-- The signed integer formats (06 R117). -/
def Fmt.isSigned : Fmt → Bool
  | .i8 | .i16 | .i32 | .i64 => true
  | _ => false

/-- The four binary floating formats of 06 R118. -/
def Fmt.isFloat : Fmt → Bool
  | .f64 | .f32 | .bf16 | .f16 => true
  | _ => false

/-- Formats whose literals stand in the top bits (04 R84). -/
def Fmt.litTop : Fmt → Bool
  | .f64 | .f32 | .bf16 | .f16 | .e4m3 | .e5m2 => true
  | _ => false

/-- Formats of 4 bits. -/
def Fmt.isNibble (f : Fmt) : Bool := f.width == 4

/-- The code of a scope (16 R311). -/
def Scope.code : Scope → BitVec 3
  | .wave => 0 | .team => 1 | .cluster => 2 | .die => 3 | .device => 4 | .system => 5

/-- The scopes by code. -/
def Scope.ofCode (c : BitVec 3) : Option Scope :=
  [Scope.wave, .team, .cluster, .die, .device, .system][c.toNat]?

/-- Element selection of 09 R186 for a format: SE 1 needs width 8, 16 or 32 and K below 64/w. -/
def selOk (f : Fmt) (sel : Sel) : Bool :=
  match sel with
  | none => true
  | some k => (f.width == 8 || f.width == 16 || f.width == 32) && decide (k.toNat < 64 / f.width)

/-- An S-pipe form names no vector register (04 R92). -/
def pipeOk (d : Dest) (ops : List Operand) : Bool :=
  match d with
  | .v _ => true
  | .s _ => ops.all fun o => match o with
    | .v _ => false
    | .u _ => true

/-- The operands of a third source. -/
def Third.ops : Third → List Operand
  | .old => []
  | .op o => [o]

/-- CSPEC names v0 to v63 only (04 R84), and `imm 31` of kind 11 does not collide with 0xFF, which means none. -/
def Third.ok : Third → Bool
  | .old => true
  | .op (.v r) => decide (r.toNat < 64)
  | .op (.u _) => true

/-- FMT accepted by ADD, SUB, MUL, MULH, MAD, MIN, MAX and CMP (09 R188). -/
def Fmt.arith (f : Fmt) : Bool := f.isInt
/-- FMT accepted by AND, OR and XOR (09 R188). -/
def Fmt.logic (f : Fmt) : Bool := f.isInt || f == .b64 || f == .mask
/-- FMT accepted by SHL, SHR, BFX, BFI and BITC (09 R188). -/
def Fmt.shift (f : Fmt) : Bool := f.isInt || f == .b64
/-- FMT accepted by SEL and SHUF (09 R188, 11 R218). -/
def Fmt.move (f : Fmt) : Bool := !f.isNibble

/-- ADD, SUB, MUL (SAT allowed) and MULH, MIN, MAX (not). -/
def Alu2.arithOk (f : Alu2) (satOk : Bool) : Bool :=
  f.fmt.arith && (satOk || !f.sat) && selOk f.fmt f.sel && pipeOk f.d [f.a, f.b]

/-- AND, OR, XOR. -/
def Alu2.logicOk (f : Alu2) : Bool :=
  f.fmt.logic && !f.sat && selOk f.fmt f.sel && pipeOk f.d [f.a, f.b]

/-- SHL, SHR. -/
def ShiftForm.ok (f : ShiftForm) : Bool :=
  f.fmt.shift && selOk f.fmt f.sel && pipeOk f.d [f.a, f.b]

/-- FADD, FMUL. -/
def FAlu2.ok (f : FAlu2) : Bool :=
  f.fmt.isFloat && selOk f.fmt f.sel && pipeOk f.d [f.a, f.b]

/-- FMIN, FMAX. -/
def FMinForm.ok (f : FMinForm) : Bool :=
  f.fmt.isFloat && selOk f.fmt f.sel && pipeOk f.d [f.a, f.b]

/-- The formats that CVT takes in both fields (10 R206). -/
def Fmt.cvt (f : Fmt) : Bool :=
  match f with
  | .mask | .mxfp4 | .nib4 | .b64 => false
  | _ => true

/-- The pair of formats and the part selector of CVT (10 R206, R207): the ratio of the widths is at most 8. -/
def cvtPairOk (d s : Fmt) (part : Nat) : Bool :=
  decide (s.width / d.width < 16) && decide (d.width / s.width < 16) &&
  decide (part < Nat.max (s.width / d.width) (d.width / s.width))

/-- FMT accepted by a reduction function (11 R219; pick aside). -/
def RedFn.scanFmt (fn : RedFn) (f : Fmt) : Bool :=
  match fn with
  | .add | .min | .max => f.isInt || f.isFloat
  | .and | .or | .xor => f.isInt || f == .b64 || f == .mask

/-- FMT accepted by SRED and by COLL .ared and .rsc (13 R259, 20 R387). -/
def RedFn.sredFmt (fn : RedFn) (f : Fmt) : Bool :=
  match fn with
  | .add => f == .i32 || f == .i64 || f == .f32 || f == .bf16
  | .min | .max => f == .i32 || f == .n32 || f == .i64 || f == .n64 || f == .f32 || f == .bf16
  | .and | .or | .xor => f == .n32 || f == .n64 || f == .b64

/-- FMT accepted by ATOM (13 R261). -/
def AtomFn.fmtOk (fn : AtomFn) (f : Fmt) : Bool :=
  let int := f == .i32 || f == .n32 || f == .i64 || f == .n64
  match fn with
  | .red .add | .red .min | .red .max => int || f == .f32 || f == .f64
  | .red _ | .exch => int || f == .b64

/-- The bytes of an access size (13 R253). -/
def Sz.bytes : Sz → Nat
  | .b1 => 1 | .b2 => 2 | .b4 => 4 | .b8 => 8 | .b16 => 16

/-- Size and selection of LD and ST (13 R253): SZ at least the element width; SE 1 moves one element of 8 × SZ bits. -/
def szOk (f : Fmt) (sz : Sz) (sel : Sel) : Bool :=
  decide (f.width ≤ 8 * sz.bytes) &&
  match sel with
  | none => true
  | some k => decide (8 * sz.bytes = f.width) && decide (k.toNat < 64 / f.width) && sz != .b16

/-- LD (13 R250, R253). -/
def LdForm.ok (f : LdForm) : Bool :=
  szOk f.fmt f.sz f.sel && decide (f.hint.toNat ≤ 32) && (f.space == .global || f.hint == 0) &&
  match f.d with
  | .v r => f.sz != .b16 || decide (r.toNat ≤ 126)
  | .s _ => pipeOk f.d [f.a, f.b] && f.sz != .b16

/-- ST (13 R250, R253, R255). -/
def StForm.ok (f : StForm) : Bool :=
  szOk f.fmt f.sz f.sel &&
  match f.data with
  | .v r => (f.sz != .b16 || decide (r.toNat ≤ 126)) && !(pipeOk (.s 0) [f.a, f.b])
  | .s r => f.sz != .b16 || r.toNat != 63

/-- MMA's pair of formats (14 R277). -/
def mmaFmtOk (fmt src : Fmt) : Bool :=
  match src with
  | .e4m3 | .e5m2 | .bf16 | .f16 | .f32 | .mxfp4 | .nib4 => fmt == .f32
  | .i8 => fmt == .i32
  | _ => false

/-- Whether a format is a block format (06 R123, R125). -/
def Fmt.isBlock (f : Fmt) : Bool := f == .mxfp4 || f == .nib4

/-- The least energy class of MMA and MMG (14 R291). -/
def mmaMinEcls (span : BitVec 2) (pair : Bool) : Nat :=
  if pair then 3 else match span.toNat with
    | 0 => 1
    | 1 | 2 => 2
    | _ => 3

/-- MMA (14 R280, R291). -/
def MmaForm.ok (f : MmaForm) : Bool :=
  mmaFmtOk f.fmt f.src && decide (mmaMinEcls f.span f.pair ≤ f.ecls.toNat) &&
  (!f.sp || (f.src == .e4m3 && !f.balt && !f.pair)) && (!f.balt || f.src == .e4m3 || f.src == .e5m2) &&
  (f.src.isBlock || f.ax == 0) && (f.src.isBlock || f.sp || f.bx == 0)

/-- MMG (14 R284, R291). -/
def MmgForm.ok (f : MmgForm) : Bool :=
  mmaFmtOk f.fmt f.src && decide (mmaMinEcls f.span false ≤ f.ecls.toNat) &&
  (!f.balt || f.src == .e4m3 || f.src == .e5m2) && (f.src.isBlock || f.bx == 0)

/-- MSTORE's pair of formats (14 R286). -/
def MstoreForm.ok (f : MstoreForm) : Bool :=
  match f.src, f.fmt with
  | .f32, .f32 | .f32, .bf16 | .f32, .f16 | .f32, .e4m3 | .f32, .e5m2 => true
  | .f32, .mxfp4 => f.rnd == .rne && !f.sat && !f.t
  | .i32, .i32 | .i32, .i8 => true
  | _, _ => false

/-- LDPRUNE's formats (15 R298). -/
def Fmt.prune (f : Fmt) : Bool :=
  match f with
  | .e4m3 | .e5m2 | .bf16 | .f16 | .f32 | .i8 | .n8 | .i16 | .n16 | .i32 | .n32 => true
  | _ => false

/-- One stage of a COPY chain (13 R268): the format it leaves, or none where its requirement is not met. -/
def chainStage (code : Nat) (dst cur : Fmt) (rnd : Rnd) (regs : Bool) : Option Fmt :=
  match code with
  | 1 => if dst.cvt && (cur.cvt || cur == .b64) && cvtPairOk dst cur 0 && (dst != .e8m0 || rnd != .rne) then some dst else none
  | 2 => if cur.isNibble then none else some cur
  | 3 => if cur.isBlock then some .f32 else none
  | 4 => if cur == .f32 && dst.isBlock && !regs then some dst else none
  | _ => none

/-- The format a chain ends with, from stage `n`; none where a stage is refused or follows an end (13 R268). -/
def chainFrom (chain : BitVec 16) (dst : Fmt) (rnd : Rnd) (regs : Bool) : Nat → Fmt → Option Fmt
  | 0, cur => some cur
  | n + 1, cur =>
    let rest := chain.toNat / 16 ^ (3 - n)
    if rest % 16 = 0 then (if rest = 0 then some cur else none)
    else match chainStage (rest % 16) dst cur rnd regs with
      | some f => chainFrom chain dst rnd regs n f
      | none => none

/-- COPY (13 R267, R268): the chain ends in FMT. -/
def CopyForm.ok (f : CopyForm) : Bool :=
  let regs := match f.dst with
    | .regs _ => true
    | _ => false
  chainFrom f.chain f.fmt f.rnd regs 4 f.src == some f.fmt

/-- FENCE (16 R318, R319). -/
def FenceForm.ok (f : FenceForm) : Bool :=
  match f.xp with
  | none => f.ord != 0
  | some (src, dst) => src != 0 && dst != 0

/-- FMT accepted by SFN for a function (10 R210). -/
def SfnFn.fmtOk (fn : SfnFn) (f : Fmt) : Bool :=
  match fn with
  | .rcp | .rsq | .sqrt => f.isFloat
  | _ => f == .f32 || f == .f16 || f == .bf16

/-- DOT's pairs of formats (10 R211). -/
def DotForm.ok (f : DotForm) : Bool :=
  let fl := match f.src with
    | .f32 | .bf16 | .f16 | .e4m3 | .e5m2 | .e2m1 => f.fmt.isFloat
    | _ => false
  let int := match f.src with
    | .i8 | .n8 | .i16 | .n16 | .i32 | .n32 =>
      (f.fmt == .i32 || f.fmt == .n32 || f.fmt == .i64 || f.fmt == .n64) && f.rnd == .rne
    | _ => false
  (fl || int) && decide (f.k.toNat < 64 / f.fmt.width) && f.third.ok

/-- FMT accepted by COLL .agat and .bcast (20 R387). -/
def Fmt.gatherable (f : Fmt) : Bool :=
  match f with
  | .i32 | .n32 | .i64 | .n64 | .f32 | .bf16 | .b64 => true
  | _ => false

/-- SCOPE of BAR, SIGNAL, WAITV, QPUT and QTAKE is not WAVE (18 R342). -/
def Scope.sync (s : Scope) : Bool := s != .wave

/-- SCOPE of KVX and COLL is DEVICE or SYSTEM (13 R274, 20 R385). -/
def Scope.far (s : Scope) : Bool := s == .device || s == .system

/-- The field of BFX and BFI lies in the element (09 R195). -/
def fieldOk (f : Fmt) (pos len1 : BitVec 6) : Bool := decide (pos.toNat + len1.toNat + 1 ≤ f.width)

/-- MOV (09 R198): the limits of R186 hold for both elements. -/
def MovForm.ok (f : MovForm) : Bool :=
  pipeOk f.d [f.a] &&
  match f.el with
  | none => true
  | some (kd, ks) => selOk f.fmt (some kd) && selOk f.fmt (some ks)

/-- LEA (09 R199, R200). -/
def LeaForm.ok (f : LeaForm) : Bool :=
  pipeOk f.d [f.a, f.b] &&
  (!f.lane || ((match f.d with
    | .v _ => true
    | .s _ => false) && (f.ix == .n64 || f.ix == .n32) && !f.disp.msb))

/-- CVT (10 R206 to R209); for a b64 source the widths are those of the tag and are checked at issue. -/
def CvtForm.ok (f : CvtForm) : Bool :=
  f.fmt.cvt && (f.src.cvt || f.src == .b64) && (f.src == .b64 || cvtPairOk f.fmt f.src f.part.toNat) &&
  (f.fmt != .e8m0 || f.rnd != .rne) && pipeOk f.d [f.a]

/-- The wide formats of QUANT and DEQ (10 R213, R215). -/
def Fmt.wide (f : Fmt) : Bool := f == .f32 || f == .f16 || f == .bf16

/-- SHUF (11 R218): only idx takes a vector of lane numbers. -/
def ShufForm.ok (f : ShufForm) : Bool :=
  f.fmt.move && selOk f.fmt f.sel &&
  match f.b with
  | .v _ => f.mode == .idx
  | .u _ => true

/-- REDW (11 R219, R221). -/
def RedwForm.ok (f : RedwForm) : Bool :=
  selOk f.fmt f.sel &&
  match f.fn with
  | .red fn => fn.scanFmt f.fmt
  | .pick _ => f.fmt.move

/-- TOPK (11 R223). -/
def TopkForm.ok (f : TopkForm) : Bool :=
  (f.fmt == .f32 || f.fmt == .i32 || f.fmt == .n32) && decide (f.d.toNat ≤ 126) && f.a != f.d && f.a != f.d + 1

/-- FMT accepted by MERGE (11 R225). -/
def Fmt.mergeOk (f : Fmt) : Bool :=
  f == .f64 || f == .f32 || f == .i64 || f == .i32 || f == .n64 || f == .n32

/-- ATOM (13 R250, R261). -/
def AtomForm.ok (f : AtomForm) : Bool :=
  f.fn.fmtOk f.fmt && f.space != .priv &&
  match f.d with
  | none => true
  | some d => pipeOk d [f.a, f.b]

/-- CAS (13 R250, R262). -/
def CasForm.ok (f : CasForm) : Bool :=
  (f.fmt == .i32 || f.fmt == .n32 || f.fmt == .i64 || f.fmt == .n64 || f.fmt == .b64) && f.space != .priv &&
  f.new.ok && pipeOk f.d (f.a :: f.cmp :: f.new.ops)

/-- The formats of a tile (14 R276, R285, R288). -/
def Fmt.tile (f : Fmt) : Bool := f == .f32 || f == .i32

/-- What the spec asks of each instruction apart from the state. An event holds what its agent brings, which is not
constrained here. -/
def Instr.wf (i : Instr) : Bool :=
  match i with
  | .deviceReset => true
  | .registerWrite _ _ _ => true
  | .slotOwnerWrite _ _ => true
  | .enable _ _ => true
  | .teardown _ => true
  | .teardownComplete _ => true
  | .bump _ => true
  | .bumpComplete _ => true
  | .scrubPassEnd => true
  | .atsInvalidate _ => true
  | .plateRegister _ _ _ => true
  | .plateUnregister _ _ _ => true
  | .plateSealRelease _ _ => true
  | .kick _ _ => true
  | .kickValidate _ _ => true
  | .kickRetry _ _ => true
  | .impressionStart _ _ => true
  | .nodeStart _ _ => true
  | .writeNodeDone _ _ => true
  | .impressionComplete _ => true
  | .launchAccept _ => true
  | .placeWork _ => true
  | .waveStart _ => true
  | .waveRetire _ => true
  | .launchComplete _ => true
  | .tick => true
  | .inkwellRefill => true
  | .logjamScan => true
  | .leaseRequest _ => true
  | .leaseReply _ => true
  | .homeStore _ _ => true
  | .storeAck _ _ _ => true
  | .invalidationAnswer _ _ => true
  | .fanoutTimeout _ => true
  | .recallReturn _ _ => true
  | .stashFill _ _ _ _ => true
  | .l2Evict _ => true
  | .millUpdate _ => true
  | .eccError _ _ => true
  | .hostPeerWrite _ _ _ => true
  | .hostPeerRead _ _ _ => true
  | .hostPeerOwnRequest _ _ => true
  | .hostSnoop _ => true
  | .hostFunctionViolation _ => true
  | .peerViolation _ => true
  | .functionLevelReset _ => true
  | .linkFail _ => true
  | .peerLost _ => true
  | .linkReset _ => true
  | .sealOpeningDrop _ _ => true
  | .variableLatencyResult _ _ => true
  | .flumePull _ _ _ => true
  | .flumePush _ _ _ => true
  | .sprigReexport _ _ => true
  | .sprigRejoin _ _ => true
  | .joinMerge _ _ => true
  | .trapTake _ => true
  | .abortToken _ _ _ _ => true
  | .mmaRendezvous _ => true
  | .mmaTileDone _ => true
  | .batchRetire _ => true
  | .copyProgress _ _ => true
  | .kvxComplete _ _ => true
  | .collStepRun _ _ _ _ => true
  | .barPhaseComplete _ _ => true
  | .waitvRecheck _ _ => true
  | .ringWake _ _ => true
  | .awaitWake _ _ => true
  | .waveSwapOut _ => true
  | .waveSwapIn _ => true
  | .txConflictAbort _ => true
  | .txCapacityEvict _ => true
  | .txTimeout _ => true
  | .save _ => true
  | .saveComplete _ => true
  | .restore _ => true
  | .restoreComplete _ => true
  | .lifetimeFlush => true
  | .orderlyPowerDown => true
  | .readHistogram _ _ => true
  | .lastFlashWrite => true
  | .unknownMctpCommand _ => true
  | .spdmRequest _ => true
  | .firmwareBoot _ _ => true
  | .throttleStep _ _ => true
  | .nop => true
  | .xload _ _ _ => true
  | .xfence => true
  | .trap _ => true
  | .trapRet => true
  | .trapRetTo _ => true
  | .brk _ => true
  | .exit => true
  | .sgetFixed _ _ => true
  | .sget _ _ _ _ => true
  | .sset _ _ => true
  | .brAlways _ => true
  | .brP _ => true
  | .brNp _ => true
  | .brS _ _ => true
  | .brx _ => true
  | .brxTbl _ _ => true
  | .call _ _ => true
  | .callR _ _ => true
  | .ret _ => true
  | .retE _ => true
  | .reconv _ => true
  | .vote _ _ _ => true
  | .ppush _ _ => true
  | .pinv => true
  | .ppop n => decide (1 ≤ n.toNat) && decide (n.toNat ≤ 16)
  | .spawn f => decide (f.pencils.toNat ≤ 4) && decide (f.chans.toNat ≤ 8) && decide (f.tiles.toNat ≤ 8)
  | .launch _ _ _ => true
  | .await _ => true
  | .bar f => f.scope.sync
  | .tfence => true
  | .blkacq _ _ => true
  | .blkrel _ _ => true
  | .pencil _ _ => true
  | .ink _ => true
  | .add f => f.arithOk true
  | .sub f => f.arithOk true
  | .mul f => f.arithOk true
  | .mulh f => f.arithOk false
  | .mad f => f.fmt.arith && selOk f.fmt f.sel && f.third.ok && pipeOk f.d (f.a :: f.b :: f.third.ops)
  | .and f => f.logicOk
  | .or f => f.logicOk
  | .xor f => f.logicOk
  | .shl f => f.ok
  | .shr f => f.ok
  | .bfx f => f.fmt.shift && selOk f.fmt f.sel && pipeOk f.d [f.a] && fieldOk f.fmt f.pos f.len1
  | .bfi f => f.fmt.shift && selOk f.fmt f.sel && pipeOk f.d [f.a, f.b] && fieldOk f.fmt f.pos f.len1
  | .bitc f => f.fmt.shift && selOk f.fmt f.sel && pipeOk f.d [f.a]
  | .min f => f.arithOk false
  | .max f => f.arithOk false
  | .cmp f => f.fmt.arith && selOk f.fmt f.sel && pipeOk f.d [f.a, f.b]
  | .sel f => f.fmt.move && !f.sat && selOk f.fmt f.sel && f.third.ok && pipeOk f.d (f.a :: f.b :: f.third.ops)
  | .mov f => f.ok
  | .lea f => f.ok
  | .cvt f => f.ok
  | .fadd f => f.ok
  | .fmul f => f.ok
  | .fma f => f.fmt.isFloat && selOk f.fmt f.sel && f.third.ok && pipeOk f.d (f.a :: f.b :: f.third.ops)
  | .fmin f => f.ok
  | .fmax f => f.ok
  | .fcmp f => f.fmt.isFloat && selOk f.fmt f.sel && pipeOk f.d [f.a, f.b]
  | .sfn f => f.fn.fmtOk f.fmt && selOk f.fmt f.sel
  | .dot f => f.ok
  | .quant f => f.src.wide && decide (f.d.toNat ≤ 126)
  | .deq f => f.fmt.wide
  | .shuf f => f.ok
  | .scan f => f.fn.scanFmt f.fmt && selOk f.fmt f.sel
  | .redw f => f.ok
  | .rebal d a _ => d != a
  | .topk f => f.ok
  | .merge f => f.fmt.mergeOk
  | .ld f => f.ok
  | .st f => f.ok
  | .gather _ => true
  | .scatter _ => true
  | .sred f => f.fn.sredFmt f.fmt
  | .atom f => f.ok
  | .cas f => f.ok
  | .pref f => decide (f.hint.toNat ≤ 32)
  | .fence f => f.ok
  | .flush _ => true
  | .sealRange _ _ _ => true
  | .sealOpen _ _ => true
  | .copy f => f.ok
  | .chwait _ => true
  | .kvx scope _ _ => scope.far
  | .mma f => f.ok
  | .mmg f => f.ok
  | .mload f => f.fmt.tile
  | .mstore f => f.ok
  | .mmove f => f.fmt.tile
  | .mbatch _ => true
  | .mwait _ => true
  | .ldprune f => f.fmt.prune
  | .patbind _ _ => true
  | .patbindClear _ => true
  | .patgen _ => true
  | .txbegin _ _ _ => true
  | .txend => true
  | .txabort _ => true
  | .qput f => f.scope.sync
  | .qtake f => f.scope.sync
  | .signal f => f.scope.sync
  | .waitv f => f.scope.sync
  | .pull scalar r _ => !scalar || decide (r.toNat < 64)
  | .collJoin scope _ _ => scope.far
  | .collAred f => f.scope.far && f.fn.sredFmt f.fmt
  | .collAgat fmt scope _ _ => scope.far && fmt.gatherable
  | .collRsc f => f.scope.far && f.fn.sredFmt f.fmt
  | .collBcast fmt scope _ _ => scope.far && fmt.gatherable
  | .collBar scope _ _ => scope.far
  | .stepagr _ _ _ => true
  | .stepagrRead _ _ => true
  | .matrixOpComplete _ => true
  | .linkRetrained _ => true
  | .stepagrAgreed _ _ _ => true
  | .powerLoss => true

end Sys2Proof
end

