-- ==== Sys2Proof/Decode.lean ====
section
/-! DEFINITION. Decoding and encoding: an instruction word of 32 bits reads through a template of 64 bits (04 R83 to
R93). `decode` reads the fields into an instruction and accepts it only if it is well formed and its own encoding gives
the same fields back, so a reserved, an unused or an undefined field value is refused. -/

namespace Sys2Proof

/-- The fields of a template (04 R88, but V) and the operand fields of a word (04 R83). -/
structure Fields where
  op : BitVec 7
  fmt : BitVec 5
  fmtb : BitVec 5
  rnd : BitVec 2
  sat : BitVec 1
  ecls : BitVec 2
  scope : BitVec 3
  dkind : BitVec 2
  abank : BitVec 1
  bbank : BitVec 1
  holes : BitVec 2
  cspec : BitVec 8
  mod : BitVec 8
  imm : BitVec 16
  d : BitVec 7
  a : BitVec 8
  b : BitVec 8
  deriving DecidableEq, Repr

/-- The fields of a template and a word (04 R83, R88). -/
def Fields.unpack (t : BitVec 64) (w : BitVec 32) : Fields :=
  { op := t.extractLsb' 57 7, fmt := t.extractLsb' 51 5, fmtb := t.extractLsb' 46 5, rnd := t.extractLsb' 44 2,
    sat := t.extractLsb' 43 1, ecls := t.extractLsb' 41 2, scope := t.extractLsb' 38 3, dkind := t.extractLsb' 36 2,
    abank := t.extractLsb' 35 1, bbank := t.extractLsb' 34 1, holes := t.extractLsb' 32 2,
    cspec := t.extractLsb' 24 8, mod := t.extractLsb' 16 8, imm := t.extractLsb' 0 16,
    d := w.extractLsb' 16 7, a := w.extractLsb' 8 8, b := w.extractLsb' 0 8 }

/-- The template with V set (04 R88). -/
def Fields.template (f : Fields) : BitVec 64 :=
  f.op ++ 1#1 ++ f.fmt ++ f.fmtb ++ f.rnd ++ f.sat ++ f.ecls ++ f.scope ++ f.dkind ++ f.abank ++ f.bbank ++ f.holes ++
    f.cspec ++ f.mod ++ f.imm

/-- The word that selects entry `x`, with C and W clear (04 R83). -/
def Fields.word (f : Fields) (x : BitVec 7) : BitVec 32 := 0#2 ++ x ++ f.d ++ f.a ++ f.b

/-- V of a template (04 R88). -/
def templateValid (t : BitVec 64) : Bool := t.getLsbD 56

/-- An operand field that 04 R84 gives a meaning. -/
def operandCodeOk (f : BitVec 8) : Bool :=
  f.extractLsb' 6 2 != 3 || f.extractLsb' 5 1 == 0 || f.extractLsb' 2 3 == 0

/-- 04 R90: an entry with V set that no table may hold. -/
def malformed (t : BitVec 64) : Bool :=
  let f := Fields.unpack t 0
  templateValid t &&
  (decide (0x5F < f.op.toNat) || decide (0x16 ≤ f.fmt.toNat) || decide (0x16 ≤ f.fmtb.toNat) ||
    decide (6 ≤ f.scope.toNat) || (f.cspec != 0xFF && !operandCodeOk f.cspec) ||
    (f.holes == 2 && f.dkind != 3) || (f.holes == 1 && (f.dkind == 3 || f.cspec != 0xFF)) ||
    (f.holes == 3 && (f.abank != 0 || f.bbank != 0)))

/-- The fixed entries 0 to 7 (04 R94). -/
def fixedEntry (x : Nat) : BitVec 64 :=
  match x with
  | 0 => 0x01000030FF000000
  | 1 => 0x21000032FF000000
  | 2 => 0x23000030FF000000
  | 3 => 0x1F000032FF000000
  | 4 => 0xBF000032FF000000
  | 5 => 0x03000030FF000000
  | 6 => 0x25000013FF000000
  | _ => 0x05000033FF010000

/-- The code of a scalar, constant or literal operand (04 R84). -/
def Src.code : Src → BitVec 8
  | .s r => 1#2 ++ r
  | .c e => 2#2 ++ e
  | .imm i => 3#2 ++ 0#1 ++ i
  | .lit m => 3#2 ++ 1#1 ++ 0#3 ++ m

/-- The operand that a field names with its bank bit (04 R84, R91). -/
def operandOf (f : BitVec 8) (bank : BitVec 1) : Option Operand :=
  if operandCodeOk f then
    match (f.extractLsb' 6 2).toNat with
    | 0 => some (.v (bank ++ f.extractLsb' 0 6))
    | 1 => some (.u (.s (f.extractLsb' 0 6)))
    | 2 => some (.u (.c (f.extractLsb' 0 6)))
    | _ => some (.u (if f.extractLsb' 5 1 == 0 then .imm (f.extractLsb' 0 5) else .lit (f.extractLsb' 0 2)))
  else none

/-- A field that must not name a vector register. -/
def srcOf (f : BitVec 8) : Option Src :=
  match operandOf f 0 with
  | some (.u x) => some x
  | _ => none

/-- A field that must name a vector register. -/
def vecOf (f : BitVec 8) (bank : BitVec 1) : Option (BitVec 7) :=
  match operandOf f bank with
  | some (.v r) => some r
  | _ => none

/-- A field that must name a scalar register. -/
def sregOf (f : BitVec 8) : Option (BitVec 6) :=
  match operandOf f 0 with
  | some (.u (.s r)) => some r
  | _ => none

/-- The field and bank bit of an operand. -/
def Operand.code : Operand → BitVec 8
  | .v r => 0#2 ++ r.extractLsb' 0 6
  | .u x => x.code

/-- See `Operand.code`. -/
def Operand.bank : Operand → BitVec 1
  | .v r => r.extractLsb' 6 1
  | .u _ => 0

/-- A destination of DKIND 00 or 01 (04 R91). -/
def destOf (dkind : BitVec 2) (d : BitVec 7) : Option Dest :=
  if dkind == 0 then some (.v d)
  else if dkind == 1 && d.extractLsb' 6 1 == 0 then some (.s (d.extractLsb' 0 6))
  else none

/-- A third source (04 R89). -/
def thirdOf (holes : BitVec 2) (cspec : BitVec 8) : Option Third :=
  if holes == 1 then some .old
  else if cspec == 0xFF then none
  else (operandOf cspec 0).map .op

/-- Sets DKIND and D for a destination. -/
def Fields.setDest (f : Fields) (d : Dest) : Fields :=
  match d with
  | .v r => { f with dkind := 0, d := r }
  | .s r => { f with dkind := 1, d := 0#1 ++ r }

/-- Sets A and ABANK. -/
def Fields.setA (f : Fields) (o : Operand) : Fields := { f with a := o.code, abank := o.bank }
/-- Sets B and BBANK. -/
def Fields.setB (f : Fields) (o : Operand) : Fields := { f with b := o.code, bbank := o.bank }
/-- Sets the third source. -/
def Fields.setThird (f : Fields) (t : Third) : Fields :=
  match t with
  | .old => { f with holes := 1 }
  | .op o => { f with cspec := o.code }

/-- The template and word of an operation that uses no field: DKIND 11, HOLES 00, CSPEC 0xFF, D 0, A and B 0xC0. -/
def Fields.blank (op : BitVec 7) : Fields :=
  { op := op, fmt := 0, fmtb := 0, rnd := 0, sat := 0, ecls := 0, scope := 0, dkind := 3, abank := 0, bbank := 0,
    holes := 0, cspec := 0xFF, mod := 0, imm := 0, d := 0, a := 0xC0, b := 0xC0 }

/-- A bit. -/
def bit (b : Bool) : BitVec 1 := if b then 1 else 0
/-- A bit field read as a Bool. -/
def isSet (b : BitVec 1) : Bool := b == 1

/-- SE and K (09 R186). -/
def Sel.code : Sel → BitVec 4
  | none => 0
  | some k => 1#1 ++ k

/-- The selection of MOD[3:0] (09 R186). -/
def selOf (m : BitVec 8) : Sel := if m.getLsbD 3 then some (m.extractLsb' 0 3) else none

/-- RND (04 R88). -/
def Rnd.code : Rnd → BitVec 2
  | .rne => 0 | .rtz => 1 | .rdn => 2 | .rup => 3
/-- See `Rnd.code`. -/
def rndOf (r : BitVec 2) : Rnd :=
  if r == 0 then .rne else if r == 1 then .rtz else if r == 2 then .rdn else .rup

/-- SPACE (12 R228). -/
def Space.code : Space → BitVec 2
  | .global => 0 | .shared => 1 | .stash => 2 | .priv => 3
/-- See `Space.code`. -/
def spaceOf (c : BitVec 2) : Space :=
  if c == 0 then .global else if c == 1 then .shared else if c == 2 then .stash else .priv

/-- MOD[6:4] of CMP (09 R192). -/
def Cond.code : Cond → BitVec 3
  | .eq => 0 | .ne => 1 | .lt => 2 | .le => 3 | .gt => 4 | .ge => 5 | .test => 6
/-- See `Cond.code`. -/
def condOf (c : BitVec 3) : Option Cond := [Cond.eq, .ne, .lt, .le, .gt, .ge, .test][c.toNat]?

/-- MOD[6:4] of FCMP (10 R205). -/
def FCond.code : FCond → BitVec 3
  | .eq => 0 | .ne => 1 | .lt => 2 | .le => 3 | .gt => 4 | .ge => 5 | .un => 6 | .ord => 7
/-- See `FCond.code`. -/
def fcondOf (c : BitVec 3) : Option FCond := [FCond.eq, .ne, .lt, .le, .gt, .ge, .un, .ord][c.toNat]?

/-- MOD[5:4] of BITC (09 R196). -/
def BitFn.code : BitFn → BitVec 2
  | .pop => 0 | .clz => 1 | .ctz => 2 | .brev => 3
/-- See `BitFn.code`. -/
def bitFnOf (c : BitVec 2) : BitFn := if c == 0 then .pop else if c == 1 then .clz else if c == 2 then .ctz else .brev

/-- MOD[5:4] of LEA (09 R199). -/
def IxKind.code : IxKind → BitVec 2
  | .i64 => 0 | .n64 => 1 | .i32 => 2 | .n32 => 3
/-- See `IxKind.code`. -/
def ixOf (c : BitVec 2) : IxKind := if c == 0 then .i64 else if c == 1 then .n64 else if c == 2 then .i32 else .n32

/-- MOD[6:4] of SFN (10 R210). -/
def SfnFn.code : SfnFn → BitVec 3
  | .rcp => 0 | .rsq => 1 | .sqrt => 2 | .exp2 => 3 | .log2 => 4 | .sinpi => 5 | .cospi => 6 | .tanh => 7
/-- See `SfnFn.code`. -/
def sfnOf (c : BitVec 3) : Option SfnFn :=
  [SfnFn.rcp, .rsq, .sqrt, .exp2, .log2, .sinpi, .cospi, .tanh][c.toNat]?

/-- MOD[6:4] of SHUF (11 R218). -/
def ShufMode.code : ShufMode → BitVec 3
  | .idx => 0 | .up => 1 | .down => 2 | .xor => 3 | .rot => 4
/-- See `ShufMode.code`. -/
def shufOf (c : BitVec 3) : Option ShufMode := [ShufMode.idx, .up, .down, .xor, .rot][c.toNat]?

/-- The function codes of 11 R219, 13 R259, R261 and 20 R385. -/
def RedFn.code : RedFn → BitVec 3
  | .add => 0 | .min => 1 | .max => 2 | .and => 3 | .or => 4 | .xor => 5
/-- See `RedFn.code`. -/
def redOf (c : BitVec 3) : Option RedFn := [RedFn.add, .min, .max, .and, .or, .xor][c.toNat]?

/-- MOD[5:4] of MERGE (11 R225). -/
def MergeFn.code : MergeFn → BitVec 2
  | .add => 0 | .sub => 1 | .min => 2 | .max => 3
/-- See `MergeFn.code`. -/
def mergeOf (c : BitVec 2) : MergeFn := if c == 0 then .add else if c == 1 then .sub else if c == 2 then .min else .max

/-- SZ of LD and ST (13 R253). -/
def Sz.code : Sz → BitVec 3
  | .b1 => 0 | .b2 => 1 | .b4 => 2 | .b8 => 3 | .b16 => 4
/-- See `Sz.code`. -/
def szOf (c : BitVec 3) : Option Sz := [Sz.b1, .b2, .b4, .b8, .b16][c.toNat]?

/-- MOD[1:0] of VOTE (07 R166). -/
def VoteMode.code : VoteMode → BitVec 2
  | .any => 0 | .all => 1 | .ballot => 2 | .count => 3
/-- See `VoteMode.code`. -/
def voteOf (c : BitVec 2) : VoteMode :=
  if c == 0 then .any else if c == 1 then .all else if c == 2 then .ballot else .count

/-- MOD[1:0] of WAITV (18 R346). -/
def WaitCond.code : WaitCond → BitVec 2
  | .eq => 0 | .ne => 1 | .ge => 2 | .lt => 3
/-- See `WaitCond.code`. -/
def waitOf (c : BitVec 2) : WaitCond := if c == 0 then .eq else if c == 1 then .ne else if c == 2 then .ge else .lt

/-- The fields of an integer operation of two sources (09 R185). -/
def Alu2.fields (f : Alu2) (op : BitVec 7) (m : BitVec 4) : Fields :=
  (((({ Fields.blank op with fmt := f.fmt.code, sat := bit f.sat, mod := m ++ f.sel.code } : Fields).setDest f.d).setA
    f.a).setB f.b)
/-- The fields of MAD and SEL. -/
def Alu3.fields (f : Alu3) (op : BitVec 7) : Fields :=
  ((((({ Fields.blank op with fmt := f.fmt.code, sat := bit f.sat, mod := 0#4 ++ f.sel.code } : Fields).setDest
    f.d).setA f.a).setB f.b).setThird f.third)
/-- The fields of SHL and SHR. -/
def ShiftForm.fields (f : ShiftForm) (op : BitVec 7) : Fields :=
  (((({ Fields.blank op with fmt := f.fmt.code, mod := 0#3 ++ bit f.rot ++ f.sel.code } : Fields).setDest f.d).setA
    f.a).setB f.b)
/-- The fields of FADD and FMUL. -/
def FAlu2.fields (f : FAlu2) (op : BitVec 7) : Fields :=
  (((({ Fields.blank op with fmt := f.fmt.code, rnd := f.rnd.code, sat := bit f.sat,
                             mod := 0#4 ++ f.sel.code } : Fields).setDest f.d).setA f.a).setB f.b)
/-- The fields of FMIN and FMAX. -/
def FMinForm.fields (f : FMinForm) (op : BitVec 7) : Fields :=
  (((({ Fields.blank op with fmt := f.fmt.code, mod := 0#3 ++ bit f.nan ++ f.sel.code } : Fields).setDest f.d).setA
    f.a).setB f.b)
/-- The fields of GATHER and SCATTER. -/
def RowsForm.fields (f : RowsForm) (op : BitVec 7) (dkind : BitVec 2) : Fields :=
  { Fields.blank op with fmt := f.fmt.code, scope := f.scope.code, dkind := dkind, mod := f.s3 ++ f.n1, d := f.d,
                         a := f.base.code, b := (Operand.v f.ix).code, bbank := (Operand.v f.ix).bank }
/-- The fields of COLL (20 R385). -/
def collFields (op : BitVec 3) (fn : BitVec 3) (fmt : Fmt) (scope : Scope) (d : BitVec 6) (a : Src) : Fields :=
  { Fields.blank 0x59 with fmt := fmt.code, scope := scope.code, dkind := 1, mod := op ++ fn ++ 0#2, d := 0#1 ++ d,
                           a := a.code }
/-- A 16-bit immediate in A:B under HOLES 11 (04 R89). -/
def Fields.setAB (f : Fields) (i : BitVec 16) : Fields :=
  { f with holes := 3, a := i.extractLsb' 8 8, b := i.extractLsb' 0 8 }
/-- The accumulator of MMA and MMG (14 R280). -/
def Fields.setAcc (f : Fields) (a : Acc) : Fields :=
  match a with
  | .none => f
  | .own => { f with holes := 1 }
  | .tile c => { f with cspec := 0#5 ++ c }
/-- See `Fields.setAcc`. -/
def accOf (holes : BitVec 2) (cspec : BitVec 8) : Option Acc :=
  if holes == 1 then some .own
  else if cspec == 0xFF then some .none
  else if cspec.extractLsb' 3 5 == 0 then some (.tile (cspec.extractLsb' 0 3))
  else none
/-- A tile named in a source field (04 R91). -/
def tileCode (t : BitVec 3) : BitVec 8 := 0#5 ++ t

/-- The fields of each instruction of a wave; an event of another agent has no encoding. -/
def Instr.fields (i : Instr) : Option Fields :=
  match i with
  | .nop => some (Fields.blank 0x00)
  | .xload first count addr =>
    some { Fields.blank 0x10 with holes := 2, d := first, a := count.code, b := addr.code }
  | .xfence => some (Fields.blank 0x11)
  | .trap code => some { Fields.blank 0x0F with holes := 2, d := code }
  | .trapRet => some { Fields.blank 0x0F with imm := 0x8000 }
  | .trapRetTo a => some { Fields.blank 0x0F with imm := 0xC000, a := a.code }
  | .brk code => some { Fields.blank 0x5F with holes := 2, d := code }
  | .exit => some (Fields.blank 0x01)
  | .sgetFixed d ix => some ({ Fields.blank 0x12 with dkind := 1, d := 0#1 ++ d }.setAB (0#4 ++ ix))
  | .sget fmt d ix pinned =>
    if pinned then some ({ Fields.blank 0x12 with fmt := fmt.code, imm := 0#4 ++ ix }.setDest d)
    else some (({ Fields.blank 0x12 with fmt := fmt.code }.setDest d).setAB (0#4 ++ ix))
  | .sset ix a => some { Fields.blank 0x13 with imm := 0#4 ++ ix, a := a.code }
  | .brAlways off => some ({ Fields.blank 0x02 with mod := 1 }.setAB off)
  | .brP off => some ((Fields.blank 0x02).setAB off)
  | .brNp off => some ({ Fields.blank 0x02 with mod := 2 }.setAB off)
  | .brS r off => some ({ Fields.blank 0x02 with mod := 3, d := 0#1 ++ r }.setAB off)
  | .brx a => some ((Fields.blank 0x03).setA (.v a))
  | .brxTbl a base => some ({ Fields.blank 0x03 with mod := 1, b := base.code }.setA (.v a))
  | .call d off => some ({ Fields.blank 0x04 with dkind := 1, d := 0#1 ++ d }.setAB off)
  | .callR d a => some { Fields.blank 0x04 with dkind := 1, d := 0#1 ++ d, mod := 1, a := a.code }
  | .ret a => some { Fields.blank 0x05 with a := a.code }
  | .retE a => some { Fields.blank 0x05 with mod := 1, a := a.code }
  | .reconv off => some ((Fields.blank 0x06).setAB off)
  | .vote mode d a =>
    match a with
    | some r => some ({ Fields.blank 0x07 with dkind := 1, d := 0#1 ++ d, mod := 0#6 ++ mode.code }.setA (.v r))
    | none => some { Fields.blank 0x07 with dkind := 1, d := 0#1 ++ d, mod := 1#6 ++ mode.code }
  | .ppush neg a => some ({ Fields.blank 0x08 with mod := 0#7 ++ bit neg }.setA a)
  | .pinv => some (Fields.blank 0x09)
  | .ppop n => some { Fields.blank 0x0A with mod := n }
  | .spawn f =>
    some { Fields.blank 0x0B with fmt := 0x08, dkind := 1, d := 0#1 ++ f.d, a := f.entry.code, b := f.args.code,
                                  imm := 0#2 ++ f.pencils ++ f.chans ++ f.tiles ++ f.blocks1 }
  | .launch d rec_ args =>
    match args with
    | some x => some { Fields.blank 0x5B with fmt := 0x08, dkind := 1, d := 0#1 ++ d, mod := 1, a := rec_.code,
                                              b := x.code }
    | none => some { Fields.blank 0x5B with fmt := 0x08, dkind := 1, d := 0#1 ++ d, a := rec_.code }
  | .await f =>
    match f with
    | .rne glob k => some { Fields.blank 0x0C with mod := 0#4 ++ bit glob ++ 0#3, a := k.code }
    | .rnf glob k => some { Fields.blank 0x0C with mod := 0#4 ++ bit glob ++ 1#3, a := k.code }
    | .kids => some { Fields.blank 0x0C with mod := 2 }
    | .chan n v => some { Fields.blank 0x0C with mod := 3, a := n.code, b := v.code }
    | .ev shared a => some { Fields.blank 0x0C with mod := 0#4 ++ bit shared ++ 4#3, a := a.code }
  | .bar f =>
    match f.cnt with
    | some n => some { Fields.blank 0x0D with scope := f.scope.code, mod := 1#3 ++ bit f.arrive ++ f.id, a := n.code }
    | none => some { Fields.blank 0x0D with scope := f.scope.code, mod := 0#3 ++ bit f.arrive ++ f.id }
  | .tfence => some (Fields.blank 0x0E)
  | .blkacq d n => some { Fields.blank 0x14 with fmt := 0x08, dkind := 1, d := 0#1 ++ d, a := n.code }
  | .blkrel d n => some { Fields.blank 0x15 with fmt := 0x08, dkind := 1, d := 0#1 ++ d, a := n.code }
  | .pencil hold off => some ({ Fields.blank 0x16 with mod := 0#7 ++ bit hold }.setAB off)
  | .ink a => some { Fields.blank 0x17 with a := a.code }
  | .add f => some (f.fields 0x18 0)
  | .sub f => some (f.fields 0x19 0)
  | .mul f => some (f.fields 0x1A 0)
  | .mulh f => some (f.fields 0x1B 0)
  | .mad f => some (f.fields 0x1C)
  | .and f => some (f.fields 0x1D 0)
  | .or f => some (f.fields 0x1E 0)
  | .xor f => some (f.fields 0x1F 0)
  | .shl f => some (f.fields 0x20)
  | .shr f => some (f.fields 0x21)
  | .bfx f =>
    some (({ Fields.blank 0x22 with fmt := f.fmt.code, mod := 0#4 ++ f.sel.code, imm := 0#4 ++ f.len1 ++ f.pos }.setDest
      f.d).setA f.a)
  | .bfi f =>
    some ((({ Fields.blank 0x23 with fmt := f.fmt.code, mod := 0#4 ++ f.sel.code,
                                     imm := 0#4 ++ f.len1 ++ f.pos }.setDest f.d).setA f.a).setB f.b)
  | .bitc f =>
    some (({ Fields.blank 0x24 with fmt := f.fmt.code, mod := 0#2 ++ f.fn.code ++ f.sel.code }.setDest f.d).setA f.a)
  | .min f => some (f.fields 0x25 0)
  | .max f => some (f.fields 0x26 0)
  | .cmp f =>
    some ((({ Fields.blank 0x27 with fmt := f.fmt.code, mod := 0#1 ++ f.cond.code ++ f.sel.code }.setDest f.d).setA
      f.a).setB f.b)
  | .sel f => some (f.fields 0x28)
  | .mov f =>
    match f.el with
    | none => some (({ Fields.blank 0x29 with fmt := f.fmt.code }.setDest f.d).setA f.a)
    | some (kd, ks) =>
      some (({ Fields.blank 0x29 with fmt := f.fmt.code, mod := 0#1 ++ kd ++ 1#1 ++ ks }.setDest f.d).setA f.a)
  | .lea f =>
    some ((({ Fields.blank 0x2A with fmt := Fmt.addr.code, mod := 0#1 ++ bit f.lane ++ f.ix.code ++ 0#4,
                                     imm := f.disp ++ 0#1 ++ f.shift }.setDest f.d).setA f.a).setB f.b)
  | .cvt f =>
    some (({ Fields.blank 0x2B with fmt := f.fmt.code, fmtb := f.src.code, rnd := f.rnd.code, sat := bit f.sat,
                                    mod := 0#1 ++ f.part ++ 0#4 }.setDest f.d).setA f.a)
  | .fadd f => some (f.fields 0x2C)
  | .fmul f => some (f.fields 0x2D)
  | .fma f =>
    some (((({ Fields.blank 0x2E with fmt := f.fmt.code, rnd := f.rnd.code, sat := bit f.sat,
                                      mod := 0#4 ++ f.sel.code }.setDest f.d).setA f.a).setB f.b).setThird f.third)
  | .fmin f => some (f.fields 0x2F)
  | .fmax f => some (f.fields 0x30)
  | .fcmp f =>
    some ((({ Fields.blank 0x31 with fmt := f.fmt.code, mod := 0#1 ++ f.cond.code ++ f.sel.code }.setDest f.d).setA
      f.a).setB f.b)
  | .sfn f =>
    some (({ Fields.blank 0x32 with fmt := f.fmt.code, rnd := f.rnd.code,
                                    mod := 0#1 ++ f.fn.code ++ f.sel.code }.setDest (.v f.d)).setA f.a)
  | .dot f =>
    some (((({ Fields.blank 0x33 with fmt := f.fmt.code, fmtb := f.src.code, rnd := f.rnd.code, sat := bit f.sat,
                                      mod := 0#5 ++ f.k }.setDest (.v f.d)).setA f.a).setB f.b).setThird f.third)
  | .quant f =>
    match f.super with
    | none =>
      some (({ Fields.blank 0x34 with fmt := Fmt.mxfp4.code, fmtb := f.src.code }.setDest (.v f.d)).setA (.v f.a))
    | some x =>
      some (({ Fields.blank 0x34 with fmt := Fmt.nib4.code, fmtb := f.src.code, b := x.code }.setDest (.v f.d)).setA
        (.v f.a))
  | .deq f =>
    match f.super with
    | none =>
      some ((({ Fields.blank 0x35 with fmt := f.fmt.code, fmtb := Fmt.mxfp4.code, rnd := f.rnd.code }.setDest
        (.v f.d)).setA (.v f.a)).setB (.v f.b))
    | some x =>
      some ((({ Fields.blank 0x35 with fmt := f.fmt.code, fmtb := Fmt.nib4.code, rnd := f.rnd.code,
                                       cspec := x.code }.setDest (.v f.d)).setA (.v f.a)).setB (.v f.b))
  | .shuf f =>
    some ((({ Fields.blank 0x36 with fmt := f.fmt.code, mod := 0#1 ++ f.mode.code ++ f.sel.code }.setDest
      (.v f.d)).setA (.v f.a)).setB f.b)
  | .scan f =>
    some (({ Fields.blank 0x37 with fmt := f.fmt.code, mod := bit f.excl ++ f.fn.code ++ f.sel.code,
                                    b := f.heads.code }.setDest (.v f.d)).setA (.v f.a))
  | .redw f =>
    match f.fn with
    | .red fn =>
      some (({ Fields.blank 0x38 with fmt := f.fmt.code, mod := 0#1 ++ fn.code ++ f.sel.code }.setDest f.d).setA
        (.v f.a))
    | .pick n =>
      some (({ Fields.blank 0x38 with fmt := f.fmt.code, mod := 6#4 ++ f.sel.code, b := n.code }.setDest f.d).setA
        (.v f.a))
  | .rebal d a b =>
    some (({ Fields.blank 0x39 with fmt := Fmt.n32.code, b := (Src.s b).code }.setDest (.v d)).setA (.v a))
  | .topk f =>
    some (({ Fields.blank 0x3A with fmt := f.fmt.code, mod := 0#3 ++ bit f.nz ++ 0#4, imm := 0#10 ++ f.k1,
                                    b := (Src.s f.b).code }.setDest (.v f.d)).setA (.v f.a))
  | .merge f =>
    some { Fields.blank 0x3B with fmt := f.fmt.code, scope := f.scope.code, dkind := 1,
                                  mod := 0#1 ++ bit f.dropz ++ f.fn.code ++ 0#4, d := 0#1 ++ f.d, a := f.desc.code }
  | .ld f =>
    some ((({ Fields.blank 0x3C with fmt := f.fmt.code, scope := f.scope.code, mod := f.space.code ++ f.hint,
                                     imm := 0#2 ++ f.sz.code ++ f.sel.code ++ 0#7 }.setDest f.d).setA f.a).setB f.b)
  | .st f =>
    match f.data with
    | .v r =>
      some ((({ Fields.blank 0x3D with fmt := f.fmt.code, scope := f.scope.code, d := r,
                                       mod := f.space.code ++ bit f.repair ++ 0#5,
                                       imm := 0#2 ++ f.sz.code ++ f.sel.code ++ 0#7 } : Fields).setA f.a).setB f.b)
    | .s r =>
      some ((({ Fields.blank 0x3D with fmt := f.fmt.code, scope := f.scope.code, d := 0#1 ++ r,
                                       mod := f.space.code ++ bit f.repair ++ 1#1 ++ 0#4,
                                       imm := 0#2 ++ f.sz.code ++ f.sel.code ++ 0#7 } : Fields).setA f.a).setB f.b)
  | .gather f => some (f.fields 0x3E 0)
  | .scatter f => some (f.fields 0x3F 3)
  | .sred f =>
    some ((({ Fields.blank 0x40 with fmt := f.fmt.code, scope := f.scope.code, mod := f.fn.code ++ 0#5 } : Fields).setA
      f.a).setB f.b)
  | .atom f =>
    let op : BitVec 3 := match f.fn with
      | .red fn => fn.code
      | .exch => 6
    let g := (({ Fields.blank 0x41 with fmt := f.fmt.code, scope := f.scope.code,
                                        mod := op ++ f.space.code ++ 0#3 } : Fields).setA f.a).setB f.b
    match f.d with
    | none => some g
    | some d => some (g.setDest d)
  | .cas f =>
    some (((({ Fields.blank 0x42 with fmt := f.fmt.code, scope := f.scope.code,
                                      mod := 0#3 ++ f.space.code ++ 0#3 } : Fields).setDest f.d).setA f.a).setB
      f.cmp |>.setThird f.new)
  | .pref f =>
    some ((({ Fields.blank 0x4B with scope := f.scope.code, mod := 0#1 ++ bit f.l2 ++ f.hint } : Fields).setA f.a).setB
      f.b)
  | .fence f =>
    match f.xp with
    | none => some ({ Fields.blank 0x43 with scope := f.scope.code, mod := 0#6 ++ f.ord }.setAB 0)
    | some (src, dst) =>
      some ({ Fields.blank 0x43 with scope := f.scope.code, mod := 1#6 ++ f.ord }.setAB (0#4 ++ dst ++ src))
  | .flush f =>
    let op : BitVec 2 := match f.op with
      | .wb => 0
      | .inv => 1
      | .repair => 2
    some { Fields.blank 0x44 with scope := f.scope.code, mod := 0#6 ++ op, a := f.base.code, b := f.len.code }
  | .sealRange d base len =>
    some { Fields.blank 0x45 with dkind := 1, d := 0#1 ++ d, a := base.code, b := len.code }
  | .sealOpen d entry => some { Fields.blank 0x45 with dkind := 1, d := 0#1 ++ d, mod := 1, a := entry.code }
  | .copy f =>
    let g : Fields :=
      { Fields.blank 0x4C with fmt := f.fmt.code, fmtb := f.src.code, rnd := f.rnd.code, sat := bit f.sat,
                               scope := f.scope.code, dkind := 1, d := 0#1 ++ f.d, imm := f.chain, a := f.srec.code }
    match f.dst with
    | .global r => some { g with mod := 0#2 ++ bit f.fromShared ++ 0#2 ++ f.ch, b := r.code }
    | .shared r => some { g with mod := 0#2 ++ bit f.fromShared ++ 1#2 ++ f.ch, b := r.code }
    | .regs r => some ({ g with mod := 0#2 ++ bit f.fromShared ++ 2#2 ++ f.ch }.setB (.v r))
  | .chwait f =>
    some { Fields.blank 0x4D with scope := f.scope.code, dkind := 1, d := 0#1 ++ f.d, mod := 0#7 ++ bit f.try_,
                                  a := f.ch.code, b := f.v.code }
  | .kvx scope d desc => some { Fields.blank 0x4E with scope := scope.code, dkind := 1, d := 0#1 ++ d, a := desc.code }
  | .mma f =>
    some (((({ Fields.blank 0x4F with fmt := f.fmt.code, fmtb := f.src.code, ecls := f.ecls, dkind := 2, d := 0#4 ++ f.d,
                                      mod := f.span ++ bit f.pair ++ bit f.sp ++ bit f.balt ++ 0#3,
                                      imm := 0#1 ++ f.bx ++ 0#1 ++ f.ax } : Fields).setA (.v f.a)).setB (.v f.b)).setAcc
      f.acc)
  | .mmg f =>
    some (((({ Fields.blank 0x50 with fmt := f.fmt.code, fmtb := f.src.code, ecls := f.ecls, dkind := 2, d := 0#4 ++ f.d,
                                      mod := f.span ++ 0#2 ++ bit f.balt ++ 0#3,
                                      imm := 0#1 ++ f.bx ++ 0#2 ++ f.ent } : Fields).setA (.v f.a)).setB
      (.v f.b)).setAcc f.acc)
  | .mload f =>
    some { Fields.blank 0x51 with fmt := f.fmt.code, ecls := f.ecls, scope := f.scope.code, dkind := 2, d := 0#4 ++ f.d,
                                  mod := 0#1 ++ bit f.shared ++ bit f.t ++ 0#5, a := f.rec_.code, b := f.org.code }
  | .mstore f =>
    some { Fields.blank 0x52 with fmt := f.fmt.code, fmtb := f.src.code, rnd := f.rnd.code, sat := bit f.sat,
                                  ecls := f.ecls, scope := f.scope.code, d := 0#4 ++ f.m,
                                  mod := 0#1 ++ bit f.shared ++ bit f.t ++ 0#5, a := f.rec_.code, b := f.org.code }
  | .mmove f =>
    let g : Fields := { Fields.blank 0x53 with fmt := f.fmt.code, ecls := f.ecls, dkind := 2, d := 0#4 ++ f.d }
    match f.op with
    | .copy a => some { g with a := tileCode a }
    | .fill a => some { g with mod := 1, a := a.code }
    | .add a b => some { g with mod := 2, a := tileCode a, b := tileCode b }
  | .mbatch d => some { Fields.blank 0x54 with dkind := 1, d := 0#1 ++ d }
  | .mwait n => some { Fields.blank 0x55 with a := n.code }
  | .ldprune f =>
    let pat : BitVec 2 := match f.pat with
      | .p24 => 0
      | .p14 => 1
      | .p48 => 2
    let g := ({ Fields.blank 0x56 with fmt := f.fmt.code, scope := f.scope.code, dkind := 0, d := f.d, a := f.rec_.code,
                                       mod := 0#1 ++ bit f.shared ++ pat ++ bit f.t ++ 0#3 } : Fields).setB (.v f.m)
    match f.org with
    | none => some g
    | some o => some { g with cspec := o.code }
  | .patbind slot rec_ => some { Fields.blank 0x57 with mod := 0#5 ++ slot, a := rec_.code }
  | .patbindClear slot => some { Fields.blank 0x57 with mod := 0#5 ++ slot, imm := 1 }
  | .patgen f =>
    some { Fields.blank 0x58 with fmt := Fmt.idx32.code, dkind := 0, d := f.d, mod := 0#4 ++ bit f.tr ++ f.slot,
                                  a := f.a.code, b := (Src.s f.b).code }
  | .txbegin ro d off => some ({ Fields.blank 0x46 with dkind := 1, d := 0#1 ++ d, mod := 0#7 ++ bit ro }.setAB off)
  | .txend => some (Fields.blank 0x47)
  | .txabort code => some { Fields.blank 0x48 with imm := 0#8 ++ code }
  | .qput f =>
    some ({ Fields.blank 0x49 with scope := f.scope.code, dkind := 1, d := 0#1 ++ f.d,
                                   mod := 0#6 ++ bit f.glob ++ bit f.try_, a := f.k.code }.setB f.v)
  | .qtake f =>
    some ({ Fields.blank 0x4A with scope := f.scope.code, mod := 0#6 ++ bit f.glob ++ bit f.try_, a := f.k.code }.setDest
      f.d)
  | .signal f =>
    some { Fields.blank 0x5C with scope := f.scope.code, mod := 0#6 ++ bit f.shared ++ bit f.add, a := f.a.code,
                                  b := f.v.code }
  | .waitv f =>
    some { Fields.blank 0x5D with scope := f.scope.code, dkind := 1, d := 0#1 ++ f.d,
                                  mod := 0#5 ++ bit f.shared ++ f.cond.code, a := f.a.code, b := f.v.code }
  | .pull scalar r n1 =>
    if scalar then some { Fields.blank 0x5E with mod := 4#3 ++ n1, a := (Src.s (r.extractLsb' 0 6)).code }
    else some ({ Fields.blank 0x5E with mod := 0#3 ++ n1 }.setA (.v r))
  | .collJoin scope d a => some (collFields 0 0 .b64 scope d a)
  | .collAred f => some (collFields 1 f.fn.code f.fmt f.scope f.d f.a)
  | .collAgat fmt scope d a => some (collFields 2 0 fmt scope d a)
  | .collRsc f => some (collFields 3 f.fn.code f.fmt f.scope f.d f.a)
  | .collBcast fmt scope d a => some (collFields 4 0 fmt scope d a)
  | .collBar scope d a => some (collFields 5 0 .b64 scope d a)
  | .stepagr d h s => some { Fields.blank 0x5A with dkind := 1, d := 0#1 ++ d, a := h.code, b := s.code }
  | .stepagrRead d h => some { Fields.blank 0x5A with dkind := 1, d := 0#1 ++ d, mod := 1, a := h.code }
  | .deviceReset => none
  | .registerWrite _ _ _ => none
  | .slotOwnerWrite _ _ => none
  | .enable _ _ => none
  | .teardown _ => none
  | .teardownComplete _ => none
  | .bump _ => none
  | .bumpComplete _ => none
  | .scrubPassEnd => none
  | .atsInvalidate _ => none
  | .plateRegister _ _ _ => none
  | .plateUnregister _ _ _ => none
  | .plateSealRelease _ _ => none
  | .kick _ _ => none
  | .kickValidate _ _ => none
  | .kickRetry _ _ => none
  | .impressionStart _ _ => none
  | .nodeStart _ _ => none
  | .writeNodeDone _ _ => none
  | .impressionComplete _ => none
  | .launchAccept _ => none
  | .placeWork _ => none
  | .waveStart _ => none
  | .waveRetire _ => none
  | .launchComplete _ => none
  | .tick => none
  | .inkwellRefill => none
  | .logjamScan => none
  | .leaseRequest _ => none
  | .leaseReply _ => none
  | .homeStore _ _ => none
  | .storeAck _ _ _ => none
  | .invalidationAnswer _ _ => none
  | .fanoutTimeout _ => none
  | .recallReturn _ _ => none
  | .stashFill _ _ _ _ => none
  | .l2Evict _ => none
  | .millUpdate _ => none
  | .eccError _ _ => none
  | .hostPeerWrite _ _ _ => none
  | .hostPeerRead _ _ _ => none
  | .hostPeerOwnRequest _ _ => none
  | .hostSnoop _ => none
  | .hostFunctionViolation _ => none
  | .peerViolation _ => none
  | .functionLevelReset _ => none
  | .linkFail _ => none
  | .peerLost _ => none
  | .linkReset _ => none
  | .sealOpeningDrop _ _ => none
  | .variableLatencyResult _ _ => none
  | .flumePull _ _ _ => none
  | .flumePush _ _ _ => none
  | .sprigReexport _ _ => none
  | .sprigRejoin _ _ => none
  | .joinMerge _ _ => none
  | .trapTake _ => none
  | .abortToken _ _ _ _ => none
  | .mmaRendezvous _ => none
  | .mmaTileDone _ => none
  | .batchRetire _ => none
  | .copyProgress _ _ => none
  | .kvxComplete _ _ => none
  | .collStepRun _ _ _ _ => none
  | .barPhaseComplete _ _ => none
  | .waitvRecheck _ _ => none
  | .ringWake _ _ => none
  | .awaitWake _ _ => none
  | .waveSwapOut _ => none
  | .waveSwapIn _ => none
  | .txConflictAbort _ => none
  | .txCapacityEvict _ => none
  | .txTimeout _ => none
  | .save _ => none
  | .saveComplete _ => none
  | .restore _ => none
  | .restoreComplete _ => none
  | .lifetimeFlush => none
  | .orderlyPowerDown => none
  | .readHistogram _ _ => none
  | .lastFlashWrite => none
  | .unknownMctpCommand _ => none
  | .spdmRequest _ => none
  | .firmwareBoot _ _ => none
  | .throttleStep _ _ => none
  | .matrixOpComplete _ => none
  | .linkRetrained _ => none
  | .stepagrAgreed _ _ _ => none
  | .powerLoss => none

/-- The 6-bit scalar register in D. -/
def Fields.sd (f : Fields) : BitVec 6 := f.d.extractLsb' 0 6
/-- A:B as one immediate (04 R89). -/
def Fields.imm16 (f : Fields) : BitVec 16 := f.a ++ f.b

/-- An integer operation of two sources. -/
def alu2Of (f : Fields) : Option Alu2 := do
  let fmt ← Fmt.ofCode f.fmt
  let d ← destOf f.dkind f.d
  let a ← operandOf f.a f.abank
  let b ← operandOf f.b f.bbank
  some ⟨fmt, isSet f.sat, selOf f.mod, d, a, b⟩
/-- MAD or SEL. -/
def alu3Of (f : Fields) : Option Alu3 := do
  let fmt ← Fmt.ofCode f.fmt
  let d ← destOf f.dkind f.d
  let a ← operandOf f.a f.abank
  let b ← operandOf f.b f.bbank
  let t ← thirdOf f.holes f.cspec
  some ⟨fmt, isSet f.sat, selOf f.mod, d, a, b, t⟩
/-- SHL or SHR. -/
def shiftOf (f : Fields) : Option ShiftForm := do
  let fmt ← Fmt.ofCode f.fmt
  let d ← destOf f.dkind f.d
  let a ← operandOf f.a f.abank
  let b ← operandOf f.b f.bbank
  some ⟨fmt, f.mod.getLsbD 4, selOf f.mod, d, a, b⟩
/-- FADD or FMUL. -/
def falu2Of (f : Fields) : Option FAlu2 := do
  let fmt ← Fmt.ofCode f.fmt
  let d ← destOf f.dkind f.d
  let a ← operandOf f.a f.abank
  let b ← operandOf f.b f.bbank
  some ⟨fmt, rndOf f.rnd, isSet f.sat, selOf f.mod, d, a, b⟩
/-- FMIN or FMAX. -/
def fminOf (f : Fields) : Option FMinForm := do
  let fmt ← Fmt.ofCode f.fmt
  let d ← destOf f.dkind f.d
  let a ← operandOf f.a f.abank
  let b ← operandOf f.b f.bbank
  some ⟨fmt, f.mod.getLsbD 4, selOf f.mod, d, a, b⟩
/-- GATHER or SCATTER. -/
def rowsOf (f : Fields) : Option RowsForm := do
  let fmt ← Fmt.ofCode f.fmt
  let sc ← Scope.ofCode f.scope
  let base ← srcOf f.a
  let ix ← vecOf f.b f.bbank
  some ⟨fmt, sc, f.mod.extractLsb' 0 3, f.mod.extractLsb' 3 5, f.d, base, ix⟩

/-- Operations 0x00 to 0x17: control flow, fetch, work and run-ahead. -/
def parseControl (f : Fields) (fixed : Bool) : Option Instr :=
  match f.op.toNat with
  | 0x00 => some .nop
  | 0x01 => some .exit
  | 0x02 =>
    match f.mod.toNat with
    | 0 => some (.brP f.imm16)
    | 1 => some (.brAlways f.imm16)
    | 2 => some (.brNp f.imm16)
    | _ => some (.brS f.sd f.imm16)
  | 0x03 =>
    if f.mod == 0 then (vecOf f.a f.abank).map .brx
    else do
      let a ← vecOf f.a f.abank
      let b ← srcOf f.b
      some (.brxTbl a b)
  | 0x04 => if f.mod == 0 then some (.call f.sd f.imm16) else (srcOf f.a).map (.callR f.sd)
  | 0x05 => if f.mod == 0 then (srcOf f.a).map .ret else (srcOf f.a).map .retE
  | 0x06 => some (.reconv f.imm16)
  | 0x07 =>
    if f.mod.getLsbD 2 then some (.vote (voteOf (f.mod.extractLsb' 0 2)) f.sd none)
    else (vecOf f.a f.abank).map fun r => .vote (voteOf (f.mod.extractLsb' 0 2)) f.sd (some r)
  | 0x08 => (operandOf f.a f.abank).map (.ppush (f.mod.getLsbD 0))
  | 0x09 => some .pinv
  | 0x0A => some (.ppop f.mod)
  | 0x0B => do
    let a ← srcOf f.a
    let b ← srcOf f.b
    some (.spawn ⟨f.sd, a, b, f.imm.extractLsb' 11 3, f.imm.extractLsb' 7 4, f.imm.extractLsb' 3 4,
      f.imm.extractLsb' 0 3⟩)
  | 0x0C =>
    match (f.mod.extractLsb' 0 3).toNat with
    | 0 => (srcOf f.a).map fun k => .await (.rne (f.mod.getLsbD 3) k)
    | 1 => (srcOf f.a).map fun k => .await (.rnf (f.mod.getLsbD 3) k)
    | 2 => some (.await .kids)
    | 3 => do
      let n ← srcOf f.a
      let v ← srcOf f.b
      some (.await (.chan n v))
    | _ => (srcOf f.a).map fun a => .await (.ev (f.mod.getLsbD 3) a)
  | 0x0D => do
    let sc ← Scope.ofCode f.scope
    if f.mod.getLsbD 5 then
      let n ← srcOf f.a
      some (.bar ⟨sc, f.mod.extractLsb' 0 4, f.mod.getLsbD 4, some n⟩)
    else some (.bar ⟨sc, f.mod.extractLsb' 0 4, f.mod.getLsbD 4, none⟩)
  | 0x0E => some .tfence
  | 0x0F =>
    if f.imm == 0x8000 then some .trapRet
    else if f.imm == 0xC000 then (srcOf f.a).map .trapRetTo
    else some (.trap f.d)
  | 0x10 => do
    let n ← srcOf f.a
    let p ← srcOf f.b
    some (.xload f.d n p)
  | 0x11 => some .xfence
  | 0x12 =>
    if fixed then some (.sgetFixed f.sd (f.imm16.extractLsb' 0 12))
    else do
      let fmt ← Fmt.ofCode f.fmt
      let d ← destOf f.dkind f.d
      if f.holes == 3 then some (.sget fmt d (f.imm16.extractLsb' 0 12) false)
      else some (.sget fmt d (f.imm.extractLsb' 0 12) true)
  | 0x13 => (srcOf f.a).map (.sset (f.imm.extractLsb' 0 12))
  | 0x14 => (srcOf f.a).map (.blkacq f.sd)
  | 0x15 => (srcOf f.a).map (.blkrel f.sd)
  | 0x16 => some (.pencil (f.mod.getLsbD 0) f.imm16)
  | _ => (srcOf f.a).map .ink

/-- Operations 0x18 to 0x3B: arithmetic, conversion and cross-lane work. -/
def parseArith (f : Fields) : Option Instr :=
  match f.op.toNat with
  | 0x18 => (alu2Of f).map .add
  | 0x19 => (alu2Of f).map .sub
  | 0x1A => (alu2Of f).map .mul
  | 0x1B => (alu2Of f).map .mulh
  | 0x1C => (alu3Of f).map .mad
  | 0x1D => (alu2Of f).map .and
  | 0x1E => (alu2Of f).map .or
  | 0x1F => (alu2Of f).map .xor
  | 0x20 => (shiftOf f).map .shl
  | 0x21 => (shiftOf f).map .shr
  | 0x22 => do
    let g ← alu2Of f
    some (.bfx ⟨g.fmt, g.sel, g.d, g.a, f.imm.extractLsb' 0 6, f.imm.extractLsb' 6 6⟩)
  | 0x23 => do
    let g ← alu2Of f
    some (.bfi ⟨g.fmt, g.sel, g.d, g.a, g.b, f.imm.extractLsb' 0 6, f.imm.extractLsb' 6 6⟩)
  | 0x24 => do
    let g ← alu2Of f
    some (.bitc ⟨g.fmt, bitFnOf (f.mod.extractLsb' 4 2), g.sel, g.d, g.a⟩)
  | 0x25 => (alu2Of f).map .min
  | 0x26 => (alu2Of f).map .max
  | 0x27 => do
    let g ← alu2Of f
    let c ← condOf (f.mod.extractLsb' 4 3)
    some (.cmp ⟨g.fmt, c, g.sel, g.d, g.a, g.b⟩)
  | 0x28 => (alu3Of f).map .sel
  | 0x29 => do
    let g ← alu2Of f
    if f.mod.getLsbD 3 then some (.mov ⟨g.fmt, some (f.mod.extractLsb' 4 3, f.mod.extractLsb' 0 3), g.d, g.a⟩)
    else some (.mov ⟨g.fmt, none, g.d, g.a⟩)
  | 0x2A => do
    let g ← alu2Of f
    some (.lea ⟨ixOf (f.mod.extractLsb' 4 2), f.mod.getLsbD 6, f.imm.extractLsb' 0 3, f.imm.extractLsb' 4 12, g.d, g.a,
      g.b⟩)
  | 0x2B => do
    let g ← alu2Of f
    let src ← Fmt.ofCode f.fmtb
    some (.cvt ⟨g.fmt, src, rndOf f.rnd, g.sat, f.mod.extractLsb' 4 3, g.d, g.a⟩)
  | 0x2C => (falu2Of f).map .fadd
  | 0x2D => (falu2Of f).map .fmul
  | 0x2E => do
    let g ← alu3Of f
    some (.fma ⟨g.fmt, rndOf f.rnd, g.sat, g.sel, g.d, g.a, g.b, g.third⟩)
  | 0x2F => (fminOf f).map .fmin
  | 0x30 => (fminOf f).map .fmax
  | 0x31 => do
    let g ← alu2Of f
    let c ← fcondOf (f.mod.extractLsb' 4 3)
    some (.fcmp ⟨g.fmt, c, g.sel, g.d, g.a, g.b⟩)
  | 0x32 => do
    let g ← alu2Of f
    let fn ← sfnOf (f.mod.extractLsb' 4 3)
    some (.sfn ⟨g.fmt, fn, rndOf f.rnd, g.sel, f.d, g.a⟩)
  | 0x33 => do
    let g ← alu3Of f
    let src ← Fmt.ofCode f.fmtb
    some (.dot ⟨g.fmt, src, rndOf f.rnd, g.sat, f.mod.extractLsb' 0 3, f.d, g.a, g.b, g.third⟩)
  | 0x34 => do
    let src ← Fmt.ofCode f.fmtb
    let a ← vecOf f.a f.abank
    if f.fmt == Fmt.nib4.code then
      let x ← srcOf f.b
      some (.quant ⟨src, some x, f.d, a⟩)
    else some (.quant ⟨src, none, f.d, a⟩)
  | 0x35 => do
    let fmt ← Fmt.ofCode f.fmt
    let a ← vecOf f.a f.abank
    let b ← vecOf f.b f.bbank
    if f.fmtb == Fmt.nib4.code then
      let x ← srcOf f.cspec
      some (.deq ⟨fmt, some x, rndOf f.rnd, f.d, a, b⟩)
    else some (.deq ⟨fmt, none, rndOf f.rnd, f.d, a, b⟩)
  | 0x36 => do
    let fmt ← Fmt.ofCode f.fmt
    let m ← shufOf (f.mod.extractLsb' 4 3)
    let a ← vecOf f.a f.abank
    let b ← operandOf f.b f.bbank
    some (.shuf ⟨fmt, m, selOf f.mod, f.d, a, b⟩)
  | 0x37 => do
    let fmt ← Fmt.ofCode f.fmt
    let fn ← redOf (f.mod.extractLsb' 4 3)
    let a ← vecOf f.a f.abank
    let h ← srcOf f.b
    some (.scan ⟨fmt, fn, f.mod.getLsbD 7, selOf f.mod, f.d, a, h⟩)
  | 0x38 => do
    let fmt ← Fmt.ofCode f.fmt
    let d ← destOf f.dkind f.d
    let a ← vecOf f.a f.abank
    if f.mod.extractLsb' 4 3 == 6 then
      let n ← srcOf f.b
      some (.redw ⟨fmt, .pick n, selOf f.mod, d, a⟩)
    else
      let fn ← redOf (f.mod.extractLsb' 4 3)
      some (.redw ⟨fmt, .red fn, selOf f.mod, d, a⟩)
  | 0x39 => do
    let a ← vecOf f.a f.abank
    let b ← sregOf f.b
    some (.rebal f.d a b)
  | 0x3A => do
    let fmt ← Fmt.ofCode f.fmt
    let a ← vecOf f.a f.abank
    let b ← sregOf f.b
    some (.topk ⟨fmt, f.mod.getLsbD 4, f.imm.extractLsb' 0 6, f.d, a, b⟩)
  | _ => do
    let fmt ← Fmt.ofCode f.fmt
    let sc ← Scope.ofCode f.scope
    let p ← srcOf f.a
    some (.merge ⟨fmt, mergeOf (f.mod.extractLsb' 4 2), f.mod.getLsbD 6, sc, f.sd, p⟩)

/-- The form of MMA (14 R280). -/
def mmaOf (f : Fields) : Option MmaForm := do
  let fmt ← Fmt.ofCode f.fmt
  let src ← Fmt.ofCode f.fmtb
  let a ← vecOf f.a f.abank
  let b ← vecOf f.b f.bbank
  let acc ← accOf f.holes f.cspec
  some ⟨fmt, src, f.ecls, f.mod.extractLsb' 6 2, f.mod.getLsbD 5, f.mod.getLsbD 4, f.mod.getLsbD 3, f.d.extractLsb' 0 3,
    a, b, acc, f.imm.extractLsb' 8 7, f.imm.extractLsb' 0 7⟩

/-- COLL (20 R385). -/
def collOf (f : Fields) : Option Instr := do
  let fmt ← Fmt.ofCode f.fmt
  let sc ← Scope.ofCode f.scope
  let a ← srcOf f.a
  match (f.mod.extractLsb' 5 3).toNat with
  | 0 => some (.collJoin sc f.sd a)
  | 1 => (redOf (f.mod.extractLsb' 2 3)).map fun fn => .collAred ⟨fmt, fn, sc, f.sd, a⟩
  | 2 => some (.collAgat fmt sc f.sd a)
  | 3 => (redOf (f.mod.extractLsb' 2 3)).map fun fn => .collRsc ⟨fmt, fn, sc, f.sd, a⟩
  | 4 => some (.collBcast fmt sc f.sd a)
  | _ => some (.collBar sc f.sd a)

/-- Operations 0x3C to 0x4E: memory, transactions, rings and copies. -/
def parseMemory (f : Fields) : Option Instr :=
  match f.op.toNat with
  | 0x3C => do
    let g ← alu2Of f
    let sc ← Scope.ofCode f.scope
    let sz ← szOf (f.imm.extractLsb' 11 3)
    some (.ld ⟨g.fmt, sc, spaceOf (f.mod.extractLsb' 6 2), f.mod.extractLsb' 0 6, sz,
      if f.imm.getLsbD 10 then some (f.imm.extractLsb' 7 3) else none, g.d, g.a, g.b⟩)
  | 0x3D => do
    let fmt ← Fmt.ofCode f.fmt
    let sc ← Scope.ofCode f.scope
    let sz ← szOf (f.imm.extractLsb' 11 3)
    let a ← operandOf f.a f.abank
    let b ← operandOf f.b f.bbank
    some (.st ⟨fmt, sc, spaceOf (f.mod.extractLsb' 6 2), f.mod.getLsbD 5, sz,
      if f.imm.getLsbD 10 then some (f.imm.extractLsb' 7 3) else none,
      if f.mod.getLsbD 4 then .s f.sd else .v f.d, a, b⟩)
  | 0x3E => (rowsOf f).map .gather
  | 0x3F => (rowsOf f).map .scatter
  | 0x40 => do
    let fmt ← Fmt.ofCode f.fmt
    let sc ← Scope.ofCode f.scope
    let fn ← redOf (f.mod.extractLsb' 5 3)
    let a ← operandOf f.a f.abank
    let b ← operandOf f.b f.bbank
    some (.sred ⟨fmt, sc, fn, a, b⟩)
  | 0x41 => do
    let fmt ← Fmt.ofCode f.fmt
    let sc ← Scope.ofCode f.scope
    let fn ← if f.mod.extractLsb' 5 3 == 6 then some AtomFn.exch else (redOf (f.mod.extractLsb' 5 3)).map .red
    let a ← operandOf f.a f.abank
    let b ← operandOf f.b f.bbank
    if f.dkind == 3 then some (.atom ⟨fmt, sc, spaceOf (f.mod.extractLsb' 3 2), fn, none, a, b⟩)
    else
      let d ← destOf f.dkind f.d
      some (.atom ⟨fmt, sc, spaceOf (f.mod.extractLsb' 3 2), fn, some d, a, b⟩)
  | 0x42 => do
    let g ← alu3Of f
    let sc ← Scope.ofCode f.scope
    some (.cas ⟨g.fmt, sc, spaceOf (f.mod.extractLsb' 3 2), g.d, g.a, g.b, g.third⟩)
  | 0x43 => do
    let sc ← Scope.ofCode f.scope
    if f.mod.getLsbD 2 then
      some (.fence ⟨sc, f.mod.extractLsb' 0 2, some (f.imm16.extractLsb' 0 6, f.imm16.extractLsb' 6 6)⟩)
    else some (.fence ⟨sc, f.mod.extractLsb' 0 2, none⟩)
  | 0x44 => do
    let sc ← Scope.ofCode f.scope
    let op ← [FlushOp.wb, .inv, .repair][f.mod.toNat]?
    let a ← srcOf f.a
    let b ← srcOf f.b
    some (.flush ⟨sc, op, a, b⟩)
  | 0x45 =>
    if f.mod == 0 then do
      let a ← srcOf f.a
      let b ← srcOf f.b
      some (.sealRange f.sd a b)
    else (srcOf f.a).map (.sealOpen f.sd)
  | 0x46 => some (.txbegin (f.mod.getLsbD 0) f.sd f.imm16)
  | 0x47 => some .txend
  | 0x48 => some (.txabort (f.imm.extractLsb' 0 8))
  | 0x49 => do
    let sc ← Scope.ofCode f.scope
    let k ← srcOf f.a
    let v ← operandOf f.b f.bbank
    some (.qput ⟨sc, f.mod.getLsbD 1, f.mod.getLsbD 0, f.sd, k, v⟩)
  | 0x4A => do
    let sc ← Scope.ofCode f.scope
    let d ← destOf f.dkind f.d
    let k ← srcOf f.a
    some (.qtake ⟨sc, f.mod.getLsbD 1, f.mod.getLsbD 0, d, k⟩)
  | 0x4B => do
    let sc ← Scope.ofCode f.scope
    let a ← operandOf f.a f.abank
    let b ← operandOf f.b f.bbank
    some (.pref ⟨sc, f.mod.getLsbD 6, f.mod.extractLsb' 0 6, a, b⟩)
  | 0x4C => do
    let fmt ← Fmt.ofCode f.fmt
    let src ← Fmt.ofCode f.fmtb
    let sc ← Scope.ofCode f.scope
    let a ← srcOf f.a
    let dst ← match (f.mod.extractLsb' 3 2).toNat with
      | 0 => (srcOf f.b).map CopyDst.global
      | 1 => (srcOf f.b).map CopyDst.shared
      | _ => (vecOf f.b f.bbank).map CopyDst.regs
    some (.copy ⟨fmt, src, rndOf f.rnd, isSet f.sat, sc, f.imm, f.mod.getLsbD 5, f.mod.extractLsb' 0 3, f.sd, a, dst⟩)
  | 0x4D => do
    let sc ← Scope.ofCode f.scope
    let n ← srcOf f.a
    let v ← srcOf f.b
    some (.chwait ⟨sc, f.mod.getLsbD 0, f.sd, n, v⟩)
  | _ => do
    let sc ← Scope.ofCode f.scope
    let p ← srcOf f.a
    some (.kvx sc f.sd p)

/-- Operations 0x4F to 0x5F: matrix, sparsity, collectives and the rest. -/
def parseMatrix (f : Fields) : Option Instr :=
  match f.op.toNat with
  | 0x4F => (mmaOf f).map .mma
  | 0x50 => do
    let g ← mmaOf f
    some (.mmg ⟨g.fmt, g.src, g.ecls, g.span, g.balt, g.d, g.a, g.b, g.acc, g.bx, f.imm.extractLsb' 0 6⟩)
  | 0x51 => do
    let fmt ← Fmt.ofCode f.fmt
    let sc ← Scope.ofCode f.scope
    let r ← srcOf f.a
    let o ← srcOf f.b
    some (.mload ⟨fmt, f.ecls, sc, f.mod.getLsbD 6, f.mod.getLsbD 5, f.d.extractLsb' 0 3, r, o⟩)
  | 0x52 => do
    let fmt ← Fmt.ofCode f.fmt
    let src ← Fmt.ofCode f.fmtb
    let sc ← Scope.ofCode f.scope
    let r ← srcOf f.a
    let o ← srcOf f.b
    some (.mstore ⟨fmt, src, rndOf f.rnd, isSet f.sat, f.ecls, sc, f.mod.getLsbD 6, f.mod.getLsbD 5,
      f.d.extractLsb' 0 3, r, o⟩)
  | 0x53 => do
    let fmt ← Fmt.ofCode f.fmt
    let op ← match f.mod.toNat with
      | 0 => some (MmoveOp.copy (f.a.extractLsb' 0 3))
      | 1 => (srcOf f.a).map MmoveOp.fill
      | _ => some (MmoveOp.add (f.a.extractLsb' 0 3) (f.b.extractLsb' 0 3))
    some (.mmove ⟨fmt, f.ecls, f.d.extractLsb' 0 3, op⟩)
  | 0x54 => some (.mbatch f.sd)
  | 0x55 => (srcOf f.a).map .mwait
  | 0x56 => do
    let fmt ← Fmt.ofCode f.fmt
    let sc ← Scope.ofCode f.scope
    let pat ← [Prune.p24, .p14, .p48][(f.mod.extractLsb' 4 2).toNat]?
    let r ← srcOf f.a
    let m ← vecOf f.b f.bbank
    if f.cspec == 0xFF then some (.ldprune ⟨fmt, sc, f.mod.getLsbD 6, pat, f.mod.getLsbD 3, f.d, r, m, none⟩)
    else
      let o ← srcOf f.cspec
      some (.ldprune ⟨fmt, sc, f.mod.getLsbD 6, pat, f.mod.getLsbD 3, f.d, r, m, some o⟩)
  | 0x57 =>
    if f.imm == 0 then (srcOf f.a).map (.patbind (f.mod.extractLsb' 0 3))
    else some (.patbindClear (f.mod.extractLsb' 0 3))
  | 0x58 => do
    let a ← srcOf f.a
    let b ← sregOf f.b
    some (.patgen ⟨f.mod.extractLsb' 0 3, f.mod.getLsbD 3, f.d, a, b⟩)
  | 0x59 => collOf f
  | 0x5A => do
    let h ← srcOf f.a
    if f.mod == 0 then
      let s ← srcOf f.b
      some (.stepagr f.sd h s)
    else some (.stepagrRead f.sd h)
  | 0x5B => do
    let r ← srcOf f.a
    if f.mod == 0 then some (.launch f.sd r none)
    else
      let x ← srcOf f.b
      some (.launch f.sd r (some x))
  | 0x5C => do
    let sc ← Scope.ofCode f.scope
    let a ← srcOf f.a
    let v ← srcOf f.b
    some (.signal ⟨sc, f.mod.getLsbD 0, f.mod.getLsbD 1, a, v⟩)
  | 0x5D => do
    let sc ← Scope.ofCode f.scope
    let a ← srcOf f.a
    let v ← srcOf f.b
    some (.waitv ⟨sc, waitOf (f.mod.extractLsb' 0 2), f.mod.getLsbD 2, f.sd, a, v⟩)
  | 0x5E =>
    if f.mod.getLsbD 7 then (sregOf f.a).map fun r => .pull true (0#1 ++ r) (f.mod.extractLsb' 0 5)
    else (vecOf f.a f.abank).map fun r => .pull false r (f.mod.extractLsb' 0 5)
  | _ => some (.brk f.d)

/-- The candidate that the fields name. -/
def Fields.parse (f : Fields) (fixed : Bool) : Option Instr :=
  if f.op.toNat < 0x18 then parseControl f fixed
  else if f.op.toNat < 0x3C then parseArith f
  else if f.op.toNat < 0x4F then parseMemory f
  else if f.op.toNat < 0x60 then parseMatrix f
  else none

/-- The fields that matter: a bank bit is ignored where its operand is not a vector register (04 R84), and NOP ignores
D, A and B (04 R85). -/
def Fields.norm (f : Fields) : Fields :=
  let g := if f.op == 0 then { f with d := 0, a := 0xC0, b := 0xC0 } else f
  { g with abank := if g.holes != 3 && g.a.extractLsb' 6 2 != 0 then 0 else g.abank,
           bbank := if g.holes != 3 && g.b.extractLsb' 6 2 != 0 then 0 else g.bbank }

/-- The instruction of a word read through a template: none where 04 R84, R85, R91 to R93 raise 0x07. `fixed` says that
the word selects entry 6. -/
def decode (fixed : Bool) (t : BitVec 64) (w : BitVec 32) : Option Instr :=
  let f := (Fields.unpack t w).norm
  match f.parse fixed with
  | none => none
  | some i => if i.wf && i.fields == some f then some i else none

/-- The template and the word (selecting entry `x`) of an instruction of a wave. -/
def encode (x : BitVec 7) (i : Instr) : Option (BitVec 64 × BitVec 32) :=
  i.fields.map fun f => (f.template, f.word x)

/-- The instruction of a word that selects one of the fixed entries 0 to 7 (04 R94). TRAP and BRK are refused where C
is set (19 R368, 04 R101). -/
def decodeFixedWord (w : BitVec 32) : Option Instr :=
  let x := (w.extractLsb' 23 7).toNat
  if 8 ≤ x then none
  else
    match decode (x == 6) (fixedEntry x) w with
    | some (.trap code) => if w.getLsbD 31 then none else some (.trap code)
    | some (.brk code) => if w.getLsbD 31 then none else some (.brk code)
    | r => r

/-- The instruction that the decoder reads from a word of the opcode table, whose rows of 32 bits select fixed
entries. -/
def decodeTableWord (nbits w : Nat) : Option Instr :=
  if nbits = 32 then decodeFixedWord (BitVec.ofNat 32 w) else none

end Sys2Proof
end

