-- ==== Sys2Proof/Machine/State.lean ====
section
/-! DEFINITION. The state of the machine as plain data: everything that INVENTORY.md lists under State, and the
reasons for which a step may stop. -/

namespace Sys2Proof.Machine

/-- Memory as (address, byte) pairs in canonical form: addresses strictly rising, no byte zero (log entry 1). -/
abbrev Memory := List Host.Cell

/-- A program counter: the packet's address and the slot of the next word (04 R79). -/
structure PC where
  pkt : W64
  slot : Nat
  deriving DecidableEq, Repr

/-- A scalar register with its tag (06 R127). -/
structure SReg where
  tag : Fmt
  val : W64
  deriving DecidableEq, Repr

/-- A vector register: its tag and its 32 lanes (06 R127, R115). -/
structure VReg where
  tag : Fmt
  lanes : List W64
  deriving DecidableEq, Repr

/-- A tile register or pencil tile: its tag and 32 rows of 128 elements (14 R276). -/
structure Tile where
  tag : Fmt
  rows : List (List W32)
  deriving DecidableEq, Repr

/-- s0 to s63 and v0 to v127 (01 R18, R19). -/
structure RegFile where
  sregs : List SReg
  vregs : List VReg
  deriving DecidableEq, Repr

/-- The registers of 08 R173 of which a sprig has a copy of its own. -/
structure ThreadSys where
  exec : Mask
  flags : BitVec 5
  ftrap : BitVec 5
  lease : BitVec 12
  cwin : BitVec 3
  pts : BitVec 16
  deriving DecidableEq, Repr

/-- The condition of an AWAIT that parks its split, with its operands read (18 R353): `hdr` is the key of the ring's
header, `ev` names the word waited on, its address and the cycle at which the wait ends, `hit` says that the word has been
written. -/
inductive AwaitCond where
  | rne (glob : Bool) (k hdr : Nat)
  | rnf (glob : Bool) (k hdr : Nat)
  | kids
  | chan (n : Nat) (v : W64)
  | ev (word : Nat) (addr : W64) (until_ : Nat)
  | hit
  deriving DecidableEq, Repr

/-- Why an instruction has not issued and issues again later (19 R374). -/
inductive Why where
  | runAhead
  | inkwell
  | chwait (ch : Nat) (v : W64)
  | mwait (n : Nat)
  | mbatch
  | copyFull (ch : Nat)
  | flags
  | results
  | accesses
  | allAccesses
  | stores
  | blocks (n : Nat)
  | memory
  | loading
  | trapped
  deriving DecidableEq, Repr

/-- What a split or a sprig waits for (07 R141, R146, R159; 18 R355). `word` and `hdr` are the keys of the word and of the
ring header that it watches, `addr` the word's address as the instruction names it. -/
inductive Park where
  | run
  | marker
  | retry (why : Why)
  | bar (id : Nat) (next : Bool) (scope : Scope)
  | join (entry : Nat)
  | await (c : AwaitCond)
  | waitv (d : BitVec 6) (cond : WaitCond) (word : Nat) (addr v : W64) (scope : Scope)
  | qput (d : BitVec 6) (glob : Bool) (k hdr : Nat) (vals : List W64) (scope : Scope)
  | qtake (d : Dest) (glob : Bool) (k hdr : Nat) (lanes : Mask) (scope : Scope)
  | rendezvous
  | stepagr (d : BitVec 6) (h : Nat) (s : W32)
  deriving DecidableEq, Repr

/-- BLOCKED (18 R355): kind, target and length of a blocking episode. -/
structure Blocked where
  kind : Nat
  target : Nat
  cycles : Nat
  deriving DecidableEq, Repr

/-- What a FENCE holds until the accesses `ids` have been performed: the later accesses on the classes `on`; `acq`: then
PTS rises (16 R319). -/
structure Hold where
  ids : List Nat
  acq : Bool
  on : BitVec 6
  deriving DecidableEq, Repr

/-- A thread of a wave: a split (07 R155), the control part of a sprig, or the handler split (19 R367).
`preds` and `stack` have their tops first; `stack` names reconvergence entries. `holds` are the fences whose wait is not
over. While it is blocked, `chained` says that its group issues again as a whole and `slot` is the blocked word's (log
entry 15). `choice` is the decode table chosen for its packet (04 R96): 0 the newest; `code` the packet that it has fetched last,
with its address (04 R97). `mark`: after its park the thread also waits for
its results (07 R146). `heard`: an AWAIT in its group that waits for a write has been told of it (18 R353). `stale`: what the entries above the top of its predicate stack hold, the lowest first (07 R153). -/
structure Thread where
  pc : PC
  mask : Mask
  preds : List Mask
  stale : List Mask
  stack : List Nat
  park : Park
  since : Nat
  blocked : Blocked
  chained : Bool
  slot : Nat
  holds : List Hold
  choice : Option Nat
  code : Option (W64 × BitVec 128)
  mark : Bool
  heard : Bool
  deriving DecidableEq, Repr

/-- A reconvergence entry (07 R157). `share` is a mask of splits. `bits` holds what the lanes arrived, and those out as a
sprig, have in the predicate stack, the bottom entry first (07 R153); `depth` the PDEPTH with which lanes first arrived or
left, and `uneven` that others arrived with another (07 R159); `below` the entries under this one on their stack. -/
structure Rec where
  addr : W64
  expect : Mask
  arrived : Mask
  pend : Option (PC × Mask)
  share : BitVec 4
  pos : Nat
  bits : List Mask
  depth : Option Nat
  uneven : Bool
  below : List Nat
  deriving DecidableEq, Repr

/-- A sprig (08 R173 to R175). `fenced`: its own XFENCE has fetched its code afresh (04 R100). `atExport` holds the parent's system registers as R175 lets it read them. `recs` is its own reconvergence table; entry 0 is the copy of its home entry. -/
structure Sprig where
  th : Thread
  file : RegFile
  sys : ThreadSys
  recs : NMap Rec
  home : Nat
  atExport : NMap W64
  exporter : Nat
  exportDepth : Nat
  splitsAtExport : W64
  fenced : Bool
  nib : Nat
  lines : Nat
  recalled : Bool
  wrote : List RegName
  held : List RegName
  age : Nat
  starved : Nat
  deriving DecidableEq, Repr

/-- One piece of a load that has not arrived: its lane, the register of the result and the byte in its image,
the physical bytes (17 R326), and whether an atomic at its home brings it instead of a lease reply. -/
structure LoadPart where
  lane : Nat
  reg : Nat
  at_ : Nat
  pa : Nat
  n : Nat
  atom : Bool
  deriving DecidableEq, Repr

/-- One register of a variable-latency result: the lanes it writes (all of the register for a scalar) and
their new images (07 R145). `kept`: the bits of a lane that a later write of part of it has taken (09 R189). `cut`: a later
write stands, for the wave and for the sprigs of that age on (07 R147, 08 R174). -/
structure PendReg where
  reg : RegName
  lanes : Mask
  new : List W64
  kept : NMap W64
  cut : Option Nat
  deriving DecidableEq, Repr

/-- A variable-latency result that has not been written (07 R145 to R147). It may be written once no part is
awaited and, for SEAL.open, its entry is free. `own`: the lanes of the splits that issued it, and of those that go on for
them (07 R146, R160; log entry 75). `ahead`: issued during a .hold run-ahead (14 R293). -/
structure Pending where
  id : Nat
  who : Who
  own : Mask
  regs : List PendReg
  flags : BitVec 5
  ahead : Bool
  parts : List LoadPart
  sealWait : Option Nat
  deriving DecidableEq, Repr

/-- A shape record as read (02 R52). -/
structure Shape where
  base : W64
  scales : W64
  super : W64
  dims : List Nat
  strides : List Int
  fmt : Fmt
  rank : Nat
  nanOob : Bool
  deriving DecidableEq, Repr

/-- A COPY queued on a channel (13 R267 to R272): its form, its records, the number of destination units moved
and the pointer value at its end. -/
structure CopyJob where
  form : CopyForm
  src : Shape
  dst : Shape
  done : Nat
  from_ : W64
  until_ : W64
  time : BitVec 16
  deriving DecidableEq, Repr

/-- A copy channel: CHWPN and its queue (13 R267, R269). -/
structure Chan where
  wp : W64
  jobs : List CopyJob
  deriving DecidableEq, Repr

/-- A generator slot (15 R305): program steps, NROWS, NCOLS, INVPTR, INVIDX. -/
structure Bind where
  steps : List W32
  nrows : Nat
  ncols : Nat
  invptr : W64
  invidx : W64
  deriving DecidableEq, Repr

/-- A pencil tile in use or free: the tile register it shadows (14 R293). -/
structure Pencil where
  tile : Tile
  shadows : Option Nat
  deriving DecidableEq, Repr

/-- Open run-ahead (14 R292, R293). -/
structure RunAhead where
  hold : Bool
  alt : W64
  flags : BitVec 5
  deriving DecidableEq, Repr

/-- Which memory an access reaches (12 R233 TARGET). -/
inductive Target where
  | device
  | host (coherent : Bool)
  | peer (p : Nat)
  deriving DecidableEq, Repr

/-- Where some bytes of a tensor are: a target and physical address, or no target for an offset of shared memory, and the
virtual address. -/
structure Loc where
  tg : Option Target
  pa : Nat
  va : Nat
  deriving DecidableEq, Repr

/-- Where an element of a tensor is (02 R53): its byte, which nibble of it, and the bytes of its scales. -/
structure ElemAt where
  loc : Loc
  hi : Bool
  scale : Option Loc
  super : Option Loc
  deriving DecidableEq, Repr

/-- A matrix operation whose tile is still to be written, or whose rows are still to be stored (14 R289). A place is a
tile register, or 8 + p for pencil tile p. `acc` is one tile of an MMA or MMG: the operation, the tile of its span, the
place of its accumulator, and for each row and column the rounded sums of the K-chunks with their flags; `copy` starts a
shadow or commits one (14 R293, R294). -/
inductive MatrixOp where
  | load (d : Nat) (tag : Option Fmt) (src : Fmt) (fmt : Fmt) (nan : Bool) (rows : NMap (List (Option ElemAt)))
  | acc (mma tile d : Nat) (from_ : Option Nat) (tag : Fmt) (sums : List (List (List (W32 × BitVec 5))))
  | move (d : Nat) (tag : Fmt) (op : MmoveOp) (a b : Nat) (fill : W32) (lanes : Mask)
  | store (a : Nat) (src fmt : Fmt) (rnd : Rnd) (sat : Bool) (time : BitVec 16) (rows : NMap (List (Option ElemAt)))
  | copy (a d : Nat)
  deriving DecidableEq, Repr

/-- Where the flags of a matrix operation go: to FLAGS, to the flags held under .hold, or nowhere once INK has discarded
them (14 R293, R294). -/
inductive FlagTo where
  | wave | held | drop
  deriving DecidableEq, Repr

/-- A matrix operation outstanding in a batch (14 R289); batch 0 is none. -/
structure Outstanding where
  id : Nat
  batch : W64
  op : MatrixOp
  flagTo : FlagTo
  deriving DecidableEq, Repr

/-- What a wave that arrived at an MMA or MMG rendezvous has read (14 R281): the template, PROG and the form; the codes of
its rows of A; for each tile of the span the codes of its columns of B, none where .sp keeps no element; the codes of the
block scales with their superblock scale, none for a NaN that sets no flag (02 R421); `read` are the home sectors from which an MMG has read. -/
structure Arrival where
  template : W64
  prog : Nat
  span : Nat
  pair : Bool
  sp : Bool
  fmt : Fmt
  aFmt : Fmt
  bFmt : Fmt
  ecls : Nat
  d : Nat
  acc : Option Nat
  rows : List (List Nat)
  rowScales : List (List (Option (Nat × Nat)))
  cols : List (List (List (Option Nat)))
  colScales : List (List (List (Option (Nat × Nat))))
  started : Option Nat
  read : List Nat
  deriving DecidableEq, Repr

/-- An open transaction (18 R357 to R360). Blocks are 64 bytes of device memory. `vas` are the global addresses of the 8-byte
words held, and `repairs` the sectors that .repair stores cover (13 R255). -/
structure Tx where
  who : Who
  handler : W64
  d : BitVec 6
  ro : Bool
  reads : List Nat
  writes : List Nat
  held : NMap Byte
  vas : NMap Nat
  repairs : List Nat
  begun : Nat
  gt : BitVec 16
  doomed : Option Nat
  deriving DecidableEq, Repr

/-- The trap frame and the handler split (19 R366, R422). -/
structure Frame where
  resume : PC
  saved : List SReg
  cwin : BitVec 3
  pdepth : Nat
  rdepth : Nat
  from_ : Who
  sprigSplit : Nat
  handler : Thread
  deriving DecidableEq, Repr

/-- A trap as raised (19 R363): its cause, TRAPADDR, CODE, the lanes where the rule names them, whether it was a
write, the resume point where it is not the first slot of the group, and whether it has aborted a transaction. -/
structure Trap where
  cause : Nat
  addr : Option W64
  code : Nat
  lanes : Option Mask
  write : Bool
  resume : Option PC
  tx : Bool
  deriving DecidableEq, Repr

/-- A membership of a collective group (20 R384). -/
structure Member where
  gid : Nat
  rank : Nat
  deriving DecidableEq, Repr

/-- A barrier (18 R343, R344): the phase number, and for this phase and the next its mode (`none` before the first
arrival, `some none` for the live count, `some (some n)` for CNT) and the lanes arrived, by wave; `full` are the waves
that have arrived in this phase. -/
structure Bar where
  phase : Nat
  mode : Option (Option Nat)
  arrived : NMap Mask
  full : List Nat
  nextMode : Option (Option Nat)
  nextArrived : NMap Mask
  deriving DecidableEq, Repr

/-- Where a wave stands (03 R70, 18 R354, 19 R366 to R379, 20 R394): `saved` is a wave of an image that waits for its
placement. -/
inductive Stage where
  | none
  | placed
  | running
  | stopped
  | retiring
  | swapped
  | saved
  deriving DecidableEq, Repr

/-- The footprint of a wave (02 R40, 03 R69). -/
structure Foot where
  blocks : Nat
  tiles : Nat
  chans : Nat
  pencils : Nat
  deriving DecidableEq, Repr

/-- What the words of a chain group see: the registers and the control state as before its first word (04 R86, 07 R144,
R148). -/
structure View where
  file : RegFile
  sys : ThreadSys
  thread : Thread
  recs : NMap Rec
  pending : List Pending
  binds : List (Option Bind)
  expthr : BitVec 4
  xgen : BitVec 32
  inkwell : Int
  prog : W64
  step : BitVec 36
  chans : List Chan
  deriving DecidableEq, Repr

/-- A transfer of control that takes effect after its chain group (07 R160 to R167). -/
inductive Transfer where
  | goto (pc : PC)
  | divide (lanes : Mask) (target : PC) (nib : Option Nat)
  | fan (first : PC) (others : List (PC × Mask))
  | serial (first later : PC) (lanes : Mask)
  | exit (lanes : Mask)
  | exitAll
  | done
  deriving DecidableEq, Repr

/-- The rest of a chain group whose word before it has begun to wait: what its words see, the slot of the last, the
transfer and the switch marker that take effect after it, and the flags raised so far (log entry 15). -/
structure Late where
  view : View
  last : Nat
  transfer : Option Transfer
  marker : Bool
  raised : BitVec 5
  deriving DecidableEq, Repr

/-- A wave (01 R32) with everything INVENTORY.md lists for it. `placedAt` is the cycle of its placement (18 R356). `halted`: its image says that a fatal trap has stopped it, and
its placement stops it again (19 R370). -/
structure Wave where
  id : Nat
  stage : Stage
  ctx : Nat
  launch : Nat
  team : Option Nat
  teamNo : BitVec 24
  waveNo : BitVec 5
  cluster : Nat
  core : Nat
  quad : Nat
  age : Nat
  placedAt : Nat
  starved : Nat
  depth : Nat
  cls : Nat
  parent : Option Nat
  children : Nat
  held : Nat
  lent : Bool
  foot : Foot
  pbase : Nat
  file : RegFile
  sys : ThreadSys
  tiles : List Tile
  pencils : List Pencil
  exemplar : NMap W64
  oldTables : List (NMap W64)
  xbase : W64
  xgen : BitVec 32
  expthr : BitVec 4
  inkwell : Int
  prog : W64
  step : BitVec 36
  trapinfo : W64
  trapaddr : W64
  chans : List Chan
  splits : NMap Thread
  lastSplit : Nat
  late : List (Who × Late)
  recs : NMap Rec
  sprigs : NMap Sprig
  joins : Nat
  live : Mask
  frame : Option Frame
  halted : Bool
  tokens : List (BitVec 4 × Byte)
  due : Option (Who × PC × Trap)
  runAhead : Option RunAhead
  binds : List (Option Bind)
  tx : Option Tx
  batch : W64
  closed : List W64
  ops : List Outstanding
  arrival : Option Arrival
  pending : List Pending
  members : NMap Member
  bars : List Bar
  priv : NMap (W64 × Bool)
  fetched : NMap (BitVec 128)
  deriving DecidableEq, Repr

/-- A block of an L1 (12 R241): words `first ..` of a physical frame, its lease, the tick count at which the lease was
set, the seal entry it is tagged with (17 R336), the predictor entry that last filled it, and the lowest and highest word
read while it lived (12 R242). -/
structure Block where
  frame : Nat
  first : Nat
  words : List W64
  wts : BitVec 16
  rts : BitVec 16
  stamp : Nat
  sealTag : Option Nat
  index : Nat
  lo : Nat
  hi : Nat
  deriving DecidableEq, Repr

/-- What an entry of a store queue does at the home (17 R327, 13 R261 to R263). -/
inductive HomeOp where
  | store (bytes : List Byte) (repair : Bool)
  | atom (fn : AtomFn) (fmt : Fmt) (v : W64)
  | cas (fmt : Fmt) (cmp new : W64)
  deriving DecidableEq, Repr

/-- An entry of a cluster's store queue (17 R326); `sent` once the home has it. `own` as in a pending result. `va` is its global address, none for a private word.
`reply` names the pending result and its register and lane that an atomic returns to. -/
structure QEntry where
  id : Nat
  wave : Nat
  who : Who
  own : Mask
  time : BitVec 16
  target : Target
  pa : Nat
  va : Option Nat
  op : HomeOp
  sent : Bool
  reply : Option (Nat × Nat × Nat)
  deriving DecidableEq, Repr

/-- A TLB entry (12 R235): the page, its generation, what the walk gave, and the PASID under which ATS then translated (03
R78). -/
structure TlbEntry where
  asid : BitVec 12
  gen : BitVec 8
  va : Nat
  bits : Nat
  leaf : W64
  pasid : BitVec 20
  deriving DecidableEq, Repr

/-- A frame held by a team's stash (12 R246): its global and physical frame, whether its translation allowed a store when it
was filled, its words, which of them it still holds (12 R244) and which are dirty. -/
structure StashFrame where
  team : Nat
  va : Nat
  frame : Nat
  writable : Bool
  words : List W64
  held : W32
  dirty : W32
  deriving DecidableEq, Repr

/-- A cluster (01 R16). -/
structure Cluster where
  l1 : Nat
  sh : Nat
  st : Nat
  blocks : List Block
  queue : List QEntry
  tlb : List TlbEntry
  predictor : NMap Nat
  stash : List StashFrame
  deriving DecidableEq, Repr

/-- The copy that a die's L2 holds of a sector homed on the other die (17 R331): its times, and which of its four words it
holds (12 R241); their values are the home's. -/
structure L2Copy where
  wts : BitVec 16
  rts : BitVec 16
  stamp : Nat
  words : BitVec 4
  deriving DecidableEq, Repr

/-- A busy sector (17 R327, R332, R339): the request that waits, the sharers and the owner that have not answered,
the time of the send, and the requests that wait behind it. -/
structure Busy where
  req : Instr
  sharers : BitVec 16
  owner : BitVec 8
  since : Nat
  waiting : List Instr
  deriving DecidableEq, Repr

/-- A home sector held in the L2 (17 R323); the ticks at which WTS and RTS were set (17 R324 rule 4); which of its four words
the L2's blocks hold (12 R241). -/
structure Sector where
  wts : BitVec 16
  rts : BitVec 16
  stamp : Nat
  rstamp : Nat
  sharers : BitVec 16
  owner : BitVec 8
  words : BitVec 4
  busy : Option Busy
  deriving DecidableEq, Repr

/-- A seal-table entry (13 R266, 17 R336, R337) with a number of its own: `opening` once SEAL.open has named it, and since
which cycle. -/
structure SealEntry where
  id : Nat
  since : Nat
  asid : BitVec 12
  ctx : Nat
  base : Nat
  len : Nat
  opening : Bool
  plate : Bool
  deriving DecidableEq, Repr

/-- The GEN of an address space, the values it has had, and for each retired value the number of scrub passes that
had begun at its retirement (12 R236). -/
structure AsidState where
  gen : BitVec 8
  retired : NMap Nat
  deriving DecidableEq, Repr

/-- The state of a context (03 R60). -/
inductive CtxState where
  | off | run | tearing | frozen
  deriving DecidableEq, Repr

/-- A node of a registered plate as read at its registration (02 R45). -/
structure PlateNode where
  kind : Nat
  succ : List Nat
  arg : W64
  val : W64
  deriving DecidableEq, Repr

/-- A plate register with the plate registered in it (03 R62): its seal-table entry while sealed, the address it was read
at, and its nodes; `releasing` once it has been unregistered and its seal is still held. -/
structure Plate where
  addr : W64
  err : Bool
  valid : Bool
  entry : Option Nat
  base : W64
  nodes : List PlateNode
  releasing : Bool
  deriving DecidableEq, Repr

/-- A patch entry (02 R49). -/
structure Patch where
  node : Nat
  where_ : Nat
  size : Nat
  offset : Nat
  value : W64
  deriving DecidableEq, Repr

/-- A kick that waits or retries (03 R64, R65): its value, the header reads made, the time of the first, and whether its
slot has been unregistered meanwhile (03 R62). -/
structure Kick where
  value : W64
  reads : Nat
  since : Nat
  dead : Bool
  deriving DecidableEq, Repr

/-- An impression (02 R47, R48). -/
structure Impression where
  ctx : Nat
  slot : Nat
  tag : BitVec 16
  plate : W64
  patches : List Patch
  running : Bool
  started : List Nat
  done : List Nat
  deriving DecidableEq, Repr

/-- The save and restore registers of a slot (19 R375): `cmd` is PRECTL.CMD until the command is accepted; `job` is the
command under way: 1 SAVE, 2 RESTORE, and `target` the area that a SAVE was given. -/
structure PreRegs where
  cmd : Nat
  area : W64
  size : W64
  pages : Nat
  err : Nat
  state : Nat
  job : Nat
  target : W64
  deriving DecidableEq, Repr

/-- A context slot (03 R56 to R63). -/
structure Ctx where
  owner : BitVec 5
  state : CtxState
  enable : Bool
  tearing : Bool
  bump : Bool
  bumpres : BitVec 2
  pasid : BitVec 20
  asid : BitVec 12
  root : W64
  inkrate : BitVec 24
  inkrateInForce : BitVec 24
  cls : BitVec 2
  frzinfo : W64
  frzaddr : W64
  kickReg : W64
  kickTag : BitVec 16
  kickSlot : BitVec 4
  kickNew : Bool
  kickCode : BitVec 4
  plates : List Plate
  kicks : List Kick
  lastHost : Option Nat
  held : Bool
  pre : PreRegs
  deriving DecidableEq, Repr

/-- A role or the single role of a team launch (02 R40). -/
structure Role where
  entry : Nat
  waves : Nat
  foot : Foot
  first : Nat
  deriving DecidableEq, Repr

/-- A launch (02 R39, 03 R67). `record` is the record's 128 bytes as read. -/
structure Launch where
  ctx : Nat
  record : List Byte
  exemplar : List W64
  consts : List W64
  node : Option (Nat × Nat)
  outstanding : Nat
  unplaced : Nat
  host : Bool
  deriving DecidableEq, Repr

/-- A launch handed over or a launch node started, before acceptance (03 R67, R73); `cycle` is the cycle in which a LAUNCH
handed it over (03 R75). -/
structure Ticket where
  ctx : Nat
  cycle : Option (BitVec 64)
  addr : W64
  args : Option W64
  node : Option (Nat × Nat)
  die : Option Nat
  cluster : Option Nat
  deriving DecidableEq, Repr

/-- A pending item of the distributor (03 R70, R74): the teams of a launch that are not placed, from team `team` on; a
task; or, with the waves in `restored`, a team or a task that an image holds (19 R379). -/
structure Item where
  id : Nat
  ctx : Nat
  launch : Nat
  cls : Nat
  die : Nat
  cluster : Option Nat
  team : Option Nat
  pc : W64
  s0 : W64
  depth : Nat
  parent : Option Nat
  foot : Foot
  exemplar : NMap W64
  xbase : W64
  expthr : BitVec 4
  pts : BitVec 16
  restored : List Nat
  deriving DecidableEq, Repr

/-- A resident team or gang (01 R32). `nos` are the numbers of its waves (02 R41). -/
structure Team where
  ctx : Nat
  launch : Nat
  teamNo : Nat
  cluster : Nat
  core : Nat
  nos : List Nat
  live : List Nat
  shared : Memory
  bars : List Bar
  windows : List (Nat × Nat)
  deriving DecidableEq, Repr

/-- The unfinished history of a ring (18 R355): context, team of a shared ring, class and number, the last putters and
takers, and the count of completed operations. -/
structure RingHist where
  id : Nat
  ctx : Nat
  team : Option Nat
  k : Nat
  putters : List Nat
  takers : List Nat
  count : Nat
  deriving DecidableEq, Repr

/-- A posted collective (20 R386, R387). -/
structure Post where
  op : CollOp
  fn : RedFn
  fmt : Fmt
  scope : Scope
  count : Nat
  root : Nat
  src : W64
  dst : W64
  done : W64
  doneval : W64
  die : Nat
  time : BitVec 16
  ctx : Nat
  wave : Nat
  deriving DecidableEq, Repr

/-- A part of a step that has failed, whose completion word is still to be written (20 R388): the code, and the address at which
its context then freezes (17 R340). -/
structure Failing where
  post : Post
  code : Nat
  freeze : Option Nat
  deriving DecidableEq, Repr

/-- A rank of a collective group (20 R384): its device, the wave on this device, its posted steps, its next step number,
whether it is joined, vacant or marked aborted, and its STEPAGR proposal. -/
structure Rank where
  dev : Nat
  wave : Option Nat
  posts : NMap Post
  next : Nat
  vacant : Bool
  aborted : Bool
  proposal : Option W32
  deriving DecidableEq, Repr

/-- A collective group as this device sees it (20 R384 to R392). -/
structure Group where
  gid : Nat
  size : Nat
  ranks : NMap Rank
  agreed : W32
  failing : List Failing
  deriving DecidableEq, Repr

/-- A KVX transfer queued (13 R273, R274); `left` are the pages still to be moved. -/
structure Kv where
  id : Nat
  ctx : Nat
  die : Nat
  cluster : Nat
  time : BitVec 16
  dir : Nat
  peer : Nat
  pshift : Nat
  npages : Nat
  srclist : W64
  dstlist : W64
  done : W64
  doneval : W64
  left : List Nat
  deriving DecidableEq, Repr

/-- An SRED update on its way to a mill (13 R260), with its global address; `own` as in a pending result. -/
structure MillUpdate where
  id : Nat
  wave : Nat
  who : Who
  own : Mask
  pa : Nat
  va : Nat
  fn : RedFn
  fmt : Fmt
  v : W64
  deriving DecidableEq, Repr

/-- What the device sends out (20 R396, R398, R399; 17 R334, R338, R340; 03 R76). -/
inductive Out where
  | msix (fn vector : Nat)
  | readData (who : Outside) (pa : Nat) (bytes : List Byte)
  | readPoison (who : Outside) (pa : Nat)
  | writeDone (who : Outside) (pa : Nat)
  | owned (who : Outside) (sector : Nat)
  | completerAbort (fn : Nat)
  | protectionError (p : Nat)
  | invalidate (sharer sector : Nat)
  | recall (owner sector : Nat)
  | bins (values : List W64)
  | time (t : W64)
  | mctpError
  | measurement (index : Nat) (digest : BitVec 512)
  | certificate (chain : List Byte)
  | atsDone (pasid : BitVec 20)
  | token (peer gid rank : Nat) (reason : Byte)
  deriving DecidableEq, Repr

/-- Why a word does not complete: its exact trap, a wait after which its group issues again, a park with what the wave
shows its partners meanwhile (14 R281), the abort of the open transaction (18 R360), a wait
for memory that first asks other agents for something, the same in an XLOAD (18 R355), or a long instruction's trap that keeps the units it has done (19 R362). -/
inductive Stop where
  | trap (t : Trap)
  | wait (w : Why)
  | park (p : Park) (a : Option Arrival)
  | abort (status : Nat) (info : Option Trap)
  | memory (evs : List Instr)
  | loading (evs : List Instr)
  | long
  deriving DecidableEq, Repr

/-- What a chain group keeps while its words issue (04 R86, R87; 06 R135; 07 R144, R165): whether it has more than one
word, the current word's slot, the packet literal, the switch marker, what its words see, the transfer that takes effect
after it, the flags raised, what stopped it, and the first word that begins to wait while the group goes on (log entry
15). -/
structure Issue where
  multi : Bool
  slot : Nat
  lit : BitVec 24
  marker : Bool
  view : Option View
  transfer : Option Transfer
  raised : BitVec 5
  stop : Option (Nat × Stop)
  cut : Option Nat
  deriving DecidableEq, Repr

/-- The lifetime record (20 R397): the seven histograms in the order of the rule's rows, bins by number. -/
structure Lifetime where
  counts : List (NMap Nat)
  flash : List (NMap Nat)
  flashTime : W64
  deriving DecidableEq, Repr

/-- The whole machine. `time` is the real time that has passed, in parts of a microsecond (00 R9, 20 R400). `copies` are what each die's L2 holds of sectors homed on the other die, `lines` the lines of 64 bytes
that the L2 holds of host memory of TARGET 10 and of peer memory (17 R331), and `tlbs` the shared TLBs of the dies (12 R235). `atsPending` are the ATS invalidations that are not complete, with the address spaces left to bump
(12 R235). `cur` is the wave that issues next, kept apart from the others (`waves`), and `who` its thread.
`scan` is the wait-for relation at the last scan of the logjam detector (18 R356): a blocked wave, the number of the
history of the ring it waits for, the ring's count of operations, and a blocked wave that the ring waits for. `urgent` are the events that come before anything else, in their order: what a home served next when a
busy sector became free, and what falls due with a cycle (17 R327, R341). -/
structure State where
  cycle : BitVec 64
  time : Nat
  gt : BitVec 16
  mem : Memory
  hostMem : Memory
  peerMem : NMap Memory
  sectors : NMap Sector
  copies : NMap L2Copy
  tlbs : NMap (List TlbEntry)
  floors : NMap (BitVec 16 × Nat)
  poison : List Nat
  lines : NMap (List Byte)
  asids : NMap AsidState
  scrubs : Nat
  atsPending : List (BitVec 20 × List (BitVec 12))
  sealTable : NMap SealEntry
  ctxs : NMap Ctx
  aborting : List Nat
  linksDown : NMap Nat
  linkOwners : NMap Nat
  lostPeers : List Nat
  clusters : NMap Cluster
  launches : NMap Launch
  impressions : NMap Impression
  tickets : NMap Ticket
  items : List Item
  teams : NMap Team
  waves : NMap Wave
  cur : Wave
  who : Who
  rings : List RingHist
  scan : List (Nat × Nat × Nat × Nat)
  groups : NMap Group
  kvs : List Kv
  mills : List MillUpdate
  lifetime : Lifetime
  throttle : Nat
  firmware : Option Nat
  rollback : Nat
  msixMasked : List (Nat × Nat)
  msixPending : List (Nat × Nat)
  outbox : List Out
  urgent : List Instr
  agenda : List Instr
  focus : Nat
  issue : Issue
  fresh : Nat
  nextId : Nat
  deriving DecidableEq, Repr

/-- Why the machine stops with a fault: it never does. Every fault that the spec describes is a trap that is taken, or an answer
to an agent outside. -/
inductive Fault where
  deriving DecidableEq, Repr

/-- Why an instruction has no meaning here. -/
inductive Refusal where
  /-- Raised by `exec` alone, for an instruction that the model does not give a meaning yet. Safe. -/
  | notModelled (mnemonic : String)
  deriving DecidableEq, Repr

/-- A thread that does nothing, at address 0. -/
def Thread.blank : Thread :=
  { pc := ⟨0, 0⟩, mask := 0, preds := [], stale := [], stack := [], park := .run, since := 0, blocked := ⟨0, 0, 0⟩,
    chained := false, slot := 0, holds := [], choice := none, code := none, mark := false, heard := false }

/-- All registers zero with tag b64 (02 R38). -/
def RegFile.blank : RegFile :=
  { sregs := List.replicate 64 ⟨.b64, 0⟩, vregs := List.replicate 128 ⟨.b64, List.replicate 32 0⟩ }

/-- A tile of +0 with tag f32 (14 R276). -/
def Tile.blank : Tile := { tag := .f32, rows := List.replicate 32 (List.replicate 128 0) }

/-- A barrier in phase 0 with no arrival (18 R343). -/
def Bar.blank : Bar := { phase := 0, mode := none, arrived := [], full := [], nextMode := none, nextArrived := [] }

/-- No wave: what `cur` is at device reset (log entry 2). -/
def Wave.blank : Wave :=
  { id := 0, stage := .none, ctx := 0, launch := 0, team := none, teamNo := 0, waveNo := 0, cluster := 0, core := 0,
    quad := 0, age := 0, placedAt := 0, starved := 0, depth := 0, cls := 0, parent := none, children := 0, held := 0, lent := false,
    foot := ⟨0, 0, 0, 0⟩, pbase := 0, file := RegFile.blank, sys := ⟨0, 0, 0, 0, 0, 0⟩, tiles := [], pencils := [],
    exemplar := [], oldTables := [], xbase := 0, xgen := 0, expthr := 0, inkwell := 0, prog := 0, step := 0,
    trapinfo := 0, trapaddr := 0, chans := [], splits := [], lastSplit := 0, late := [], recs := [], sprigs := [], joins := 0,
    live := 0, frame := none, halted := false, tokens := [], due := none, runAhead := none, binds := List.replicate 8 none, tx := none,
    batch := 0, closed := [], ops := [], arrival := none, pending := [], members := [],
    bars := List.replicate 16 Bar.blank, priv := [], fetched := [] }

/-- A cluster after device reset (01 R17, 17 R323). -/
def Cluster.reset : Cluster :=
  { l1 := 32, sh := 0, st := 0, blocks := [], queue := [], tlb := [], predictor := [], stash := [] }

/-- A plate register after device reset (03 R62). -/
def Plate.reset : Plate := { addr := 0, err := false, valid := false, entry := none, base := 0, nodes := [], releasing := false }

/-- A context slot after device reset (03 R56 to R63, 19 R375). -/
def Ctx.reset : Ctx :=
  { owner := 0, state := .off, enable := false, tearing := false, bump := false, bumpres := 0, pasid := 0, asid := 0,
    root := 0, inkrate := 0, inkrateInForce := 0, cls := 0, frzinfo := 0, frzaddr := 0, kickReg := 0, kickTag := 0,
    kickSlot := 0, kickNew := false, kickCode := 0, plates := List.replicate 16 Plate.reset, kicks := [],
    lastHost := none, held := false, pre := ⟨0, 0, 0, 0, 0, 0, 0, 0⟩ }

/-- The machine right after device reset: 17 R323, 12 R236, 01 R17, the reset columns of the register maps, and log
entries 1 and 2 for what the spec does not give. Memory lists nothing, no wave is placed, and nothing waits. -/
def State.reset : State :=
  { cycle := 0, time := 0, gt := 0, mem := [], hostMem := [], peerMem := [], sectors := [], copies := [], tlbs := [], floors := [], poison := [],
    lines := [], asids := [], scrubs := 0, atsPending := [], sealTable := [], ctxs := [], aborting := [], linksDown := [],
    linkOwners := [], lostPeers := [], clusters := [], launches := [], impressions := [], tickets := [], items := [],
    teams := [], waves := [], cur := Wave.blank, who := .split 0, rings := [], scan := [], groups := [], kvs := [],
    mills := [], lifetime := ⟨List.replicate 7 [], List.replicate 7 [], 0⟩, throttle := 0, firmware := none,
    rollback := 0, msixMasked := [], msixPending := [], outbox := [], urgent := [], agenda := [], focus := 0, issue := ⟨false, 0, 0, false, none, none, 0, none, none⟩, fresh := 0,
    nextId := 1 }

end Sys2Proof.Machine
end

