-- ==== Sys2Proof/Machine/Bits.lean ====
section
/-! DEFINITION. Bit fields, elements of a lane (06 R115), byte order (00 R5) and bytes of a memory. -/

namespace Sys2Proof

/-- Whether lane `l` is in a mask. -/
def Mask.has (m : Mask) (l : Nat) : Bool := m.getLsbD l

/-- The lanes of a mask in ascending order. -/
def Mask.toList (m : Mask) : List Nat := (List.range 32).filter m.has

/-- The mask of the lanes for which `p` holds. -/
def Mask.ofFn (p : Nat → Bool) : Mask :=
  BitVec.ofNat 32 ((List.range 32).foldl (fun acc l => if p l then acc + 2 ^ l else acc) 0)

/-- The mask of one lane. -/
def Mask.lane (l : Nat) : Mask := BitVec.ofNat 32 (2 ^ l)

/-- The number of lanes in a mask. -/
def Mask.count (m : Mask) : Nat := m.toList.length

end Sys2Proof

namespace Sys2Proof.Machine

/-- A number below 2^w as a 64-bit image. -/
def w64 (n : Nat) : W64 := BitVec.ofNat 64 n

/-- Bits `lo` up to `lo + n - 1` of a number. -/
def bitsOf (x : Nat) (lo n : Nat) : Nat := x / 2 ^ lo % 2 ^ n

/-- The low `w` bits of `x` read as a two's-complement number. -/
def signedOf (w x : Nat) : Int :=
  let y := x % 2 ^ w
  if y < 2 ^ (w - 1) then (y : Int) else (y : Int) - 2 ^ w

/-- The `w`-bit two's-complement pattern of an integer. -/
def wrapInt (w : Nat) (x : Int) : Nat := (x % 2 ^ w).toNat

/-- A signed immediate of 5 bits on 64 bits (04 R84). -/
def sext64 {n : Nat} (x : BitVec n) : W64 := x.signExtend 64

/-- Element `k` of width `w` of a 64-bit image. -/
def elem (w : Nat) (x : W64) (k : Nat) : Nat := bitsOf x.toNat (w * k) w

/-- The image `x` with element `k` of width `w` replaced. -/
def setElem (w : Nat) (x : W64) (k : Nat) (v : Nat) : W64 :=
  w64 (x.toNat - elem w x k * 2 ^ (w * k) + v % 2 ^ w * 2 ^ (w * k))

/-- An image whose element `k` is `f k`, for all elements of width `w`. -/
def buildElems (w : Nat) (f : Nat → Nat) : W64 :=
  w64 ((List.range (64 / w)).foldl (fun acc k => acc + f k % 2 ^ w * 2 ^ (w * k)) 0)

/-- A list of 32 lanes. -/
def lanesOf (f : Nat → W64) : List W64 := (List.range 32).map f

/-- The little-endian bytes of a number (00 R5). -/
def bytesOf (n : Nat) (x : Nat) : List Byte :=
  match n with
  | 0 => []
  | m + 1 => BitVec.ofNat 8 x :: bytesOf m (x / 256)

/-- The number that little-endian bytes make (00 R5). -/
def ofBytes (bs : List Byte) : Nat :=
  match bs with
  | [] => 0
  | b :: rest => b.toNat + 256 * ofBytes rest

/-- The byte at an address; an address that is not listed reads zero (log entry 1). -/
def Memory.get (m : Memory) (a : Nat) : Byte :=
  match m with
  | [] => 0
  | (k, b) :: rest => if k = a then b else Memory.get rest a

/-- Writes a byte at an address, keeping the addresses rising and listing no zero. -/
def Memory.put (m : Memory) (a : Nat) (b : Byte) : Memory :=
  match m with
  | [] => if b = 0 then [] else [(a, b)]
  | (k, c) :: rest =>
    if a < k then (if b = 0 then (k, c) :: rest else (a, b) :: (k, c) :: rest)
    else if a = k then (if b = 0 then rest else (a, b) :: rest)
    else (k, c) :: Memory.put rest a b

/-- Writes bytes at consecutive addresses. -/
def Memory.puts (m : Memory) (a : Nat) (bs : List Byte) : Memory :=
  match bs with
  | [] => m
  | b :: rest => Memory.puts (Memory.put m a b) (a + 1) rest

/-- `n` bytes from an address. -/
def Memory.gets (m : Memory) (a n : Nat) : List Byte := (List.range n).map fun k => Memory.get m (a + k)

/-- The addresses of `m` rise strictly from above `lo`, and no byte is zero. -/
def Memory.wfFrom (lo : Option Nat) (m : Memory) : Bool :=
  match m with
  | [] => true
  | (k, b) :: rest =>
    (match lo with
      | none => true
      | some j => decide (j < k)) && b != 0 && Memory.wfFrom (some k) rest

/-- The canonical form of a memory. -/
def Memory.wf (m : Memory) : Bool := Memory.wfFrom none m

/-- The keys of a keyed list rise strictly from above `lo`. -/
def keysFrom {α : Type} (lo : Option Nat) (m : List (Nat × α)) : Bool :=
  match m with
  | [] => true
  | (k, _) :: rest =>
    (match lo with
      | none => true
      | some j => decide (j < k)) && keysFrom (some k) rest

/-- The maximum of a list of numbers. -/
def maxOf (xs : List Nat) : Nat := xs.foldl Nat.max 0

/-- A number put into a rising list without repeats. -/
def insertRising (x : Nat) (xs : List Nat) : List Nat :=
  match xs with
  | [] => [x]
  | y :: rest => if x < y then x :: y :: rest else if x = y then y :: rest else y :: insertRising x rest

/-- The smallest number at most `n` that is not in the list. -/
def firstFree (n : Nat) (used : List Nat) : Nat :=
  ((List.range (n + 1)).find? fun k => !used.contains k).getD n

end Sys2Proof.Machine

namespace Sys2Proof

/-- A value read as a signed or an unsigned number of format `f`. -/
def Fmt.num (f : Fmt) (x : Nat) : Int := if f.isSigned then Machine.signedOf f.width x else (x % 2 ^ f.width : Nat)

end Sys2Proof
end

