-- ==== Sys2Proof/Machine/Home.lean ====
section
/-! DEFINITION. The homes of device memory (12 R237), logical time (17 R323, R324), the waves by number, and the one
operation by which bytes become new at a home (17 R327). -/

namespace Sys2Proof.Machine

/-- The bytes of device memory: 576 GiB (12 R234). -/
def deviceBytes : Nat := 9 * 2 ^ 36

/-- Whether a range lies in device memory. -/
def inDevice (pa n : Nat) : Bool := decide (pa + n ≤ deviceBytes)

/-- The stack row `a` of a frame (12 R237). -/
def homeRow (pa : Nat) : Nat := pa / 256 / 12

/-- The stack of an address (12 R237). -/
def homeStack (pa : Nat) : Nat :=
  let a := homeRow pa
  let h := Nat.xor (Nat.xor (bitsOf a 0 8) (bitsOf a 8 8)) (Nat.xor (bitsOf a 16 8) (bitsOf a 24 4))
  (pa / 256 % 12 + h % 12) % 12

/-- The home die of an address (12 R237). -/
def homeDie (pa : Nat) : Nat := homeStack pa / 6

/-- The slice of the home die, numbered over both dies (12 R237). -/
def homeSlice (pa : Nat) : Nat :=
  homeDie pa * 512 + Nat.xor (bitsOf (homeRow pa) 0 9) (bitsOf (homeRow pa) 9 9)

/-- The byte of its stack at which an address stands (12 R237). -/
def homeByte (pa : Nat) : Nat := homeRow pa * 256 + pa % 256

/-- The slice of the other die that holds a copy of a frame (17 R331), numbered over both dies. -/
def copySlice (pa : Nat) : Nat := (1 - homeDie pa) * 512 + homeSlice pa % 512

/-- The mill of the stack (12 R237). -/
def homeMill (pa : Nat) : Nat := homeRow pa % 64

/-- The die of a cluster: 36 clusters each (01 R14). -/
def clusterDie (c : Nat) : Nat := c / 36

/-- The tick count (00 R9). -/
def State.tick (s : State) : Nat := s.cycle.toNat / 64

/-- a ≤ b in serial-number arithmetic (17 R324). -/
def timeLe (a b : BitVec 16) : Bool := decide ((b - a).toNat ≤ 32767)

/-- The later of two times (17 R324). -/
def timeMax (a b : BitVec 16) : BitVec 16 := if timeLe a b then b else a

/-- A stored time as a home reads it (17 R324 rule 4). -/
def State.readTime (s : State) (t : BitVec 16) (stamp : Nat) : BitVec 16 :=
  if decide (16384 < s.tick - stamp) || (timeLe t s.gt && decide (16384 < (s.gt - t).toNat)) then s.gt - 16384 else t

/-- A stored time that GT has left so far behind that it would leave the window of comparison (17 R324 rule 4). -/
def raiseTime (gt t : BitVec 16) : BitVec 16 := if timeLe t gt && decide (16384 < (gt - t).toNat) then gt - 16384 else t

/-- GT rises to a time, or by a tick; the stored times of the homes follow before they can leave the window (17 R324 rules 1, 2,
4). -/
def State.withGt (s : State) (gt : BitVec 16) : State :=
  if gt = s.gt then s
  else
    { s with gt := gt,
             sectors := s.sectors.map fun ((k, x) : Nat × Sector) => (k, { x with wts := raiseTime gt x.wts, rts := raiseTime gt x.rts }),
             copies := s.copies.map fun ((k, x) : Nat × L2Copy) => (k, { x with wts := raiseTime gt x.wts, rts := raiseTime gt x.rts }),
             floors := s.floors.map fun ((k, t, n) : Nat × BitVec 16 × Nat) => (k, raiseTime gt t, n) }

/-- GT rises to a time that a home assigns (17 R324 rule 1). -/
def State.raiseGt (s : State) (t : BitVec 16) : State := s.withGt (timeMax s.gt t)

/-- The state of a home sector; one that the L2 does not hold starts from its slice's FLOOR (17 R323, R329). -/
def State.sector (s : State) (n : Nat) : Sector :=
  match NMap.get? s.sectors n with
  | some x => { x with wts := s.readTime x.wts x.stamp, rts := s.readTime x.rts x.rstamp }
  | none =>
    let (f, stamp) := NMap.getD s.floors (homeSlice (n * 32)) (0, 0)
    { wts := s.readTime f stamp, rts := s.readTime f stamp, stamp := stamp, rstamp := stamp, sharers := 0, owner := 0,
      words := 0, busy := none }

/-- Writes the state of a home sector. -/
def State.setSector (s : State) (n : Nat) (x : Sector) : State :=
  { s with sectors := NMap.set s.sectors n x }

/-- A sector whose WTS and RTS are set at a tick (17 R327). -/
def Sector.written (x : Sector) (wts : BitVec 16) (tick : Nat) : Sector :=
  { x with wts := wts, rts := wts, stamp := tick, rstamp := tick }

/-- A sector whose RTS covers a lease to `t` (17 R327). -/
def Sector.leased (x : Sector) (t : BitVec 16) (tick : Nat) : Sector :=
  if timeLe t x.rts then x else { x with rts := t, rstamp := tick }

/-- The words that an access to bytes of one sector reaches, by their place in the sector. -/
def sectorWords (pa n : Nat) : BitVec 4 :=
  BitVec.ofNat 4 ((List.range 4).foldl (fun acc k =>
    if decide (pa / 8 ≤ pa / 32 * 4 + k) && decide (pa / 32 * 4 + k ≤ (pa + n - 1) / 8) then acc + 2 ^ k else acc) 0)

/-- A sector of which the L2's blocks take words (12 R241). -/
def Sector.holding (x : Sector) (m : BitVec 4) : Sector := { x with words := x.words ||| m }

/-- Whether a sector is poisoned (12 R239). -/
def State.poisonedAt (s : State) (pa : Nat) : Bool := s.poison.contains (pa / 32)

/-- Whether any sector of a range is poisoned. -/
def State.poisonedIn (s : State) (pa n : Nat) : Bool :=
  (List.range ((pa + n - 1) / 32 + 1 - pa / 32)).any fun k => s.poison.contains (pa / 32 + k)

/-- The wave with a number; `cur` is kept apart. -/
def State.wave? (s : State) (w : Nat) : Option Wave :=
  if s.cur.id = w ∧ s.cur.stage ≠ .none then some s.cur else NMap.get? s.waves w

/-- Replaces a wave. -/
def State.setWave (s : State) (x : Wave) : State :=
  if s.cur.id = x.id ∧ s.cur.stage ≠ .none then { s with cur := x } else { s with waves := NMap.set s.waves x.id x }

/-- Every wave that is placed. -/
def State.allWaves (s : State) : List Wave :=
  (if s.cur.stage = .none then [] else [s.cur]) ++ s.waves.map (·.2)

/-- Applies a change to every wave. -/
def State.mapWaves (s : State) (f : Wave → Wave) : State :=
  { s with cur := if s.cur.stage = .none then s.cur else f s.cur, waves := s.waves.map fun (k, w) => (k, f w) }

/-- The context slot `n` (03 R56). -/
def State.ctx (s : State) (n : Nat) : Ctx := NMap.getD s.ctxs n Ctx.reset

/-- Replaces a context slot. -/
def State.setCtx (s : State) (n : Nat) (c : Ctx) : State := { s with ctxs := NMap.set s.ctxs n c }

/-- The cluster `n` (01 R16). -/
def State.cluster (s : State) (n : Nat) : Cluster := NMap.getD s.clusters n Cluster.reset

/-- Replaces a cluster. -/
def State.setCluster (s : State) (n : Nat) (c : Cluster) : State := { s with clusters := NMap.set s.clusters n c }

/-- Adds an event to what the other agents do next. -/
def State.post (s : State) (i : Instr) : State := { s with agenda := s.agenda ++ [i] }

/-- Adds an event unless it already waits. -/
def State.postOnce (s : State) (i : Instr) : State := if s.agenda.contains i then s else s.post i

/-- Adds an event to those that come next, unless it already waits there (17 R327). -/
def State.soon (s : State) (i : Instr) : State := if s.urgent.contains i then s else { s with urgent := s.urgent ++ [i] }

/-- Sends something out of the device. -/
def State.send (s : State) (o : Out) : State := { s with outbox := s.outbox ++ [o] }

/-- Counts an event in bin `bin` of histogram `h` of the lifetime record (20 R397). -/
def State.count (s : State) (h bin : Nat) : State :=
  let m := s.lifetime.counts.getD h []
  { s with lifetime := { s.lifetime with
      counts := s.lifetime.counts.set h (NMap.set m bin (NMap.getD m bin 0 + 1)) } }

/-- The number of the memory that a target names: the device's, the host's, and those of the peers 1 to 13 above them. -/
def Target.memory (t : Target) : Nat :=
  match t with
  | .device => 0
  | .host _ => 1
  | .peer p => 1 + p

/-- The number that names an 8-byte word among all the words that can be waited on: device memory, host memory, a
peer's memory, and a team's shared memory. -/
def wordKey (t : Target) (pa : Nat) : Nat := pa / 8 * 32 + t.memory

/-- The number of a word of team `t`'s shared memory. -/
def sharedKey (t off : Nat) : Nat := (t * 2 ^ 20 + off / 8) * 32 + 31

/-- The threads of a wave with their names. -/
def Wave.threads (w : Wave) : List (Who × Thread) :=
  w.splits.map (fun (n, t) => (Who.split n, t)) ++ w.sprigs.map (fun (j, p) => (Who.sprig j, p.th)) ++
    match w.frame with
    | some f => [(Who.handler, f.handler)]
    | none => []

/-- A thread of a wave. -/
def Wave.thread (w : Wave) (who : Who) : Thread :=
  match who with
  | .split n => NMap.getD w.splits n Thread.blank
  | .sprig j => match NMap.get? w.sprigs j with
    | some p => p.th
    | none => Thread.blank
  | .handler => match w.frame with
    | some f => f.handler
    | none => Thread.blank

/-- Replaces a thread that the wave holds. -/
def Wave.setThread (w : Wave) (who : Who) (t : Thread) : Wave :=
  match who with
  | .split n => { w with splits := NMap.set w.splits n t }
  | .sprig j => match NMap.get? w.sprigs j with
    | some p => { w with sprigs := NMap.set w.sprigs j { p with th := t } }
    | none => w
  | .handler => match w.frame with
    | some f => { w with frame := some { f with handler := t } }
    | none => w

/-- A ring header whose first word has key `hdr` has a word with key `key` (18 R349). -/
def inHeader (hdr key : Nat) : Bool := key == hdr || key == hdr + 32

/-- The event with which a thread that waits on word `key`, or on the ring whose header holds it, learns of a write to it
(18 R346, R351 to R353). -/
def wakeFor (w : Nat) (who : Who) (p : Park) (key : Nat) : Option Instr :=
  match p with
  | .waitv _ _ k _ _ _ => if k = key then some (.waitvRecheck w who) else none
  | .await (.ev k _ _) => if k = key then some (.awaitWake w who) else none
  | .await (.rne _ _ h) => if inHeader h key then some (.awaitWake w who) else none
  | .await (.rnf _ _ h) => if inHeader h key then some (.awaitWake w who) else none
  | .qput _ _ _ h _ _ => if inHeader h key then some (.ringWake w who) else none
  | .qtake _ _ _ h _ _ => if inHeader h key then some (.ringWake w who) else none
  | _ => none

/-- A thread that AWAIT.ev holds on word `key` has seen its write (18 R353). -/
def Thread.noteWrite (t : Thread) (key : Nat) : Thread :=
  match t.park with
  | .await (.ev k _ _) => if k = key then { t with park := .await .hit } else t
  | _ => t

/-- Tells every thread that waits on word `key` that it has been written. -/
def State.notify (s : State) (key : Nat) : State :=
  let evs := s.allWaves.flatMap fun w => w.threads.filterMap fun (who, t) => wakeFor w.id who t.park key
  let t := s.mapWaves fun w => w.threads.foldl (fun w (who, t) =>
    match wakeFor w.id who t.park key with
    | some _ => w.setThread who (t.noteWrite key)
    | none => w) w
  evs.foldl State.postOnce t

/-- Tells the threads that wait on any word of a range. -/
def State.notifyRange (s : State) (key : Nat → Nat) (a n : Nat) : State :=
  (List.range ((a + n - 1) / 8 + 1 - a / 8)).foldl (fun s k => s.notify (key ((a / 8 + k) * 8))) s

/-- Who writes at a home: a wave, an engine of a die that works for no wave's registers, or an agent that is on no die's L2 (17
R327, R332, log entry 79). -/
inductive Writer where
  | wave (id : Nat)
  | die (d : Nat)
  | outside
  deriving DecidableEq, Repr

/-- The wave that writes. -/
def Writer.wave? (w : Writer) : Option Nat :=
  match w with
  | .wave n => some n
  | _ => none

/-- Marks every open transaction of another wave that a non-transactional access to block `blk` dooms: a write to
either of its sets, or a read of its write set (18 R359). -/
def State.doom (s : State) (by_ : Writer) (blk : Nat) (write : Bool) : State :=
  let hit (w : Wave) : Bool := match w.tx with
    | some x => Writer.wave w.id != by_ && x.doomed.isNone &&
        (x.writes.contains blk || (write && x.reads.contains blk))
    | none => false
  let evs := (s.allWaves.filter hit).map fun w => Instr.txConflictAbort w.id
  let t := s.mapWaves fun w => if hit w then { w with tx := w.tx.map fun x => { x with doomed := some 1 } } else w
  evs.foldl State.postOnce t

/-- The word number `k` of a block's frame, where the block holds it. -/
def Block.word? (b : Block) (k : Nat) : Option W64 := if b.first ≤ k then b.words[k - b.first]? else none

/-- A block with the words of a range cut out (12 R244). -/
def Block.cut (b : Block) (drop : Nat → Bool) : List Block :=
  ((List.range b.words.length).zip b.words).foldl (fun (acc : List Block) (i, x) =>
    let k := b.first + i
    if drop k then acc
    else match acc with
      | c :: rest =>
        if c.first + c.words.length = k then { c with words := c.words ++ [x] } :: rest
        else { b with first := k, words := [x] } :: c :: rest
      | [] => [{ b with first := k, words := [x] }]) []

/-- Changes the lease replies on their way to a cluster for words of a frame. -/
def State.mapReplies (s : State) (c frame : Nat) (f : LeaseRep → LeaseRep) : State :=
  let g (i : Instr) : Instr := match i with
    | .leaseReply r => if r.cluster = c ∧ r.frame = frame then .leaseReply (f r) else i
    | i => i
  { s with agenda := s.agenda.map g, urgent := s.urgent.map g }

/-- A cluster's L1 forgets the words of a range within one frame that were written past it, those on their way to it too (16
R312, R320; log entry 80). -/
def State.forgetWords (s : State) (c pa n : Nat) : State :=
  let k := s.cluster c
  let hit (w : Nat) : Bool := decide (pa / 8 % 32 ≤ w) && decide (w ≤ (pa + n - 1) / 8 % 32)
  (s.setCluster c { k with blocks := k.blocks.flatMap fun b => if b.frame = pa / 256 then b.cut hit else [b] }).mapReplies c
    (pa / 256) fun r => { r with got := r.got &&& ~~~Mask.ofFn hit }

/-- The same for a range of any length. -/
def State.forgetRange (s : State) (c pa n : Nat) : State :=
  (List.range ((pa + n + 255) / 256 - pa / 256)).foldl (fun s k =>
    let lo := Nat.max pa ((pa / 256 + k) * 256)
    s.forgetWords c lo (Nat.min (pa + n) ((pa / 256 + k + 1) * 256) - lo)) s

/-- The stash that holds a frame (12 R246): its cluster and the frame. -/
def State.stashOf (s : State) (frame : Nat) : Option (Nat × StashFrame) :=
  s.clusters.findSome? fun (c, k) => (k.stash.find? fun f => f.frame = frame).map fun f => (c, f)

/-- The byte that the home of device memory holds: a word that the owning stash has written is recalled first
(12 R247). -/
def State.atHome (s : State) (pa : Nat) : Byte :=
  match s.stashOf (pa / 256) with
  | some (_, f) =>
    if f.dirty.getLsbD (pa / 8 % 32) then BitVec.ofNat 8 (elem 8 (f.words.getD (pa / 8 % 32) 0) (pa % 8))
    else s.mem.get pa
  | none => s.mem.get pa

/-- The 8-byte word that some wave holds for its private range (12 R231), under the word's number. -/
def State.privAt (s : State) (key : Nat) : Option W64 := s.allWaves.findSome? fun w => (NMap.get? w.priv key).map (·.1)

/-- The number of a line of 64 bytes of host or peer memory. -/
def lineKey (t : Target) (pa : Nat) : Nat := pa / 64 * 32 + t.memory

/-- A byte of host or peer memory as this device reads it: from the line that its L2 holds, but TARGET 01 is never cached (17
R331). -/
def State.outByte (s : State) (t : Target) (pa : Nat) (b : Byte) : Byte :=
  match t with
  | .host false => b
  | _ => match NMap.get? s.lines (lineKey t pa) with
    | some xs => xs.getD (pa % 64) b
    | none => b

/-- The bytes of a range of host or peer memory. -/
def State.outBytes (s : State) (t : Target) (pa n : Nat) : List Byte :=
  let m := match t with
    | .peer p => NMap.getD s.peerMem p []
    | _ => s.hostMem
  (List.range n).map fun k => s.outByte t (pa + k) (m.get (pa + k))

/-- The L2 holds the lines of a range that has been read (17 R331). -/
def State.holdLines (s : State) (t : Target) (pa n : Nat) : State :=
  match t with
  | .device => s
  | .host false => s
  | _ => (List.range ((pa + n - 1) / 64 + 1 - pa / 64)).foldl (fun s k =>
      let a := (pa / 64 + k) * 64
      { s with lines := NMap.set s.lines (lineKey t a) (s.outBytes t a 64) }) s

/-- Bytes written into the lines that the L2 holds. -/
def State.putLines (s : State) (t : Target) (pa : Nat) (bs : List Byte) : State :=
  match bs with
  | [] => s
  | b :: rest =>
    (match NMap.get? s.lines (lineKey t pa) with
      | some xs => { s with lines := NMap.set s.lines (lineKey t pa) (xs.set (pa % 64) b) }
      | none => s).putLines t (pa + 1) rest

/-- The byte that a global-space read returns where the home holds `b`: in a word of a private range the wave's value or the
home's (12 R231, log entry 18). -/
def State.overHome (s : State) (t : Target) (pa : Nat) (b : Byte) : Byte :=
  match s.privAt (wordKey t pa) with
  | some w => if Config.privSeen s.fresh (wordKey t pa) then BitVec.ofNat 8 (elem 8 w (pa % 8)) else b
  | none => b

/-- The byte that a global-space read of device memory returns. -/
def State.seen (s : State) (pa : Nat) : Byte := s.overHome .device pa (s.atHome pa)

/-- Bytes of device memory as a read at the home returns them. -/
def State.seenBytes (s : State) (pa n : Nat) : List Byte := (List.range n).map fun k => s.seen (pa + k)

/-- Words of a sector that a stash frame has written, those that `keep` names by their place in the frame, go to the home
and leave the stash's dirty set, as a write of time 0 (12 R247, 17 R327, R334). -/
def State.returnSome (s : State) (sec : Nat) (keep : Nat → Bool) : State :=
  match s.stashOf (sec / 8) with
  | none => s
  | some (c, f) =>
    let ws := ((List.range 4).map (sec % 8 * 4 + ·)).filter fun k => f.dirty.getLsbD k && keep k
    if ws.isEmpty then s
    else
      let mem := if s.poison.contains sec then s.mem
        else ws.foldl (fun m k => m.puts (f.frame * 256 + 8 * k) (bytesOf 8 (f.words.getD k 0).toNat)) s.mem
      let dirty := ws.foldl (fun d k => d &&& ~~~Mask.lane k) f.dirty
      let k := s.cluster c
      let x := s.sector sec
      let wts := timeMax 0 (x.rts + 1)
      let s := if s.poison.contains sec then s.count 6 3 else (s.setSector sec (x.written wts s.tick)).raiseGt wts
      let stash := k.stash.map fun (g : StashFrame) => if g.frame = f.frame then { g with dirty := dirty } else g
      { s with mem := mem }.setCluster c { k with stash := stash }

/-- All the words that a stash frame has written in a sector go home. -/
def State.returnWords (s : State) (sec : Nat) : State := s.returnSome sec fun _ => true

/-- Takes a frame away from the stash that holds it, after its words have gone home (17 R335). -/
def State.dropStash (s : State) (frame : Nat) : State :=
  match s.stashOf frame with
  | none => s
  | some (c, _) =>
    let t := (List.range 8).foldl (fun s k =>
      let s := s.returnWords (frame * 8 + k)
      let x := s.sector (frame * 8 + k)
      s.setSector (frame * 8 + k) { x with owner := 0 }) s
    t.setCluster c { t.cluster c with stash := (t.cluster c).stash.filter fun g => g.frame != frame }

/-- The sharers of a sector, but the writer's own die, are told to drop their copies (17 R332). -/
def State.invalidate (s : State) (sec : Nat) (x : Sector) (keep : BitVec 16) : State :=
  ((List.range 16).filter fun b => (x.sharers &&& ~~~keep).getLsbD b).foldl (fun s b => s.send (.invalidate b sec)) s

/-- The SHARERS bit of a die. -/
def dieBit (die : Nat) : BitVec 16 := if die = 0 then 1 else 2

/-- The SHARERS bit of the die that writes: its L2 copy takes the written words (17 R332). -/
def State.ownDie (s : State) (by_ : Writer) : BitVec 16 :=
  match by_ with
  | .wave n => ((s.wave? n).map fun w => dieBit (clusterDie w.cluster)).getD 0
  | .die d => dieBit d
  | .outside => 0

/-- The SHARERS that a write must tell (17 R332). -/
def State.mustTell (s : State) (sec : Nat) (by_ : Writer) : BitVec 16 := (s.sector sec).sharers &&& ~~~s.ownDie by_

/-- A sector that is busy or that an owner outside holds: a request waits for it (17 R327, R334). -/
def State.sectorHeld (s : State) (sec : Nat) : Bool :=
  match NMap.get? s.sectors sec with
  | some x => x.busy.isSome || decide (0x80 ≤ x.owner.toNat)
  | none => false

/-- A sector that an access past the stashes must wait for or recall first (12 R247, 17 R334, R335). -/
def State.sectorAway (s : State) (sec : Nat) : Bool := s.sectorHeld sec || (s.stashOf (sec / 8)).isSome

/-- The frames that a slice of the L2 holds: those homed there, and copies of frames of the other die (01 R22, 17 R331). -/
def State.sliceFrames (s : State) (slice : Nat) : List Nat × List Nat :=
  ((s.sectors.filter fun (k, _) => homeSlice (32 * k) == slice).foldl (fun acc (k, _) => insertRising (k / 8) acc) [],
    (s.copies.filter fun (k, _) => copySlice (32 * k) == slice).foldl (fun acc (k, _) => insertRising (k / 8) acc) [])

/-- The frames of 256 bytes that a slice of 256 KiB holds (01 R22). -/
def sliceRoom : Nat := 1024

/-- The frame that a slice must evict before it takes in some sectors, and whether it is homed there or a copy: none while there
is room for those of their frames that it does not hold (01 R22, log entry 79). -/
def State.victimFor (s : State) (secs : List Nat) : Option (Nat × Bool) :=
  let frames := secs.foldl (fun acc k => insertRising (k / 8) acc) []
  let new := frames.filter fun f => !((List.range 8).any fun k => (NMap.get? s.sectors (f * 8 + k)).isSome)
  new.findSome? fun f =>
    let slice := homeSlice (256 * f)
    let (home, copies) := s.sliceFrames slice
    let more := (new.filter fun g => homeSlice (256 * g) == slice).length
    let old := home.filter fun g => !frames.contains g
    if home.length + copies.length + more ≤ sliceRoom then none
    else if old.isEmpty then (copies[Config.victim s.fresh % copies.length]?).map fun g => (g, false)
    else (old[Config.victim s.fresh % old.length]?).map fun g => (g, true)

/-- A time of `n` µs in the parts in which State.time counts: a cycle at 100 m MHz has 360360 / m of them (00 R9, 20 R400). -/
def micros (n : Nat) : Nat := n * 36036000

/-- The time of a cycle at the clock in force (00 R9, 20 R400). -/
def State.period (s : State) : Nat := 360360 / (14 - s.throttle)

/-- The links that the physical function has given to a peer, of 24 (20 R381, R397): those that it has given anew, and else those
of the configuration. -/
def State.linksOf (s : State) (p : Nat) : List Nat :=
  (List.range 24).filter fun l => NMap.getD s.linkOwners l (Config.linkPeer l) == p

/-- A peer that is not lost has a link that works (20 R383). -/
def State.reaches (s : State) (p : Nat) : Bool :=
  !s.lostPeers.contains p && (s.linksOf p).any fun l => (NMap.get? s.linksDown l).isNone

/-- A peer has links, and none has worked for 2 ms (20 R383). -/
def State.peerDead (s : State) (p : Nat) : Bool :=
  !(s.linksOf p).isEmpty && (s.linksOf p).all fun l => match NMap.get? s.linksDown l with
    | some since => decide (since + micros 2000 ≤ s.time)
    | none => false

/-- The private words under a global-space write: each keeps what is written, or will overwrite it (12 R231, log entry 18). -/
def State.overPriv (s : State) (t : Target) (pa n : Nat) : State :=
  (List.range ((pa + n - 1) / 8 + 1 - pa / 8)).foldl (fun s k =>
    let key := wordKey t ((pa / 8 + k) * 8)
    if (s.privAt key).isSome && Config.privKept s.fresh key then s.mapWaves fun w => { w with priv := NMap.erase w.priv key }
    else s) s

/-- The copy that the other die's L2 holds of a sector after a write: it takes the words where the writer is of that die, and
is gone otherwise (17 R332). -/
def State.writeCopy (s : State) (sec : Nat) (kept : Bool) (wts : BitVec 16) : State :=
  match NMap.get? s.copies sec with
  | none => s
  | some c => { s with copies := if kept then NMap.set s.copies sec ⟨wts, wts, s.tick, c.words⟩ else NMap.erase s.copies sec }

/-- A repair of a poisoned sector is counted (20 R397). -/
def State.countRepair (s : State) (sec : Nat) (repair : Bool) : State :=
  if repair && s.poison.contains sec then s.count 6 2 else s

/-- A repair clears the poison of a sector (17 R340). -/
def State.cleared (s : State) (sec : Nat) (repair : Bool) : State :=
  { s with poison := if repair then s.poison.filter (· != sec) else s.poison }

/-- A sector takes the time of a write: every sharer is told, WTS, RTS and GT rise, and a repair clears the poison (17 R327). -/
def State.newTimes (s : State) (sec : Nat) (words : BitVec 4) (time : BitVec 16) (repair : Bool) (by_ : Writer) : State :=
  let x := s.sector sec
  let wts := timeMax time (x.rts + 1)
  let keep := s.ownDie by_
  let s := (s.invalidate sec x keep).countRepair sec repair
  let s := (s.setSector sec { (x.written wts s.tick).holding words with sharers := x.sharers &&& keep, owner := 0 }).writeCopy sec
    (x.sharers &&& keep != 0) wts
  (s.cleared sec repair).raiseGt wts

/-- Bytes stand at their home, over what waves hold of them in private ranges, and who waits on them is told. -/
def State.putHome (s : State) (pa : Nat) (bytes : List Byte) : State :=
  ({ s with mem := s.mem.puts pa bytes }.overPriv .device pa bytes.length).notifyRange (wordKey .device) pa bytes.length

/-- Bytes of one sector become new at their home in one step: the owner's words return first, every sharer is told,
and WTS, RTS and GT rise once (17 R327). A write to a poisoned sector is dropped and counted, but a repair of the whole
sector lands and clears the poison (13 R255, 17 R340). -/
def State.homeParts (s : State) (sec : Nat) (parts : List (Nat × List Byte)) (time : BitVec 16) (repair : Bool)
    (by_ : Writer) : State :=
  let s := (s.dropStash (sec / 8)).doom by_ (sec / 2) true
  if s.poison.contains sec && !repair then s.count 6 3
  else
    let words := parts.foldl (fun (m : BitVec 4) x => m ||| sectorWords x.1 x.2.length) 0
    parts.foldl (fun s x => s.putHome x.1 x.2) (s.newTimes sec words time repair by_)

/-- The same for bytes that lie together. -/
def State.homeWrite (s : State) (pa : Nat) (bytes : List Byte) (time : BitVec 16) (repair : Bool) (by_ : Writer) : State :=
  s.homeParts (pa / 32) [(pa, bytes)] time repair by_

/-- Bytes written at their homes, one sector after the other. -/
def State.homeWrites (s : State) (pa : Nat) (bytes : List Byte) (time : BitVec 16) (by_ : Writer) : State :=
  (List.range ((pa + bytes.length - 1) / 32 + 1 - pa / 32)).foldl (fun s k =>
    let lo := Nat.max pa ((pa / 32 + k) * 32)
    let hi := Nat.min (pa + bytes.length) ((pa / 32 + k + 1) * 32)
    s.homeWrite lo ((bytes.drop (lo - pa)).take (hi - lo)) time false by_) s

/-- Bytes written to the memory that a leaf names. -/
def State.physWrite (s : State) (t : Target) (pa : Nat) (bytes : List Byte) (time : BitVec 16) (by_ : Writer) :
    State :=
  match t with
  | .device => s.homeWrites pa bytes time by_
  | .host _ =>
    (({ s with hostMem := s.hostMem.puts pa bytes }.putLines t pa bytes).overPriv t pa bytes.length).notifyRange (wordKey t) pa
      bytes.length
  | .peer p =>
    (({ s with peerMem := NMap.set s.peerMem p ((NMap.getD s.peerMem p []).puts pa bytes) }.putLines t pa bytes).overPriv t pa
      bytes.length).notifyRange (wordKey t) pa bytes.length

/-- Bytes read from the memory that a leaf names, or the poison fault (12 R239). -/
def State.physRead (s : State) (t : Target) (pa n : Nat) : Except Nat (List Byte) :=
  match t with
  | .device => if s.poisonedIn pa n then .error 4 else .ok (s.seenBytes pa n)
  | _ => .ok (((List.range n).zip (s.outBytes t pa n)).map fun (k, b) => s.overHome t (pa + k) b)

end Sys2Proof.Machine
end

