-- ==== Sys2Proof/Machine/Space.lean ====
section
/-! DEFINITION. Translation (12 R232 to R235), seals as an access meets them (13 R266), and code fetch (04 R79 to R81). A
refusal is the number of its cause: 1 page, 2 protection, 4 poison; or it is the `awayCode` of a sector that must be waited
for first. -/

namespace Sys2Proof.Machine

/-- What an access needs of its leaf (12 R234). -/
inductive Need where
  | rd | wr | rmw | fetch
  deriving DecidableEq, Repr

/-- TARGET of a leaf (12 R233). -/
def leafTarget (e : Nat) : Target :=
  match bitsOf e 6 2 with
  | 0 => .device
  | 1 => .host false
  | 2 => .host true
  | _ => .peer (bitsOf e 8 4)

/-- The page bits of a leaf at a level (12 R232). -/
def levelBits (level : Nat) : Nat := 47 - 11 * level

/-- A table entry that the walk may use at its level (12 R234). -/
def entryOk (e level : Nat) : Bool :=
  let leaf := bitsOf e 1 1 == 1
  let target := bitsOf e 6 2
  bitsOf e 0 1 == 1 && bitsOf e 58 6 == 0 && bitsOf e 12 2 == 0 &&
  (if leaf then
    level != 0 && bitsOf e 14 (levelBits level - 14) == 0 &&
    (if target == 3 then decide (1 ≤ bitsOf e 8 4) && decide (bitsOf e 8 4 ≤ 13) else bitsOf e 8 4 == 0) &&
    (bitsOf e 5 1 == 0 || target == 1 || target == 2) &&
    (target != 0 || decide (bitsOf e 14 44 * 2 ^ 14 < deviceBytes))
  else level != 3 && bitsOf e 2 10 == 0)

/-- What stands for a refusal where a table entry or a packet lies in a sector that is busy or held elsewhere: who asked waits
for it (17 R334, R341). -/
def awayCode (sec : Nat) : Nat := 2 ^ 20 + sec

/-- The sector that such a refusal names. -/
def awaySector (c : Nat) : Option Nat := if 2 ^ 20 ≤ c then some (c - 2 ^ 20) else none

/-- The walk from a table at a level, with as many levels left as `fuel`: the leaf and its page bits. A table at or beyond 576 GiB
is a page fault (log entry 91). -/
def State.walkFrom (s : State) (va : Nat) : (fuel level table : Nat) → Except Nat (Nat × Nat)
  | 0, _, _ => .error 1
  | fuel + 1, level, table =>
    let a := table + 8 * bitsOf va (levelBits level) 11
    if !inDevice a 8 then .error 1
    else if s.sectorAway (a / 32) then .error (awayCode (a / 32))
    else if s.poisonedAt a then .error 4
    else
      let e := ofBytes (s.seenBytes a 8)
      if !entryOk e level then .error 1
      else if bitsOf e 1 1 == 1 then .ok (e, levelBits level)
      else s.walkFrom va fuel (level + 1) (bitsOf e 14 44 * 2 ^ 14)

/-- GEN of an address space (12 R236). -/
def State.gen (s : State) (asid : BitVec 12) : BitVec 8 :=
  match NMap.get? s.asids asid.toNat with
  | some a => a.gen
  | none => 0

/-- A translation held in a TLB of a die for a page of an address space under its current GEN (12 R235). -/
def State.heldLeaf (s : State) (die : Nat) (asid : BitVec 12) (va : Nat) : Option TlbEntry :=
  let use (tlb : List TlbEntry) : Option TlbEntry :=
    tlb.find? fun e => e.asid = asid ∧ e.gen = s.gen asid ∧ e.va = va / 2 ^ e.bits
  match s.clusters.findSome? fun (c, k) => if clusterDie c = die then use k.tlb else none with
  | some l => some l
  | none => use (NMap.getD s.tlbs die [])

/-- A translation as a TLB would hold it: a page of a context's address space, the leaf and the page bits. -/
def State.entryOf (s : State) (ctx va : Nat) (l : Nat × Nat) : TlbEntry :=
  let c := s.ctx ctx
  ⟨c.asid, s.gen c.asid, va / 2 ^ l.2, l.2, w64 l.1, c.pasid⟩

/-- The translation that an access of a context uses on a die: a held one or a walk's (log entry 8). -/
def State.entry (s : State) (die ctx va : Nat) : Except Nat TlbEntry :=
  let c := s.ctx ctx
  let walk := (s.walkFrom va 4 0 (bitsOf c.root.toNat 14 44 * 2 ^ 14)).map (s.entryOf ctx va)
  match s.heldLeaf die c.asid va with
  | some e => if walk.toOption == some e then walk else if Config.tlbUsed s.fresh then .ok e else walk
  | none => walk

/-- Its leaf and page bits. -/
def State.leaf (s : State) (die ctx va : Nat) : Except Nat (Nat × Nat) :=
  (s.entry die ctx va).map fun e => (e.leaf.toNat, e.bits)

/-- Whether a leaf allows an access (12 R234). -/
def leafAllows (e : Nat) (n : Need) : Bool :=
  match n with
  | .rd => bitsOf e 2 1 == 1
  | .wr => bitsOf e 3 1 == 1
  | .rmw => bitsOf e 2 1 == 1 && bitsOf e 3 1 == 1
  | .fetch => bitsOf e 4 1 == 1

/-- Whether the peer that a leaf names, if it names one, grants the address (20 R382); a lost one grants none until its links are
reset (20 R383, log entry 23). -/
def State.peerAllows (s : State) (t : Target) (pa : Nat) : Bool :=
  match t with
  | .peer p => !s.lostPeers.contains p && Config.peerGrants p pa
  | _ => true

/-- The physical address that a translation gives for an offset in its page: a page of the host's virtual addresses by ATS under
the PASID that the entry holds (12 R233, 03 R78). -/
def TlbEntry.addr (e : TlbEntry) (offset : Nat) : Nat :=
  let pa := bitsOf e.leaf.toNat 14 44 * 2 ^ 14 + offset
  if bitsOf e.leaf.toNat 5 1 = 1 then Config.atsPage e.pasid.toNat (pa / 2 ^ 14) * 2 ^ 14 + pa % 2 ^ 14 else pa

/-- Translation of a global address for a context as a cluster of a die makes it (12 R228, R232 to R235). -/
def State.translate (s : State) (die ctx va : Nat) (n : Need) : Except Nat (Target × Nat) :=
  if 2 ^ 58 ≤ va then .error 1
  else match s.entry die ctx va with
    | .error c => .error c
    | .ok e =>
      let pa := e.addr (va % 2 ^ e.bits)
      let l := e.leaf.toNat
      if leafAllows l n && s.peerAllows (leafTarget l) pa then .ok (leafTarget l, pa) else .error 2

/-- What the peer that a page names answers to an access which the leaf allows and it does not serve: link lost, or refused (20
R382, R388). -/
def State.peerCode (s : State) (die ctx va : Nat) (n : Need) : Option Nat :=
  match s.entry die ctx va with
  | .error _ => none
  | .ok e =>
    let t := leafTarget e.leaf.toNat
    if !leafAllows e.leaf.toNat n || s.peerAllows t (e.addr (va % 2 ^ e.bits)) then none
    else match t with
      | .peer p => some (if s.lostPeers.contains p then 2 else 1)
      | _ => none

/-- The entry that a TLB holds for a translation (12 R235): none where it fails. -/
def State.tlbEntry (s : State) (die ctx va : Nat) : Option TlbEntry := (s.entry die ctx va).toOption

/-- An entry taken into a TLB of a size: the translation of its page before it is gone. -/
def holdEntry (size : Nat) (tlb : List TlbEntry) (e : TlbEntry) : List TlbEntry :=
  (e :: tlb.filter fun x => !(x.asid == e.asid && x.gen == e.gen && x.va == e.va && x.bits == e.bits)).take size

/-- A translation that succeeds is held in the die's shared TLB of 32,768 entries (12 R235). -/
def State.holdShared (s : State) (die ctx va : Nat) : State :=
  match s.tlbEntry die ctx va with
  | none => s
  | some e => { s with tlbs := NMap.set s.tlbs die (holdEntry 32768 (NMap.getD s.tlbs die []) e) }

/-- A translation that a cluster makes is held there in its TLB of 512 entries too (12 R235). -/
def State.hold (s : State) (cl ctx va : Nat) : State :=
  match s.tlbEntry (clusterDie cl) ctx va with
  | none => s
  | some e =>
    let k := s.cluster cl
    (s.setCluster cl { k with tlb := holdEntry 512 k.tlb e }).holdShared (clusterDie cl) ctx va

/-- The translations of some addresses, held once for each page. -/
def State.holdAll (s : State) (cl ctx : Nat) (vas : List Nat) : State :=
  (vas.foldl (fun acc va => insertRising (va / 2 ^ 14) acc) []).foldl (fun s p => s.hold cl ctx (p * 2 ^ 14)) s

/-- Whether a seal-table entry refuses writes to any byte of a range of an address space (13 R266, 17 R337). -/
def State.sealed (s : State) (asid : BitVec 12) (va n : Nat) : Bool :=
  s.sealTable.any fun (_, e) => e.asid == asid && decide (va < e.base + e.len) && decide (e.base < va + n)

/-- The seal-table entry in state SEALED that holds an address (17 R336). -/
def State.sealedEntry (s : State) (asid : BitVec 12) (va : Nat) : Option Nat :=
  (s.sealTable.find? fun (_, e) =>
    e.asid = asid ∧ e.opening = false ∧ e.base ≤ va ∧ va < e.base + e.len).map (·.1)

/-- Bytes of a global range that lies in one page, read for a context at their homes. -/
def State.globalRead (s : State) (die ctx va n : Nat) (need : Need) : Except Nat (List Byte) :=
  match s.translate die ctx va need with
  | .error c => .error c
  | .ok (t, pa) => s.physRead t pa n

/-- 8-byte words from a global address, each read on its own: the words, or the cause and the address. -/
def State.globalWords (s : State) (die ctx va : Nat) : (n : Nat) → Except (Nat × Nat) (List W64)
  | 0 => .ok []
  | n + 1 =>
    match s.globalRead die ctx va 8 .rd with
    | .error c => .error (c, va)
    | .ok bs => match s.globalWords die ctx (va + 8) n with
      | .error e => .error e
      | .ok ws => .ok (w64 (ofBytes bs) :: ws)

/-- Bytes written for a context at a global range that lies in one page; a seal refuses them. -/
def State.globalWrite (s : State) (die ctx va : Nat) (bytes : List Byte) (time : BitVec 16) (by_ : Writer) :
    Except Nat State :=
  if s.sealed (s.ctx ctx).asid va bytes.length then .error 2
  else match s.translate die ctx va .wr with
    | .error c => .error c
    | .ok (t, pa) => .ok (s.physWrite t pa bytes time by_)

/-- The number under which a thread keeps a packet that it has fetched: a sprig has packets of its own (04 R100). -/
def fetchKey (who : Who) (pkt : Nat) : Nat :=
  match who with
  | .sprig j => pkt + (j + 1) * 2 ^ 60
  | _ => pkt

/-- The byte of the youngest queued store to an address (17 R326). -/
def queuedByte (queue : List QEntry) (t : Target) (pa : Nat) : Option Byte :=
  queue.foldl (fun acc q => match q.op with
    | .store bs _ => if q.target == t && decide (q.pa ≤ pa) && decide (pa < q.pa + bs.length) then bs[pa - q.pa]? else acc
    | _ => acc) none

/-- The bytes of a packet as code fetch reads them: with the stores that the wave's cluster still has queued, which an acquire of
the wave may have made visible (04 R97, 17 R326). -/
def State.codeBytes (s : State) (w : Wave) (pkt : Nat) : Except Nat (List Byte) :=
  match s.translate (clusterDie w.cluster) w.ctx pkt .fetch with
  | .error c => .error c
  | .ok (t, pa) =>
    if t = .device && s.sectorAway (pa / 32) then .error (awayCode (pa / 32))
    else match s.physRead t pa 16 with
    | .error c => .error c
    | .ok bs =>
      .ok (((List.range 16).zip bs).map fun (i, b) => (queuedByte (s.cluster w.cluster).queue t (pa + i)).getD b)

/-- The packet at an address as the issuing thread of a wave fetches it, or the refusal (04 R81, R97). A packet fetched
before may come as it then was (log entry 11). -/
def State.fetch (s : State) (w : Wave) (pkt : Nat) : Except Nat (BitVec 128) :=
  match s.codeBytes w pkt with
  | .error c => .error c
  | .ok bs =>
    let new := BitVec.ofNat 128 (ofBytes bs)
    match NMap.get? w.fetched (fetchKey s.who pkt) with
    | some old => .ok (if Config.stalePacket s.fresh then old else new)
    | none => .ok new

/-- A fetch that lets two readings agree needs no choice: the packet as memory holds it. -/
def pktWord (p : BitVec 128) (slot : Nat) : BitVec 32 := p.extractLsb' (32 * slot) 32
/-- The trailer (04 R80). -/
def pktTrailer (p : BitVec 128) : BitVec 32 := p.extractLsb' 96 32
/-- JOIN (04 R80). -/
def pktJoin (p : BitVec 128) : Bool := p.getLsbD 127
/-- ENTRY (04 R80). -/
def pktEntry (p : BitVec 128) : Bool := p.getLsbD 126
/-- L (04 R80). -/
def pktLit (p : BitVec 128) : BitVec 24 := p.extractLsb' 96 24
/-- The packet fault of 04 R81. -/
def pktBad (p : BitVec 128) : Bool := p.extractLsb' 120 6 != 0 || p.getLsbD 95

/-- The sector for which a fetch must wait. -/
def State.fetchAway (s : State) (w : Wave) (pkt : W64) : Option Nat :=
  match s.fetch w pkt.toNat with
  | .error c => awaySector c
  | .ok _ => none

/-- A legal landing point (07 R163, R164): below 2^58, aligned, fetchable, with ENTRY. -/
def State.landing (s : State) (w : Wave) (t : W64) : Bool :=
  t.extractLsb' 58 6 == 0 && t.extractLsb' 0 4 == 0 &&
  match s.fetch w t.toNat with
  | .error _ => false
  | .ok p => pktEntry p

end Sys2Proof.Machine
end

