-- ==== Sys2Proof/Machine/Ops.lean ====
section
/-! DEFINITION. The named operations over the issuing wave's registers, threads and stacks; taking an exception (19 R366,
R370, R371) and returning from one (19 R368); and how a word's result becomes the next state (04 R82, R86, R87). -/

namespace Sys2Proof.Machine

/-- The register r as a name of a sprig's cache. -/
def RegName.ofDest : Dest → RegName
  | .v r => .v r.toNat
  | .s r => .s r.toNat

/-- A result for the whole thread: a scalar register. -/
def scalarDest (d : Option Dest) : Bool :=
  match d with
  | some (.s _) => true
  | _ => false

/-! The issuing thread. -/

/-- The issuing thread. -/
def State.thread (s : State) : Thread := s.cur.thread s.who

/-- Replaces the issuing thread. -/
def State.setThread (s : State) (t : Thread) : State := { s with cur := s.cur.setThread s.who t }

/-- The slot of a sprig when a sprig issues. -/
def State.sprigNo (s : State) : Option Nat :=
  match s.who with
  | .sprig j => some j
  | _ => none

/-- Whether a sprig issues. -/
def State.inSprig (s : State) : Bool := s.sprigNo.isSome

/-- The sprig of a slot of the issuing wave. -/
def State.sprig? (s : State) : Option Sprig :=
  match s.who with
  | .sprig j => NMap.get? s.cur.sprigs j
  | _ => none

/-- The registers that the issuing thread reads and writes: a sprig's own, or the wave's (08 R174). -/
def State.file (s : State) : RegFile :=
  match s.sprig? with
  | some p => p.file
  | none => s.cur.file

/-- Replaces the registers of the issuing thread. -/
def State.setFile (s : State) (f : RegFile) : State :=
  match s.who with
  | .sprig j => match NMap.get? s.cur.sprigs j with
    | some p => { s with cur := { s.cur with sprigs := NMap.set s.cur.sprigs j { p with file := f } } }
    | none => s
  | _ => { s with cur := { s.cur with file := f } }

/-- EXEC, FLAGS, FTRAP, LEASE, CWIN and PTS of the issuing thread: a sprig's copies, or the wave's (08 R173). -/
def State.sys (s : State) : ThreadSys :=
  match s.sprig? with
  | some p => p.sys
  | none => s.cur.sys

/-- Replaces them. -/
def State.setSys (s : State) (x : ThreadSys) : State :=
  match s.who with
  | .sprig j => match NMap.get? s.cur.sprigs j with
    | some p => { s with cur := { s.cur with sprigs := NMap.set s.cur.sprigs j { p with sys := x } } }
    | none => s
  | _ => { s with cur := { s.cur with sys := x } }

/-- Whether the wave is in handler mode (19 R366). -/
def State.inHandler (s : State) : Bool := s.cur.frame.isSome

/-- The index that the issuing split has in SPLITS (07 R155, 19 R367). -/
def State.splitIx (s : State) : Nat :=
  match s.who with
  | .split n => n
  | .sprig j => match NMap.get? s.cur.sprigs j with
    | some p => p.exporter
    | none => 0
  | .handler => match s.cur.frame with
    | some f => (match f.from_ with
      | .split n => n
      | _ => f.sprigSplit)
    | none => 0

/-- Whose reconvergence table the issuing thread uses: a sprig's own, also in the handler of its trap. -/
def State.recOwner (s : State) : Option Nat :=
  match s.who with
  | .sprig j => some j
  | .handler => match s.cur.frame with
    | some f => (match f.from_ with
      | .sprig j => some j
      | _ => none)
    | none => none
  | _ => none

/-- The reconvergence entries that the issuing thread's stack names (07 R157, 08 R178). -/
def State.recs (s : State) : NMap Rec :=
  match s.recOwner with
  | some j => match NMap.get? s.cur.sprigs j with
    | some p => p.recs
    | none => []
  | none => s.cur.recs

/-- Replaces them. -/
def State.setRecs (s : State) (r : NMap Rec) : State :=
  match s.recOwner with
  | some j => match NMap.get? s.cur.sprigs j with
    | some p => { s with cur := { s.cur with sprigs := NMap.set s.cur.sprigs j { p with recs := r } } }
    | none => s
  | none => { s with cur := { s.cur with recs := r } }

/-- P: the top of a predicate stack, or all ones (07 R150). -/
def Thread.top (t : Thread) : Mask :=
  match t.preds with
  | [] => -1
  | m :: _ => m

/-- The lanes that are active for the issuing thread now (07 R150). -/
def State.liveMask (s : State) : Mask := s.sys.exec &&& s.thread.mask &&& s.thread.top

/-- EXPTHR of the issuing thread: a sprig's is its own (08 R175). -/
def State.expthr (s : State) : BitVec 4 :=
  match s.sprig? with
  | some p => (NMap.getD p.atExport 0x00E 0).truncate 4
  | none => s.cur.expthr

/-- What a group that begins now sees. -/
def State.nowView (s : State) : View :=
  { file := s.file, sys := s.sys, thread := s.thread, recs := s.recs, pending := s.cur.pending, binds := s.cur.binds,
    expthr := s.expthr, xgen := s.cur.xgen, inkwell := s.cur.inkwell, prog := s.cur.prog, step := s.cur.step,
    chans := s.cur.chans }

/-- What the current word sees: the state before its group's first word (04 R86, 07 R144). -/
def State.view (s : State) : View :=
  match s.issue.view with
  | some v => v
  | none => s.nowView

/-- The lanes that are active for the current word: those of the group's start (07 R144, R150). -/
def State.active (s : State) : Mask := s.view.sys.exec &&& s.view.thread.mask &&& s.view.thread.top

/-- The thread as the current word sees its stacks: as before its group's first word (07 R144). -/
def State.seenThread (s : State) : Thread := s.view.thread

/-- P for the current word (07 R144). -/
def State.pred (s : State) : Mask := s.seenThread.top

/-- The registers as the current word reads them (04 R86). -/
def State.rfile (s : State) : RegFile := s.view.file

/-- EXEC, CWIN and the others as the current word reads them (07 R144). -/
def State.rsys (s : State) : ThreadSys := s.view.sys

/-- The address of the packet of the current word. -/
def State.packet (s : State) : W64 := s.thread.pc.pkt

/-- The slot of the current word. -/
def State.slot (s : State) : Nat := if s.issue.view.isSome then s.issue.slot else s.thread.pc.slot

/-- The slot after a slot (04 R82). -/
def PC.after (p : PC) (slot : Nat) : PC := if 2 ≤ slot then ⟨p.pkt + 16, 0⟩ else ⟨p.pkt, slot + 1⟩

/-- The packet that a signed offset of the current word names (07 R158, R162). -/
def State.offsetTarget (s : State) (off : BitVec 16) : W64 := s.packet + 16 * sext64 off

/-- The die of the issuing wave. -/
def State.die (s : State) : Nat := clusterDie s.cur.cluster

/-- The launch of the issuing wave. -/
def State.launchOf (s : State) (w : Wave) : Option Launch := NMap.get? s.launches w.launch

/-- Constant entry `e` of window `win` of a wave's launch (02 R36, R37). -/
def State.const (s : State) (w : Wave) (win e : Nat) : W64 :=
  match s.launchOf w with
  | some l => l.consts.getD (64 * win + e) 0
  | none => 0

/-! Traps that name nothing beyond their cause. -/

/-- A trap of a cause, with TRAPADDR the packet and LANES the trapping thread's (19 R363, R364). -/
def Trap.of (cause : Nat) : Trap := ⟨cause, none, 0, none, false, none, false⟩
/-- The illegal-packet fault 0x07. -/
def illegal : Stop := .trap (Trap.of 7)
/-- The tag fault 0x08 with the offending tag. -/
def tagFault (t : Fmt) : Stop := .trap { Trap.of 8 with code := t.code.toNat }
/-- Illegal convergence, 0x09. -/
def convergence : Stop := .trap (Trap.of 9)
/-- A fault of a cause at an address. -/
def faultAt (cause : Nat) (addr : W64) : Stop := .trap { Trap.of cause with addr := some addr }

/-- A word goes on only if `b` holds; else it stops. -/
def need (b : Bool) (e : Stop) : Except Stop Unit := if b then .ok () else .error e

/-! Registers. -/

/-- Two threads share a register file. -/
def sameFile (a b : Who) : Bool :=
  match a, b with
  | .sprig j, .sprig k => j == k
  | .sprig _, _ => false
  | _, .sprig _ => false
  | _, _ => true

/-- The thread is a sprig. -/
def isSprig : Who → Bool
  | .sprig _ => true
  | _ => false

/-- Whether an access or a result that `by_` issued for lanes `own` belongs to a thread: a sprig has its own (08 R181), a
handler those of the thread whose trap it handles too, and a split those of every split whose lanes it holds (07 R146,
R161, 16 R319; log entry 75). -/
def Wave.owns (w : Wave) (who by_ : Who) (own : Mask) : Bool :=
  let broad (who : Who) : Bool := !isSprig by_ && own &&& (w.thread who).mask != 0
  match who with
  | .sprig _ => by_ == who
  | .split _ => broad who
  | .handler => by_ == Who.handler || match w.frame with
    | some f => if isSprig f.from_ then by_ == f.from_ else broad .handler
    | none => false

/-- The lanes `more` go on for the lanes `old`: what the splits of the wave have issued for these is theirs too. -/
def State.extendOwn (s : State) (old more : Mask) : State :=
  let grow (who : Who) (own : Mask) : Mask := if !isSprig who && own &&& old != 0 then own ||| more else own
  let k := s.cluster s.cur.cluster
  let queue := k.queue.map fun q => if q.wave = s.cur.id then { q with own := grow q.who q.own } else q
  { s with cur := { s.cur with pending := s.cur.pending.map fun (p : Pending) => { p with own := grow p.who p.own } },
           mills := s.mills.map fun (u : MillUpdate) => if u.wave = s.cur.id then { u with own := grow u.who u.own } else u }.setCluster
    s.cur.cluster { k with queue := queue }

/-- What thread `old` has issued and has not returned belongs to `new` from now on. -/
def State.handOver (s : State) (old new : Who) : State :=
  let name (who : Who) : Who := if who == old then new else who
  let k := s.cluster s.cur.cluster
  let queue := k.queue.map fun q => if q.wave = s.cur.id then { q with who := name q.who } else q
  { s with mills := s.mills.map fun (u : MillUpdate) => if u.wave = s.cur.id then { u with who := name u.who } else u }.setCluster
    s.cur.cluster { k with queue := queue }

/-- A lane's image of a pending result over what the register holds there. -/
def PendReg.image (q : PendReg) (old : W64) (lane : Nat) : W64 :=
  let m := NMap.getD q.kept lane 0
  (q.new.getD lane 0 &&& ~~~m) ||| (old &&& m)

/-- A lane of a register of a file. -/
def RegFile.lane (f : RegFile) (r : RegName) (lane : Nat) : W64 :=
  match r with
  | .s n => (f.sregs.getD n ⟨.b64, 0⟩).val
  | .v n => (f.vregs.getD n ⟨.b64, []⟩).lanes.getD lane 0

/-- The result pending for a register of a thread's file at a lane, where all of the lane's parts have come. -/
def pendingFor (ps : List Pending) (who : Who) (r : RegName) (lane : Nat) : Option PendReg :=
  ps.findSome? fun p =>
    if sameFile p.who who then
      p.regs.find? fun q => q.reg == r && q.lanes.has lane && !(p.parts.any fun x => x.lane == lane)
    else none

/-- The result pending for a register of the issuing thread's file at a lane when its group began (04 R86, 07 R147). -/
def State.pendingAt (s : State) (r : RegName) (lane : Nat) : Option W64 :=
  (pendingFor s.view.pending s.who r lane).map fun q => q.image (s.rfile.lane r lane) lane

/-- Whether a result of an earlier group is pending for a register of the issuing thread's file, and has not come since. -/
def State.awaits (s : State) (r : RegName) : Bool :=
  s.view.pending.any fun p => sameFile p.who s.who && (s.cur.pending.any fun x => x.id == p.id) &&
    p.regs.any fun q => q.reg == r && q.lanes != 0

/-- Whether an earlier word of the group has issued a result for a register. -/
def State.awaitsOwn (s : State) (r : RegName) : Bool :=
  s.issue.multi && s.cur.pending.any fun p => sameFile p.who s.who && p.regs.any fun q => q.reg == r && q.lanes != 0

/-- A scalar register with its tag, a pending result aside. -/
def State.sreg (s : State) (r : Nat) : SReg := s.rfile.sregs.getD r ⟨.b64, 0⟩
/-- A vector register with its tag, pending results aside. -/
def State.vreg (s : State) (r : Nat) : VReg := s.rfile.vregs.getD r ⟨.b64, []⟩

/-- The number under which a register is asked for at Config.pendingSeen. -/
def RegName.code : RegName → Nat
  | .s r => r
  | .v r => 64 + r

/-- A scalar register as a word reads it: the value before a pending result or after it (07 R147, log entry 9). -/
def State.sval (s : State) (r : Nat) : W64 :=
  match s.pendingAt (.s r) 0 with
  | some x => if Config.pendingSeen s.fresh r 0 then x else (s.sreg r).val
  | none => (s.sreg r).val

/-- A lane of a vector register as a word reads it (07 R147, log entry 9). -/
def State.vval (s : State) (r lane : Nat) : W64 :=
  match s.pendingAt (.v r) lane with
  | some x => if Config.pendingSeen s.fresh (64 + r) lane then x else (s.vreg r).lanes.getD lane 0
  | none => (s.vreg r).lanes.getD lane 0

/-- Takes lanes of a register away from the results that are pending for it: a later write stands (07 R147). -/
def Wave.cancel (w : Wave) (who : Who) (r : RegName) (m : Mask) (now : Nat) : Wave :=
  { w with pending := w.pending.map fun p =>
      if sameFile p.who who then
        { p with regs := p.regs.map fun q =>
            if q.reg = r then { q with lanes := q.lanes &&& ~~~m, cut := some (q.cut.getD now) } else q }
      else p }

/-- A later write takes the bits `bits` of lanes of a register away from the results that are pending for it (09 R189). -/
def Wave.keep (w : Wave) (who : Who) (r : RegName) (m : Mask) (bits : W64) : Wave :=
  { w with pending := w.pending.map fun p =>
      if sameFile p.who who then
        { p with regs := p.regs.map fun q =>
            if q.reg = r then
              { q with kept := (q.lanes &&& m).toList.foldl (fun ks l => NMap.set ks l (NMap.getD ks l 0 ||| bits)) q.kept }
            else q }
      else p }

/-- A sprig notes that it has written a register (08 R175). -/
def State.noteWrote (s : State) (r : RegName) : State :=
  match s.who with
  | .sprig j => match NMap.get? s.cur.sprigs j with
    | some p =>
      if p.wrote.contains r then s
      else { s with cur := { s.cur with sprigs := NMap.set s.cur.sprigs j { p with wrote := r :: p.wrote } } }
    | none => s
  | _ => s

/-- The export-time value of a register that the wave overwrites is pushed to every sprig out that has not pulled it
(08 R174 rule 2). -/
def State.pushOut (s : State) (r : RegName) : State :=
  if s.inSprig then s
  else s.cur.sprigs.foldl (fun s (j, p) => if p.held.contains r then s else s.postOnce (.flumePush s.cur.id j r)) s

/-- Prepares a write of lanes `m` of a register. -/
def State.beforeWrite (s : State) (r : RegName) (m : Mask) : State :=
  { s with cur := s.cur.cancel s.who r m s.nextId }.noteWrote r |>.pushOut r

/-- Writes a scalar register and its tag. -/
def State.writeS (s : State) (r : Nat) (tag : Fmt) (v : W64) : State :=
  let s := s.beforeWrite (.s r) (-1)
  s.setFile { s.file with sregs := s.file.sregs.set r ⟨tag, v⟩ }

/-- Writes the lanes `m` of a vector register and its tag; with no lane the register keeps its tag (06 R129). -/
def State.writeV (s : State) (r : Nat) (tag : Fmt) (m : Mask) (f : Nat → W64) : State :=
  if m = 0 then s
  else
    let s := s.beforeWrite (.v r) m
    let old := (s.file.vregs.getD r ⟨.b64, []⟩).lanes
    let new := lanesOf fun l => if m.has l then f l else old.getD l 0
    s.setFile { s.file with vregs := s.file.vregs.set r ⟨tag, new⟩ }

/-- Writes the bits `bits` of lanes `m` of a register and its tag where an earlier word of the group has issued a result for
it: that result keeps the other bits, and the thread then waits for it as a reader of the register would (09 R189). -/
def State.writePart (s : State) (r : RegName) (tag : Fmt) (m : Mask) (bits : W64) (f : Nat → W64) : State :=
  if m = 0 then s
  else
    let s := { s with cur := s.cur.keep s.who r m bits, issue := { s.issue with marker := true } }.noteWrote r |>.pushOut r
    let new (l : Nat) : W64 := (s.file.lane r l &&& ~~~bits) ||| (f l &&& bits)
    s.setFile (match r with
      | .s n => { s.file with sregs := s.file.sregs.set n ⟨tag, new 0⟩ }
      | .v n => { s.file with vregs := s.file.vregs.set n ⟨tag, lanesOf fun l => if m.has l then new l else s.file.lane r l⟩ })

/-- Sets the tag of a register at issue of a variable-latency result (07 R147). -/
def State.setTag (s : State) (r : RegName) (tag : Fmt) : State :=
  match r with
  | .s n => s.setFile { s.file with sregs := s.file.sregs.set n { s.file.sregs.getD n ⟨.b64, 0⟩ with tag := tag } }
  | .v n => s.setFile { s.file with vregs := s.file.vregs.set n { s.file.vregs.getD n ⟨.b64, []⟩ with tag := tag } }

/-- Run-ahead is open for the issuing thread; it is suspended in handler mode (19 R367). -/
def State.ahead (s : State) : Bool := s.cur.runAhead.isSome && !s.inHandler

/-- Whether flags that the issuing thread raises are held apart (14 R293). -/
def State.holdsFlags (s : State) : Bool := s.ahead && match s.cur.runAhead with
  | some r => r.hold
  | none => false

/-- Issues a variable-latency result (07 R145): the tags are set now, and the values and flags are written by the event
VARIABLE_LATENCY_RESULT once no part is awaited. -/
def State.defer (s : State) (rs : List (RegName × Fmt × Mask × (Nat → W64))) (flags : BitVec 5) (parts : List LoadPart)
    (sealWait : Option Nat) : State :=
  let rs := rs.filter fun (_, _, m, _) => m != 0
  let s := rs.foldl (fun s (r, tag, m, _) => (s.beforeWrite r m).setTag r tag) s
  let id := s.nextId
  let p : Pending := { id := id, who := s.who, own := s.thread.mask, flags := flags, parts := parts, sealWait := sealWait,
                       ahead := s.holdsFlags,
                       regs := rs.map fun (r, _, m, f) => ⟨r, m, lanesOf f, [], none⟩ }
  { s with cur := { s.cur with pending := s.cur.pending ++ [p] }, nextId := id + 1 }.post
    (.variableLatencyResult s.cur.id id)

/-- A variable-latency scalar result. -/
def State.deferS (s : State) (d : BitVec 6) (tag : Fmt) (v : W64) : State :=
  s.defer [(.s d.toNat, tag, -1, fun _ => v)] 0 [] none

/-- Sets sticky flags of the issuing thread (06 R135 rules 1, 4). -/
def State.raiseNow (s : State) (f : BitVec 5) : State :=
  { s.setSys { s.sys with flags := s.sys.flags ||| f } with issue := { s.issue with raised := s.issue.raised ||| f } }

/-- Raises sticky flags at once; under a .hold run-ahead they are held apart from FLAGS (14 R293). -/
def State.raiseFlags (s : State) (f : BitVec 5) : State :=
  match s.cur.runAhead with
  | some r =>
    if r.hold && !s.inHandler then { s with cur := { s.cur with runAhead := some { r with flags := r.flags ||| f } } }
    else s.raiseNow f
  | none => s.raiseNow f

/-- An instruction that waits while run-ahead is open (14 R295). -/
def State.noRunAhead (s : State) : Except Stop Unit := need (!s.ahead) (.wait .runAhead)

/-- An instruction that a sprig may not issue (08 R176). -/
def State.noSprig (s : State) : Except Stop Unit := need (!s.inSprig) convergence

/-- An instruction that aborts an open transaction with a status (18 R360). -/
def State.noTx (s : State) (status : Nat) : Except Stop Unit := need s.cur.tx.isNone (.abort status none)

/-! What a wave may name (02 R43, 03 R71). -/

/-- The blocks whose registers the issuing thread may name: those held, or in a sprig those held at its export
(03 R71, 08 R172). -/
def State.blocks (s : State) : Nat :=
  match s.sprig? with
  | some p => (p.lines - 8) / 16
  | none => s.cur.held

/-- A vector register within the blocks held. -/
def State.regOk (s : State) (r : Nat) : Bool := decide (r < 16 * s.blocks)
/-- `n` vector registers from `r` within the blocks held. -/
def State.regsOk (s : State) (r n : Nat) : Bool := decide (r + n ≤ 16 * s.blocks)
/-- `n` tile registers from `t` within the footprint. -/
def State.tilesOk (s : State) (t n : Nat) : Bool := decide (t + n ≤ s.cur.foot.tiles)

/-- The vector register of an operand is within the footprint. -/
def State.opOk (s : State) (o : Operand) : Bool :=
  match o with
  | .v r => s.regOk r.toNat
  | .u _ => true

/-- The vector register of a destination is within the footprint. -/
def State.destOk (s : State) (d : Dest) : Bool :=
  match d with
  | .v r => s.regOk r.toNat
  | .s _ => true

/-! Abort tokens (20 R391). -/

/-- The thread of a wave that takes the asynchronous trap: its split of lowest index (19 R362). -/
def Wave.tokenThread (w : Wave) : Option Who :=
  match w.splits with
  | (n, _) :: _ => some (.split n)
  | [] => match w.sprigs with
    | (j, _) :: _ => some (.sprig j)
    | [] => none

/-- The handle under which a wave holds a membership. -/
def Wave.handleOf (w : Wave) (gid rank : Nat) : Option Nat :=
  (w.members.find? fun (_, m) => m.gid = gid ∧ m.rank = rank).map (·.1)

/-- Sends an abort token from every rank that wave `w` holds to every other member of its groups; the sender's rank
becomes vacant, and the group looks at its steps again (20 R391, R392). -/
def State.sendTokens (s : State) (w : Wave) (reason : Byte) : State :=
  w.members.foldl (fun s (_, m) =>
    match s.groups.find? fun (_, g) => g.gid = m.gid && g.ranks.any fun (r, x) => r = m.rank && x.wave = some w.id with
    | none => s
    | some (k, g) =>
      let s := g.ranks.foldl (fun s (r, x) =>
        if r = m.rank ∨ x.vacant then s
        else if x.dev != 0 then s.send (.token x.dev m.gid r reason)
        else match x.wave with
          | none => s
          | some v => match (s.wave? v).bind fun y => y.handleOf m.gid r with
            | none => s
            | some h => s.post (.abortToken v (BitVec.ofNat 4 h) reason none)) s
      let ranks := match NMap.get? g.ranks m.rank with
        | some x => NMap.set g.ranks m.rank { x with vacant := true, wave := none, proposal := none, aborted := true }
        | none => g.ranks
      ({ s with groups := NMap.set s.groups k { g with ranks := ranks } }.postOnce (.collStepRun m.gid [] [] .done)).postOnce
        (.stepagrAgreed m.gid [] [])) s

/-- A part of a step of a wave has failed, and its completion word is still to be written (20 R388, R391). -/
def State.failsFor (s : State) (w : Nat) : Bool :=
  s.groups.any fun (_, g) => g.failing.any fun x => x.post.wave == w

/-- An abort token of a group is on its way to a member, whose steps it cancels (20 R391). -/
def State.tokenComes (s : State) (gid : Nat) : Bool :=
  s.agenda.any fun i => match i with
    | .abortToken w h _ _ => (s.wave? w).any fun x => (NMap.get? x.members h.toNat).any fun m => m.gid == gid
    | _ => false

/-! Freezing (03 R76, R77). -/

/-- Stops every wave of a context in place. -/
def State.stopContext (s : State) (ctx : Nat) : State :=
  s.mapWaves fun w => if w.ctx = ctx then { w with stage := .stopped, due := none } else w

/-- A violation of a master of a context freezes it: FRZINFO and FRZADDR are written, its waves stop, and its groups are
told (03 R76, R77, 20 R391). -/
def State.freeze (s : State) (ctx cluster path : Nat) (write : Bool) (va : Nat) : State :=
  let c := s.ctx ctx
  if c.state ≠ .run then s
  else
    let s := s.setCtx ctx { c with state := .frozen, frzaddr := w64 (va % 2 ^ 58),
                                   frzinfo := w64 (cluster * 256 + (if write then 8 else 0) + path) }
    let s := (s.allWaves.filter fun w => w.ctx == ctx).foldl (fun s w => s.sendTokens w 2) s
    s.stopContext ctx

/-- The engines of a context run (03 R76). -/
def State.engineRuns (s : State) (ctx : Nat) : Bool := (s.ctx ctx).state != .frozen && (s.ctx ctx).state != .tearing

/-! Taking an exception. -/

/-- KIND and TARGET of BLOCKED for a park (18 R355). -/
def Park.kind : Park → Nat × Nat
  | .run => (0, 0)
  | .marker => (0, 0)
  | .retry .runAhead => (11, 0)
  | .retry (.chwait ch _) => (6, ch)
  | .retry (.mwait n) => (7, n)
  | .retry .flags => (8, 0)
  | .retry .loading => (10, 0)
  | .retry _ => (0, 0)
  | .bar id _ _ => (1, id)
  | .join _ => (12, 0)
  | .await (.rne g k _) => (2, g.toNat * 256 + k)
  | .await (.rnf g k _) => (2, g.toNat * 256 + k)
  | .await (.chan n _) => (2, n)
  | .await _ => (2, 0)
  | .waitv _ _ _ _ _ _ => (3, 0)
  | .qput _ g k _ _ _ => (4, g.toNat * 256 + k)
  | .qtake _ g k _ _ _ => (5, g.toNat * 256 + k)
  | .rendezvous => (9, 0)
  | .stepagr _ h _ => (13, h)

/-- A thread whose blocking episode, if it is in one, ends now (18 R355). -/
def Thread.ended (t : Thread) (now : Nat) : Thread :=
  let (k, g) := t.park.kind
  { t with blocked := if k = 0 then t.blocked else ⟨k, g, Nat.min (now - t.since) (2 ^ 32 - 1)⟩ }

/-- Ends the open transaction without its stores: sD of its TXBEGIN takes the status and its split goes to the handler
packet (18 R360). -/
def State.abortTx (s : State) (status : Nat) : State :=
  match s.cur.tx with
  | none => s
  | some x =>
    let s := { s with cur := { s.cur with tx := none }, who := x.who }.writeS x.d.toNat .n64 (w64 status)
    s.setThread { s.thread.ended s.cycle.toNat with pc := ⟨x.handler, 0⟩, park := .run, chained := false, choice := none }

/-- The lanes that a sprig still has: running, at its joins, and in its PENDs. -/
def Sprig.lanes (p : Sprig) : Mask :=
  p.recs.foldl (fun m (_, r) => m ||| r.arrived ||| ((r.pend.map (·.2)).getD 0)) p.th.mask

/-- The registers of the wave with what a sprig has written at its lanes (08 R175). -/
def Sprig.writeBack (p : Sprig) (file : RegFile) : RegFile :=
  p.wrote.foldl (fun f r =>
    match r with
    | .s _ => f
    | .v n =>
      let new := p.file.vregs.getD n ⟨.b64, []⟩
      let old := (f.vregs.getD n ⟨.b64, []⟩).lanes
      { f with vregs := f.vregs.set n ⟨new.tag, lanesOf fun l =>
          if p.lanes.has l then new.lanes.getD l 0 else old.getD l 0⟩ }) file

/-- Recalls a sprig: its registers are written back, and its EXEC bits and PTS return (08 R175, R183). -/
def State.recall (s : State) (j : Nat) : State :=
  match NMap.get? s.cur.sprigs j with
  | none => s
  | some p =>
    let file := p.writeBack s.cur.file
    let m := p.lanes
    let sys := { s.cur.sys with exec := (s.cur.sys.exec &&& ~~~m) ||| (p.sys.exec &&& m),
                                pts := timeMax s.cur.sys.pts p.sys.pts }
    let q := { p with recalled := true, wrote := [], held := [] }
    { s with cur := { s.cur with file := file, sys := sys, sprigs := NMap.set s.cur.sprigs j q } }

/-- TRAPINFO of a trap (19 R364). -/
def trapInfo (tr : Trap) (lanes : Mask) (slot split : Nat) (sprig fatal tx : Bool) : W64 :=
  w64 (lanes.toNat * 2 ^ 32 + tr.code % 2 ^ 16 * 2 ^ 16 + slot % 4 * 2 ^ 14 + split % 4 * 2 ^ 12 + sprig.toNat * 2 ^ 11 +
    fatal.toNat * 2 ^ 10 + tx.toNat * 2 ^ 9 + tr.write.toNat * 2 ^ 8 + tr.cause % 256)

/-- A PC as a word of the stop log and of an image: bits 57:4 the packet, 1:0 the slot (19 R371, R422). -/
def PC.word (p : PC) : W64 := w64 (p.pkt.toNat % 2 ^ 58 / 16 * 16 + p.slot % 4)

/-- The splits that SPLITS shows: in handler mode the suspended ones (07 R155, 19 R367). -/
def Wave.shownSplits (w : Wave) : NMap Thread := w.splits.filter fun (n, _) => (w.frame.map (·.from_)) != some (.split n)

/-- SPLITS as a thread of the wave reads it (07 R155, 19 R367). -/
def Wave.splitsWord (w : Wave) (mask : Mask) (self : Nat) : W64 :=
  let present := w.shownSplits.foldl (fun acc (n, _) => acc + 2 ^ n) 0
  w64 (mask.toNat * 2 ^ 32 + present * 2 ^ 8 + self % 4 * 2 ^ 4 + w.shownSplits.length)

/-- STOPREC of the issuing wave's launch: none where it is 0 or misaligned (19 R371). -/
def State.stopBase (s : State) : Option Nat :=
  let a := (s.const s.cur 7 51).toNat
  if a = 0 ∨ a % 4096 ≠ 0 then none else some a

/-- Where the stop log lies (19 R371). -/
def State.stopSpot (s : State) (a : Nat) : Except Nat (Target × Nat) := s.translate s.die s.cur.ctx a .rmw

/-- Where the record that follows `count` others lies in the stop log (19 R371). -/
def stopOffset (count : Nat) : Nat := 64 * (1 + count % 63)

/-- The home sectors of the count and of the next record, or the one that their translation waits for. -/
def State.stopSectors (s : State) : Except Nat (List Nat) :=
  match s.stopBase with
  | none => .ok []
  | some a => match s.stopSpot a with
    | .error c => match awaySector c with
      | some k => .error k
      | none => .ok []
    | .ok (.device, pa) =>
      let r := (pa + stopOffset (ofBytes (s.seenBytes pa 8))) / 32
      .ok [pa / 32, r, r + 1]
    | .ok _ => .ok []

/-- The stop record of the issuing wave (19 R371). -/
def State.stopRecord (s : State) (resume : PC) (splits : W64) : List Byte :=
  let w := s.cur
  let place := w.teamNo.toNat + w.waveNo.toNat * 2 ^ 24 + (if w.team.isNone then 2 ^ 29 else 0) + w.cluster * 2 ^ 30 +
    w.quad * 2 ^ 37
  (([w.trapinfo.toNat, w.trapaddr.toNat, resume.word.toNat, place, w.prog.toNat, s.cycle.toNat, splits.toNat,
    w.xgen.toNat] : List Nat).map (bytesOf 8)).flatten

/-- Writes the stop record of a fatal trap: nothing where STOPREC is 0 or misaligned, or where the count or the record
cannot be read or written (19 R371). -/
def State.stopLog (s : State) (resume : PC) (splits : W64) : State :=
  match s.stopBase with
  | none => s
  | some a => match s.stopSpot a with
    | .error _ => s
    | .ok (t, pa) => match s.physRead t pa 8 with
      | .error _ => s
      | .ok bs =>
        let off := stopOffset (ofBytes bs)
        match s.physRead t (pa + off) 64 with
        | .error _ => s
        | .ok _ =>
          let asid := (s.ctx s.cur.ctx).asid
          if s.sealed asid a 8 || s.sealed asid (a + off) 64 then s
          else
            (s.physWrite t pa (bytesOf 8 (ofBytes bs + 1)) s.cur.sys.pts (.wave s.cur.id)).physWrite t (pa + off)
              (s.stopRecord resume splits) s.cur.sys.pts (.wave s.cur.id)

/-- The fatal path (19 R370): the wave stops in place, its sprigs are recalled, the stop record is written, and its
groups are told. A trap 0x13 tells nobody (20 R391). -/
def State.stopWave (s : State) (cause : Nat) (resume : PC) (splits : W64) : State :=
  let s := { s with cur := { s.cur with stage := .stopped, due := none } }
  let s := s.cur.sprigs.foldl (fun s (j, _) => s.recall j) s
  let s := s.stopLog resume splits
  if cause = 0x13 then s else s.sendTokens s.cur 1

/-- A thread that waits in an instruction which counts as not issued issues it again. -/
def Thread.notIssued (t : Thread) : Thread :=
  match t.park with
  | .await _ | .waitv .. | .qput .. | .qtake .. | .retry _ | .rendezvous | .stepagr .. =>
    { t with park := .run, chained := false }
  | _ => t

/-- The number of the matrix operation that an accumulation belongs to, and its tile. -/
def MatrixOp.accOf : MatrixOp → Option (Nat × Nat)
  | .acc m j .. => some (m, j)
  | _ => none

/-- The number of the operation that a wave at its MMA has begun. -/
def Wave.begunMma (w : Wave) : Option Nat :=
  (w.arrival.bind (·.started)).map fun _ => maxOf (w.ops.filterMap fun o => o.op.accOf.map (·.1))

/-- A wave at a rendezvous has not arrived; where the operation has begun, the tile in work is completed and PROG names the
next (14 R283). -/
def Wave.leaveRendezvous (w : Wave) : Wave :=
  match w.arrival.map (·.started) with
  | none => w
  | some none => { w with arrival := none }
  | some (some j) =>
    let m := w.begunMma.getD 0
    { w with arrival := none, prog := w64 (j + 1), ops := w.ops.filter fun o => match o.op.accOf with
      | some (k, i) => k != m || decide (i ≤ j)
      | none => true }

/-- The issuing wave is stopped at its MMA: where the operation has begun, all of its waves stop after the tile in work, and issue
the MMA again (14 R283). -/
def State.quitMma (s : State) : State :=
  match s.cur.begunMma with
  | none => { s with cur := { s.cur with arrival := none } }
  | some m => s.mapWaves fun w =>
      if w.begunMma = some m then
        w.threads.foldl (fun y (who, t) => if t.park = .rendezvous then y.setThread who t.notIssued else y) w.leaveRendezvous
      else w

/-- A trap of the issuing thread is fatal: in handler mode, or where no handler can start (19 R370). -/
def State.trapFatal (s : State) : Bool :=
  let handler := s.const s.cur 7 52
  s.inHandler || handler == 0 || !s.landing s.cur handler

/-- The machine as a trap of thread `who` meets it: an open transaction has aborted, the thread is chosen, and a poisoned access is
counted (19 R366 rule 1; 20 R397). -/
def State.beforeTrap (s : State) (who : Who) (tr : Trap) : State :=
  let s := s.abortTx 3
  let s := { s with who := who, cur := { s.cur with due := none } }
  if tr.cause = 4 then s.count 6 1 else s

/-- TRAPINFO and TRAPADDR of a trap of the issuing thread at `at_` (19 R364): `tx` where it aborted a transaction. -/
def State.noteTrap (s : State) (at_ : PC) (tr : Trap) (tx : Bool) : State :=
  let mine := match s.sprig? with
    | some p => p.lanes
    | none => s.thread.mask
  { s with cur := { s.cur with
      trapinfo := trapInfo tr (tr.lanes.getD mine) at_.slot s.splitIx s.recOwner.isSome s.trapFatal tx,
      trapaddr := tr.addr.getD at_.pkt } }

/-- The handler split starts at HANDLER with CWIN 7 for the issuing thread, which stands as `t` when its blocking episode ends; a sprig
is recalled (19 R366 rules 4, 5). -/
def State.enterHandler (s : State) (t : Thread) (resume : PC) : State :=
  let handler := s.const s.cur 7 52
  let split := s.splitIx
  let who := s.who
  let s := s.setThread { s.thread with pc := resume, blocked := t.blocked }
  let s := match who with
    | .sprig j => s.recall j
    | _ => s
  let frame : Frame :=
    { resume := resume, saved := [60, 61, 62, 63].map fun r => s.cur.file.sregs.getD r ⟨.b64, 0⟩,
      cwin := s.cur.sys.cwin, pdepth := t.preds.length, rdepth := t.stack.length, from_ := who,
      sprigSplit := split,
      handler := { t with pc := ⟨handler, 0⟩, park := .run, chained := false, mark := false, heard := false,
                          choice := none } }
  { s with who := .handler, cur := { s.cur with frame := some frame, sys := { s.cur.sys with cwin := 7 } } }

/-- The wave takes a trap of thread `who` at `at_` (19 R366): an open transaction aborts first; TRAPINFO and TRAPADDR are
written; then the handler split starts at HANDLER with CWIN 7, or the trap is fatal (19 R370). A trap of another thread
than the handler in handler mode is dropped (19 R372). -/
def State.takeTrap (s : State) (who : Who) (at_ : PC) (tr : Trap) : State :=
  let tx := s.cur.tx.isSome || tr.tx
  let start := (s.cur.thread who).pc
  let s := s.beforeTrap who tr
  if s.inHandler && who != .handler then s
  else
    let t := s.thread.ended s.cycle.toNat
    let s := if t.park = .rendezvous then s.quitMma else s
    let resume := if tx then t.pc else tr.resume.getD start
    let fatal := s.trapFatal
    let splits := s.cur.splitsWord t.mask s.splitIx
    let s := s.noteTrap at_ tr tx
    if fatal then s.stopWave tr.cause resume splits else s.enterHandler t resume

/-- The sector that a wave waits for before it can fetch at its HANDLER (17 R334). -/
def State.handlerAway (s : State) (w : Wave) : Option Nat :=
  if w.frame.isSome || s.const w 7 52 == 0 then none else s.fetchAway w (s.const w 7 52)

/-- A trap of the issuing thread meets handler mode, or another trap that is being taken (19 R372). -/
def State.trapsLater (s : State) : Bool := s.cur.due.isSome || (s.inHandler && s.who != .handler)

/-- A trap of the issuing thread ends in a stop record (19 R370, R371). -/
def State.logsTrap (s : State) : Bool := s.trapFatal && s.stopBase.isSome

/-- A trap before which an open transaction aborts (19 R366 rule 1); its split is then at the handler packet. -/
def State.abortFirst (s : State) (tr : Trap) : State × Trap :=
  if s.cur.tx.isSome then ({ s.abortTx 3 with who := s.who }, { tr with tx := true }) else (s, tr)

/-- An exact, sticky or requested trap of the issuing thread: taken at once when no variable-latency result of the wave
is outstanding, the packet at HANDLER can be fetched and no stop record is to be written, else by the event TRAP_TAKE, before
which the wave's splits issue nothing (19 R366 rules 1, 2). A trap that meets another one is dropped: its group issues again
after that one's handler (19 R372). -/
def State.raise (s : State) (at_ : PC) (tr : Trap) : State :=
  if s.trapsLater then s.setThread { s.thread.notIssued with park := .retry .trapped }
  else
    let (s, tr) := s.abortFirst tr
    if s.cur.pending.isEmpty && (s.handlerAway s.cur).isNone && !s.logsTrap then s.takeTrap s.who at_ tr
    else { s with cur := { s.cur with due := some (s.who, at_, tr) } }.postOnce (.trapTake s.cur.id)

/-- The next abort token held in handler mode is now taken (19 R367, R368). -/
def State.takeHeld (s : State) : State :=
  match s.cur.tokens with
  | [] => s
  | (h, r) :: rest => { s with cur := { s.cur with tokens := rest } }.post (.abortToken s.cur.id h r none)

/-- What a split that returns from its handler still waits for: a barrier at which it has arrived. -/
def Park.lasting (p : Park) : Park :=
  match p with
  | .bar _ _ _ => p
  | _ => .run

/-- Every thread of a wave that waits for what an event tells it looks again: its wave has issued nothing meanwhile. -/
def State.rewake (s : State) (w : Wave) : State :=
  w.threads.foldl (fun s (who, t) =>
    match t.park with
    | .waitv .. => s.postOnce (.waitvRecheck w.id who)
    | .qput .. => s.postOnce (.ringWake w.id who)
    | .qtake .. => s.postOnce (.ringWake w.id who)
    | .await _ => s.postOnce (.awaitWake w.id who)
    | .stepagr _ h _ => match NMap.get? w.members h with
      | some m => s.postOnce (.stepagrAgreed m.gid [] [])
      | none => s
    | _ => s) s

/-- The return from a trap handler to `t` (19 R368): s60 to s63 and CWIN take the frame's values, and the handler's lanes
become the trapping split again, or wait as the sprig to be exported again (08 R183). `same`: the split goes on where it
stopped. -/
def State.trapReturn (s : State) (f : Frame) (t : PC) (same : Bool) : State :=
  let h := s.thread
  let s := (List.range 4).foldl (fun s k => s.beforeWrite (.s (60 + k)) (-1)) s
  let sregs := (List.range 4).foldl (fun rs k => rs.set (60 + k) (f.saved.getD k ⟨.b64, 0⟩)) s.cur.file.sregs
  let w := { s.cur with file := { s.cur.file with sregs := sregs }, sys := { s.cur.sys with cwin := f.cwin } }
  let old := w.thread f.from_
  let back := { h with pc := t, park := if same then old.park.lasting else .run, since := old.since,
                       chained := false, mark := false, choice := if same then old.choice else none }
  let w := w.setThread f.from_ back
  let late := w.late.filter fun x => x.1 != .handler && (same || x.1 != f.from_)
  let s := { s with cur := { w with frame := none, late := late }, who := f.from_ }.handOver .handler f.from_
  let s := match f.from_ with
    | .sprig j => s.postOnce (.sprigReexport s.cur.id j)
    | _ => s
  (s.rewake s.cur).takeHeld

/-- The destination bytes of a COPY (13 R269, R272). -/
def CopyJob.bytes (j : CopyJob) : Nat := (j.until_ - j.from_).toNat

/-- The lanes of a wave that a barrier waits for: those set in EXEC, in splits and in sprigs, that have not exited (18
R344). -/
def Wave.barLanes (w : Wave) : Mask :=
  w.live &&& w.sprigs.foldl (fun m (_, p) =>
    if p.recalled then m else (m &&& ~~~p.lanes) ||| (p.sys.exec &&& p.lanes)) w.sys.exec

/-- A wave all of whose lanes have arrived has arrived in the phase (18 R344). -/
def Bar.mark (b : Bar) (w : Wave) : Bar :=
  match NMap.get? b.arrived w.id with
  | some m => if w.barLanes &&& ~~~m = 0 then { b with full := insertRising w.id b.full } else b
  | none => b

/-- The barriers of a wave's team, or a task's own (18 R343, R344). -/
def State.bars (s : State) (w : Wave) : List Bar :=
  match w.team with
  | none => w.bars
  | some t => match NMap.get? s.teams t with
    | some t => t.bars
    | none => []

/-- Replaces the barriers of the issuing wave's team. -/
def State.setBars (s : State) (bs : List Bar) : State :=
  match s.cur.team with
  | none => { s with cur := { s.cur with bars := bs } }
  | some t => match NMap.get? s.teams t with
    | some x => { s with teams := NMap.set s.teams t { x with bars := bs } }
    | none => s

/-- Looks again at every barrier of the issuing wave (18 R344). -/
def State.recheckBars (s : State) : State :=
  let bs := (s.bars s.cur).map fun b => b.mark s.cur
  (List.range bs.length).foldl (fun s id =>
    if ((bs[id]?).map (·.full)).getD [] = [] then s else s.postOnce (.barPhaseComplete s.cur.id id)) (s.setBars bs)

/-! How a word's result becomes the next state. -/

/-- A park whose beginning other agents see: an arrival at a barrier or a rendezvous, and a proposal (18 R343, 14 R281, 20
R390). -/
def Park.shown : Park → Bool
  | .bar _ _ _ => true
  | .rendezvous => true
  | .stepagr _ _ _ => true
  | _ => false

/-- Blocks the issuing thread; the episode begins unless it goes on (18 R355). -/
def State.block (s : State) (p : Park) : State :=
  let t := s.thread
  let keeps := match p with
    | .retry _ => true
    | .join _ => true
    | _ => s.issue.multi
  s.setThread { t with park := p, chained := s.issue.multi, slot := s.slot, mark := s.issue.marker && !keeps,
                       since := if t.park = p then t.since else s.cycle.toNat }

/-- The word on which a thread waited has completed, and the thread goes on after it. -/
def Thread.pass (t : Thread) : Thread := { t with pc := t.pc.after t.slot, choice := if t.slot < 2 then t.choice else none }

/-- Ends a blocking episode (18 R355). -/
def Thread.resume (t : Thread) (now : Nat) : Thread :=
  { t.ended now with park := if t.mark then .marker else .run, mark := false }

/-- Where a thread that has no lane left goes on: at the topmost valid PEND of its stack (07 R167). In a sprig or a handler
(`merges`), where no other thread is left to merge, also at an entry above it which the lanes that wait there complete. -/
def pickUp (merges : Nat → Bool) (recs : NMap Rec) (stack : List Nat) : Option (PC × Mask × NMap Rec × List Nat) :=
  match stack with
  | [] => none
  | e :: rest =>
    match NMap.get? recs e with
    | some r =>
      match r.pend with
      | some (pc, m) => some (pc, m, NMap.set recs e { r with pend := none }, e :: rest)
      | none =>
        if merges e && r.arrived != 0 && r.expect &&& ~~~r.arrived == 0 then
          some (⟨r.addr, 0⟩, r.arrived, NMap.erase recs e, rest)
        else pickUp merges recs rest
    | none => pickUp merges recs rest

/-- Drops the share of every split in the entries that are not on its stack, and the entries that nobody holds and at
which no lane waits. -/
def Wave.tidy (w : Wave) : Wave :=
  let own (e : Nat) (n : Nat) : Bool :=
    ((NMap.getD w.splits n Thread.blank).stack.contains e && (NMap.get? w.splits n).isSome) ||
      match w.frame with
      | some f => f.from_ == .split n && f.handler.stack.contains e
      | none => false
  let share (e : Nat) : BitVec 4 :=
    BitVec.ofNat 4 ((List.range 4).foldl (fun acc n => if own e n then acc + 2 ^ n else acc) 0)
  let recs := w.recs.map fun ((e, r) : Nat × Rec) => (e, { r with share := share e })
  let kept := recs.filter fun (e, r) => r.share != 0 || r.arrived != 0 || w.sprigs.any fun (_, p) => p.home == e
  { w with recs := recs.filter fun (e, _) => kept.any fun (k, r) => k == e || r.below.contains e }

/-- Asks for the merge at an entry, and for the retirement of the wave, to be looked at again. -/
def State.recheck (s : State) : State :=
  let s := s.cur.recs.foldl (fun s (e, r) => if r.arrived != 0 then s.postOnce (.joinMerge s.cur.id e) else s) s
  if s.cur.splits.isEmpty && s.cur.sprigs.isEmpty && s.cur.frame.isNone && s.cur.stage = .running &&
      s.cur.recs.all fun (_, r) => r.arrived == 0 then
    { s with cur := { s.cur with stage := .retiring } }.postOnce (.waveRetire s.cur.id)
  else s

/-- Removes a sprig that has ended or rejoined: its EXEC bits and FLAGS return, PTS takes the later time, and the join
counter falls (08 R179 steps 3 and 4). -/
def State.endSprig (s : State) (j : Nat) (lanes : Mask) : State :=
  match NMap.get? s.cur.sprigs j with
  | none => s
  | some p =>
    let x := s.cur.sys
    let mine (q : Pending) : Bool := q.who == .sprig j
    let late := (s.cur.pending.filter mine).foldl (fun acc q => acc ||| q.flags) 0
    let sys := { x with exec := (x.exec &&& ~~~lanes) ||| (p.sys.exec &&& lanes),
                        flags := x.flags ||| p.sys.flags ||| late, pts := timeMax x.pts p.sys.pts }
    { s with cur := { s.cur with sprigs := NMap.erase s.cur.sprigs j, sys := sys, joins := s.cur.joins - 1,
                                 pending := s.cur.pending.filter fun q => !mine q } }

/-- Takes lanes out of every reconvergence entry; a PEND left with no lane becomes invalid (07 R167). -/
def dropLanes (m : Mask) (rs : NMap Rec) : NMap Rec := rs.map fun (e, r) =>
  (e, { r with expect := r.expect &&& ~~~m, arrived := r.arrived &&& ~~~m,
               pend := r.pend.bind fun (pc, k) => if k &&& ~~~m = 0 then none else some (pc, k &&& ~~~m) })

/-- Takes lanes out of EXEC, of the entries and of the lanes that barriers wait for (07 R167, 18 R344). -/
def State.loseLanes (s : State) (m : Mask) : State :=
  let s := s.setRecs (dropLanes m s.recs)
  let s := { s with cur := { s.cur with recs := dropLanes m s.cur.recs, live := s.cur.live &&& ~~~m } }
  let s := s.setSys { s.sys with exec := s.sys.exec &&& ~~~m }
  { s with cur := { s.cur with sys := { s.cur.sys with exec := s.cur.sys.exec &&& ~~~m } } }

/-- Another split waits at an entry, or a sprig is to come back to it; a sprig never merges its home entry itself. -/
def State.joinBusy (s : State) (e : Nat) : Bool :=
  match s.recOwner with
  | some _ => e == 0
  | none => (s.cur.splits.any fun (_, t) => t.park == .join e) || s.cur.sprigs.any fun (_, p) => p.home == e

/-- A sprig or a handler that has no lane left merges by itself at an entry at which no thread waits. -/
def State.mergesAt (s : State) (e : Nat) : Bool :=
  match s.who with
  | .split _ => false
  | _ => !s.joinBusy e

/-- The lanes of sprig `j` that have arrived home while others still ran (08 R178). -/
def Wave.homeLanes (w : Wave) (j : Nat) : Mask :=
  match NMap.get? w.sprigs j with
  | some p => (NMap.getD p.recs 0 ⟨0, 0, 0, none, 0, 0, [], none, false, []⟩).arrived
  | none => 0

/-- Sprig `j` with the lanes that have arrived home, ready to rejoin (08 R179). -/
def State.goHome (s : State) (j : Nat) (m : Mask) : State :=
  match NMap.get? s.cur.sprigs j with
  | none => s
  | some p =>
    let q := { p with th := { p.th with mask := m, park := .join 0 } }
    { s with cur := { s.cur with sprigs := NMap.set s.cur.sprigs j q } }.postOnce (.sprigRejoin s.cur.id j)

/-- A sprig that has lost its last running lanes ends, or rejoins with the lanes that have arrived home (08 R180). -/
def State.closeSprig (s : State) (j : Nat) (all : Mask) : State :=
  let m := s.cur.homeLanes j
  if m = 0 then s.endSprig j all else s.goHome j m

/-- The lanes at which EXIT looks at EXEC: a sprig's own, as SSET clears no others there, or all (07 R151, R167, 08 R180; log
entry 37). -/
def State.exitLook (s : State) : Mask :=
  match s.sprig? with
  | some p => p.lanes
  | none => BitVec.allOnes 32

/-- A sprig's entries above the PEND that it has taken up leave its stack (07 R167, 08 R178). -/
def State.trimRecs (s : State) (stack : List Nat) : State :=
  match s.recOwner with
  | none => s
  | some _ => s.setRecs (s.recs.filter fun (e, _) => e == 0 || stack.contains e)

/-- A wave that has left handler mode by EXIT takes its next abort token, and what waits in it looks again (19 R367). -/
def State.leaveHandler (s : State) : State := (s.rewake s.cur).takeHeld

/-- Every split of the wave ends, with the sprig whose trap it handles; or the sprig that issues ends alone (07 R167, 08 R180). -/
def State.exitAll (s : State) : State :=
  match s.who, s.sprig? with
  | .sprig j, some p =>
    let s := (s.loseLanes p.lanes).endSprig j p.lanes
    let s := { s with who := .split 0, cur := s.cur.tidy }
    s.recheckBars.recheck
  | _, _ =>
    let mine := s.recOwner
    let s := match mine.bind (NMap.get? s.cur.sprigs) with
      | some p => s.endSprig (mine.getD 0) p.lanes
      | none => s
    let out := s.cur.sprigs.foldl (fun (m : Mask) (_, p) => m ||| p.lanes) 0
    let t := { s with cur := { s.cur with splits := [], frame := none, recs := [], live := s.cur.live &&& out } }
    let t := t.recheckBars.recheck
    if s.inHandler then t.leaveHandler else t

/-- EXIT of lanes of the issuing thread (07 R167, 08 R180): they leave the thread, EXEC, EXPECT and PEND of every entry,
and the lanes that barriers wait for; a thread with no lane takes up a PEND or ends. Where EXEC is then 0, no lane can run
any more, and all end (log entry 37). -/
def State.exitLanes (s : State) (m : Mask) : State :=
  let t := s.thread
  let all := t.mask
  let look := s.exitLook
  let handled := s.inHandler
  let t := { t with mask := t.mask &&& ~~~m }
  let s := s.loseLanes m
  if s.sys.exec &&& look = 0 then (s.setThread t).exitAll
  else
  let s :=
    if t.mask != 0 then s.setThread t
    else match pickUp s.mergesAt s.recs t.stack with
      | some (pc, k, rs, stack) =>
        (((s.setRecs rs).extendOwn all k).setThread { t with pc := pc, mask := k, stack := stack, choice := none }).trimRecs stack
      | none =>
        match s.who with
        | .split n => { s with cur := { s.cur with splits := NMap.erase s.cur.splits n } }
        | .sprig j => { s with who := .split 0 }.closeSprig j all
        | .handler => match s.cur.frame with
          | some f =>
            let w := { s.cur with frame := none, sys := { s.cur.sys with cwin := f.cwin } }
            match f.from_ with
            | .split n => { s with cur := { w with splits := NMap.erase w.splits n }, who := .split n }
            | .sprig j => { s with cur := w, who := .split 0 }.closeSprig j all
            | .handler => { s with cur := w }
          | none => s
  let s := { s with cur := s.cur.tidy }
  let s := s.recheckBars.recheck
  if handled && !s.inHandler then s.leaveHandler else s

/-- The nib core that takes an export: the one with most free slots among those with room, the lowest-numbered of them
(08 R172). -/
def State.nibFor (s : State) (cl lines : Nat) : Option Nat :=
  let used (n : Nat) : Nat × Nat := s.allWaves.foldl (fun acc w =>
    if w.cluster = cl then w.sprigs.foldl (fun (a, b) (_, p) =>
      if p.nib = n ∧ !p.recalled then (a + 1, b + p.lines) else (a, b)) acc else acc) (0, 0)
  (List.range 8).foldl (fun best n =>
    let (a, b) := used n
    if 8 ≤ a ∨ 512 < b + lines then best
    else match best with
      | none => some n
      | some k => if a < (used k).1 then some n else best) none

/-- The lines that an export of the issuing wave reserves (08 R172). -/
def State.sprigLines (s : State) : Nat := 16 * s.cur.held + 8

/-- The minority part of a divergent vote leaves as a sprig (08 R171): the nib core that takes it. -/
def State.exports (s : State) (minor : Mask) : Option Nat :=
  match s.who with
  | .split _ =>
    if s.view.expthr != 0 && decide (minor.count ≤ s.view.expthr.toNat) && !s.seenThread.stack.isEmpty &&
        decide (s.cur.sprigs.length < 8) && s.cur.tx.isNone && s.cur.runAhead.isNone
    then s.nibFor s.cur.cluster s.sprigLines else none
  | _ => none

/-- PATSLOTn (15 R306). -/
def Bind.word (b : Option Bind) : W64 :=
  match b with
  | none => 0
  | some b => w64 (2 ^ 63 + (if b.invptr = 0 then 0 else 2 ^ 62) + (b.steps.length - 1) % 16 * 2 ^ 58 +
      (b.nrows - 1) % 2 ^ 28 * 2 ^ 28 + (b.ncols - 1) % 2 ^ 28)

/-- BLOCKED (18 R355). -/
def Blocked.word (b : Blocked) : W64 := w64 (b.kind * 2 ^ 60 + b.target % 2 ^ 12 * 2 ^ 32 + b.cycles % 2 ^ 32)

/-- INKWELL as it reads (07 R148 rule 5, R149). -/
def State.inkwellWord (s : State) (w : Wave) : W64 :=
  if (s.ctx w.ctx).inkrateInForce = 0 then 0x7FFFFFFF else BitVec.ofInt 64 w.inkwell

/-- The system registers of the wave that a sprig reads as they stood at its export (08 R175), by index (07 R168). -/
def State.exportedRegs (s : State) : NMap W64 :=
  let w := s.cur
  ([(0x00C, w.sys.flags.zeroExtend 64), (0x00A, s.inkwellWord w), (0x00B, w.prog), (0x00E, w.expthr.zeroExtend 64), (0x012, w.xbase),
    (0x013, w.xgen.zeroExtend 64), (0x014, w.step.zeroExtend 64), (0x015, w.trapinfo), (0x016, w.trapaddr),
    (0x017, s.thread.blocked.word)] : NMap W64) ++
    ((List.range 8).map fun n => (0x020 + n, ((w.chans[n]?).map (·.wp)).getD 0)) ++
    (List.range 8).map fun n => (0x030 + n, Bind.word (w.binds.getD n none))

/-- Masks of two stacks, the bottom first, with the bits of lanes `m` taken from the second (07 R153). -/
def mixBits (m : Mask) : (old new : List Mask) → List Mask
  | xs, [] => xs.map (· &&& ~~~m)
  | [], ys => ys.map (· &&& m)
  | x :: xs, y :: ys => ((x &&& ~~~m) ||| (y &&& m)) :: mixBits m xs ys

/-- Lanes of a thread leave their predicate bits and their place on the stack at an entry (07 R153, R159). -/
def Rec.bring (r : Rec) (t : Thread) (m : Mask) : Rec :=
  { r with bits := mixBits m r.bits t.preds.reverse, depth := some (r.depth.getD t.preds.length),
           below := t.stack.tail }

/-- A sprig as the flume carries it (08 R173). It has not arrived: its depth is no arrival's (07 R159). Its copy of the home entry starts with no lane arrived and no PEND, whatever the
parent's entry holds (log entry 82). -/
def State.export (s : State) (minor : Mask) (pc : PC) (nib : Nat) : State :=
  let t := s.thread
  let j := firstFree 8 (s.cur.sprigs.map (·.1))
  let home := s.seenThread.stack.headD 0
  let r := NMap.getD s.cur.recs home ⟨0, 0, 0, none, 0, 0, [], none, false, []⟩
  let p : Sprig :=
    { th := { Thread.blank with pc := pc, mask := minor, stack := [0],
                                preds := match t.preds with
                                  | [] => []
                                  | m :: _ => [m &&& minor] },
      file := s.file, sys := { s.sys with flags := 0 },
      recs := [(0, { r with arrived := 0, pend := none, pos := 0, bits := [], depth := none, uneven := false,
                            below := [] })],
      home := home, atExport := s.exportedRegs, exporter := s.splitIx, exportDepth := if t.preds.isEmpty then 0 else 1,
      splitsAtExport := s.cur.splitsWord minor s.splitIx, fenced := false, nib := nib, lines := s.sprigLines, recalled := false,
      wrote := [], held := [], age := s.nextId, starved := 0 }
  let w := s.cur
  let recs := match NMap.get? w.recs home with
    | some r => NMap.set w.recs home { r.bring t minor with depth := r.depth }
    | none => w.recs
  { s with cur := { w with sprigs := NMap.set w.sprigs j p, joins := w.joins + 1, recs := recs,
                           fetched := w.fetched.filter fun (k, _) => k / 2 ^ 60 != j + 1 },
           nextId := s.nextId + 1 }

/-- Whether a division can be made by a new split (07 R160, R163): a sprig and a handler divide only serially. -/
def State.canSplit (s : State) (k : Nat) : Bool :=
  match s.who with
  | .split _ => decide (s.cur.splits.length + k ≤ 4)
  | _ => false

/-- Whether a serial division has a PEND to write: in the top entry as before the group (07 R144, R160). -/
def State.canPend (s : State) : Bool :=
  match s.seenThread.stack with
  | [] => false
  | e :: _ => match NMap.get? s.view.recs e with
    | some r => r.pend.isNone
    | none => false

/-- Writes PEND of the entry that was on top when the group began (07 R144, R160, R163). -/
def State.setPend (s : State) (pc : PC) (m : Mask) : State :=
  match s.seenThread.stack with
  | [] => s
  | e :: _ => match NMap.get? s.recs e with
    | some r => s.setRecs (NMap.set s.recs e { r with pend := some (pc, m) })
    | none => s

/-- A new split of the issuing wave at the lowest free index, with the issuing split's stacks (07 R155, R157). -/
def State.newSplit (s : State) (m : Mask) (pc : PC) : State :=
  let n := firstFree 3 (s.cur.splits.map (·.1))
  let t := { Thread.blank with pc := pc, mask := m, preds := s.thread.preds.map (· &&& m), stack := s.thread.stack,
                               park := s.thread.park, holds := s.thread.holds }
  let w := { s.cur with splits := NMap.set s.cur.splits n t }
  { s with cur := w.tidy }

/-- A divergent vote (07 R160, 08 R171): the minority leaves as a sprig, or the taken lanes become a split, or the split
runs both paths in turn. -/
def State.divide (s : State) (lanes : Mask) (target fall : PC) (nib : Option Nat) : State :=
  let t := s.thread
  let rest := t.mask &&& ~~~lanes
  let minorTaken := decide (lanes.count ≤ rest.count)
  match nib with
  | some nib =>
    if minorTaken then (s.export lanes target nib).setThread { t with mask := rest, pc := fall }
    else (s.export rest fall nib).setThread { t with mask := lanes, pc := target }
  | none =>
    if s.canSplit 1 then
      let s := s.setThread { t with mask := rest, pc := fall }
      s.newSplit lanes target
    else (s.setPend fall rest).setThread { t with mask := lanes, pc := target }

/-- With the switch marker the issuing thread waits for its outstanding results (07 R146). -/
def State.mark (s : State) : State :=
  let t := s.thread
  if !s.issue.marker then s
  else if t.park != .run then s.setThread { t with mark := true }
  else if s.cur.pending.any (fun p => s.cur.owns s.who p.who p.own) then s.setThread { t with park := .marker }
  else s

/-- The issue of a group is over: the next one sees what is then. -/
def State.seeNow (s : State) : State := { s with issue := { s.issue with view := none } }

/-- A group whose words have all issued: the transfer takes effect, or the PC goes to the slot after `slot`; with the
switch marker the thread then waits for its outstanding results (04 R82, R86; 07 R146, R165). -/
def State.settle (s : State) (slot : Nat) : State :=
  let t := s.thread
  let fall := t.pc.after slot
  let tr := s.issue.transfer
  let s := { s with fresh := s.fresh + 1, cur := { s.cur with late := s.cur.late.filter (·.1 != s.who) },
                    issue := { s.issue with transfer := none, raised := 0, stop := none, cut := none } }
  let s := s.setThread { t with chained := false, heard := false, choice := if tr.isNone && slot < 2 then t.choice else none }
  let mark := State.mark
  State.seeNow <| match tr with
  | none => mark (s.setThread { s.thread with pc := fall })
  | some (.goto pc) => mark (s.setThread { s.thread with pc := pc })
  | some (.divide m target nib) => (mark s).divide m target fall nib
  | some (.fan first others) =>
    let gone := others.foldl (fun acc (_, m) => acc ||| m) 0
    let s := mark s
    let s := s.setThread { s.thread with pc := first }
    let s := others.foldl (fun s (pc, m) => s.newSplit m pc) s
    s.setThread { s.thread with mask := s.thread.mask &&& ~~~gone }
  | some (.serial first later m) =>
    let s := mark (s.setPend later m)
    s.setThread { s.thread with pc := first, mask := s.thread.mask &&& ~~~m }
  | some (.exit m) =>
    (mark (if s.cur.tx.isSome then s.abortTx 3 else s.setThread { s.thread with pc := fall })).exitLanes m
  | some .exitAll => (s.abortTx 3).exitAll
  | some .done => mark s

/-- The event that looks at what a thread has begun to wait for; at the word of a WAITV its first reading is made again, so that it
has been seen to be made (18 R346, R359). -/
def State.posted (s : State) (p : Park) : State :=
  match p with
  | .rendezvous => s.postOnce (.mmaRendezvous s.cur.id)
  | .waitv .. => s.postOnce (.waitvRecheck s.cur.id s.who)
  | .stepagr _ h _ => match NMap.get? s.cur.members h with
    | some m => s.postOnce (.stepagrAgreed m.gid [] [])
    | none => s
  | _ => s

/-- The request with which a cluster frees a sector for an access at its home; `excl` before a write (17 R327, R332). -/
def State.askSector (s : State) (sec : Nat) (excl : Bool) : Instr :=
  .leaseRequest { cluster := s.cur.cluster, frame := sec / 8, first := sec % 8 * 4, last := sec % 8 * 4 + 3, want := 0,
                  missed := 0, lo := 31, hi := 0, time := s.sys.pts, lease := 0, wave := s.cur.id, sprig := s.sprigNo,
                  load := 0, index := 0, sealTag := none, sealId := 0, l2only := true, excl := excl }

/-- The requests that make a sector free. -/
def State.freeSector (s : State) (sec : Nat) : List Instr :=
  match (s.sector sec).busy with
  | some _ => []
  | none => [s.askSector sec false]

/-- The requests after which a synchronous write may be made to a sector. -/
def State.claimSector (s : State) (sec : Nat) : List Instr :=
  match (s.sector sec).busy with
  | some _ => []
  | none => [s.askSector sec true]

/-- A thread waits for memory, and asks for what it waits for. -/
def State.awaitMemory (s : State) (evs : List Instr) : State := evs.foldl State.postOnce (s.block (.retry .memory))

/-- A trap of the issuing thread, or its wait for the sector that stands in its place. -/
def State.trapOrWait (s : State) (at_ : PC) (tr : Trap) : State :=
  match awaySector tr.cause with
  | some k => s.awaitMemory (s.freeSector k)
  | none => s.raise at_ tr

/-- What an arrival at a rendezvous has read dooms the transactions that hold stores there (18 R359). -/
def State.arriveWith (s : State) (a : Option Arrival) : State :=
  match a with
  | none => s
  | some x => x.read.foldl (fun s k => s.doom .outside (k / 2) false) { s with cur := { s.cur with arrival := some x } }

/-- A word or group that did not complete (04 R87; 07 R141; 18 R360). -/
def State.halt (s : State) (slot : Nat) (e : Stop) : State :=
  let s := { s with fresh := s.fresh + 1, issue := { s.issue with transfer := none, raised := 0, stop := none, cut := none } }
  State.seeNow (match e with
  | .trap tr => s.trapOrWait ⟨s.packet, slot⟩ tr
  | .wait w => s.block (.retry w)
  | .park p a => ((s.arriveWith a).block p).posted p
  | .abort status info =>
    let s := match info with
      | none => s
      | some tr => { s with cur := { s.cur with
          trapinfo := trapInfo tr (tr.lanes.getD s.thread.mask) slot s.splitIx s.inSprig false true,
          trapaddr := tr.addr.getD s.packet } }
    s.abortTx status
  | .memory evs => s.awaitMemory evs
  | .loading evs => evs.foldl State.postOnce (s.block (.retry .loading))
  | .long => s)

/-- Notes that the current word begins to wait while its group goes on: the first of its group is kept. -/
def State.noteCut (s : State) : State := { s with issue := { s.issue with cut := some (s.issue.cut.getD s.slot) } }

/-- Notes what stops the current word: the first of its group is kept. -/
def State.noteStop (s : State) (e : Stop) : State :=
  { s with issue := { s.issue with stop := some (s.issue.stop.getD (s.slot, e)) } }

/-- The result of a word of a group of several: one that begins to wait has no effect before the words before it have issued
(log entry 15). -/
def State.finishWord (s : State) (r : Except Stop State) : State :=
  match r with
  | .ok t => if t.thread.park.shown || t.thread.holds.length != s.thread.holds.length then s.noteCut else t
  | .error (.park p a) => if p.shown then s.noteCut else s.noteStop (.park p a)
  | .error e => s.noteStop e

/-- The next state of a word: in a group of more than one word the result or the first stop is kept for the group; a word
on its own completes or stops at once (04 R86, R87). -/
def State.finish (s : State) (r : Except Stop State) : Host.Outcome State Fault Refusal :=
  .next (if s.issue.multi then s.finishWord r else match r with
    | .ok t => t.settle s.slot
    | .error e => s.halt s.slot e)

/-- A long instruction stopped by a trap part-way (19 R362): the state `t` with the units done, and the trap. In a group of
several words nothing else of the group happens, so the step takes the word alone. -/
def State.stopLong (s t : State) (tr : Trap) : Except Stop State :=
  if s.issue.multi then .error .long
  else if (awaySector tr.cause).isSome then .error (.trap tr)
  else
    let t := { t with issue := { t.issue with marker := false, transfer := some .done } }
    .ok (t.raise ⟨s.packet, s.slot⟩ tr)

/-- A target is a legal landing point, or the thread waits for the sector in which it lies. -/
def State.needLanding (s : State) (t : W64) (e : Stop) : Except Stop Unit :=
  match s.fetchAway s.cur t with
  | some k => .error (faultAt (awayCode k) t)
  | none => need (s.landing s.cur t) e

/-- The next state of an event of another agent. -/
def State.event (s : State) : Host.Outcome State Fault Refusal := .next { s with fresh := s.fresh + 1 }

end Sys2Proof.Machine
end

