-- ==== Sys2Proof/Machine/Issue.lean ====
section
/-! DEFINITION. Choosing what happens next (07 R141 to R143, R156; 08 R177; log entries 4, 5), arriving at joins
(07 R159, 08 R179), and forming a chain group from a fetched packet (04 R81, R86, R91, R96). -/

namespace Sys2Proof.Machine

/-- The loads and atomics of a thread that have not returned (16 R320). -/
def Wave.loadsOut (w : Wave) (who : Who) : List Nat :=
  w.pending.filterMap fun p => if w.owns who p.who p.own && !p.parts.isEmpty then some p.id else none

/-- The entries of its cluster's store queue that are a thread's. -/
def State.queuedBy (s : State) (w : Wave) (who : Who) : List QEntry :=
  (s.cluster w.cluster).queue.filter fun q => q.wave == w.id && w.owns who q.who q.own

/-- The SRED updates of a thread on their way (16 R320). -/
def State.millsOut (s : State) (w : Wave) (who : Who) : List Nat :=
  s.mills.filterMap fun u => if u.wave == w.id && w.owns who u.who u.own then some u.id else none

/-- What a thread has issued that is not yet performed (16 R320). -/
def State.outstanding (s : State) (w : Wave) (who : Who) : List Nat :=
  w.loadsOut who ++ (s.queuedBy w who).map (·.id) ++ s.millsOut w who

/-- The budget of a wave is on and spent (07 R148). -/
def State.spent (s : State) (w : Wave) : Bool := (s.ctx w.ctx).inkrateInForce != 0 && decide (w.inkwell ≤ 0)

/-- What a wave of a cluster asked for so as to reach memory has come. -/
def State.memoryFree (s : State) (w : Wave) : Bool :=
  !((s.agenda ++ s.urgent).any fun i => match i with
    | .stashFill c _ _ _ => c == w.cluster
    | .leaseRequest r => r.l2only && r.cluster == w.cluster
    | _ => false) && !(s.sectors.any fun (_, x) => x.busy.isSome)

/-- Whether the wait of an instruction that issues again is over (07 R141, 19 R374). -/
def State.over (s : State) (w : Wave) (who : Who) (why : Why) : Bool :=
  match why with
  | .runAhead => w.runAhead.isNone
  | .inkwell => !s.spent w
  | .chwait ch v => match w.chans[ch]? with
    | some c => decide (v.toNat ≤ c.wp.toNat)
    | none => true
  | .mwait n => decide (w.closed.length ≤ n)
  | .mbatch => decide (w.closed.length < 15)
  | .copyFull ch => match w.chans[ch]? with
    | some c => decide (c.jobs.length < 16)
    | none => true
  | .flags => !(w.pending.any fun p => w.owns who p.who p.own) && (w.ops.isEmpty || match who with
      | .sprig _ => true
      | _ => false)
  | .results => !(w.pending.any fun p => sameFile p.who who)
  | .accesses => (s.outstanding w who).isEmpty
  | .stores => !(w.ops.any fun o => match o.op with
      | .store .. => true
      | _ => false)
  | .allAccesses => !(w.pending.any fun p => !p.parts.isEmpty) &&
      !((s.cluster w.cluster).queue.any fun q => q.wave == w.id) && !(s.mills.any fun u => u.wave == w.id)
  | .blocks n => !(w.pending.any fun p => sameFile p.who (.split 0) && p.regs.any fun q => q.lanes != 0 && match q.reg with
      | .v r => decide (16 * n ≤ r)
      | .s _ => false) &&
      !(w.chans.any fun c => c.jobs.any fun j => match j.form.dst with
        | .regs r => decide (16 * n < r.toNat + (j.bytes + 255) / 256)
        | _ => false)
  | .memory => s.memoryFree w
  | .trapped => w.frame.isNone && w.due.isNone
  | .loading => s.memoryFree w && (s.outstanding w who).isEmpty

/-! The next group of a thread. -/

/-- The wave `w` becomes the one that issues, with its thread `who`. -/
def State.select (s : State) (w : Nat) (who : Who) : State :=
  if s.cur.id = w ∧ s.cur.stage ≠ .none then { s with who := who }
  else match NMap.get? s.waves w with
    | none => s
    | some x =>
      let rest := NMap.erase s.waves w
      { s with cur := x, who := who,
               waves := if s.cur.stage = .none then rest else NMap.set rest s.cur.id s.cur }

/-- The decode table of the thread's packet: after an XLOAD and before XFENCE one of the tables that have been, chosen
once for the packet (04 R96, log entry 11). -/
def State.table (s : State) : NMap W64 :=
  match s.thread.choice with
  | none => s.cur.exemplar
  | some 0 => s.cur.exemplar
  | some (k + 1) => s.cur.oldTables.getD k s.cur.exemplar

/-- An XFENCE of the sprig has fetched its code afresh (04 R100). -/
def State.fencedSprig (s : State) : Bool :=
  match s.sprig? with
  | some p => p.fenced
  | none => false

/-- Chooses the table of a packet, when there is a choice. -/
def State.chooseTable (s : State) : State :=
  if s.cur.oldTables.isEmpty || s.thread.choice.isSome || s.fencedSprig then s
  else
    let k := (List.range s.cur.oldTables.length).foldl (fun k n => if Config.oldTable (s.fresh + n) then n + 1 else k) 0
    { s.setThread { s.thread with choice := some k } with fresh := s.fresh + s.cur.oldTables.length }

/-- The template that a word selects (04 R91, R94). -/
def State.template (s : State) (x : Nat) : W64 := if x < 8 then fixedEntry x else NMap.getD s.table x 0

/-- An instruction that must stand alone in its group (04 R101, 07 R163, 19 R368, R369). -/
def mustBeAlone (i : Instr) : Bool :=
  match i with
  | .trap _ | .trapRet | .trapRetTo _ | .brk _ | .tfence | .brx _ | .brxTbl _ _ => true
  | _ => false

/-- BR, BRX, CALL, RET and EXIT: at most one in a group (07 R165). -/
def transfersControl (i : Instr) : Bool :=
  match i with
  | .brAlways _ | .brP _ | .brNp _ | .brS _ _ | .brx _ | .brxTbl _ _ | .call _ _ | .callR _ _ | .ret _ | .retE _
  | .exit => true
  | _ => false

/-- A word as it decodes through the wave's table (04 R91): 0x05 for an unwritten entry, 0x07 for what the decoder
refuses. -/
def State.decodeWord (s : State) (w : BitVec 32) : Except Stop Instr :=
  let x := (w.extractLsb' 23 7).toNat
  let t := s.template x
  if !templateValid t then .error (.trap { Trap.of 5 with code := x })
  else match decode (x == 6) t w with
    | none => .error illegal
    | some i => .ok i

/-- The slots of the group that begins at a slot (04 R86). -/
def groupSlots (p : BitVec 128) : (fuel slot : Nat) → List Nat
  | 0, _ => []
  | n + 1, slot => slot :: if slot < 2 && (pktWord p slot).getLsbD 31 then groupSlots p n (slot + 1) else []

/-- A word of a packet, with what it may not be in a group (04 R101, 07 R163, R165, 19 R368); `moved`: the group has
transferred control. -/
def State.wordAt (s : State) (p : BitVec 128) (k : Nat) (moved : Bool) : Except Stop Instr :=
  match s.decodeWord (pktWord p k) with
  | .error e => .error e
  | .ok i =>
    let chained := (decide (k < 2) && (pktWord p k).getLsbD 31) || (decide (0 < k) && (pktWord p (k - 1)).getLsbD 31)
    if (mustBeAlone i && chained) || (transfersControl i && moved) then .error illegal else .ok i

/-- The join entry at which a thread about to issue slot 0 of a JOIN packet arrives (07 R159). -/
def State.joinAt (s : State) (p : BitVec 128) : Option (Nat × Rec) :=
  let t := s.thread
  if t.pc.slot = 0 ∧ pktJoin p then
    match t.stack with
    | [] => none
    | e :: _ => match NMap.get? s.recs e with
      | some r => if r.addr = t.pc.pkt then some (e, r) else none
      | none => none
  else none

/-- The packet that the issuing thread has fetched, if it stands in it (04 R97). -/
def State.keptPacket (s : State) : Option (BitVec 128) :=
  match s.thread.code with
  | some (a, p) => if a = s.thread.pc.pkt then some p else NMap.get? s.cur.fetched (fetchKey s.who s.thread.pc.pkt.toNat)
  | none => NMap.get? s.cur.fetched (fetchKey s.who s.thread.pc.pkt.toNat)

/-- The issuing thread's packet: the later slots of a packet come from the same fetch (04 R97). -/
def State.nextPacket (s : State) : Except Nat (BitVec 128) :=
  match s.thread.code with
  | some (a, p) => if s.thread.pc.slot ≠ 0 ∧ a = s.thread.pc.pkt then .ok p else s.fetch s.cur s.thread.pc.pkt.toNat
  | none => s.fetch s.cur s.thread.pc.pkt.toNat

/-- The rest of a group that the issuing thread has left. -/
def State.rest (s : State) : Option Late := (s.cur.late.find? fun x => x.1 == s.who).map (·.2)

/-- Whether a word is left of it. -/
def State.restLeft (s : State) (l : Late) : Bool :=
  s.thread.pc.pkt == l.view.thread.pc.pkt && decide (s.thread.pc.slot ≤ l.last)

/-- The sector that a thread's packet must come from before it can issue (07 R141). -/
def State.packetAway (s : State) (w : Wave) (who : Who) : Option Nat :=
  let t := s.select w.id who
  if (match t.rest with
    | some l => t.restLeft l
    | none => true)
  then match t.nextPacket with
    | .error c => awaySector c
    | .ok _ => none
  else none

/-- The instructions of the group that a thread of a wave would issue next, as far as they decode. -/
def State.nextWords (s : State) (w : Wave) (who : Who) : List Instr :=
  let t := (s.select w.id who).chooseTable
  match t.nextPacket with
  | .error _ => []
  | .ok p =>
    if pktBad p || (t.joinAt p).isSome then []
    else (groupSlots p 3 t.thread.pc.slot).filterMap fun k => match t.wordAt p k false with
      | .ok i => some i
      | .error _ => none

/-- The path classes on which an instruction, or the engine operation that it starts, accesses memory (16 R310, R319):
bit 0 is W, 1 C, 2 X, 3 G, 4 K, 5 F. -/
def classesOf (i : Instr) : BitVec 6 :=
  match i with
  | .ld _ | .st _ | .atom _ | .cas _ | .pref _ | .flush _ | .merge _ | .xload _ _ _ | .patbind _ _ | .patgen _ | .ldprune _
  | .signal _ | .waitv _ | .qput _ | .qtake _ | .spawn _ | .launch _ _ _ => 1
  | .copy _ => 3
  | .mma _ | .mmg _ | .mload _ | .mstore _ => 4
  | .gather _ | .scatter _ | .sred _ => 8
  | .kvx _ _ _ => 16
  | .collAred _ | .collAgat _ _ _ _ | .collRsc _ | .collBcast _ _ _ _ => 32
  | _ => 0

/-- MLOAD, MSTORE and MMOVE, which are debited at issue (07 R148). -/
def debitedAtIssue (i : Instr) : Bool :=
  match i with
  | .mload _ | .mstore _ | .mmove _ => true
  | _ => false

/-- A resumed long instruction goes on: it is not debited again (07 R148 rule 6). -/
def Wave.resumesLong (w : Wave) : Bool := w.prog != 0 && w.frame.isNone

/-- The next group of a thread holds an access that a FENCE holds (16 R319), or a debit that INKWELL does not allow (07
R141, R148). -/
def State.groupHeld (s : State) (w : Wave) (who : Who) (t : Thread) : Bool :=
  let ink := s.spent w
  (!t.holds.isEmpty || ink) && (s.nextWords w who).any fun i =>
    (t.holds.any fun h => h.on &&& classesOf i != 0) || (ink && debitedAtIssue i)

/-- Whether a thread of a wave waits for nothing but its packet (07 R141). -/
def State.threadFree (s : State) (w : Wave) (who : Who) (t : Thread) : Bool :=
  (match t.park with
    | .run => true
    | .marker => !(w.pending.any fun p => w.owns who p.who p.own)
    | .retry why => s.over w who why
    | _ => false) && !s.groupHeld w who t

/-- Whether a thread of a wave can begin issue (07 R141). -/
def State.threadReady (s : State) (w : Wave) (who : Who) (t : Thread) : Bool :=
  s.threadFree w who t && (s.packetAway w who).isNone

/-- Whether a thread of a wave waits for its packet alone, which it has still to ask for. -/
def State.threadAway (s : State) (w : Wave) (who : Who) (t : Thread) : Bool :=
  s.threadFree w who t && (s.packetAway w who).isSome

/-- Whether a wave issues at all: it runs, and no trap of it waits to be taken (19 R366). -/
def Wave.issues (w : Wave) : Bool := w.stage == .running && w.due.isNone

/-- The threads of a wave that issue on its quadrant and for which `ok` holds: the handler alone in handler mode, else the
splits. A wave of a context that is being saved issues nothing (19 R376). -/
def State.splitsThat (s : State) (w : Wave) (ok : Who → Thread → Bool) : List Who :=
  if !w.issues || (s.ctx w.ctx).held then []
  else match w.frame with
    | some f => if ok .handler f.handler then [.handler] else []
    | none => w.splits.filterMap fun (n, t) => if ok (.split n) t then some (.split n) else none

/-- The ready ones. -/
def State.readySplits (s : State) (w : Wave) : List Who := s.splitsThat w (s.threadReady w)

/-- The sprigs of a wave for which `ok` holds, with their nib cores; they run on while a trap of the wave waits and in handler mode (19 R366). A sprig issues once the
results that were pending at its export have been written (08 R174 rule 3, log entry 17). -/
def State.sprigsThat (s : State) (w : Wave) (ok : Who → Thread → Bool) : List (Nat × Nat) :=
  if w.stage != .running || (s.ctx w.ctx).held then []
  else w.sprigs.filterMap fun (j, p) =>
    if !p.recalled && ok (.sprig j) p.th &&
        !(w.pending.any fun q => decide (q.id < p.age) && sameFile q.who (.split 0)) then some (j, p.nib) else none

/-- The ready ones. -/
def State.readySprigs (s : State) (w : Wave) : List (Nat × Nat) := s.sprigsThat w (s.threadReady w)

/-- A thread whose packet is away and that has not asked for it: it asks before any unit chooses, and takes part in no choice
(07 R141 to R143). -/
def State.asksPacket (s : State) : Option (Nat × Who) :=
  s.allWaves.findSome? fun w =>
    match s.splitsThat w (s.threadAway w) with
    | who :: _ => some (w.id, who)
    | [] => ((s.sprigsThat w (s.threadAway w)).head?).map fun (j, _) => (w.id, .sprig j)

/-- The number of the quadrant on which a wave issues. -/
def Wave.unit (w : Wave) : Nat := w.cluster * 16 + w.core * 4 + w.quad

/-- The number of a nib core. -/
def nibUnit (cluster nib : Nat) : Nat := cluster * 16 + 8 + nib

/-- Everything that can issue now: the unit, whether starved, class, age, wave and thread. -/
def State.candidates (s : State) : List (Nat × Bool × Nat × Nat × Nat × Who) :=
  s.allWaves.flatMap fun w =>
    (match s.readySplits w with
      | [] => []
      | who :: _ => [(w.unit, decide (128 ≤ w.starved), w.cls, w.age, w.id, who)]) ++
    (s.readySprigs w).map fun (j, n) =>
      let p := NMap.get? w.sprigs j
      (nibUnit w.cluster n, decide (128 ≤ (p.map (·.starved)).getD 0), w.cls, (p.map (·.age)).getD 0, w.id, .sprig j)

/-- R142: a starved one first, then the higher class, then the older. -/
def before (a b : Nat × Bool × Nat × Nat × Nat × Who) : Bool :=
  if a.2.1 != b.2.1 then a.2.1
  else if !a.2.1 && a.2.2.1 != b.2.2.1 then decide (b.2.2.1 < a.2.2.1)
  else decide (a.2.2.2.1 < b.2.2.2.1)

/-- The best of a list of candidates. -/
def best (xs : List (Nat × Bool × Nat × Nat × Nat × Who)) : Option (Nat × Bool × Nat × Nat × Nat × Who) :=
  xs.foldl (fun acc x => match acc with
    | none => some x
    | some y => if before x y then some x else some y) none

/-- The split that a wave issues from next: the next ready one after the last, in ascending order with wrap-around
(07 R156). -/
def nextSplit (last : Nat) (ready : List Who) : Who :=
  let ix (w : Who) : Nat := match w with
    | .split n => n
    | _ => 0
  match ready.find? fun w => decide (last < ix w) with
  | some w => w
  | none => ready.headD (.split 0)

/-- A cycle passes: the clocked events that fall due come before anything else of it (07 R148 rule 3, 17 R324, R341, 18
R356; 12 R236, 20 R397). -/
def State.endCycle (s : State) : State :=
  let c := s.cycle + 1
  let on (n : Nat) (i : Instr) : List Instr := if c.toNat % n = 0 then [i] else []
  let t := s.time + s.period
  let past (n : Nat) (i : Instr) : List Instr := if t / micros n = s.time / micros n then [] else [i]
  { s with cycle := c, time := t, focus := 0,
           urgent := s.urgent ++ on 64 .tick ++ on 1024 .inkwellRefill ++ on 4096 .logjamScan ++ past 40 .scrubPassEnd ++
             past 60000000 .lifetimeFlush }

/-- The starvation counts of a unit's ready waves or sprigs after its choice (07 R143). -/
def State.starve (s : State) (xs : List (Nat × Bool × Nat × Nat × Nat × Who)) (chosen : Nat × Who) : State :=
  xs.foldl (fun s (_, _, _, _, w, who) =>
    match s.wave? w with
    | none => s
    | some x =>
      match who with
      | .sprig j => match NMap.get? x.sprigs j with
        | some p =>
          let n := if (w, who) = chosen then 0 else p.starved + 1
          s.setWave { x with sprigs := NMap.set x.sprigs j { p with starved := n } }
        | none => s
      | _ => s.setWave { x with starved := if w = chosen.1 then 0 else x.starved + 1 }) s

/-- The next unit with something ready chooses, and what it chooses becomes the issuing thread; none where no unit is left
in this cycle: a round over all units is a cycle (log entry 5). Before that, a thread whose packet is away asks for it. -/
def State.choose (s : State) : Option State :=
  match s.asksPacket with
  | some (w, who) => some (s.select w who)
  | none =>
  let all := s.candidates
  if !(all.any fun c => decide (s.focus ≤ c.1)) then none
  else
    let unit := (all.filter fun c => decide (s.focus ≤ c.1)).foldl (fun acc c => match acc with
      | none => some c.1
      | some u => some (Nat.min u c.1)) none
    let here := all.filter fun c => some c.1 = unit
    match best here with
    | none => none
    | some (u, _, _, _, w, who) =>
      match s.wave? w with
      | none => none
      | some x =>
        let who := match who with
          | .split _ => nextSplit x.lastSplit (s.readySplits x)
          | _ => who
        let s := { s.starve here (w, match who with
          | .sprig j => .sprig j
          | _ => .split 0) with focus := u + 1 }
        let s := s.select w who
        some (match who with
          | .split n => { s with cur := { s.cur with lastSplit := n } }
          | _ => s)

/-- A wave of a die asks for register blocks in this cycle: they are served before a placement (03 R70 rule 6). -/
def State.asksBlocks (s : State) (die : Nat) : Bool :=
  s.allWaves.any fun w => clusterDie w.cluster == die && (s.readySplits w).any fun who =>
    (s.nextWords w who).any fun i => match i with
      | .blkacq _ _ => true
      | _ => false

/-- A recalled sprig may leave again: its wave runs and takes no trap, it is not the one whose trap is being handled, and no save
holds its context (08 R183, 19 R374). -/
def State.mayReexport (s : State) (w : Wave) (j : Nat) : Bool :=
  w.stage == .running && w.due.isNone && !(s.ctx w.ctx).held && match w.frame with
    | some f => f.from_ != .sprig j
    | none => true

/-- A recalled sprig that may leave finds room, or has been home already (08 R172, R183). -/
def State.reexportReady (s : State) (w : Wave) (j : Nat) : Bool :=
  match NMap.get? w.sprigs j with
  | none => true
  | some p => !p.recalled || (s.mayReexport w j && (p.th.park == .join 0 || (s.nibFor w.cluster p.lines).isSome))

/-- The trap that a wave waits to take ends in a stop record, before which all that the wave has issued is performed, as before a
release (19 R371). -/
def State.trapReady (s : State) (w : Wave) : Bool :=
  match w.due with
  | none => true
  | some (who, _, tr) => w.pending.isEmpty && (tr.cause != 0x13 || !s.failsFor w.id) && (!(s.select w.id who).logsTrap || s.over w who .allAccesses)

/-- Whether an event of the agenda may happen now: a placement waits for what R70 serves first, that of a wave swapped out
too; a peer answers while it is reached (17 R339, 20 R383); a launch is accepted
after the cycle in which it was handed over, so that a TEARDOWN of that cycle wins (03 R70, R75); a trap for what it waits for
(19 R366), and a recalled sprig for room (08 R183). -/
def State.eventReady (s : State) (i : Instr) : Bool :=
  match i with
  | .placeWork die => !s.asksBlocks die
  | .waveSwapIn w => (s.wave? w).all fun x => !s.asksBlocks (clusterDie x.cluster)
  | .invalidationAnswer _ b => decide (b ≤ 2) || s.reaches (b - 2)
  | .trapTake w => (s.wave? w).all s.trapReady
  | .sprigReexport w j => (s.wave? w).all fun x => s.reexportReady x j
  | .collStepRun gid _ _ _ => !s.tokenComes gid
  | .launchAccept k => ((NMap.get? s.tickets k).bind (·.cycle)) != some s.cycle
  | _ => true

/-- The event that happens next, if one does: an urgent one, the only one that may happen, or any of them, and then either
an event or a ready wave may come first (log entry 4). -/
def State.nextEvent (s : State) : Option (Instr × State) :=
  match s.urgent with
  | i :: rest => some (i, { s with urgent := rest, fresh := s.fresh + 1 })
  | [] =>
    let ready := (List.range s.agenda.length).filter fun k => (s.agenda[k]?).any s.eventReady
    if ready.isEmpty || (!s.candidates.isEmpty && Config.issueFirst s.fresh) then none
    else
      let k := if ready.length = 1 then ready.headD 0 else ready.getD (Config.pick s.fresh % ready.length) 0
      (s.agenda[k]?).map fun i => (i, { s with agenda := s.agenda.eraseIdx k, fresh := s.fresh + 1 })

/-- What a thread that has been chosen does. -/
inductive Plan where
  | settled (s : State)
  | one (i : Instr) (s : State)
  | group (p : BitVec 128) (slots : List Nat) (s : State)

/-- A merge inside a sprig or a handler, which have no other split (07 R159, 08 R178). -/
def State.mergeOwn (s : State) (e : Nat) (r : Rec) : State :=
  let t := s.thread
  if r.expect &&& ~~~r.arrived != 0 then (s.setRecs (NMap.set s.recs e r)).block (.join e)
  else
    if r.uneven && s.trapsLater then s.setThread { t with park := .retry .trapped }
    else
      let s := (s.setRecs (NMap.erase s.recs e)).setThread { t with mask := r.arrived, stack := t.stack.tail }
      if r.uneven then s.raise t.pc (Trap.of 0x0C) else s

/-- An entry with a thread's lanes arrived (07 R159 step 1). -/
def Rec.arrive (r : Rec) (t : Thread) : Rec :=
  let r := r.bring t t.mask
  { r with arrived := r.arrived ||| t.mask, uneven := r.uneven || r.depth != some t.preds.length }

/-- Arrival (07 R159 steps 1 to 3, 08 R178, R179): the thread's lanes join ARRIVED; it continues at a valid PEND; else a
split waits for the merge, a sprig at its home entry for its rejoining, and a sprig or a handler at an entry of its own
merges once ARRIVED holds EXPECT; a merge of uneven depths faults (07 R159 step 5). -/
def State.arrive (s : State) (e : Nat) (r : Rec) : State :=
  let t := s.thread
  let r := r.arrive t
  let uneven := match s.sprig? with
    | some p => e == 0 && p.exportDepth != t.preds.length
    | none => false
  if uneven then s.raise t.pc (Trap.of 0x0C)
  else match r.pend with
    | some (pc, m) =>
      ((s.setRecs (NMap.set s.recs e { r with pend := none })).extendOwn t.mask m).setThread
        { t with pc := pc, mask := m, choice := none }
    | none =>
      match s.who with
      | .split _ => ((s.setRecs (NMap.set s.recs e r)).block (.join e)).postOnce (.joinMerge s.cur.id e)
      | .sprig j =>
        if e = 0 then ((s.setRecs (NMap.set s.recs e r)).block (.join e)).goHome j r.arrived
        else s.mergeOwn e r
      | .handler => s.mergeOwn e r

/-- A packet fetched for the issuing thread is kept until XFENCE (04 R97). -/
def State.keepPacket (s : State) (p : BitVec 128) : State :=
  let s := s.hold s.cur.cluster s.cur.ctx s.thread.pc.pkt.toNat
  let s := { s with cur := { s.cur with fetched := NMap.set s.cur.fetched (fetchKey s.who s.thread.pc.pkt.toNat) p } }
  s.setThread { s.thread with code := some (s.thread.pc.pkt, p) }

/-- The switch marker of a group. -/
def groupMarker (p : BitVec 128) (slots : List Nat) : Bool := slots.any fun k => (pktWord p k).getLsbD 30

/-- The group of a packet that begins at the thread's slot: one word, one word that does not decode, or several. -/
def State.planGroup (s : State) (p : BitVec 128) : Plan :=
  let k := s.thread.pc.slot
  match groupSlots p 3 k with
  | [_] => (match s.wordAt p k false with
    | .ok i => .one i { s with issue := ⟨false, k, pktLit p, groupMarker p [k], none, none, 0, none, none⟩ }
    | .error e => .settled ({ s with issue := ⟨false, k, pktLit p, false, none, none, 0, none, none⟩ }.halt k e))
  | slots => .group p slots { s with issue := ⟨true, k, pktLit p, groupMarker p slots, some s.nowView, none, 0, none, none⟩ }

/-- The rest of a chain group whose word before it has waited: its words see what the group saw; where no word is left, the
transfer and the marker take effect (log entry 15). -/
def State.planLate (s : State) (p : BitVec 128) (l : Late) : Plan :=
  .group p (groupSlots p 3 s.thread.pc.slot)
    { s with issue := ⟨true, s.thread.pc.slot, pktLit p, l.marker, some l.view, l.transfer, l.raised, none, none⟩ }

/-- A group of which no word is left: its transfer and its marker take effect. -/
def State.endLate (s : State) (l : Late) : State :=
  let s := { s with issue := ⟨false, l.last, 0, l.marker, some l.view, l.transfer, l.raised, none, none⟩ }
  (s.setThread { s.thread with pc := ⟨l.view.thread.pc.pkt, l.last⟩ }).settle l.last

/-- What the chosen thread does with its packet: a packet fault (before an arrival, log entry 88), the rest of a group, an
arrival, or the group at its slot. -/
def State.planPacket (s : State) (p : BitVec 128) : Plan :=
  if pktBad p then .settled (s.raise s.thread.pc (Trap.of 7))
  else match s.rest with
    | some l => s.chooseTable.planLate p l
    | none => match s.joinAt p with
      | some (e, r) => .settled (s.arrive e r)
      | none => s.chooseTable.planGroup p

/-- What the chosen thread does at its packet: it faults on it, arrives at a join, or issues the group at its slot. -/
def State.planFetch (s : State) : Plan :=
  match s.nextPacket with
  | .error c => .settled (s.trapOrWait s.thread.pc { Trap.of c with addr := some s.thread.pc.pkt })
  | .ok p => (s.keepPacket p).planPacket p

/-- What the chosen thread does: it ends a group of which no word is left, or goes on at its packet. -/
def State.plan (s : State) : Plan :=
  let s := s.setThread (s.thread.resume s.cycle.toNat)
  match s.rest with
  | some l => if s.restLeft l then s.planFetch else .settled (s.endLate l)
  | none => s.planFetch

/-- A group of several words that completes as a whole. -/
def State.closeGroup (s : State) (last : Nat) : State := { s with issue := { s.issue with multi := false } }.settle last

/-- A group of several words of which nothing has happened: `post` is what its words came to before the stop (04 R87). -/
def State.stopGroup (pre post : State) (slot : Nat) (e : Stop) : State :=
  { pre with fresh := post.fresh, issue := { pre.issue with slot := slot } }.halt slot e

/-- The rest of a group from its word at slot `k` on is left until that word can issue, or has waited (log entry 15). -/
def State.leaveRest (s : State) (v : View) (transfer : Option Transfer) (marker : Bool) (raised : BitVec 5) (last : Nat) : State :=
  let l : Late := { view := v, last := last, transfer := transfer, marker := marker, raised := raised }
  { s with cur := { s.cur with late := (s.who, l) :: s.cur.late.filter (·.1 != s.who) } }.seeNow

end Sys2Proof.Machine
end

