-- ==== Sys2Proof/Machine/Area.lean ====
section
/-! DEFINITION. The size of the area that a SAVE needs (19 R377, R378), whether a SAVE that waits will stop the waves of its
context (19 R376), and the stop of a long instruction at one of its pre-emption points (19 R374). -/

namespace Sys2Proof.Machine

/-- A little-endian field of a launch record (02 R39). -/
def Launch.field (l : Launch) (off n : Nat) : Nat := ofBytes ((l.record.drop off).take n)

/-- `n` rounded up to a multiple of `a`. -/
def roundUp (n a : Nat) : Nat := (n + a - 1) / a * a

/-! What the image of a context holds. -/

/-- An entry of the pending table: the unplaced teams of a launch, a task, or a launch not accepted. -/
inductive PendEntry where
  | teams (i : Item)
  | task (i : Item)
  | ticket (t : Ticket)
  deriving DecidableEq, Repr

/-- The five tables of an area: the keys of what they hold. -/
structure Roster where
  launches : List Nat
  teams : List Nat
  waves : List Nat
  pend : List PendEntry
  impressions : List Nat
  deriving DecidableEq, Repr

/-- What a context holds, in the order of the tables (19 R377). -/
def State.roster (s : State) (n : Nat) : Roster :=
  let teams := s.teams.filter fun (_, t) => t.ctx == n
  let items := s.items.filter fun i => i.ctx == n && i.restored.isEmpty
  let tasks := (s.allWaves.filter fun w => w.ctx == n && w.team.isNone).map (·.id)
  { launches := (s.launches.filter fun (_, l) => l.ctx == n).map (·.1),
    teams := teams.map (·.1),
    waves := teams.flatMap (fun (_, t) => t.live) ++ tasks.foldl (fun xs x => insertRising x xs) [],
    pend := (items.filter fun i => i.team.isSome).map .teams ++ (items.filter fun i => i.team.isNone).map .task ++
      (s.tickets.filter fun (_, t) => t.ctx == n && t.node.isNone).map fun (_, t) => .ticket t,
    impressions := (s.impressions.filter fun (_, x) => x.ctx == n).map (·.1) }

/-! Offsets of the tables. -/

/-- Pages of shared memory of a team. -/
def State.sharedPages (s : State) (t : Nat) : Nat :=
  (((NMap.get? s.teams t).bind fun x => NMap.get? s.launches x.launch).map (·.field 0x38 2)).getD 0

/-- Bytes of a wave image (19 R378 SIZE). -/
def Wave.imageSize (w : Wave) : Nat := 0x2400 + 4096 * w.held + 16384 * (w.foot.tiles + w.foot.pencils)

/-- Bytes of an entry of the impression table. -/
def impressionSize (patches : Nat) : Nat := roundUp (1088 + 16 * patches) 64

/-- LOFF, TOFF, WOFF, POFF and IOFF, and SIZE (19 R377). -/
def State.offsets (s : State) (r : Roster) : List Nat :=
  let sum (xs : List Nat) : Nat := xs.foldl (· + ·) 0
  let t := 256 + 5376 * r.launches.length
  let tEnd := t + sum (r.teams.map fun k => 4096 + 4096 * s.sharedPages k)
  let w := roundUp tEnd (if r.waves.isEmpty then 256 else 4096)
  let p := w + sum (r.waves.map fun k => roundUp (((s.wave? k).map Wave.imageSize).getD 0) 4096)
  let i := p + 1024 * r.pend.length
  [256, t, w, p, i, i + sum (r.impressions.map fun k =>
    impressionSize (((NMap.get? s.impressions k).map (·.patches.length)).getD 0))]

/-! Stopping for a SAVE. -/

/-- A SAVE of a slot stops its waves: it is accepted and its area is large enough (19 R375, R376). -/
def State.saveGoes (s : State) (n : Nat) : Bool :=
  (s.ctx n).pre.state != 1 && (s.ctx n).state == .run && decide ((s.offsets (s.roster n)).getD 5 0 ≤ (s.ctx n).pre.size.toNat)

/-- A long instruction of the issuing wave stops before its unit `k`: only where a SAVE of its context waits (19 R374, log
entry 83). -/
def State.stopsShort (s : State) (k : Nat) : Bool :=
  s.agenda.contains (.save s.cur.ctx) && s.saveGoes s.cur.ctx && Config.stopsShort s.fresh k

/-- A long instruction stopped at a pre-emption point, in the state with its units done and PROG: it issues again, and the SAVE
comes before anything else issues (19 R374). -/
def State.stopShort (s t : State) : Except Stop State :=
  if s.issue.multi then .error .long
  else
    let t := { t with agenda := t.agenda.filter (· != Instr.save s.cur.ctx), issue := { t.issue with marker := false, transfer := some .done } }
    .ok (t.soon (.save s.cur.ctx))

/-- A long instruction has completed: PROG is 0 (19 R373). -/
def State.endLong (s : State) : State := { s with cur := { s.cur with prog := 0 } }

/-- PROG of a long instruction that stops. -/
def State.setProg (s : State) (p : W64) : State := { s with cur := { s.cur with prog := p } }

/-- The unit, of those left, before which a long instruction stops short; never the first of them. -/
def State.shortAt (s : State) (units : List Nat) : Option Nat := (units.drop 1).find? s.stopsShort

/-- The end of a long instruction in the state with its units done: a fault or a SAVE stops it with PROG, or it has completed
(19 R362, R373, R374). -/
def State.closeLong (s t : State) (tr : Option (W64 × Trap)) (cut : Option Nat) : Except Stop State :=
  match cut, tr with
  | some k, _ => s.stopShort (t.setProg (w64 k))
  | none, some (p, tr) => s.stopLong (t.setProg p) tr
  | none, none => .ok t.endLong

end Sys2Proof.Machine
end

