-- ==== Sys2Proof/Machine/Operands.lean ====
section
/-! DEFINITION. Operand values (04 R84, 09 R187), tag checks (06 R129), and the writing of elements of a destination
(06 R115, 09 R186, R189, R202). -/

namespace Sys2Proof

/-- The least value of an integer format. -/
def Fmt.least (f : Fmt) : Int := if f.isSigned then -(2 ^ (f.width - 1) : Nat) else 0

/-- The greatest value of an integer format. -/
def Fmt.greatest (f : Fmt) : Int := if f.isSigned then (2 ^ (f.width - 1) : Nat) - 1 else (2 ^ f.width : Nat) - 1

/-- The element positions that take part (09 R186). -/
def Fmt.elems (f : Fmt) (sel : Sel) : List Nat :=
  match sel with
  | none => List.range (64 / f.width)
  | some k => [k.toNat]

/-- The operand that a destination is, read as a source. -/
def Dest.operand (d : Dest) : Operand :=
  match d with
  | .v r => .v r
  | .s r => .u (.s r)

/-- The third source of an instruction with destination `d` (04 R89). -/
def Third.operand (t : Third) (d : Dest) : Operand :=
  match t with
  | .old => d.operand
  | .op o => o

end Sys2Proof

namespace Sys2Proof.Machine

/-- The pattern that packet literal L gives in one of its modes (04 R84). -/
def litPattern (l : BitVec 24) (m : BitVec 2) : W64 :=
  match m.toNat with
  | 0 => sext64 l
  | 1 => l.zeroExtend 64
  | 2 => w64 (l.toNat * 2 ^ 24)
  | _ => w64 (l.toNat % 2 ^ 16 * 2 ^ 48)

/-- The 64-bit image of a source that is one value for every lane (04 R84). -/
def State.image (s : State) (x : Src) : W64 :=
  match x with
  | .s r => s.sval r.toNat
  | .c e => s.const s.cur s.rsys.cwin.toNat e.toNat
  | .imm i => sext64 i
  | .lit m => litPattern s.issue.lit m

/-- The 64-bit image of an operand in a lane. -/
def State.laneImage (s : State) (o : Operand) (lane : Nat) : W64 :=
  match o with
  | .v r => s.vval r.toNat lane
  | .u x => s.image x

/-- Element `k` of an operand in a lane, at format `f` (04 R84, 09 R187). -/
def State.elemAt (s : State) (f : Fmt) (o : Operand) (lane k : Nat) : Nat :=
  match o with
  | .v r => elem f.width (s.vval r.toNat lane) k
  | .u (.s r) => elem f.width (s.sval r.toNat) k
  | .u (.c e) => bitsOf (s.image (.c e)).toNat 0 f.width
  | .u x =>
    let p := (s.image x).toNat
    if f.litTop then bitsOf p (64 - f.width) f.width else bitsOf p 0 f.width

/-- The same as a number, signed for a signed format. -/
def State.numAt (s : State) (f : Fmt) (o : Operand) (lane k : Nat) : Int := f.num (s.elemAt f o lane k)

/-- A source of one value read at a format of 64 or fewer bits, as an unsigned number. -/
def State.value (s : State) (f : Fmt) (x : Src) : Nat := s.elemAt f (.u x) 0 0

/-- The tag of an operand; constants and literals have none (06 R129 rule 7). -/
def State.tagOf (s : State) (o : Operand) : Option Fmt :=
  match o with
  | .v r => some (s.vreg r.toNat).tag
  | .u (.s r) => some (s.sreg r.toNat).tag
  | .u _ => none

/-- The tag check of one operand (06 R129). -/
def State.tagIn (s : State) (ok : Fmt → Bool) (o : Operand) : Except Stop Unit :=
  match s.tagOf o with
  | none => .ok ()
  | some t => need (ok t) (tagFault t)

/-- The tag check of a source of one value. -/
def State.srcTag (s : State) (ok : Fmt → Bool) (x : Src) : Except Stop Unit := s.tagIn ok (.u x)

/-- The tag checks of several operands, in order. -/
def State.tagsIn (s : State) (ok : Fmt → Bool) (os : List Operand) : Except Stop Unit :=
  match os with
  | [] => .ok ()
  | o :: rest => match s.tagIn ok o with
    | .error e => .error e
    | .ok _ => s.tagsIn ok rest

/-- Tags accepted for an address: addr, n64 or b64. -/
def addrTag (t : Fmt) : Bool := t == .addr || t == .n64 || t == .b64
/-- Tags accepted for a count: an integer format or b64. -/
def countTag (t : Fmt) : Bool := t.isInt || t == .b64
/-- Tags accepted for an n64 value that may be raw: n64 or b64. -/
def rawTag (t : Fmt) : Bool := t == .n64 || t == .b64
/-- Tags accepted by the arithmetic of 09 R188 under format `f`. -/
def intTag (f t : Fmt) : Bool := t == f || t == .b64 || (f == .n32 && t == .idx32) || (f == .n64 && t == .addr)

/-- The lanes that an element-wise form computes: the active ones, or the scalar destination once. -/
def State.lanesFor (s : State) (d : Dest) : List Nat :=
  match d with
  | .v _ => s.active.toList
  | .s _ => [0]

/-- A form that keeps part of its destination waits for a result pending there (09 R189, 10 R202); one of the S-pipe too (log entry
89). -/
def State.partialReady (s : State) (sel : Sel) (d : Dest) : Except Stop Unit :=
  match d with
  | .v r => need (s.active == 0 || (sel.isNone && s.active == -1) || !s.awaits (.v r.toNat)) (.wait .results)
  | .s r => need (sel.isNone || !s.awaits (.s r.toNat)) (.wait .results)

/-- A form of variable latency that keeps part of its destination waits for what an earlier word of its group has issued for it
(09 R189). -/
def State.ownReady (s : State) (sel : Sel) (d : Dest) : Except Stop Unit :=
  need (sel.isNone || !s.awaitsOwn (RegName.ofDest d)) (.wait .results)

/-- A new image of a lane from the values of its selected elements (06 R115, 09 R186). -/
def newImage (w : Nat) (sel : Sel) (old : W64) (g : Nat → Nat) : W64 :=
  match sel with
  | none => buildElems w g
  | some k => setElem w old k.toNat (g k.toNat)

/-- The bits of element `k` of a lane. -/
def elemBits (w k : Nat) : W64 := setElem w 0 k (2 ^ w - 1)

/-- The bits of a lane that a form writes. -/
def selBits (w : Nat) (sel : Sel) : W64 :=
  match sel with
  | none => -1
  | some k => elemBits w k.toNat

/-- Writes the selected elements of a destination with the tag of the result. -/
def State.putElems (s : State) (f tag : Fmt) (sel : Sel) (d : Dest) (g : Nat → Nat → Nat) : State :=
  if sel.isSome && s.awaitsOwn (RegName.ofDest d) then
    s.writePart (RegName.ofDest d) tag (match d with
      | .v _ => s.active
      | .s _ => -1) (selBits f.width sel) fun l => newImage f.width sel 0 (g l)
  else match d with
  | .v r =>
    let old := (s.file.vregs.getD r.toNat ⟨.b64, []⟩).lanes
    s.writeV r.toNat tag s.active fun l => newImage f.width sel (old.getD l 0) (g l)
  | .s r => s.writeS r.toNat tag (newImage f.width sel (s.file.sregs.getD r.toNat ⟨.b64, 0⟩).val (g 0))

/-- An image with some of its elements replaced. -/
def putSome (w : Nat) (old : W64) (xs : List (Nat × Nat)) : W64 :=
  xs.foldl (fun x (k, v) => setElem w x k v) old

/-- Writes some elements of a width, numbered with their values, in a destination that keeps the others. -/
def State.putParts (s : State) (w : Nat) (tag : Fmt) (d : Dest) (g : Nat → List (Nat × Nat)) : State :=
  if decide ((g 0).length < 64 / w) && s.awaitsOwn (RegName.ofDest d) then
    s.writePart (RegName.ofDest d) tag (match d with
      | .v _ => s.active
      | .s _ => -1) ((g 0).foldl (fun x (k, _) => x ||| elemBits w k) 0) fun l => putSome w 0 (g l)
  else match d with
    | .v r => s.writeV r.toNat tag s.active fun l => putSome w (s.file.lane (.v r.toNat) l) (g l)
    | .s r => s.writeS r.toNat tag (putSome w (s.file.lane (.s r.toNat) 0) (g 0))

/-- Writes whole images of a destination. -/
def State.putImages (s : State) (tag : Fmt) (d : Dest) (g : Nat → W64) : State :=
  match d with
  | .v r => s.writeV r.toNat tag s.active g
  | .s r => s.writeS r.toNat tag (g 0)

/-- The flags that a computation raises over the lanes and elements that take part (06 R135 rule 1). -/
def State.flagsOver (s : State) (f : Fmt) (sel : Sel) (d : Dest) (g : Nat → Nat → BitVec 5) : BitVec 5 :=
  (s.lanesFor d).foldl (fun acc l => (f.elems sel).foldl (fun acc k => acc ||| g l k) acc) 0

/-- An element-wise operation of fixed latency: footprint, tags, the wait of a partial write, then the elements. -/
def State.elementwise (s : State) (f tag : Fmt) (sel : Sel) (d : Dest) (ops : List Operand) (ok : Fmt → Bool)
    (g : Nat → Nat → Nat) : Except Stop State := do
  need (s.destOk d && ops.all s.opOk) illegal
  s.tagsIn ok ops
  s.partialReady sel d
  .ok (s.putElems f tag sel d g)

/-- The same for an operation whose elements raise flags. -/
def State.elementwiseF (s : State) (f tag : Fmt) (sel : Sel) (d : Dest) (ops : List Operand) (ok : Fmt → Bool)
    (g : Nat → Nat → Nat × BitVec 5) : Except Stop State := do
  need (s.destOk d && ops.all s.opOk) illegal
  s.tagsIn ok ops
  s.partialReady sel d
  .ok ((s.putElems f tag sel d fun l k => (g l k).1).raiseFlags (s.flagsOver f sel d fun l k => (g l k).2))

/-- A comparison's result (09 R192, 10 R205): a mask of the element width in a vector register, or one bit for each
selected element in a scalar register with tag n64. -/
def State.putMask (s : State) (f : Fmt) (sel : Sel) (d : Dest) (g : Nat → Nat → Bool) : State :=
  match d with
  | .v _ => s.putElems f .mask sel d fun l k => if g l k then 2 ^ f.width - 1 else 0
  | .s r => s.writeS r.toNat .n64 (w64 ((f.elems sel).foldl (fun acc k => if g 0 k then acc + 2 ^ k else acc) 0))

/-- A scalar comparison replaces the whole of its destination, so only a vector one may write a part. -/
def maskSel (sel : Sel) (d : Dest) : Sel :=
  match d with
  | .v _ => sel
  | .s _ => none

end Sys2Proof.Machine
end

