-- ==== Sys2Proof/Machine/Flags.lean ====
section
/-! DEFINITION. The sticky flags (06 R132, R133) and the fitting of exact integers (06 R117, 09 R190). -/

namespace Sys2Proof.Machine

/-- Inexact (06 R133). -/
def flagNX : BitVec 5 := 1
/-- Underflow. -/
def flagUF : BitVec 5 := 2
/-- Overflow. -/
def flagOF : BitVec 5 := 4
/-- Division by zero. -/
def flagDZ : BitVec 5 := 8
/-- Invalid operation. -/
def flagIV : BitVec 5 := 16

/-- A flag where a condition holds. -/
def flagIf (b : Bool) (f : BitVec 5) : BitVec 5 := if b then f else 0

/-- An integer clamped to a format's range. -/
def clampTo (f : Fmt) (r : Int) : Int := if r < f.least then f.least else if f.greatest < r then f.greatest else r

/-- An exact integer result fitted to a format: clamped under SAT, else modulo 2^w (09 R190). -/
def fit (f : Fmt) (sat : Bool) (r : Int) : Nat := wrapInt f.width (if sat then clampTo f r else r)

/-- FLAGS that TFENCE finds enabled (06 R134). -/
def trapping (flags ftrap : BitVec 5) : Bool := flags &&& ftrap != 0

end Sys2Proof.Machine
end

