-- ==== Sys2Proof/Machine/Float.lean ====
section
/-! DEFINITION. Exact values of the floating formats and their one rounding (06 R118 to R122, R130 to R132), sums,
products, comparisons and conversions (10 R203 to R209). -/

namespace Sys2Proof

/-- The fraction bits of a floating format (06 R118, R120). -/
def Fmt.frac : Fmt → Nat
  | .f64 => 52 | .f32 => 23 | .f16 => 10 | .bf16 => 7 | .e4m3 => 3 | .e5m2 => 2 | .e2m1 => 1
  | _ => 0

/-- The exponent of the smallest subnormal (06 R118, R120). -/
def Fmt.least2 : Fmt → Int
  | .f64 => -1074 | .f32 => -149 | .f16 => -24 | .bf16 => -133 | .e4m3 => -9 | .e5m2 => -16 | .e2m1 => -1
  | _ => 0

/-- The code of the largest finite value (06 R118, R120). -/
def Fmt.maxCode : Fmt → Nat
  | .f64 => 0x7FEFFFFFFFFFFFFF | .f32 => 0x7F7FFFFF | .f16 => 0x7BFF | .bf16 => 0x7F7F | .e4m3 => 0x7E
  | .e5m2 => 0x7B | .e2m1 => 0x7
  | _ => 0

/-- The canonical NaN (06 R118, R120). -/
def Fmt.nanCode : Fmt → Nat
  | .f64 => 0x7FF8000000000000 | .f32 => 0x7FC00000 | .f16 => 0x7E00 | .bf16 => 0x7FC0 | .e4m3 => 0x7F
  | .e5m2 => 0x7E | .e8m0 => 0xFF
  | _ => 0

/-- Whether a format has infinities (06 R118, R120). -/
def Fmt.hasInf (f : Fmt) : Bool := f.isFloat || f == .e5m2

/-- The code that follows the largest finite one: +∞ where the format has it. -/
def Fmt.infCode (f : Fmt) : Nat := f.maxCode + 1

end Sys2Proof

namespace Sys2Proof.Machine

/-- A value: a NaN, an infinity, or ± m × 2^e. -/
inductive Num where
  | nan (sig : Bool)
  | inf (neg : Bool)
  | fin (neg : Bool) (m : Nat) (e : Int)
  deriving DecidableEq, Repr

/-- The value of a code of a floating format or of e8m0 (06 R118 to R122). -/
def numOf (f : Fmt) (x : Nat) : Num :=
  if f == .e8m0 then (if x % 256 = 255 then .nan false else .fin false 1 ((x % 256 : Nat) - 127))
  else
    let half := 2 ^ (f.width - 1)
    let c := x % half
    let neg := decide (x % (2 * half) ≥ half)
    let fr := c % 2 ^ f.frac
    let ex := c / 2 ^ f.frac
    if f.hasInf && decide (f.maxCode < c) then
      (if fr = 0 then .inf neg else .nan (decide (fr < 2 ^ (f.frac - 1))))
    else if f == .e4m3 && decide (f.maxCode < c) then .nan false
    else if ex = 0 then .fin neg fr f.least2
    else .fin neg (2 ^ f.frac + fr) (f.least2 + ex - 1)

/-- An integer as a value. -/
def numInt (x : Int) : Num := .fin (decide (x < 0)) x.natAbs 0

/-- Whether a value is a signalling NaN. -/
def Num.signals : Num → Bool
  | .nan s => s
  | _ => false
/-- Whether a value is a NaN. -/
def Num.isNan : Num → Bool
  | .nan _ => true
  | _ => false
/-- Whether a value is an infinity. -/
def Num.isInf : Num → Bool
  | .inf _ => true
  | _ => false
/-- Whether a value is zero. -/
def Num.isZero : Num → Bool
  | .fin _ 0 _ => true
  | _ => false

/-- A value with the other sign; a NaN stays. -/
def Num.neg : Num → Num
  | .nan s => .nan s
  | .inf n => .inf (!n)
  | .fin n m e => .fin (!n) m e

/-- Whether a magnitude between `q` and `q` + 1 units goes up: `r` of `2^d` parts are left over (06 R130). -/
def goesUp (rnd : Rnd) (neg : Bool) (q r d : Nat) : Bool :=
  match rnd with
  | .rne => decide (2 ^ d < 2 * r) || (decide (2 * r = 2 ^ d) && q % 2 == 1)
  | .rtz => false
  | .rdn => neg && r != 0
  | .rup => !neg && r != 0

/-- `m` × 2^e in units of 2^u, rounded, and whether that is exact. What lies below a quarter of a unit is one part of
four. -/
def toUnits (rnd : Rnd) (neg : Bool) (m : Nat) (e u : Int) : Nat × Bool :=
  if u ≤ e then (m * 2 ^ (e - u).toNat, true)
  else
    let d := (u - e).toNat
    if m.log2 + 2 < d then
      (if goesUp rnd neg 0 (if m = 0 then 0 else 1) 2 then 1 else 0, m == 0)
    else
      let q := m / 2 ^ d
      let r := m % 2 ^ d
      (if goesUp rnd neg q r d then q + 1 else q, r == 0)

/-- The magnitude code, with the exponent unbounded above, to which a nonzero magnitude rounds (06 R130). -/
def roundCode (f : Fmt) (rnd : Rnd) (neg : Bool) (m : Nat) (e : Int) : Nat × Bool :=
  let u := max ((m.log2 : Int) + e - f.frac) f.least2
  let (n, exact) := toUnits rnd neg m e u
  ((u - f.least2).toNat * 2 ^ f.frac + n, exact)

/-- The sign bit of a format. -/
def signCode (f : Fmt) (neg : Bool) : Nat := if neg then 2 ^ (f.width - 1) else 0

/-- What an overflowed value delivers (06 R131); e2m1 clamps (10 R209). -/
def overflowCode (f : Fmt) (rnd : Rnd) (sat neg : Bool) : Nat :=
  let away := match rnd with
    | .rne => true
    | .rtz => false
    | .rdn => neg
    | .rup => !neg
  if sat || f == .e2m1 || !away then signCode f neg + f.maxCode
  else if f.hasInf then signCode f neg + f.infCode
  else f.nanCode

/-- A value rounded once to a floating format, with its flags (06 R130 to R132; 10 R209). A NaN raises IV only where it
signals, and any NaN does on the way to e2m1. -/
def roundTo (f : Fmt) (rnd : Rnd) (sat : Bool) (x : Num) : Nat × BitVec 5 :=
  match x with
  | .nan s => if f == .e2m1 then (0, flagIV) else (f.nanCode, flagIf s flagIV)
  | .inf n =>
    if f.hasInf then (signCode f n + f.infCode, 0)
    else if f == .e2m1 || sat then (signCode f n + f.maxCode, flagIV)
    else (f.nanCode, flagIV)
  | .fin n m e =>
    if m = 0 then (signCode f n, 0)
    else
      let (c, exact) := roundCode f rnd n m e
      if f.maxCode < c then (overflowCode f rnd sat n, flagOF ||| flagNX)
      else (signCode f n + c, flagIf (!exact) flagNX ||| flagIf (!exact && decide (c < 2 ^ f.frac)) flagUF)

/-- The exact product (10 R203); flags are those of NaNs and of 0 × ∞. -/
def mulNum (x y : Num) : Num × BitVec 5 :=
  let sig := flagIf (x.signals || y.signals) flagIV
  match x, y with
  | .nan _, _ => (.nan false, sig)
  | _, .nan _ => (.nan false, sig)
  | .inf a, .inf b => (.inf (a != b), 0)
  | .inf a, .fin b m _ => if m = 0 then (.nan false, flagIV) else (.inf (a != b), 0)
  | .fin a m _, .inf b => if m = 0 then (.nan false, flagIV) else (.inf (a != b), 0)
  | .fin a m e, .fin b n g => (.fin (a != b) (m * n) (e + g), 0)

/-- The signed integer of a finite value in units of 2^u, for u at most its exponent. -/
def inUnits (neg : Bool) (m : Nat) (e u : Int) : Int :=
  let x : Int := m * 2 ^ (e - u).toNat
  if neg then -x else x

/-- The exact sum (10 R203): an exact zero of operands of opposite sign is −0 under RDN alone. -/
def addNum (rnd : Rnd) (x y : Num) : Num × BitVec 5 :=
  let sig := flagIf (x.signals || y.signals) flagIV
  match x, y with
  | .nan _, _ => (.nan false, sig)
  | _, .nan _ => (.nan false, sig)
  | .inf a, .inf b => if a = b then (.inf a, 0) else (.nan false, flagIV)
  | .inf a, .fin _ _ _ => (.inf a, 0)
  | .fin _ _ _, .inf b => (.inf b, 0)
  | .fin a m e, .fin b n g =>
    if m = 0 ∧ n = 0 then (.fin (if a = b then a else rnd == .rdn) 0 0, 0)
    else if m = 0 then (.fin b n g, 0)
    else if n = 0 then (.fin a m e, 0)
    else
      let u := min e g
      let r := inUnits a m e u + inUnits b n g u
      if r = 0 then (.fin (rnd == .rdn) 0 0, 0) else (.fin (decide (r < 0)) r.natAbs u, 0)

/-- x + y, rounded once (10 R203). -/
def fadd (f : Fmt) (rnd : Rnd) (sat : Bool) (x y : Num) : Nat × BitVec 5 :=
  let (z, a) := addNum rnd x y
  let (r, b) := roundTo f rnd sat z
  (r, a ||| b)

/-- x × y, rounded once (10 R203). -/
def fmul (f : Fmt) (rnd : Rnd) (sat : Bool) (x y : Num) : Nat × BitVec 5 :=
  let (z, a) := mulNum x y
  let (r, b) := roundTo f rnd sat z
  (r, a ||| b)

/-- x × y + z, rounded once (10 R203, R211). -/
def ffma (f : Fmt) (rnd : Rnd) (sat : Bool) (x y z : Num) : Nat × BitVec 5 :=
  let (p, a) := mulNum x y
  let (r, b) := fadd f rnd sat p z
  (r, a ||| b)

/-- Whether the number x is below the number y. -/
def ltNum (x y : Num) : Bool :=
  match x, y with
  | .inf a, .inf b => a && !b
  | .inf a, .fin _ _ _ => a
  | .fin _ _ _, .inf b => !b
  | .fin a m e, .fin b n g => decide (inUnits a m e (min e g) < inUnits b n g (min e g))
  | _, _ => false

/-- The sign of a number. -/
def Num.isNeg : Num → Bool
  | .nan _ => false
  | .inf n => n
  | .fin n _ _ => n

/-- FMIN or FMAX of two codes (10 R204): −0 lies below +0; `strict` is .nan. -/
def fminmax (f : Fmt) (max_ strict : Bool) (x y : Nat) : Nat × BitVec 5 :=
  let a := numOf f x
  let b := numOf f y
  let fl := flagIf (a.signals || b.signals) flagIV
  let below := ltNum a b || (a.isZero && b.isZero && a.isNeg && !b.isNeg)
  if a.isNan && b.isNan then (f.nanCode, fl)
  else if a.isNan then (if strict then f.nanCode else y, fl)
  else if b.isNan then (if strict then f.nanCode else x, fl)
  else (if below != max_ then x else y, fl)

/-- FCMP of two values (10 R205). -/
def FCond.holds (c : FCond) (x y : Num) : Bool × BitVec 5 :=
  let un := x.isNan || y.isNan
  let sig := x.signals || y.signals
  let loud := flagIf un flagIV
  let quiet := flagIf sig flagIV
  let lt := ltNum x y
  let gt := ltNum y x
  match c with
  | .eq => (!un && !lt && !gt, quiet)
  | .ne => (un || lt || gt, quiet)
  | .lt => (!un && lt, loud)
  | .le => (!un && !gt, loud)
  | .gt => (!un && gt, loud)
  | .ge => (!un && !lt, loud)
  | .un => (un, quiet)
  | .ord => (!un, quiet)

/-- A conversion into an integer format: rounded, then clamped (06 R117, 10 R209). -/
def toInteger (f : Fmt) (rnd : Rnd) (x : Num) : Nat × BitVec 5 :=
  match x with
  | .nan _ => (0, flagIV)
  | .inf n => (wrapInt f.width (if n then f.least else f.greatest), flagIV)
  | .fin n m e =>
    let (q, exact) := toUnits rnd n m e 0
    let r : Int := if n then -q else q
    if r < f.least ∨ f.greatest < r then (wrapInt f.width (clampTo f r), flagIV)
    else (wrapInt f.width r, flagIf (!exact) flagNX)

/-- A conversion into e8m0 (10 R209; NX beside a NaN's IV: log entry 90). -/
def toScale (rnd : Rnd) (sat : Bool) (x : Num) : Nat × BitVec 5 :=
  match x with
  | .nan _ => (0xFF, flagIV)
  | .inf _ => (0xFF, flagOF ||| flagNX)
  | .fin n m e =>
    if m = 0 then (0, flagUF ||| flagNX)
    else
      let two := decide (m = 2 ^ m.log2)
      let c : Int := (m.log2 : Int) + e + 127 + (if rnd == .rup && !two then 1 else 0)
      if 254 < c then (if sat then 0xFE else 0xFF, flagOF ||| flagNX)
      else if c < 0 then (0, flagUF ||| flagNX)
      else (c.toNat, flagIf (n || !two) flagNX)

/-- The format whose rules a conversion uses: idx32 as n32, addr and b64 as n64 (10 R206, R208). -/
def cvtFmt (f : Fmt) : Fmt :=
  match f with
  | .idx32 => .n32
  | .addr => .n64
  | .b64 => .n64
  | f => f

/-- conv() of 10 R209. -/
def convElem (src dst : Fmt) (rnd : Rnd) (sat : Bool) (x : Nat) : Nat × BitVec 5 :=
  let a := cvtFmt src
  let b := cvtFmt dst
  if a.isInt && b.isInt then (fit b sat (a.num x), 0)
  else
    let n := if a.isInt then numInt (a.num x) else numOf a x
    if b.isInt then toInteger b rnd n
    else if b == .e8m0 then toScale rnd sat n
    else roundTo b rnd sat n

end Sys2Proof.Machine
end

