-- ==== Sys2Proof/Machine/Special.lean ====
section
/-! DEFINITION. The functions of SFN, rounded once (10 R210). An algebraic function is computed to enough bits and one
sticky bit; the others are enclosed by integer intervals at scale 2^k, with k growing until both ends round alike (log
entry 13). -/

namespace Sys2Proof.Machine

/-- The integer square root. -/
def isqrt (x : Nat) : Nat :=
  (List.range (x.log2 / 2 + 1)).reverse.foldl (fun r i => if (r + 2 ^ i) * (r + 2 ^ i) ≤ x then r + 2 ^ i else r) 0

/-- `q` with a sticky bit below it, at exponent `e`. -/
def stickyNum (neg : Bool) (q : Nat) (exact : Bool) (e : Int) : Num :=
  .fin neg (2 * q + if exact then 0 else 1) (e - 1)

/-- 1 / (m × 2^e) to `p` bits and a sticky one. -/
def recipNum (neg : Bool) (m : Nat) (e : Int) (p : Nat) : Num :=
  let k := m.log2 + p
  stickyNum neg (2 ^ k / m) (2 ^ k % m == 0) (-(k : Int) - e)

/-- √(m × 2^e) to `p` bits and a sticky one. -/
def sqrtNum (m : Nat) (e : Int) (p : Nat) : Num :=
  let m := if e % 2 = 0 then m else 2 * m
  let e := if e % 2 = 0 then e else e - 1
  let x := m * 2 ^ (2 * p)
  let r := isqrt x
  stickyNum false r (r * r == x) (e / 2 - p)

/-- 1 / √(m × 2^e) to `p` bits and a sticky one. -/
def rsqrtNum (m : Nat) (e : Int) (p : Nat) : Num :=
  let m := if e % 2 = 0 then m else 2 * m
  let e := if e % 2 = 0 then e else e - 1
  let k := m.log2 + p
  let r := isqrt (2 ^ (2 * k) / m)
  stickyNum false r (r * r * m == 2 ^ (2 * k)) (-(k : Int) - e / 2)

/-- Twice the inverse hyperbolic tangent of a/b, for 0 ≤ a/b ≤ 1/3, enclosed at scale 2^k: sums of the odd powers. -/
def atanh2 (a b k : Nat) : Nat × Nat :=
  let n := k / 3 + 2
  let init : Nat × Nat × Nat × Nat := (2 ^ (k + 1) * a / b, 2 ^ (k + 1) * a / b + 1, 0, 0)
  let (_, hi, sl, sh) := (List.range n).foldl (fun (lo, hi, sl, sh) i =>
    (lo * a * a / (b * b), hi * a * a / (b * b) + 1, sl + lo / (2 * i + 1), sh + hi / (2 * i + 1) + 1)) init
  (sl, sh + 2 * hi)

/-- The inverse tangent of 1/b enclosed at scale 2^k. -/
def atanInv (b k : Nat) : Nat × Nat :=
  let n := k / 4 + 2
  let (_, hi, pl, ph, nl, nh) := (List.range n).foldl (fun (lo, hi, pl, ph, nl, nh) i =>
    let tl := lo / (2 * i + 1)
    let th := hi / (2 * i + 1) + 1
    if i % 2 = 0 then (lo / (b * b), hi / (b * b) + 1, pl + tl, ph + th, nl, nh)
    else (lo / (b * b), hi / (b * b) + 1, pl, ph, nl + tl, nh + th))
    ((2 ^ k / b, 2 ^ k / b + 1, 0, 0, 0, 0) : Nat × Nat × Nat × Nat × Nat × Nat)
  (pl - nh - hi, ph + hi - nl)

/-- π enclosed at scale 2^k. -/
def piBounds (k : Nat) : Nat × Nat :=
  let (al, ah) := atanInv 5 k
  let (bl, bh) := atanInv 239 k
  (16 * al - 4 * bh, 16 * ah - 4 * bl)

/-- The natural logarithm of 2 enclosed at scale 2^k. -/
def ln2Bounds (k : Nat) : Nat × Nat := atanh2 1 3 k

/-- The exponential of a number from 0 to 1, given and enclosed at scale 2^k. -/
def expBounds (tl th k : Nat) : Nat × Nat :=
  let n := k / 4 + 20
  let (_, hi, sl, sh) := (List.range n).foldl (fun (lo, hi, sl, sh) i =>
    (lo * tl / 2 ^ k / (i + 1), hi * th / 2 ^ k / (i + 1) + 2, sl + lo, sh + hi))
    ((2 ^ k, 2 ^ k, 0, 0) : Nat × Nat × Nat × Nat)
  (sl, sh + 2 * hi)

/-- The sine of a number from 0 to 2, given and enclosed at scale 2^k. -/
def sinBounds (tl th k : Nat) : Nat × Nat :=
  let n := k / 4 + 20
  let (_, hi, pl, ph, nl, nh) := (List.range n).foldl (fun (lo, hi, pl, ph, nl, nh) i =>
    let d := (2 * i + 2) * (2 * i + 3)
    let lo' := lo * tl / 2 ^ k * tl / 2 ^ k / d
    let hi' := (hi * th / 2 ^ k + 1) * th / 2 ^ k / d + 2
    if i % 2 = 0 then (lo', hi', pl + lo, ph + hi, nl, nh) else (lo', hi', pl, ph, nl + lo, nh + hi))
    ((tl, th, 0, 0, 0, 0) : Nat × Nat × Nat × Nat × Nat × Nat)
  (pl - nh - 2 * hi, ph + 2 * hi - nl)

/-- The rounding on which both ends of an open interval at scale 2^k, shifted by 2^e, agree. -/
def agree (f : Fmt) (rnd : Rnd) (neg : Bool) (b : Nat × Nat) (k : Nat) (e : Int) : Option (Nat × BitVec 5) :=
  let lo := roundTo f rnd false (.fin neg (2 * b.1 + 1) (e - k - 1))
  let hi := roundTo f rnd false (.fin neg (2 * b.2 - 1) (e - k - 1))
  if lo = hi then some lo else none

/-- The first precision at which a rounding is settled. -/
def settled (g : Nat → Option (Nat × BitVec 5)) : (fuel k : Nat) → Option (Nat × BitVec 5)
  | 0, _ => none
  | n + 1, k => match g k with
    | some r => some r
    | none => settled g n (2 * k)

/-- 2^(n + a/b) for 0 < a/b < 1. -/
def exp2At (f : Fmt) (rnd : Rnd) (n : Int) (a b k : Nat) : Option (Nat × BitVec 5) :=
  let (ll, lh) := ln2Bounds k
  agree f rnd false (expBounds (ll * a / b) (lh * a / b + 1) k) k n

/-- log2 (m × 2^e) for m not a power of two. -/
def log2At (f : Fmt) (rnd : Rnd) (m : Nat) (e : Int) (k : Nat) : Option (Nat × BitVec 5) :=
  let p := 2 ^ m.log2
  let (al, ah) := atanh2 (m - p) (m + p) k
  let (ll, lh) := ln2Bounds k
  let base : Int := ((m.log2 : Int) + e) * (2 ^ k : Nat)
  let lo := base + (al * 2 ^ k / lh : Nat)
  let hi := base + (ah * 2 ^ k / ll + 1 : Nat)
  if 0 ≤ lo then agree f rnd false (lo.toNat, hi.toNat) k 0
  else if hi ≤ 0 then agree f rnd true ((-hi).toNat, (-lo).toNat) k 0
  else none

/-- ± sin(π a/b) for 0 < a/b < 1/2. -/
def sinAt (f : Fmt) (rnd : Rnd) (neg : Bool) (a b k : Nat) : Option (Nat × BitVec 5) :=
  let (pl, ph) := piBounds k
  agree f rnd neg (sinBounds (pl * a / b) (ph * a / b + 1) k) k 0

/-- ± tanh (m × 2^e) for m ≠ 0. -/
def tanhAt (f : Fmt) (rnd : Rnd) (neg : Bool) (m : Nat) (e : Int) (k : Nat) : Option (Nat × BitVec 5) :=
  if 6 ≤ (m.log2 : Int) + e then agree f rnd neg (2 ^ k - 1, 2 ^ k) k 0
  else
    let x := (toUnits .rtz false m (e + 1) (-(k : Int))).1
    let (ll, lh) := ln2Bounds k
    let n := x / lh
    let (el, eh) := expBounds (x - n * lh) (x + 1 - n * ll) k
    let lo := 2 ^ k - (2 ^ (2 * k + 1) / (el * 2 ^ n + 2 ^ k) + 1)
    let hi := 2 ^ k - 2 ^ (2 * k + 1) / (eh * 2 ^ n + 2 ^ k)
    agree f rnd neg (lo, hi) k 0

/-- The first scale tried is 2^96, and each next one doubles the bits. -/
def closed (fn : SfnFn) (f : Fmt) (rnd : Rnd) (x : Nat) (g : Nat → Option (Nat × BitVec 5)) : Nat × BitVec 5 :=
  match settled g 6 96 with
  | some r => r
  | none => ((Config.sfnValue fn f rnd (w64 x)).toNat % 2 ^ f.width, flagNX)

/-- ± 1, ± 0 and the other values that need no rounding. -/
def exactly (f : Fmt) (x : Num) : Nat × BitVec 5 := roundTo f .rne false x

/-- SFN of a finite value m × 2^e other than zero. -/
def sfnFinite (fn : SfnFn) (f : Fmt) (rnd : Rnd) (x : Nat) (neg : Bool) (m : Nat) (e : Int) : Nat × BitVec 5 :=
  let p := f.frac + 4
  let one : Num := .fin false 1 0
  match fn with
  | .rcp => roundTo f rnd false (recipNum neg m e p)
  | .rsq => if neg then (f.nanCode, flagIV) else roundTo f rnd false (rsqrtNum m e p)
  | .sqrt => if neg then (f.nanCode, flagIV) else roundTo f rnd false (sqrtNum m e p)
  | .exp2 =>
    let v : Int := if neg then -m else m
    if 0 ≤ e then
      (if 64 ≤ (m.log2 : Int) + e then roundTo f rnd false (.fin false 1 (if neg then -(2 ^ 64 : Nat) else (2 ^ 64 : Nat)))
       else roundTo f rnd false (.fin false 1 (v * (2 ^ e.toNat : Nat))))
    else
      let b : Nat := 2 ^ (-e).toNat
      if v % b = 0 then roundTo f rnd false (.fin false 1 (v / b))
      else closed fn f rnd x (exp2At f rnd (v / b) (v % b).toNat b)
  | .log2 =>
    if neg then (f.nanCode, flagIV)
    else if m = 2 ^ m.log2 then roundTo f rnd false (numInt ((m.log2 : Int) + e))
    else closed fn f rnd x (log2At f rnd m e)
  | .sinpi =>
    if 0 ≤ e then exactly f (.fin neg 0 0)
    else
      let b := 2 ^ (-e).toNat
      let r := m % (2 * b)
      let flip := decide (b ≤ r)
      let r := r % b
      if r = 0 then exactly f (.fin neg 0 0)
      else if 2 * r = b then exactly f (if neg != flip then one.neg else one)
      else closed fn f rnd x (sinAt f rnd (neg != flip) (if b < 2 * r then b - r else r) b)
  | .cospi =>
    if 0 ≤ e then exactly f (if e = 0 ∧ m % 2 = 1 then one.neg else one)
    else
      let b := 2 ^ (-e).toNat
      let r := m % (2 * b)
      let r := if b < r then 2 * b - r else r
      if r = 0 then exactly f one
      else if r = b then exactly f one.neg
      else if 2 * r = b then exactly f (.fin false 0 0)
      else if 2 * r < b then closed fn f rnd x (sinAt f rnd false (b - 2 * r) (2 * b))
      else closed fn f rnd x (sinAt f rnd true (2 * r - b) (2 * b))
  | .tanh => closed fn f rnd x (tanhAt f rnd neg m e)

/-- SFN of a code of format `f` (10 R210). -/
def sfn (fn : SfnFn) (f : Fmt) (rnd : Rnd) (x : Nat) : Nat × BitVec 5 :=
  match numOf f x with
  | .nan s => (f.nanCode, flagIf s flagIV)
  | .inf neg =>
    match fn with
    | .rcp => exactly f (.fin neg 0 0)
    | .rsq => if neg then (f.nanCode, flagIV) else exactly f (.fin false 0 0)
    | .sqrt => if neg then (f.nanCode, flagIV) else exactly f (.inf false)
    | .exp2 => exactly f (if neg then .fin false 0 0 else .inf false)
    | .log2 => if neg then (f.nanCode, flagIV) else exactly f (.inf false)
    | .sinpi => (f.nanCode, flagIV)
    | .cospi => (f.nanCode, flagIV)
    | .tanh => exactly f (.fin neg 1 0)
  | .fin neg m e =>
    if m = 0 then
      match fn with
      | .rcp => ((exactly f (.inf neg)).1, flagDZ)
      | .rsq => ((exactly f (.inf neg)).1, flagDZ)
      | .sqrt => exactly f (.fin neg 0 0)
      | .exp2 => exactly f (.fin false 1 0)
      | .log2 => exactly f (.inf true)
      | .sinpi => exactly f (.fin neg 0 0)
      | .cospi => exactly f (.fin false 1 0)
      | .tanh => exactly f (.fin neg 0 0)
    else sfnFinite fn f rnd x neg m e

end Sys2Proof.Machine
end

