-- ==== Sys2Proof/Machine/FloatOps.lean ====
section
/-! DEFINITION. The floating-point, conversion and block-scale instructions (10). -/

namespace Sys2Proof.Machine

/-- Element `k` of an operand in a lane as a value of a floating format (10 R202). -/
def State.fnum (s : State) (f : Fmt) (o : Operand) (l k : Nat) : Num := numOf f (s.elemAt f o l k)

/-- FADD (10 R203). -/
def execFadd (f : FAlu2) (s : State) : Host.Outcome State Fault Refusal :=
  s.finish (s.elementwiseF f.fmt f.fmt f.sel f.d [f.a, f.b] (· == f.fmt) fun l k =>
    fadd f.fmt f.rnd f.sat (s.fnum f.fmt f.a l k) (s.fnum f.fmt f.b l k))

/-- FMUL (10 R203). -/
def execFmul (f : FAlu2) (s : State) : Host.Outcome State Fault Refusal :=
  s.finish (s.elementwiseF f.fmt f.fmt f.sel f.d [f.a, f.b] (· == f.fmt) fun l k =>
    fmul f.fmt f.rnd f.sat (s.fnum f.fmt f.a l k) (s.fnum f.fmt f.b l k))

/-- FMA (10 R203). -/
def execFma (f : FAlu3) (s : State) : Host.Outcome State Fault Refusal :=
  let c := f.third.operand f.d
  s.finish (s.elementwiseF f.fmt f.fmt f.sel f.d [f.a, f.b, c] (· == f.fmt) fun l k =>
    ffma f.fmt f.rnd f.sat (s.fnum f.fmt f.a l k) (s.fnum f.fmt f.b l k) (s.fnum f.fmt c l k))

/-- FMIN (10 R204). -/
def execFmin (f : FMinForm) (s : State) : Host.Outcome State Fault Refusal :=
  s.finish (s.elementwiseF f.fmt f.fmt f.sel f.d [f.a, f.b] (· == f.fmt) fun l k =>
    fminmax f.fmt false f.nan (s.elemAt f.fmt f.a l k) (s.elemAt f.fmt f.b l k))

/-- FMAX (10 R204). -/
def execFmax (f : FMinForm) (s : State) : Host.Outcome State Fault Refusal :=
  s.finish (s.elementwiseF f.fmt f.fmt f.sel f.d [f.a, f.b] (· == f.fmt) fun l k =>
    fminmax f.fmt true f.nan (s.elemAt f.fmt f.a l k) (s.elemAt f.fmt f.b l k))

/-- FCMP (10 R205). -/
def execFcmp (f : FCmpForm) (s : State) : Host.Outcome State Fault Refusal :=
  s.finish do
    need (s.destOk f.d && [f.a, f.b].all s.opOk) illegal
    s.tagsIn (· == f.fmt) [f.a, f.b]
    s.partialReady (maskSel f.sel f.d) f.d
    let g := fun l k => FCond.holds f.cond (s.fnum f.fmt f.a l k) (s.fnum f.fmt f.b l k)
    .ok ((s.putMask f.fmt f.sel f.d fun l k => (g l k).1).raiseFlags
      (s.flagsOver f.fmt f.sel f.d fun l k => (g l k).2))

/-! CVT (10 R206 to R209). -/

/-- The format that CVT reads its source in: under b64 that of the tag (10 R208). -/
def State.cvtSource (s : State) (f : CvtForm) : Fmt :=
  if f.src == .b64 then
    match s.tagOf f.a with
    | some .b64 => .n64
    | some t => t
    | none => .n64
  else f.src

/-- Destination and source elements of CVT between two widths (10 R207). -/
def cvtPairs (ws wd part : Nat) : List (Nat × Nat) :=
  if wd < ws then (List.range (64 / ws)).map fun k => (part * (64 / ws) + k, k)
  else (List.range (64 / wd)).map fun k => (k, (if ws < wd then part * (64 / wd) else 0) + k)

/-- The images that a destination has now. -/
def State.oldImage (s : State) (d : Dest) (l : Nat) : W64 :=
  match d with
  | .v r => (s.file.vregs.getD r.toNat ⟨.b64, []⟩).lanes.getD l 0
  | .s r => (s.file.sregs.getD r.toNat ⟨.b64, 0⟩).val

/-- CVT (10 R206 to R209). -/
def execCvt (f : CvtForm) (s : State) : Host.Outcome State Fault Refusal :=
  s.finish do
    need (s.destOk f.d && s.opOk f.a) illegal
    let src := s.cvtSource f
    need (f.src != .b64 || !src.cvt || cvtPairOk f.fmt src f.part.toNat) illegal
    s.tagIn (fun t => if f.src == .b64 then t.cvt || t == .b64 else t == f.src) f.a
    let pairs := cvtPairs src.width f.fmt.width f.part.toNat
    s.partialReady (if f.fmt.width < src.width then some 0 else none) f.d
    let g := fun l (ks : Nat) => convElem src f.fmt f.rnd f.sat (s.elemAt src f.a l ks)
    let t := s.putParts f.fmt.width f.fmt f.d fun l => pairs.map fun (kd, ks) => (kd, (g l ks).1)
    .ok (t.raiseFlags ((s.lanesFor f.d).foldl (fun acc l =>
      pairs.foldl (fun acc (_, ks) => acc ||| (g l ks).2) acc) 0))

/-! SFN (10 R210): variable latency. -/

/-- SFN (10 R210). -/
def execSfn (f : SfnForm) (s : State) : Host.Outcome State Fault Refusal :=
  s.finish do
    need (s.destOk (.v f.d) && s.opOk f.a) illegal
    s.tagIn (· == f.fmt) f.a
    s.partialReady f.sel (.v f.d)
    s.ownReady f.sel (.v f.d)
    if s.active = 0 then .ok s
    else
      let g := fun l k => sfn f.fn f.fmt f.rnd (s.elemAt f.fmt f.a l k)
      .ok (s.defer [(.v f.d.toNat, f.fmt, s.active, fun l =>
          newImage f.fmt.width f.sel (s.oldImage (.v f.d) l) fun k => (g l k).1)]
        (s.flagsOver f.fmt f.sel (.v f.d) fun l k => (g l k).2) [] none)

/-! DOT (10 R211, 06 R138). -/

/-- One lane of DOT. -/
def State.dotLane (s : State) (f : DotForm) (c : Operand) (l : Nat) : Nat × BitVec 5 :=
  let js := List.range (64 / f.src.width)
  let k := f.k.toNat
  if f.fmt.isFloat then
    js.foldl (fun (acc : Nat × BitVec 5) j =>
      let (r, fl) := ffma f.fmt f.rnd f.sat (s.fnum f.src f.a l j) (s.fnum f.src f.b l j) (numOf f.fmt acc.1)
      (r, acc.2 ||| fl)) (s.elemAt f.fmt c l k, 0)
  else
    (fit f.fmt f.sat (js.foldl (fun acc j => acc + s.numAt f.src f.a l j * s.numAt f.src f.b l j) (s.numAt f.fmt c l k)), 0)

/-- DOT (10 R211). -/
def execDot (f : DotForm) (s : State) : Host.Outcome State Fault Refusal :=
  let c := f.third.operand (.v f.d)
  s.finish do
    need (s.destOk (.v f.d) && [f.a, f.b, c].all s.opOk) illegal
    s.tagsIn (· == f.src) [f.a, f.b]
    s.tagIn (· == f.fmt) c
    s.partialReady (some f.k) (.v f.d)
    .ok ((s.putElems f.fmt f.fmt (some f.k) (.v f.d) fun l _ => (s.dotLane f c l).1).raiseFlags
      (s.flagsOver f.fmt (some f.k) (.v f.d) fun l _ => (s.dotLane f c l).2))

/-! Block formats (06 R123 to R126, 10 R212 to R215). -/

/-- The registers that the wide form of a block takes (10 R212). -/
def wideRegs (f : Fmt) : Nat := if f == .f32 then 8 else 4

/-- The code of value `m` of a lane in the wide form (10 R212). -/
def State.wideCode (s : State) (f : Fmt) (r l m : Nat) : Nat :=
  let n := 64 / f.width
  elem f.width (s.vval (r + m / n) l) (m % n)

/-- The codebook of nib4 in units of 1/256 (06 R125). -/
def codebook : List Int := [-256, -175, -131, -99, -72, -48, -25, 0, 22, 44, 67, 92, 120, 153, 194, 256]

/-- A superblock scale that is positive and finite (06 R126): its mantissa and exponent. -/
def goodScale (x : Nat) : Option (Nat × Int) :=
  match numOf .f32 x with
  | .fin false m e => if m = 0 then none else some (m, e)
  | _ => none

/-- The rounded block scale of code `q` (06 R126). -/
def nib4Scale (m : Nat) (e : Int) (q : Nat) : Nat × BitVec 5 := roundTo .f32 .rne false (.fin false (m * (q + 1)) (e - 8))

/-- A codebook entry times a block scale (06 R126). -/
def nib4Value (c bs : Nat) : Nat × BitVec 5 :=
  let k := codebook.getD (c % 16) 0
  fmul .f32 .rne false (.fin (decide (k < 0)) k.natAbs (-8)) (numOf .f32 bs)

/-- A nib4 element decoded to f32 (06 R126). -/
def nib4Decode (sup q c : Nat) : Nat × BitVec 5 :=
  match goodScale sup with
  | none => (Fmt.nanCode .f32, flagIV)
  | some (m, e) =>
    let (bs, a) := nib4Scale m e q
    let (v, b) := nib4Value c bs
    (v, a ||| b)

/-- The magnitude of a finite value. -/
def Num.abs : Num → Num
  | .fin _ m e => .fin false m e
  | x => x

/-- The larger magnitude of two finite values. -/
def maxAbs (x y : Num) : Num := if ltNum x.abs y.abs then y.abs else x.abs

/-- What a NaN or an infinity among the values of a block raises (06 R124, 10 R214). -/
def badFlags (xs : List Num) : BitVec 5 :=
  flagIf (xs.any Num.isNan) flagIV ||| flagIf (xs.any Num.isInf) flagOF

/-- Whether a value is finite. -/
def Num.finite : Num → Bool
  | .fin _ _ _ => true
  | _ => false

/-- The value times 2^k. -/
def Num.scale (x : Num) (k : Int) : Num :=
  match x with
  | .fin n m e => .fin n m (e + k)
  | x => x

/-- A block quantized to mxfp4: the scale byte, the codes and the flags (06 R124). -/
def mxQuant (xs : List Num) : Nat × List Nat × BitVec 5 :=
  if !(xs.all Num.finite) then (0xFF, xs.map fun _ => 0, badFlags xs)
  else
    match xs.foldl maxAbs (.fin false 0 0) with
    | .fin _ m e =>
      if m = 0 then (0, xs.map fun _ => 0, 0)
      else
        let k : Int := max ((m.log2 : Int) + e - 2) (-127)
        let rs := xs.map fun x => roundTo .e2m1 .rne false (x.scale (-k))
        ((k + 127).toNat, rs.map (·.1), rs.foldl (fun acc r => acc ||| (r.2 &&& flagNX)) 0)
    | _ => (0, [], 0)

/-- |x − y| of finite values. -/
def distance (x y : Num) : Num := (addNum .rne x y.neg).1.abs

/-- The code of the codebook entry nearest to a value, ties to the even code (10 R214). Where several even codes lie at
one distance the spec names none of them (log entry 16). -/
def nearestCode (bs : Nat) (x : Num) (key : Nat) : Nat :=
  let dist (c : Nat) : Num := distance (numOf .f32 (nib4Value c bs).1) x
  let least := (List.range 16).filter fun c => (List.range 16).all fun d => !ltNum (dist d) (dist c)
  match least with
  | [c] => c
  | cs => match cs.filter (· % 2 = 0) with
    | [] => cs.headD 0
    | [c] => c
    | es => es.getD (Config.nib4Tie bs key % es.length) 0

/-- A block quantized to nib4 under a superblock scale: q, the codes and the flags (10 R214); `codes` are the f32, f16 or
bf16 codes of the values. -/
def nib4Quant (f : Fmt) (sup : Nat) (codes : List Nat) : Nat × List Nat × BitVec 5 :=
  let xs := codes.map (numOf f)
  match goodScale sup with
  | none => (0, xs.map fun _ => 7, flagIV)
  | some (ms, es) =>
    if !(xs.all Num.finite) then (0, xs.map fun _ => 7, badFlags xs)
    else
      match xs.foldl maxAbs (.fin false 0 0) with
      | .fin _ m e =>
        if m = 0 then (0, xs.map fun _ => 7, 0)
        else
          let u := min (e + 8) es
          let n := m * 2 ^ (e + 8 - u).toNat
          let d := ms * 2 ^ (es - u).toNat
          let q := Nat.min 255 ((n + d - 1) / d - 1)
          let bs := (nib4Scale ms es q).1
          let cs := codes.map fun x => nearestCode bs (numOf f x) x
          let fl := (cs.zip xs).foldl (fun acc (c, x) =>
            let v := (nib4Value c bs).1
            let y := numOf .f32 v
            let off := ltNum x y || ltNum y x
            acc ||| flagIf off flagNX ||| flagIf (off && !y.isZero && decide (v % 2 ^ 31 < 2 ^ 23)) flagUF) 0
          (q, cs, fl)
      | _ => (0, [], 0)

/-- The image of 16 nibbles. -/
def nibbles (cs : List Nat) : W64 := buildElems 4 fun k => cs.getD k 0

/-- The lanes that make one block (10 R212). -/
def quantLanes (f : QuantForm) : Nat := if f.super.isSome then 4 else 2

/-- The blocks of a QUANT, each its scale byte, its codes and its flags: a lane that is not active counts as zeros, and a block
without an active lane is not computed (10 R213, R214). -/
def State.quantBlocks (s : State) (f : QuantForm) : List (Nat × List Nat × BitVec 5) :=
  let m := s.active
  let size := quantLanes f
  let block (b : Nat) : Nat × List Nat × BitVec 5 :=
    let codes := (List.range (16 * size)).map fun i =>
      let l := b * size + i / 16
      if m.has l then s.wideCode f.src f.a.toNat l (i % 16) else 0
    match f.super with
    | some x => nib4Quant f.src (s.value .f32 x) codes
    | none => mxQuant (codes.map (numOf f.src))
  (List.range (32 / size)).map fun b =>
    if (List.range size).any fun j => m.has (b * size + j) then block b else (0, [], 0)

/-- The codes and the scales of a QUANT written to its two registers, with their tags and the flags (10 R213). -/
def State.quantWrite (s : State) (f : QuantForm) : State :=
  let blocks := s.quantBlocks f
  let of (l : Nat) := blocks.getD (l / quantLanes f) (0, [], 0)
  let t := s.writeV f.d.toNat (if f.super.isSome then .nib4 else .mxfp4) s.active fun l =>
    nibbles (((of l).2.1.drop (l % quantLanes f * 16)).take 16)
  let t := t.writeV (f.d.toNat + 1) (if f.super.isSome then .n8 else .e8m0) s.active fun l => w64 (of l).1
  t.raiseFlags (blocks.foldl (fun acc b => acc ||| b.2.2) 0)

/-- The tags of a superblock scale (10 R213, R215). -/
def State.superTag (s : State) (x : Option Src) : Except Stop Unit :=
  match x with
  | some x => s.srcTag (· == .f32) x
  | none => .ok ()

/-- QUANT (10 R213, R214). -/
def execQuant (f : QuantForm) (s : State) : Host.Outcome State Fault Refusal :=
  s.finish do
    let n := wideRegs f.src
    need (s.regsOk f.d.toNat 2 && s.regsOk f.a.toNat n) illegal
    s.tagsIn (· == f.src) ((List.range n).map fun k => Operand.v (f.a + BitVec.ofNat 7 k))
    s.superTag f.super
    s.partialReady none (.v f.d)
    s.partialReady none (.v (f.d + 1))
    .ok (s.quantWrite f)

/-- Value `m` of a lane under DEQ (10 R215). -/
def State.deqValue (s : State) (f : DeqForm) (l m : Nat) : Nat × BitVec 5 :=
  let c := elem 4 (s.vval f.a.toNat l) m
  let e := elem 8 (s.vval f.b.toNat l) 0
  match f.super with
  | none =>
    if e = 0xFF then (f.fmt.nanCode, 0)
    else roundTo f.fmt f.rnd false ((numOf .e2m1 c).scale ((e : Int) - 127))
  | some x =>
    let (v, a) := nib4Decode (s.value .f32 x) e c
    let (r, b) := roundTo f.fmt f.rnd false (numOf .f32 v)
    (r, a ||| b)

/-- The wide form of a DEQ written to its registers, with their tag and the flags (10 R215). -/
def State.deqWrite (s : State) (f : DeqForm) : State :=
  let per := 64 / f.fmt.width
  let t := (List.range (wideRegs f.fmt)).foldl (fun t k => t.writeV (f.d.toNat + k) f.fmt s.active fun l =>
    buildElems f.fmt.width fun j => (s.deqValue f l (k * per + j)).1) s
  t.raiseFlags (s.active.toList.foldl (fun acc l =>
    (List.range 16).foldl (fun acc m => acc ||| (s.deqValue f l m).2) acc) 0)

/-- DEQ (10 R215). -/
def execDeq (f : DeqForm) (s : State) : Host.Outcome State Fault Refusal :=
  s.finish do
    let n := wideRegs f.fmt
    need (s.regsOk f.d.toNat n && s.regOk f.a.toNat && s.regOk f.b.toNat) illegal
    s.tagIn (· == (if f.super.isSome then .nib4 else .mxfp4)) (.v f.a)
    s.tagIn (· == (if f.super.isSome then .n8 else .e8m0)) (.v f.b)
    s.superTag f.super
    need (!(s.active != 0 && s.active != -1) ||
      (List.range n).all fun k => !s.awaits (.v (f.d.toNat + k))) (.wait .results)
    .ok (s.deqWrite f)

end Sys2Proof.Machine
end

