-- ==== Sys2Proof/Machine/CrossLane.lean ====
section
/-! DEFINITION. The cross-lane instructions SHUF, SCAN, REDW, REBAL and TOPK (11). Their register results have variable
latency (R217). -/

namespace Sys2Proof.Machine

/-- The lanes of a sprig, or all lanes (08 R177): those that have left it by EXIT are outside. -/
def State.ownLanes (s : State) : Mask :=
  match s.sprig? with
  | some p => p.lanes
  | none => -1

/-- A lane of a vector register as a source of another lane: one outside the sprig reads 0 (08 R177). -/
def State.crossLane (s : State) (r lane : Nat) : W64 := if s.ownLanes.has lane then s.vval r lane else 0

/-! SHUF (11 R218). -/

/-- The source lane of lane `l` under an index or a distance `n` (11 R218). -/
def shufLane (mode : ShufMode) (n l : Nat) : Nat :=
  match mode with
  | .idx => n % 32
  | .up => if l < n then l else l - n
  | .down => if 31 < l + n then l else l + n
  | .xor => Nat.xor l (n % 32)
  | .rot => (l + n % 32) % 32

/-- SHUF (11 R218). -/
def execShuf (f : ShufForm) (s : State) : Host.Outcome State Fault Refusal :=
  s.finish do
    need (s.regOk f.d.toNat && s.regOk f.a.toNat && s.opOk f.b) illegal
    s.partialReady f.sel (.v f.d)
    s.ownReady f.sel (.v f.d)
    if s.active = 0 then .ok s
    else
      .ok (s.defer [(.v f.d.toNat, f.fmt, s.active, fun l =>
        let from_ := s.crossLane f.a.toNat (shufLane f.mode (s.laneImage f.b l).toNat l)
        newImage f.fmt.width f.sel (s.oldImage (.v f.d) l) fun k => elem f.fmt.width from_ k)] 0 [] none)

/-! SCAN and REDW (11 R219 to R221, 06 R139). -/

/-- The identity of a function (11 R219). -/
def redIdentity (fn : RedFn) (f : Fmt) : Nat :=
  match fn with
  | .add => if f.isFloat then 2 ^ (f.width - 1) else 0
  | .min => if f.isFloat then f.infCode else wrapInt f.width f.greatest
  | .max => if f.isFloat then signCode f true + f.infCode else wrapInt f.width f.least
  | .and => 2 ^ f.width - 1
  | .or => 0
  | .xor => 0

/-- One combining step (11 R219). -/
def redStep (fn : RedFn) (f : Fmt) (x y : Nat) : Nat × BitVec 5 :=
  match fn with
  | .add => if f.isFloat then fadd f .rne false (numOf f x) (numOf f y) else (fit f false (f.num x + f.num y), 0)
  | .min => if f.isFloat then fminmax f false false x y else (if f.num x < f.num y then x else y, 0)
  | .max => if f.isFloat then fminmax f true false x y else (if f.num x < f.num y then y else x, 0)
  | .and => (Nat.land x y, 0)
  | .or => (Nat.lor x y, 0)
  | .xor => (Nat.xor x y, 0)

/-- A combining step that carries the flags of both sides. -/
def redStepF (fn : RedFn) (f : Fmt) (x y : Nat × BitVec 5) : Nat × BitVec 5 :=
  let (r, fl) := redStep fn f x.1 y.1
  (r, x.2 ||| y.2 ||| fl)

/-- The node of level `t` that begins at lane `m` (06 R139). -/
def treeNode (fn : RedFn) (f : Fmt) (leaf : Nat → Nat) : (t m : Nat) → Nat × BitVec 5
  | 0, m => (leaf m, 0)
  | t + 1, m => redStepF fn f (treeNode fn f leaf t m) (treeNode fn f leaf t (m + 2 ^ t))

/-- The level of the largest aligned block that begins at `m` and ends at or before `b` (11 R220). -/
def blockLevel (m b : Nat) : Nat :=
  (List.range 6).foldl (fun acc t => if m % 2 ^ t = 0 ∧ m + 2 ^ t ≤ b + 1 then t else acc) 0

/-- The blocks from `m` to `b` combined onto `acc`, left to right (11 R220). -/
def spanFrom (fn : RedFn) (f : Fmt) (leaf : Nat → Nat) (b : Nat) : (fuel m : Nat) → Nat × BitVec 5 → Nat × BitVec 5
  | 0, _, acc => acc
  | n + 1, m, acc =>
    if b < m then acc
    else
      let t := blockLevel m b
      spanFrom fn f leaf b n (m + 2 ^ t) (redStepF fn f acc (treeNode fn f leaf t m))

/-- The span value S(a, b) (11 R220). A NaN is canonical (06 R119). -/
def spanValue (fn : RedFn) (f : Fmt) (leaf : Nat → Nat) (a b : Nat) : Nat × BitVec 5 :=
  let t := blockLevel a b
  let (r, fl) := spanFrom fn f leaf b 32 (a + 2 ^ t) (treeNode fn f leaf t a)
  (if f.isFloat && (numOf f r).isNan then f.nanCode else r, fl)

/-- The values that enter a tree for an element position: an inactive lane is the identity (11 R219). -/
def State.redLeaf (s : State) (fn : RedFn) (f : Fmt) (a : Nat) (k l : Nat) : Nat :=
  if s.active.has l then elem f.width (s.vval a l) k else redIdentity fn f

/-- IV where a signalling NaN stands in an active lane (11 R219). -/
def State.redSignals (s : State) (fn : RedFn) (f : Fmt) (sel : Sel) (a : Nat) : BitVec 5 :=
  match fn with
  | .add | .min | .max =>
    flagIf (f.isFloat && s.active.toList.any fun l => (f.elems sel).any fun k =>
      (numOf f (elem f.width (s.vval a l) k)).signals) flagIV
  | _ => 0

/-- The tags that SCAN and REDW accept on their vector source (11 R219). -/
def redTag (fn : RedFn) (f t : Fmt) : Bool :=
  match fn with
  | .add | .min | .max => t == f || (f.isInt && t == .b64)
  | _ => true

/-- The greatest segment head at or below a lane (11 R220). -/
def segmentHead (heads : W64) (l : Nat) : Nat :=
  (List.range (l + 1)).foldl (fun acc j => if heads.getLsbD j then j else acc) 0

/-- SCAN of one element (11 R220). -/
def State.scanElem (s : State) (f : ScanForm) (heads : W64) (l k : Nat) : Nat × BitVec 5 :=
  let g := segmentHead heads l
  let leaf := s.redLeaf f.fn f.fmt f.a.toNat k
  if f.excl then
    (if l = g then (redIdentity f.fn f.fmt, 0) else spanValue f.fn f.fmt leaf g (l - 1))
  else spanValue f.fn f.fmt leaf g l

/-- SCAN (11 R220). -/
def execScan (f : ScanForm) (s : State) : Host.Outcome State Fault Refusal :=
  s.finish do
    need (s.regOk f.d.toNat && s.regOk f.a.toNat) illegal
    s.tagIn (redTag f.fn f.fmt) (.v f.a)
    s.srcTag (fun t => t == .mask || t == .n32 || t == .n64 || t == .b64) f.heads
    s.partialReady f.sel (.v f.d)
    s.ownReady f.sel (.v f.d)
    if s.active = 0 then .ok s
    else
      let g := s.scanElem f (s.image f.heads)
      .ok (s.defer [(.v f.d.toNat, f.fmt, s.active, fun l =>
          newImage f.fmt.width f.sel (s.oldImage (.v f.d) l) fun k => (g l k).1)]
        (s.flagsOver f.fmt f.sel (.v f.d) (fun l k => (g l k).2) ||| s.redSignals f.fn f.fmt f.sel f.a.toNat) [] none)

/-- REDW of one element position (11 R221). -/
def State.redwElem (s : State) (f : RedwForm) (k : Nat) : Nat × BitVec 5 :=
  match f.fn with
  | .red fn => spanValue fn f.fmt (s.redLeaf fn f.fmt f.a.toNat k) 0 31
  | .pick n => (elem f.fmt.width (s.crossLane f.a.toNat ((s.image n).toNat % 32)) k, 0)

/-- REDW (11 R221). -/
def execRedw (f : RedwForm) (s : State) : Host.Outcome State Fault Refusal :=
  s.finish do
    need (s.destOk f.d && s.regOk f.a.toNat) illegal
    s.tagIn (match f.fn with
      | .red fn => redTag fn f.fmt
      | .pick _ => fun _ => true) (.v f.a)
    s.partialReady f.sel f.d
    s.ownReady f.sel f.d
    let sig := match f.fn with
      | .red fn => s.redSignals fn f.fmt f.sel f.a.toNat
      | .pick _ => 0
    let fl := (f.fmt.elems f.sel).foldl (fun acc k => acc ||| (s.redwElem f k).2) sig
    match f.d with
    | .v r =>
      if s.active = 0 then .ok s
      else
        .ok (s.defer [(.v r.toNat, f.fmt, s.active, fun l =>
          newImage f.fmt.width f.sel (s.oldImage f.d l) fun k => (s.redwElem f k).1)] fl [] none)
    | .s r =>
      .ok (s.defer [(.s r.toNat, f.fmt, -1, fun _ =>
        newImage f.fmt.width f.sel (s.oldImage f.d 0) fun k => (s.redwElem f k).1)] fl [] none)

/-! REBAL (11 R222, R227). -/

/-- P(r): the lengths of the rows below `r`. -/
def rowStart (len : Nat → Nat) (r : Nat) : Nat := (List.range r).foldl (fun acc j => acc + len j) 0

/-- The row and offset of item `i`, or the none value (11 R222). -/
def rebalItem (len : Nat → Nat) (i : Nat) : W64 :=
  if i < rowStart len 32 then
    let r := ((List.range 32).find? fun r => decide (i < rowStart len (r + 1))).getD 0
    w64 (r % 2 ^ 32 + (i - rowStart len r) % 2 ^ 32 * 2 ^ 32)
  else -1

/-- REBAL (11 R222). With PROG not zero the lanes below it are already written; a SAVE may stop it before a lane (11 R227). -/
def execRebal (d a : BitVec 7) (b : BitVec 6) (s : State) : Host.Outcome State Fault Refusal :=
  s.finish do
    need (s.regOk d.toNat && s.regOk a.toNat) illegal
    need (!s.inSprig) convergence
    s.tagIn (fun t => t == .n32 || t == .idx32 || t == .b64) (.v a)
    s.srcTag countTag (.s b)
    s.partialReady none (.v d)
    let m := s.active
    if m = 0 then .ok s.endLong
    else
      let len (r : Nat) : Nat := if m.has r then elem 32 (s.vval a.toNat r) 0 else 0
      let base := (s.sval b.toNat).toNat
      let item (l : Nat) : Nat := base + (m.toList.filter fun j => decide (j < l)).length
      let given := (m.toList.filter fun l => decide (item l < rowStart len 32)).length
      let rest := Mask.ofFn fun l => m.has l && decide (s.cur.prog.toNat ≤ l)
      let cut := s.shortAt rest.toList
      let t := s.defer ((.v d.toNat, .idx32, Mask.ofFn fun l => rest.has l && !(cut.any fun k => decide (k ≤ l)), fun l => rebalItem len (item l)) ::
        if cut.isSome then [] else [(.s b.toNat, .n64, -1, fun _ => w64 (base + given))]) 0 [] none
      s.closeLong t none cut

/-! TOPK (11 R223, R227). -/

/-- A candidate's place in the order of its format: NaNs above all, both zeros alike (11 R223). -/
def topkKey (f : Fmt) (x : Nat) : Int :=
  if f == .f32 then
    match numOf .f32 x with
    | .nan _ => 2 ^ 40
    | _ => if x % 2 ^ 32 < 2 ^ 31 then (x % 2 ^ 31 : Nat) else -((x % 2 ^ 31 : Nat) : Int)
  else f.num x

/-- Whether candidate `c` precedes candidate `d`. -/
def topkBefore (f : Fmt) (val : Nat → Nat) (c d : Nat) : Bool :=
  decide (topkKey f (val d) < topkKey f (val c)) || (topkKey f (val c) == topkKey f (val d) && decide (c < d))

/-- The candidate with `j` others before it. -/
def topkAt (f : Fmt) (val : Nat → Nat) (cand : List Nat) (j : Nat) : Nat :=
  (cand.find? fun c => (cand.filter fun d => topkBefore f val d c).length == j).getD 0

/-- Value and index of slot `j` (11 R223). -/
def topkSlot (f : Fmt) (val : Nat → Nat) (cand : List Nat) (cnt j : Nat) : Nat × Nat :=
  if j < cnt then
    let c := topkAt f val cand j
    (if f == .f32 && (numOf .f32 (val c)).isNan then f.nanCode else val c, c)
  else (if f == .f32 then 0xFF800000 else if f == .i32 then 0x80000000 else 0, 0xFFFFFFFF)

/-- TOPK (11 R223). With PROG not zero the slots below it are already written; a SAVE may stop it before a slot (11 R227). -/
def execTopk (f : TopkForm) (s : State) : Host.Outcome State Fault Refusal :=
  s.finish do
    need (s.regsOk f.d.toNat 2 && s.regOk f.a.toNat) illegal
    need (!s.inSprig) convergence
    s.tagIn (· == f.fmt) (.v f.a)
    s.srcTag countTag (.s f.b)
    need (!s.awaits (.v f.d.toNat) && !s.awaits (.v (f.d.toNat + 1)) && !s.awaitsOwn (.v f.d.toNat) &&
      !s.awaitsOwn (.v (f.d.toNat + 1))) (.wait .results)
    let m := s.active
    if m = 0 then .ok s.endLong
    else
      let val (c : Nat) : Nat := elem 32 (s.vval f.a.toNat (c / 2)) (c % 2)
      let n := Nat.min 64 (s.sval f.b.toNat).toNat
      let zero (c : Nat) : Bool := if f.fmt == .f32 then (numOf .f32 (val c)).isZero else val c == 0
      let cand := (List.range n).filter fun c => m.has (c / 2) && (!f.nz || !zero c)
      let k := f.k1.toNat + 1
      let cnt := Nat.min k cand.length
      let cut := s.shortAt ((List.range k).filter fun j => decide (s.cur.prog.toNat ≤ j))
      let image (r : Nat) (g : Nat × Nat → Nat) (l : Nat) : W64 :=
        [2 * l, 2 * l + 1].foldl (fun x j =>
          if j < cut.getD k ∧ s.cur.prog.toNat ≤ j then setElem 32 x (j % 2) (g (topkSlot f.fmt val cand cnt j)) else x)
          (s.oldImage (.v (BitVec.ofNat 7 r)) l)
      let fl := flagIf (f.fmt == .f32 && cand.any fun c => (numOf .f32 (val c)).signals) flagIV
      let t := s.defer ([(.v f.d.toNat, f.fmt, m, image f.d.toNat (·.1)), (.v (f.d.toNat + 1), .idx32, m, image (f.d.toNat + 1) (·.2))] ++
        if cut.isSome then [] else [(.s f.b.toNat, .n64, -1, fun _ => w64 cnt)]) fl [] none
      s.closeLong t none cut

end Sys2Proof.Machine
end

