-- ==== Sys2Proof/Machine/Lease.lean ====
section
/-! DEFINITION. Leases and the blocks of an L1: which blocks hit (17 R324, R326), the fill range of a miss (12 R242), the
grant of a lease by a home or by the other die's L2 (17 R327, R331, R333, R336), and the landing of a fill (12 R241 to R243). -/

namespace Sys2Proof.Machine

/-! Blocks and misses. -/

/-- A block that may still hit at time `t`: its lease, or its seal (17 R324 rule 3, R336). -/
def State.blockLive (s : State) (t : BitVec 16) (b : Block) : Bool :=
  match b.sealTag with
  | some e => match NMap.get? s.sealTable e with
    | some x => !x.opening
    | none => false
  | none => decide (s.tick - b.stamp ≤ 16384) && timeLe t b.rts

/-- The block of a cluster that covers a word. -/
def Cluster.covering (k : Cluster) (frame word : Nat) : Option Block :=
  k.blocks.find? fun b => b.frame == frame && decide (b.first ≤ word) && decide (word < b.first + b.words.length)

/-- The index of the predictor entry of the current packet (12 R242). -/
def State.predictorIndex (s : State) : Nat :=
  Nat.xor (bitsOf s.packet.toNat 4 10) (bitsOf s.packet.toNat 14 10)

/-- The smallest power of two not below a span of 1 to 32, as its exponent. -/
def spanLog (n : Nat) : Nat := ((List.range 6).find? fun t => decide (n ≤ 2 ^ t)).getD 5

/-- The last and first words of a fill range for missed words `lo` to `hi` (12 R242): by the span hint, or by the span
that the predictor supplies. -/
def fillRange (hint span lo hi : Nat) : Nat × Nat :=
  if hint ≠ 0 then (lo, Nat.max hi (Nat.min 31 (lo + hint - 1)))
  else
    let m := 2 ^ spanLog span
    (Nat.min lo (lo / m * m), Nat.max hi (lo / m * m + m - 1))

/-- The span of the predictor entry in use (12 R242). -/
def State.span (s : State) : Nat := NMap.getD (s.cluster s.cur.cluster).predictor s.predictorIndex 4

/-- The words of a frame that a live block of the cluster covers. -/
def State.coveredWords (s : State) (frame : Nat) : W32 :=
  Mask.ofFn fun w => match (s.cluster s.cur.cluster).covering frame w with
    | some b => s.blockLive s.sys.pts b
    | none => false

/-- A lease request for the missed words of a frame (12 R242): the words of the fill range that no live block covers; `lo` and
`hi` are the words that enter the trace of what is read. -/
def State.leaseFor (s : State) (load hint : Nat) (l2 : Bool) (frame : Nat) (missed : W32) (lo hi va : Nat) : LeaseReq :=
  let (first, last) := fillRange hint s.span ((Mask.toList missed).headD 0) ((Mask.toList missed).getLastD 31)
  let range : W32 := Mask.ofFn fun w => decide (first ≤ w) && decide (w ≤ last)
  let tag := s.sealedEntry (s.ctx s.cur.ctx).asid va
  { cluster := s.cur.cluster, frame := frame, first := first, last := last,
    want := missed ||| (range &&& ~~~s.coveredWords frame), missed := missed, lo := lo, hi := hi, time := s.sys.pts,
    lease := s.rsys.lease, wave := s.cur.id, sprig := s.sprigNo, load := load, index := s.predictorIndex, sealTag := tag,
    sealId := ((tag.bind fun e => NMap.get? s.sealTable e).map (·.id)).getD 0, l2only := l2, excl := false }

/-! What a home grants. -/

/-- The seal entry with which a home serves a request: none once SEAL.open has named it (17 R336, R337). -/
def State.sealOf (s : State) (r : LeaseReq) : Option Nat :=
  r.sealTag.bind fun e => (NMap.get? s.sealTable e).bind fun x => if x.opening || x.id != r.sealId then none else some e

/-- The L2 of the other die takes a copy of a sector with the times of its home, where it finds room: it may drop a copy of
another frame for it (17 R331, R333, log entry 79). -/
def State.holdCopy (s : State) (sec : Nat) (words : BitVec 4) : State :=
  let x := s.sector sec
  let (home, copies) := s.sliceFrames (copySlice (32 * sec))
  let room := decide (home.length + copies.length < sliceRoom) || copies.contains (sec / 8)
  if !room && copies.isEmpty then s
  else
    let s := if room then s else match copies[Config.victim s.fresh % copies.length]? with
      | some f => { s with copies := s.copies.filter fun (k, _) => k / 8 != f }
      | none => s
    { s with copies := NMap.set s.copies sec ⟨x.wts, x.rts, s.tick, ((NMap.get? s.copies sec).map (·.words)).getD 0 ||| words⟩ }

/-- The request comes from the die where the sector is not homed. -/
def leaseFar (r : LeaseReq) (sec : Nat) : Bool := clusterDie r.cluster != homeDie (sec * 32)

/-- The copy from which the other die's L2 serves a request: while the lease that it holds from the home lasts (17 R331, log
entry 79). -/
def State.copyFor (s : State) (r : LeaseReq) (sec : Nat) : Option L2Copy :=
  (NMap.get? s.copies sec).bind fun c =>
    if leaseFar r sec && (r.want >>> (sec % 8 * 4)).truncate 4 &&& ~~~c.words == 0 && timeLe r.time (s.readTime c.rts c.stamp) && Config.copyServes s.fresh sec then some c else none

/-- A lease granted on the words `got` of one sector, by its home or by the other die's L2 out of its own (17 R327, R331, R333);
the L2s hold these words from then on (12 R241). -/
def State.grant (s : State) (r : LeaseReq) (got : W32) (sec : Nat) : State :=
  if (s.copyFor r sec).isSome then s
  else
    let words := (got >>> (sec % 8 * 4)).truncate 4
    let x := (s.sector sec).holding words
    let x := if (s.sealOf r).isSome then x else x.leased (r.time + r.lease.zeroExtend 16) s.tick
    if leaseFar r sec then
      (s.setSector sec { x with sharers := x.sharers ||| (if clusterDie r.cluster = 0 then 1 else 2) }).holdCopy sec words
    else s.setSector sec x

/-- The words that a request is given: a word of another agent's sector or of a poisoned one only where the load has missed one of
that sector (12 R239, R241). -/
def State.wanted (s : State) (r : LeaseReq) : W32 :=
  let missed (sec : Nat) : Bool := (List.range 4).any fun k => r.missed.getLsbD (sec % 8 * 4 + k)
  r.want &&& Mask.ofFn fun w => missed (r.frame * 8 + w / 4) ||
    !(s.sectorAway (r.frame * 8 + w / 4) || s.poison.contains (r.frame * 8 + w / 4))

/-- The sectors of the words of a frame. -/
def wordSectors (frame : Nat) (m : W32) : List Nat :=
  ((List.range 8).filter fun k => (List.range 4).any fun i => m.getLsbD (4 * k + i)).map (frame * 8 + ·)

/-- The times with which a sector is served: those of the copy that serves it, else the home's. -/
def State.served (s : State) (r : LeaseReq) (sec : Nat) : BitVec 16 × BitVec 16 :=
  match s.copyFor r sec with
  | some c => (s.readTime c.wts c.stamp, s.readTime c.rts c.stamp)
  | none => ((s.sector sec).wts, (s.sector sec).rts)

/-- The reply to a lease request: the words `got` are the cluster's, but a poisoned sector's go to the load alone, which has passed
its fault point (12 R239, log entry 30); the others of their sectors stand beside them for the
comparison that 12 R238 needs where a block holds them. -/
def State.leaseReplyOf (s : State) (r : LeaseReq) (got : W32) : LeaseRep :=
  let xs := (wordSectors r.frame got).map (s.served r)
  let x := xs.headD (0, 0)
  let first := r.first / 4 * 4
  { cluster := r.cluster, frame := r.frame, first := first,
    words := (List.range (r.last / 4 * 4 + 4 - first)).map fun k =>
      w64 (ofBytes (s.seenBytes (r.frame * 256 + 8 * (first + k)) 8)),
    got := got &&& Mask.ofFn fun w => !s.poison.contains (r.frame * 8 + w / 4), lo := r.lo, hi := r.hi,
    wts := xs.foldl (fun t x => timeMax t x.1) x.1,
    rts := xs.foldl (fun t x => if timeLe x.2 t then x.2 else t) x.2,
    stamp := s.tick, sealTag := s.sealOf r, wave := r.wave, sprig := r.sprig, load := r.load, index := r.index }

/-! A fill lands. -/

/-- A word of a frame with the bytes of the stores queued to it (17 R326). -/
def overQueue (queue : List QEntry) (frame k : Nat) (x : W64) : W64 :=
  (List.range 8).foldl (fun x b => match queuedByte queue .device (frame * 256 + 8 * k + b) with
    | some v => setElem 8 x b v.toNat
    | none => x) x

/-- The words of the cluster's L1 in the launch's division (01 R17): 64 KiB steps. -/
def Cluster.capacity (k : Cluster) : Nat := k.l1 * 8192

/-- Evicts the oldest blocks while the L1 holds too much; the predictor learns how many words were read in them (12 R242). -/
def Cluster.evict (k : Cluster) : (fuel : Nat) → Cluster
  | 0 => k
  | n + 1 =>
    if (k.blocks.foldl (fun acc b => acc + b.words.length) 0) ≤ k.capacity then k
    else match k.blocks.getLast? with
      | none => k
      | some b =>
        let predictor := if b.lo ≤ b.hi then NMap.set k.predictor b.index (b.hi + 1 - b.lo) else k.predictor
        Cluster.evict { k with blocks := k.blocks.dropLast, predictor := predictor } n

/-- Two blocks that abut become one: it takes the largest WTS and the smallest RTS (12 R243). -/
def Block.join (a b : Block) : Block :=
  { a with words := a.words ++ b.words, wts := timeMax a.wts b.wts, rts := if timeLe a.rts b.rts then a.rts else b.rts,
           stamp := Nat.min a.stamp b.stamp, lo := Nat.min a.lo b.lo, hi := Nat.max a.hi b.hi }

/-- Puts a block into a list of blocks of its frame by its first word. -/
def insertBlock (b : Block) (xs : List Block) : List Block :=
  match xs with
  | [] => [b]
  | x :: rest => if b.first < x.first then b :: x :: rest else x :: insertBlock b rest

/-- Blocks of a frame in the order of their words, joined where they abut; a block without a lease, which its seal keeps alive, joins
none that has one (17 R336, log entry 79). -/
def joinBlocks (xs : List Block) : List Block :=
  xs.foldr (fun b acc => match acc with
    | c :: rest => if b.first + b.words.length = c.first ∧ b.sealTag = c.sealTag then b.join c :: rest else b :: c :: rest
    | [] => [b]) []

/-- The word of a reply. -/
def replyWord (r : LeaseRep) (k : Nat) : W64 := r.words.getD (k - r.first) 0

/-- The words of a reply as blocks: its runs of words that the cluster takes (12 R242). -/
def replyBlocks (queue : List QEntry) (r : LeaseRep) : List Block :=
  let whole : Block :=
    { frame := r.frame, first := r.first,
      words := (List.range r.words.length).map fun i => overQueue queue r.frame (r.first + i) (r.words.getD i 0),
      wts := r.wts, rts := r.rts, stamp := r.stamp, sealTag := r.sealTag, index := r.index, lo := r.lo, hi := r.hi }
  whole.cut fun k => !r.got.getLsbD k

/-- A word of a block takes the reply's value where the home holds another one beside words of its sector that the reply brings:
no 16-byte access may mix the two (12 R238). -/
def mixes (queue : List QEntry) (r : LeaseRep) (b : Block) (k : Nat) : Bool :=
  (List.range 4).any (fun i => r.got.getLsbD (k / 4 * 4 + i)) && decide (r.first ≤ k) && (b.word? k).isSome &&
    b.word? k != some (overQueue queue r.frame k (replyWord r k))

/-- A reply's words become blocks that merge with every block of the frame which they overlap or abut (12 R243). -/
def State.install (s : State) (r : LeaseRep) : State :=
  let k := s.cluster r.cluster
  let old := k.blocks.filter fun b => b.frame == r.frame
  let r := { r with got := old.foldl (fun m b => m ||| Mask.ofFn (mixes k.queue r b)) r.got }
  let old := old.flatMap fun b => b.cut r.got.getLsbD
  let all := joinBlocks ((old ++ replyBlocks k.queue r).foldl (fun acc b => insertBlock b acc) [])
  let new := all.map fun b =>
    if (List.range b.words.length).any fun i => r.got.getLsbD (b.first + i) then { b with index := r.index } else b
  let blocks := new ++ k.blocks.filter fun b => b.frame != r.frame
  s.setCluster r.cluster (Cluster.evict { k with blocks := blocks } blocks.length)

/-- A miss served within the step that makes the access (16 R320, 17 R326): the lease request, its grant and its reply. -/
def State.missNow (s : State) (frame : Nat) (missed : W32) (lo hi va : Nat) : State :=
  let r := s.leaseFor 0 0 false frame missed lo hi va
  let got := s.wanted r
  let t := (wordSectors frame got).foldl (fun t k => t.grant r got k) s
  let rep := t.leaseReplyOf r got
  let t := t.install rep
  t.setSys { t.sys with pts := timeMax t.sys.pts rep.wts }

end Sys2Proof.Machine
end

