-- ==== Sys2Proof/Machine/Access.lean ====
section
/-! DEFINITION. How a wave reaches memory: where the bytes of a lane's access are (12 R228 to R231, R245, R246), the fault
point (13 R251, R252), the cluster's L1 and store queue (17 R326), and the sets of a transaction (18 R357, R359). -/

namespace Sys2Proof.Machine

/-- Where a piece of an access is: `bare` is a home reached past the L1 and the stash, as path G and the mills do (17 R331). -/
inductive Spot where
  | home (t : Target)
  | bare (t : Target)
  | stash
  | shared
  | priv (t : Target)
  deriving DecidableEq, Repr

/-- A piece of an access, single-copy atomic on its own (12 R238): its place, its physical address or shared offset, its
first byte within the access, its length, and its global address (0 in shared memory). -/
structure Piece where
  spot : Spot
  pa : Nat
  at_ : Nat
  n : Nat
  va : Nat
  deriving DecidableEq, Repr

/-! What a launch gives a wave. -/

/-- The bytes of a wave's shared memory; a task has none (12 R228). -/
def State.sharedBytes (s : State) (w : Wave) : Nat :=
  match w.team, s.launchOf w with
  | some _, some l => 4096 * l.field 0x38 2
  | _, _ => 0

/-- PLANE; a task has no private memory (12 R228, R230). -/
def State.plane (s : State) (w : Wave) : Nat := if w.team.isSome then (s.const w 7 55).toNat else 0

/-- The team of a wave. -/
def State.teamOf (s : State) (w : Wave) : Option Team := w.team.bind fun t => NMap.get? s.teams t

/-- The stash windows of a wave as global base and length (12 R245). -/
def State.windows (s : State) (w : Wave) : List (Nat × Nat) := ((s.teamOf w).map (·.windows)).getD []

/-- The global address of a stash offset (12 R245). -/
def stashGlobal (ws : List (Nat × Nat)) (o : Nat) : Option Nat :=
  match ws with
  | [] => none
  | (b, l) :: rest => if o < l then some (b + o) else stashGlobal rest (o - l)

/-- Whether a global address lies in a window. -/
def inWindows (ws : List (Nat × Nat)) (va : Nat) : Bool := ws.any fun (b, l) => decide (b ≤ va) && decide (va < b + l)

/-- The global address of lane `l`'s private byte `o` (12 R231). -/
def privAddr (pbase lane o : Nat) : Nat := pbase + (o / 8 * 32 + lane) * 8 + o % 8

/-! The L1 as a load meets it (17 R326). -/

/-- The bytes that an entry of a store queue reaches. -/
def QEntry.bytes (q : QEntry) : Nat :=
  match q.op with
  | .store bs _ => bs.length
  | .atom _ f _ => f.width / 8
  | .cas f _ _ => f.width / 8

/-- Whether an entry reaches a byte of a range of a target. -/
def QEntry.meets (q : QEntry) (t : Target) (pa n : Nat) : Bool :=
  q.target == t && decide (q.pa < pa + n) && decide (pa < q.pa + q.bytes)

/-- An atomic on its way whose effect on a range is not known to the cluster. -/
def atomQueued (queue : List QEntry) (t : Target) (pa n : Nat) : Bool :=
  queue.any fun q => q.meets t pa n && match q.op with
    | .store _ _ => false
    | _ => true

/-- The bytes that the issuing wave's cluster serves at once: from queued stores, and from blocks live at time `t`. -/
def State.l1Bytes (s : State) (t : BitVec 16) (pa n : Nat) : Option (List Byte) :=
  let k := s.cluster s.cur.cluster
  if atomQueued k.queue .device pa n then none
  else (List.range n).mapM fun i =>
    match queuedByte k.queue .device (pa + i) with
    | some b => some b
    | none => match k.covering ((pa + i) / 256) ((pa + i) / 8 % 32) with
      | some b =>
        if s.blockLive t b then
          some (BitVec.ofNat 8 (elem 8 (b.words.getD ((pa + i) / 8 % 32 - b.first) 0) ((pa + i) % 8)))
        else none
      | none => none

/-- The time and the trace that hits on a range leave: PTS rises to the WTS of each block hit, which notes the words read
(12 R242, 17 R326). -/
def State.noteHits (s : State) (pa n : Nat) : State :=
  let k := s.cluster s.cur.cluster
  let hit (b : Block) : Bool := decide (b.frame * 256 + 8 * b.first < pa + n) &&
    decide (pa < b.frame * 256 + 8 * (b.first + b.words.length))
  let pts := (k.blocks.filter hit).foldl (fun t b => timeMax t b.wts) s.sys.pts
  let lo := pa / 8 % 32
  let hi := (pa + n - 1) / 8 % 32
  let blocks := k.blocks.map fun b => if hit b then { b with lo := Nat.min b.lo lo, hi := Nat.max b.hi hi } else b
  (s.setSys { s.sys with pts := pts }).setCluster s.cur.cluster { k with blocks := blocks }

/-! The checks of one lane (13 R250 to R252). -/

/-- The order of the causes (13 R252); an access that must wait for a sector comes before them. -/
def causeRank (c : Nat) : Nat := if c = 3 ∨ 2 ^ 20 ≤ c then 0 else c

/-- The halves of an access as (first byte, length): two for 16 bytes that leave their sector (12 R238). -/
def halves (a n : Nat) : List (Nat × Nat) := if n = 16 ∧ a % 32 = 24 then [(0, 8), (8, 8)] else [(0, n)]

/-- An access writes. -/
def Need.writes : Need → Bool
  | .wr => true
  | .rmw => true
  | _ => false

/-- Whether a piece that is read meets poison: a copy whose lease lives serves what it holds (12 R239, 17 R340). -/
def State.piecePoison (s : State) (p : Piece) : Bool :=
  match p.spot with
  | .home .device => s.poisonedIn p.pa p.n && (s.l1Bytes s.sys.pts p.pa p.n).isNone
  | .bare .device => s.poisonedIn p.pa p.n
  | .stash => s.poisonedIn p.pa p.n
  | .priv .device => s.poisonedIn p.pa p.n && (NMap.get? s.cur.priv (wordKey .device p.pa)).isNone
  | _ => false

/-- A piece of global memory: translation, protection, seals and poison; `spot` places device memory. -/
def State.globalPiece (s : State) (need : Need) (spot : Target → Spot) (at_ n va : Nat) : Except Nat Piece :=
  match s.translate s.die s.cur.ctx va need with
  | .error c => .error c
  | .ok (t, pa) =>
    let p : Piece := ⟨spot t, pa, at_, n, va⟩
    if need.writes && s.sealed (s.ctx s.cur.ctx).asid va n then .error 2
    else if need = .rd && s.piecePoison p then .error 4
    else .ok p

/-- The place of a global byte for a W-path access: in a window of the team the stash serves device memory (12 R246). -/
def State.spotOf (s : State) (va : Nat) (t : Target) : Spot :=
  if t = .device && inWindows (s.windows s.cur) va then .stash else .home t

/-- What a W-path access to a window needs: a stash frame is filled with RD, and for a write with W (12 R246). -/
def State.needAt (s : State) (need : Need) (va : Nat) : Need :=
  if need = .wr && inWindows (s.windows s.cur) va then .rmw else need

/-- The frame in which the team's stash holds a global address of a window (12 R246). -/
def State.windowFrame (s : State) (va : Nat) : Option StashFrame :=
  if inWindows (s.windows s.cur) va then
    (s.cluster s.cur.cluster).stash.find? fun f => s.cur.team == some f.team && f.va == va / 256
  else none

/-- A piece of a W-path access to global memory: a frame that the stash holds was translated at its fill (12 R246). -/
def State.wPiece (s : State) (need : Need) (at_ n va : Nat) : Except Nat Piece :=
  match s.windowFrame va with
  | none => s.globalPiece (s.needAt need va) (s.spotOf va) at_ n va
  | some f =>
    let p : Piece := ⟨.stash, f.frame * 256 + va % 256, at_, n, va⟩
    if need.writes && !f.writable then .error 2
    else if need.writes && s.sealed (s.ctx s.cur.ctx).asid va n then .error 2
    else if need = .rd && s.piecePoison p then .error 4
    else .ok p

/-- The pieces of a W-path access to global memory. -/
def State.globalPieces (s : State) (need : Need) (va n : Nat) : List (Except Nat Piece) :=
  (halves va n).map fun (at_, m) => s.wPiece need at_ m (va + at_)

/-- The pieces of a lane's access in its space, each with the cause that refuses it (12 R228 to R231, R238). -/
def State.pieces (s : State) (space : Space) (lane a n : Nat) (need : Need) : List (Except Nat Piece) :=
  if a % Nat.min n 8 ≠ 0 then [.error 3]
  else match space with
    | .global => s.globalPieces need a n
    | .shared => (halves a n).map fun (at_, m) =>
      if s.sharedBytes s.cur < a + at_ + m then .error 2 else .ok ⟨.shared, a + at_, at_, m, 0⟩
    | .stash => (halves a n).map fun (at_, m) =>
      match stashGlobal (s.windows s.cur) (a + at_) with
      | none => .error 2
      | some va => s.wPiece need at_ m va
    | .priv => (if n = 16 then [(0, 8), (8, 8)] else [(0, n)]).map fun (at_, m) =>
      if s.plane s.cur < a + at_ + m then .error 2
      else s.globalPiece need .priv at_ m (privAddr s.cur.pbase lane (a + at_))

/-- The first cause among the pieces of a lane, and the byte at which it arises (13 R252). -/
def firstFault (xs : List (Except Nat Piece)) : Option (Nat × Nat) :=
  let cs := ((List.range xs.length).zip xs).filterMap fun (i, x) => match x with
    | .error c => some (c, 8 * i)
    | .ok _ => none
  cs.foldl (fun acc x => match acc with
    | none => some x
    | some y => if causeRank x.1 < causeRank y.1 then some x else some y) none

/-- The accesses of all lanes past their fault point, from the pieces that `f` gives for a lane and its address; or the
fault of the lowest lane that has one (13 R251, R252). A scalar access names the thread's lanes. -/
def laneAccesses (scalar write : Bool) (lanes : List (Nat × W64)) (f : Nat → Nat → List (Except Nat Piece)) :
    Except Trap (List (Nat × Piece)) :=
  let rs := lanes.map fun (l, a) => (l, a, f l a.toNat)
  let bad := rs.filterMap fun (l, a, xs) => (firstFault xs).map fun (c, o) => (l, a + w64 o, c)
  match (bad.find? fun x => (awaySector x.2.2).isSome).toList ++ bad with
  | [] => .ok (rs.flatMap fun (l, _, xs) => xs.filterMap fun x => match x with
    | .ok p => some (l, p)
    | .error _ => none)
  | (_, a, c) :: _ =>
    let lanes := Mask.ofFn fun l => bad.any fun (m, _, d) => m == l && d == c
    .error { Trap.of c with addr := some a, write := write, lanes := if scalar then none else some lanes }

/-- The global address at which a space places an offset of a lane (12 R229 to R231). -/
def State.globalOf (s : State) (space : Space) (lane o : Nat) : Option Nat :=
  match space with
  | .stash => stashGlobal (s.windows s.cur) o
  | .priv => some (privAddr s.cur.pbase lane o)
  | _ => none

/-- The walk of an address meets poison. -/
def State.walkPoisoned (s : State) (va : Nat) : Bool :=
  match s.leaf s.die s.cur.ctx va with
  | .error c => c == 4
  | .ok _ => false

/-- A trap of an access in a space: where the walk of the stash or of private memory met poison, TRAPADDR is the virtual address
translated (12 R234). -/
def State.walkTrap (s : State) (space : Space) (tr : Trap) : Trap :=
  let lane := ((tr.lanes.map Mask.toList).getD s.active.toList).headD 0
  match tr.addr.bind fun a => s.globalOf space lane a.toNat with
  | some va => if tr.cause = 4 && s.walkPoisoned va then { tr with addr := some (w64 va) } else tr
  | none => tr

/-- A memory fault of a transactional access aborts the transaction instead (18 R360 status 7); an access that must wait for a
sector does not. -/
def State.memFault (s : State) (tr : Trap) : Stop :=
  if s.cur.tx.isSome && (awaySector tr.cause).isNone then .abort 7 (some tr) else .trap tr

/-! What must happen before an access can be made. -/

/-- The stash frame that serves a piece. -/
def State.stashFrame (s : State) (pa : Nat) : Option StashFrame :=
  (s.cluster s.cur.cluster).stash.find? fun f => s.cur.team == some f.team && f.frame == pa / 256

/-- A frame still holds the words of a range. -/
def StashFrame.serves (f : StashFrame) (pa n : Nat) : Bool :=
  (List.range ((pa + n - 1) / 8 + 1 - pa / 8)).all fun k => f.held.getLsbD ((pa / 8 + k) % 32)

/-- What a piece waits for before it is read or written at once: a stash fill, or the answer of an outside holder. -/
def State.pieceNeeds (s : State) (need : Need) (p : Piece) : Option (List Instr) :=
  match p.spot with
  | .stash =>
    if (s.stashFrame p.pa).any (·.serves p.pa p.n) then none
    else if s.sectorHeld (p.pa / 32) then some (s.freeSector (p.pa / 32))
    else some [.stashFill s.cur.cluster (s.cur.team.getD 0) ⟨p.va / 256, p.pa / 256⟩ need.writes]
  | .home .device =>
    if need = .rd && s.sectorHeld (p.pa / 32) && (s.l1Bytes s.sys.pts p.pa p.n).isNone then some (s.freeSector (p.pa / 32))
    else none
  | .priv .device =>
    if (need = .rd || decide (p.n < 8)) && (NMap.get? s.cur.priv (wordKey .device p.pa)).isNone && s.sectorAway (p.pa / 32) then
      some (s.freeSector (p.pa / 32))
    else none
  | _ => none

/-- All pieces can be served, or the thread waits for memory. -/
def State.memoryReady (s : State) (need : Need) (ps : List (Nat × Piece)) : Except Stop Unit :=
  match ps.filterMap fun (_, p) => s.pieceNeeds need p with
  | [] => .ok ()
  | es => .error (.memory es.flatten)

/-- A slice of the L2 has no room for a sector (01 R22). -/
def State.noRoom (s : State) (sec : Nat) : Bool := (s.victimFor [sec]).isSome

/-- Device sectors of a range that an engine or a synchronous access reads or writes at their homes are free. -/
def State.sectorsFree (s : State) (pa n : Nat) : Except Stop Unit :=
  match (List.range ((pa + n - 1) / 32 + 1 - pa / 32)).filter fun k => s.sectorAway (pa / 32 + k) || s.noRoom (pa / 32 + k) with
  | [] => .ok ()
  | ks => .error (.memory (ks.flatMap fun k => s.freeSector (pa / 32 + k)))

/-- A write may be made at once to some sectors: none is held elsewhere, and none has sharers that must drop their copies first
(17 R327, R332). -/
def State.claims (s : State) (secs : List Nat) : Except Stop Unit :=
  match secs.filter fun k => s.sectorAway k || s.noRoom k || s.mustTell k (.wave s.cur.id) != 0 with
  | [] => .ok ()
  | ks => .error (.memory (ks.flatMap s.claimSector))

/-! Shared memory, stash and private memory at once. -/

/-- Bytes of the team's shared memory (12 R229). -/
def State.sharedGet (s : State) (off n : Nat) : List Byte := ((s.teamOf s.cur).map fun t => t.shared.gets off n).getD []

/-- Writes bytes of a team's shared memory and wakes who waits on them. -/
def State.sharedPutAt (s : State) (team off : Nat) (bs : List Byte) : State :=
  match NMap.get? s.teams team with
  | none => s
  | some t =>
    { s with teams := NMap.set s.teams team { t with shared := t.shared.puts off bs } }.notifyRange (sharedKey team)
      off bs.length

/-- Writes bytes of the issuing wave's shared memory. -/
def State.sharedPut (s : State) (off : Nat) (bs : List Byte) : State := s.sharedPutAt (s.cur.team.getD 0) off bs

/-- Bytes of a stash frame within one word or two. -/
def StashFrame.gets (f : StashFrame) (pa n : Nat) : List Byte :=
  (List.range n).map fun i => BitVec.ofNat 8 (elem 8 (f.words.getD ((pa + i) / 8 % 32) 0) ((pa + i) % 8))

/-- A stash frame with bytes written and their words dirty (12 R247). -/
def StashFrame.puts (f : StashFrame) (pa : Nat) (bs : List Byte) : StashFrame :=
  match bs with
  | [] => f
  | b :: rest =>
    let k := pa / 8 % 32
    StashFrame.puts { f with words := f.words.set k (setElem 8 (f.words.getD k 0) (pa % 8) b.toNat),
                             dirty := f.dirty ||| Mask.lane k } (pa + 1) rest

/-- A store of the team into a frame that it owns (12 R246, R247). A poisoned sector drops it (17 R340). -/
def State.stashPut (s : State) (pa : Nat) (bs : List Byte) : State :=
  if s.poisonedIn pa bs.length then s.count 6 3
  else
    let k := s.cluster s.cur.cluster
    let s := s.doom (.wave s.cur.id) (pa / 64) true
    let stash := k.stash.map fun f => if s.cur.team == some f.team && f.frame == pa / 256 then f.puts pa bs else f
    (s.setCluster s.cur.cluster { k with stash := stash }).notifyRange (wordKey .device) pa bs.length

/-- The byte that the home of a target holds. -/
def State.homeByte (s : State) (t : Target) (pa : Nat) : Byte :=
  match t with
  | .device => s.atHome pa
  | .host _ => s.outByte t pa (Memory.get s.hostMem pa)
  | .peer p => s.outByte t pa (Memory.get (NMap.getD s.peerMem p []) pa)

/-- The 8-byte word of private memory that holds a byte: the wave's, else the home's with the wave's own queued stores (12
R231). -/
def State.privWord (s : State) (t : Target) (pa : Nat) : W64 :=
  match NMap.get? s.cur.priv (wordKey t pa) with
  | some (w, _) => w
  | none =>
    let mine := (s.cluster s.cur.cluster).queue.filter fun q => q.wave == s.cur.id
    w64 (ofBytes ((List.range 8).map fun i =>
      (queuedByte mine t (pa / 8 * 8 + i)).getD (s.homeByte t (pa / 8 * 8 + i))))

/-- Bytes of a word of private memory. -/
def State.privGet (s : State) (t : Target) (pa n : Nat) : List Byte :=
  (List.range n).map fun i => BitVec.ofNat 8 (elem 8 (s.privWord t (pa + i)) ((pa + i) % 8))

/-- Bytes written into an image from byte `off`. -/
def placeBytes (x : W64) (off : Nat) (bs : List Byte) : W64 :=
  match bs with
  | [] => x
  | b :: rest => placeBytes (setElem 8 x off b.toNat) (off + 1) rest

/-- A private store within one word, which the wave holds from then on (12 R231). -/
def State.privPut (s : State) (t : Target) (pa : Nat) (bs : List Byte) : State :=
  let w := placeBytes (s.privWord t pa) (pa % 8) bs
  { s with cur := { s.cur with priv := NMap.set s.cur.priv (wordKey t pa) (w, true) } }

/-- The bytes of a piece that are read at once; none where the L1 must ask the home. -/
def State.pieceBytes (s : State) (p : Piece) : Option (List Byte) :=
  match p.spot with
  | .shared => some (s.sharedGet p.pa p.n)
  | .stash => (s.stashFrame p.pa).map fun f => f.gets p.pa p.n
  | .priv t => some (s.privGet t p.pa p.n)
  | .home .device => s.l1Bytes s.sys.pts p.pa p.n
  | .bare t => (s.physRead t p.pa p.n).toOption
  | .home t =>
    let base := match s.physRead t p.pa p.n with
      | .ok bs => bs
      | .error _ => []
    some ((List.range p.n).map fun i =>
      (queuedByte (s.cluster s.cur.cluster).queue t (p.pa + i)).getD (base.getD i 0))

/-! The store queue (17 R326). -/

/-- The queue sends to the home every entry with no older entry on a word of its own. -/
def State.sendQueue (s : State) (cl : Nat) : State :=
  let q := (s.cluster cl).queue
  let ready := q.filter fun e => !e.sent && !(q.any fun o => decide (o.id < e.id) &&
    o.meets e.target (e.pa / 8 * 8) ((e.pa + e.bytes + 7) / 8 * 8 - e.pa / 8 * 8))
  ready.foldl (fun s e => s.postOnce (.homeStore cl e.id)) s

/-- A block with bytes of a store written into the words it holds (12 R243). -/
def Block.store (b : Block) (pa : Nat) (bs : List Byte) : Block :=
  match bs with
  | [] => b
  | x :: rest =>
    let k := pa / 8 % 32
    let c := if pa / 256 = b.frame ∧ b.first ≤ k ∧ k < b.first + b.words.length then
        { b with words := b.words.set (k - b.first) (setElem 8 (b.words.getD (k - b.first) 0) (pa % 8) x.toNat) }
      else b
    Block.store c (pa + 1) rest

/-- The L1 takes a store or an atomic of the issuing thread (17 R326). -/
def State.enqueue (s : State) (t : Target) (pa : Nat) (va : Option Nat) (op : HomeOp) (reply : Option (Nat × Nat × Nat)) : State :=
  let k := s.cluster s.cur.cluster
  let q : QEntry := { id := s.nextId, wave := s.cur.id, who := s.who, own := s.thread.mask, time := s.sys.pts, target := t, pa := pa, va := va, op := op,
                      sent := false, reply := reply }
  let blocks := match t, op with
    | .device, .store bs _ => k.blocks.map fun b => b.store pa bs
    | _, _ => k.blocks
  ({ s with nextId := s.nextId + 1 }.setCluster s.cur.cluster { k with queue := k.queue ++ [q], blocks := blocks }).sendQueue
    s.cur.cluster

/-- A load of the wave that has not returned reads a byte of a range: a later store of the wave waits for it (16 R314,
log entry 20). -/
def State.loadOutstanding (s : State) (pa n : Nat) : Bool :=
  s.cur.pending.any fun p => p.parts.any fun x => decide (x.pa < pa + n) && decide (pa < x.pa + x.n)

/-- Stores wait for the loads that their bytes must not overtake. -/
def State.storesReady (s : State) (ps : List (Nat × Piece)) : Except Stop Unit :=
  need (!(ps.any fun (_, p) => match p.spot with
    | .home .device => s.loadOutstanding p.pa p.n
    | _ => false)) (.wait .results)

/-- A piece written at once, or handed to the L1. -/
def State.writePiece (s : State) (p : Piece) (bs : List Byte) : State :=
  match p.spot with
  | .shared => s.sharedPut p.pa bs
  | .stash => s.stashPut p.pa bs
  | .priv t => s.privPut t p.pa bs
  | .home t => s.enqueue t p.pa (some p.va) (.store bs false) none
  | .bare t => s.physWrite t p.pa bs s.sys.pts (.wave s.cur.id)

/-! The order of the lanes of one instruction, which is not defined (13 R256, R263, log entry 10). -/

/-- Puts a lane's piece into a list sorted by key. -/
def insertPiece (fresh : Nat) (x : Nat × Piece) (xs : List (Nat × Piece)) : List (Nat × Piece) :=
  match xs with
  | [] => [x]
  | y :: rest =>
    if Config.laneKey fresh (x.1 + 4 * x.2.at_) < Config.laneKey fresh (y.1 + 4 * y.2.at_) then x :: y :: rest
    else y :: insertPiece fresh x rest

/-- The pieces of all lanes in the order in which they act. -/
def State.ordered (s : State) (ps : List (Nat × Piece)) : List (Nat × Piece) :=
  if ps.length ≤ 1 then ps else ps.foldr (insertPiece s.fresh) []

/-! Transactions (18 R357 to R360). -/

/-- Whether the transaction of wave `a` keeps its blocks against that of wave `b` (18 R359). -/
def Tx.older (x y : Tx) (a b : Wave) : Bool :=
  if x.gt != y.gt then timeLe x.gt y.gt
  else if a.cluster != b.cluster then decide (a.cluster < b.cluster)
  else if a.waveNo != b.waveNo then decide (a.waveNo.toNat < b.waveNo.toNat)
  else decide (a.id < b.id)

/-- Marks the transaction of a wave as having lost a conflict. -/
def State.loseTx (s : State) (w : Wave) : State :=
  match w.tx with
  | none => s
  | some x => (s.setWave { w with tx := some { x with doomed := some 1 } }).postOnce (.txConflictAbort w.id)

/-- A transactional access to 64-byte block `blk`: it enters a set, and conflicts with other transactions are resolved (18
R357, R359, R360). -/
def State.txTouch (s : State) (blk : Nat) (write : Bool) : Except Stop State :=
  match s.cur.tx with
  | none => .ok s
  | some x => do
    let others := (s.waves.map (·.2)).filter fun w => match w.tx with
      | some y => y.doomed.isNone && (y.writes.contains blk || (write && y.reads.contains blk))
      | none => false
    need (others.all fun w => match w.tx with
      | some y => x.older y s.cur w
      | none => true) (.abort 1 none)
    let reads := if write || x.reads.contains blk then x.reads else blk :: x.reads
    let writes := if write && !x.writes.contains blk then blk :: x.writes else x.writes
    need (decide ((reads.filter fun b => !writes.contains b).length + writes.length ≤ 8)) (.abort 2 none)
    let s := others.foldl State.loseTx s
    .ok { s with cur := { s.cur with tx := some { x with reads := reads, writes := writes } } }

/-- All blocks of the pieces of a transactional access. -/
def State.txTouchAll (s : State) (ps : List (Nat × Piece)) (write : Bool) : Except Stop State :=
  match ps with
  | [] => .ok s
  | (_, p) :: rest => match s.txTouch (p.pa / 64) write with
    | .error e => .error e
    | .ok t => t.txTouchAll rest write

/-- A transactional access names global device memory only (18 R357, R360 status 4). -/
def State.txPlace (s : State) (ps : List (Nat × Piece)) : Except Stop Unit :=
  need (s.cur.tx.isNone || ps.all fun (_, p) => p.spot == .home .device || p.spot == .stash) (.abort 4 none)

/-- A read outside transactions of bytes of device memory dooms the transactions that hold stores there (18 R359). -/
def State.readTouch (s : State) (pa n : Nat) : State :=
  let s := s.doom (.wave s.cur.id) (pa / 64) false
  if (pa + n - 1) / 64 = pa / 64 then s else s.doom (.wave s.cur.id) ((pa + n - 1) / 64) false

/-- A read made at the homes at once: the time of the reader rises to the WTS of what it reads, and the homes keep its
reader in mind, as a lease of no length does (17 R326, R327). -/
def State.sawHome (s : State) (t : Target) (pa n : Nat) : State :=
  match t with
  | .device =>
    (List.range ((pa + n - 1) / 32 + 1 - pa / 32)).foldl (fun s k =>
      let x := s.sector (pa / 32 + k)
      let s := s.setSector (pa / 32 + k) (x.leased s.sys.pts s.tick)
      s.setSys { s.sys with pts := timeMax s.sys.pts x.wts }) (s.readTouch pa n)
  | _ => s

/-- A piece can be read at once on path W: from the cluster, from the stash, or from a home whose sector is free. -/
def State.wReady (s : State) (p : Piece) : Except Stop Unit :=
  match p.spot with
  | .stash => s.memoryReady .rd [(0, p)]
  | .home .device => if (s.l1Bytes s.sys.pts p.pa p.n).isSome then .ok () else s.sectorsFree p.pa p.n
  | _ => .ok ()

/-- `n` words from a global address can be read at once on path W. -/
def State.wordsFree (s : State) (va : Nat) : (n : Nat) → Except Stop Unit
  | 0 => .ok ()
  | n + 1 =>
    match s.wPiece .rd 0 8 va with
    | .error _ => .ok ()
    | .ok p => match s.wReady p with
      | .error e => .error e
      | .ok _ => s.wordsFree (va + 8) n

/-- Bytes of a target that lie in one sector as path W reads them at once: from the cluster where it can serve them, else
from the home, queued stores of the cluster before it (17 R326). -/
def State.wBytes (s : State) (t : Target) (pa n : Nat) : List Byte :=
  let base := match t with
    | .device => (s.l1Bytes s.sys.pts pa n).getD (s.seenBytes pa n)
    | t => s.outBytes t pa n
  (List.range n).map fun i => (queuedByte (s.cluster s.cur.cluster).queue t (pa + i)).getD (base.getD i 0)

/-- What such a read leaves: a hit's trace, or what the miss brings (17 R326). -/
def State.wTouch (s : State) (t : Target) (pa n va : Nat) : State :=
  match t with
  | .device =>
    let s := s.readTouch pa n
    if (s.l1Bytes s.sys.pts pa n).isSome then s.noteHits pa n
    else
      let all : W32 := Mask.ofFn fun w => decide (pa / 8 % 32 ≤ w) && decide (w ≤ (pa + n - 1) / 8 % 32)
      let m := all &&& ~~~s.coveredWords (pa / 256)
      s.missNow (pa / 256) (if m = 0 then all else m) (pa / 8 % 32) ((pa + n - 1) / 8 % 32) va
  | t => s.holdLines t pa n

/-- The bytes of a piece as path W reads them at once: a window's from the stash. -/
def State.wPieceBytes (s : State) (p : Piece) : List Byte :=
  match p.spot with
  | .home t => s.wBytes t p.pa p.n
  | _ => (s.pieceBytes p).getD []

/-- What reading a piece at once on path W leaves. -/
def State.wSaw (s : State) (p : Piece) : State :=
  (match p.spot with
    | .home t => s.wTouch t p.pa p.n p.va
    | _ => s.readTouch p.pa p.n).hold s.cur.cluster s.cur.ctx p.va

/-- 8-byte words of global memory on path W: the words, or the cause and the address. -/
def State.wWords (s : State) (va : Nat) : (n : Nat) → Except (Nat × Nat) (List W64)
  | 0 => .ok []
  | n + 1 =>
    match s.wPiece .rd 0 8 va with
    | .error c => .error (c, va)
    | .ok p => match s.wWords (va + 8) n with
      | .error e => .error e
      | .ok ws => .ok (w64 (ofBytes (s.wPieceBytes p)) :: ws)

/-- What reading `n` words on path W leaves. -/
def State.sawWords (s : State) (va : Nat) : (n : Nat) → State
  | 0 => s
  | n + 1 =>
    match s.wPiece .rd 0 8 va with
    | .error _ => s
    | .ok p => (s.wSaw p).sawWords (va + 8) n

/-- `n` words of global memory as 8-byte loads of the wave that return before it goes on: its own stores are at their
homes first. -/
def State.loadWords (s : State) (va n : Nat) : Except Stop (List W64 × State) := do
  need (s.over s.cur s.who .accesses) (.wait .accesses)
  s.wordsFree va n
  match s.wWords va n with
  | .error (c, a) => .error (faultAt c (w64 a))
  | .ok ws => .ok (ws, s.sawWords va n)

/-- Whether a block holds a word of a range. -/
def Block.holds (b : Block) (pa n : Nat) : Bool :=
  b.frame == pa / 256 && decide (b.first ≤ (pa + n - 1) / 8 % 32) && decide (pa / 8 % 32 < b.first + b.words.length)

/-- A block that holds what a store wrote, once the home has acknowledged it (17 R326). -/
def Block.acked (b : Block) (wts : BitVec 16) (tick : Nat) : Block :=
  { b with wts := timeMax b.wts wts, rts := timeMax b.rts wts, stamp := tick }

/-- A reply's words with the bytes of a store over them. -/
def patchReply (r : LeaseRep) (pa : Nat) (bs : List Byte) : LeaseRep :=
  { r with words := ((List.range bs.length).zip bs).foldl (fun ws (i, x) =>
      let k := (pa + i) / 8 % 32
      if r.first ≤ k ∧ (pa + i) / 256 = r.frame then
        ws.set (k - r.first) (setElem 8 (ws.getD (k - r.first) 0) ((pa + i) % 8) x.toNat)
      else ws) r.words }

/-- The replies on their way to a cluster do not bring back what its store has overwritten (17 R326). -/
def State.patchReplies (s : State) (c pa : Nat) (bs : List Byte) : State :=
  s.mapReplies c (pa / 256) fun r => patchReply r pa bs

/-- A store made at its home at once on path W: the cluster's blocks take it with its WTS, as on an acknowledgement; where
another store to its words still waits in the queue they forget them. -/
def State.storeHome (s : State) (t : Target) (pa : Nat) (bs : List Byte) (repair : Bool) : State :=
  let s := match t with
    | .device => if repair then s.homeWrite pa bs s.sys.pts true (.wave s.cur.id) else s.physWrite t pa bs s.sys.pts (.wave s.cur.id)
    | _ => s.physWrite t pa bs s.sys.pts (.wave s.cur.id)
  match t with
  | .device =>
    let w := (s.sector (pa / 32)).wts
    let k := s.cluster s.cur.cluster
    let s := s.setSys { s.sys with pts := timeMax s.sys.pts w }
    if k.queue.any fun q => q.meets t pa bs.length then s.forgetWords s.cur.cluster pa bs.length
    else
      let blocks := k.blocks.map fun b => if b.holds pa bs.length then (b.store pa bs).acked w s.tick else b
      (s.setCluster s.cur.cluster { k with blocks := blocks }).patchReplies s.cur.cluster pa bs
  | _ => s

/-- A plain store made at its home at once. -/
def State.storeNow (s : State) (t : Target) (pa : Nat) (bs : List Byte) : State := s.storeHome t pa bs false

/-- Bytes as a transaction reads them: its held stores over what the home holds. -/
def State.txBytes (s : State) (x : Tx) (pa n : Nat) : List Byte :=
  (List.range n).map fun i => (NMap.get? x.held (pa + i)).getD (s.seen (pa + i))

/-- Holds bytes in the transaction. -/
def State.txHold (s : State) (p : Piece) (bs : List Byte) : State :=
  match s.cur.tx with
  | none => s
  | some x =>
    let held := ((List.range bs.length).zip bs).foldl (fun m (i, b) => NMap.set m (p.pa + i) b) x.held
    let vas := (List.range ((p.pa + p.n - 1) / 8 + 1 - p.pa / 8)).foldl (fun m k => NMap.set m (p.pa / 8 + k) (p.va / 8 + k)) x.vas
    { s with cur := { s.cur with tx := some { x with held := held, vas := vas } } }

/-- Notes the sectors of a .repair store that the transaction holds (13 R255). -/
def State.txRepair (s : State) (ps : List Piece) : State :=
  let secs := ps.foldl (fun acc p => insertRising (p.pa / 32) acc) []
  { s with cur := { s.cur with tx := s.cur.tx.map fun x => { x with repairs := secs.foldl (fun acc k => insertRising k acc) x.repairs } } }

end Sys2Proof.Machine
end

