-- ==== Sys2Proof/Machine/Fetch.lean ====
section
/-! DEFINITION. NOP, XLOAD and XFENCE (04 R98 to R100). -/

namespace Sys2Proof.Machine

/-- NOP (04 R98). -/
def execNop (s : State) : Host.Outcome State Fault Refusal := s.finish (.ok s)

/-- The first malformed template of a list that begins at entry `f` (04 R90, R99). -/
def firstMalformed (ts : List W64) (f : Nat) : Option Nat :=
  match ts with
  | [] => none
  | t :: rest => if templateValid t && malformed t then some f else firstMalformed rest (f + 1)

/-- Templates written to consecutive entries. -/
def putEntries (m : NMap W64) (f : Nat) (ts : List W64) : NMap W64 :=
  match ts with
  | [] => m
  | t :: rest => putEntries (NMap.set m f t) (f + 1) rest

/-- The new table of the wave; the old one may still decode until XFENCE (04 R96, R99). -/
def Wave.loadEntries (w : Wave) (f : Nat) (ts : List W64) : Wave :=
  { w with exemplar := putEntries w.exemplar f ts, oldTables := w.exemplar :: w.oldTables, xgen := w.xgen + 1 }

/-- The words that an XLOAD reads; the split is then blocked in XLOAD (18 R355). -/
def State.entryWords (s : State) (va n : Nat) : Except Stop (List W64 × State) :=
  match s.loadWords va n with
  | .error (.wait _) => .error (.loading [])
  | .error (.memory evs) => .error (.loading evs)
  | .error (.trap tr) => .error (match awaySector tr.cause with
    | some k => .loading (s.freeSector k)
    | none => .trap tr)
  | r => r

/-- XLOAD (04 R99). -/
def execXload (first : BitVec 7) (count addr : Src) (s : State) : Host.Outcome State Fault Refusal :=
  s.finish do
    need (!s.inSprig && decide (s.cur.shownSplits.length ≤ 1) && s.cur.joins == 0) convergence
    s.srcTag countTag count
    s.srcTag addrTag addr
    let f := first.toNat
    let n := s.value .n64 count
    need (decide (8 ≤ f) && decide (1 ≤ n) && decide (n ≤ 120) && decide (f + n ≤ 128)) illegal
    let p := s.image addr
    need (p.extractLsb' 0 3 == 0) (faultAt 3 p)
    s.noRunAhead
    let (ts, t) ← s.entryWords p.toNat n
    match firstMalformed ts f with
    | some e => .error (.trap { Trap.of 6 with addr := some (p + w64 (8 * (e - f))), code := e })
    | none =>
      let u := { t with cur := t.cur.loadEntries f ts }
      .ok (u.setThread { u.thread with choice := none })

/-- The wave without the old tables and the packets that its splits have fetched; a sprig discards its own code only (04
R100). -/
def Wave.refetch (w : Wave) (who : Who) : Wave :=
  match who with
  | .sprig j =>
    { w with fetched := w.fetched.filter fun (k, _) => k / 2 ^ 60 != j + 1,
             sprigs := match NMap.get? w.sprigs j with
               | some p => NMap.set w.sprigs j { p with fenced := true, th := { p.th with code := none } }
               | none => w.sprigs }
  | _ =>
    { w with oldTables := [], fetched := w.fetched.filter fun (k, _) => decide (2 ^ 60 ≤ k),
             splits := w.splits.map fun ((n, t) : Nat × Thread) => (n, { t with code := none }),
             frame := w.frame.map fun f => { f with handler := { f.handler with code := none } } }

/-- XFENCE (04 R100): later words are fetched and decoded afresh. -/
def execXfence (s : State) : Host.Outcome State Fault Refusal :=
  s.finish (let t := { s with cur := s.cur.refetch s.who }
    .ok (t.setThread { t.thread with choice := none }))

end Sys2Proof.Machine
end

