-- ==== Sys2Proof/Machine/Control.lean ====
section
/-! DEFINITION. Branches, calls, votes, the predicate and reconvergence stacks, and EXIT (07 R154 to R167). -/

namespace Sys2Proof.Machine

/-- Sets the transfer that takes effect after the group (07 R165). -/
def State.withTransfer (s : State) (t : Transfer) : State := { s with issue := { s.issue with transfer := some t } }

/-- go(): every lane of the thread goes to a packet (07 R162). -/
def State.go (s : State) (target : W64) : State := s.withTransfer (.goto ⟨target, 0⟩)

/-! The predicate stack (07 R153, R154). -/

/-- The entries that a sprig carried and may not pop (08 R178). -/
def State.predFloor (s : State) : Nat :=
  match s.recOwner with
  | some j => ((NMap.get? s.cur.sprigs j).map (·.exportDepth)).getD 0
  | none => 0

/-- `n` entries can leave the stack. -/
def State.canPop (s : State) (n : Nat) : Bool :=
  decide (n + s.predFloor ≤ s.seenThread.preds.length) && decide (n + s.predFloor ≤ s.thread.preds.length)

/-- The predicate stack fault 0x0C. -/
def predFault : Stop := .trap (Trap.of 0x0C)
/-- The reconvergence stack fault 0x0D. -/
def recFault : Stop := .trap (Trap.of 0x0D)
/-- The landing-point fault 0x0F with the refused target (19 R363). -/
def targetFault (t : W64) : Stop := faultAt 0x0F t

/-- The mask below the top of a stack, or all ones (07 R154). -/
def predBase (preds : List Mask) : Mask := preds.tail.headD (-1)

/-- The bits of a thread's own lanes from `new`, the others from `old` (07 R153). -/
def Thread.ownBits (t : Thread) (new old : Mask) : Mask := (new &&& t.mask) ||| (old &&& ~~~t.mask)

/-- The thread with an entry pushed (07 R154). -/
def Thread.pushPred (t : Thread) (m : Mask) : Thread :=
  { t with preds := t.ownBits m (t.stale.headD 0) :: t.preds, stale := t.stale.tail }

/-- The thread with `n` entries popped (07 R154). -/
def Thread.popPreds (t : Thread) (n : Nat) : Thread :=
  { t with preds := t.preds.drop n, stale := (t.preds.take n).reverse ++ t.stale }

/-- The condition of PPUSH (07 R154). -/
def State.condition (s : State) (a : Operand) : Mask :=
  match a with
  | .v r => Mask.ofFn fun l => (s.vval r.toNat l).getLsbD 0
  | .u x => (s.image x).extractLsb' 0 32

/-- The tags that a condition may carry. -/
def conditionTag (a : Operand) (t : Fmt) : Bool :=
  match a with
  | .v _ => t == .mask
  | .u _ => t == .mask || t == .n32 || t == .n64 || t == .b64

/-- PPUSH (07 R154). -/
def execPpush (neg : Bool) (a : Operand) (s : State) : Host.Outcome State Fault Refusal :=
  s.finish do
    need (s.opOk a) illegal
    s.tagIn (conditionTag a) a
    need (decide (s.thread.preds.length < 16)) predFault
    let c := s.condition a
    .ok (s.setThread (s.thread.pushPred (s.pred &&& (if neg then ~~~c else c))))

/-- PINV (07 R154). -/
def execPinv (s : State) : Host.Outcome State Fault Refusal :=
  s.finish do
    need (s.canPop 1) predFault
    let t := s.thread
    .ok (s.setThread { t with preds := t.ownBits (predBase s.seenThread.preds &&& ~~~s.pred) t.top :: t.preds.tail })

/-- PPOP (07 R154). -/
def execPpop (n : BitVec 8) (s : State) : Host.Outcome State Fault Refusal :=
  s.finish do
    need (s.canPop n.toNat) predFault
    .ok (s.setThread (s.thread.popPreds n.toNat))

/-! Branches (07 R160, R162, 08 R171). -/

/-- BR.always: no vote (07 R162). -/
def execBrAlways (off : BitVec 16) (s : State) : Host.Outcome State Fault Refusal :=
  s.finish (.ok (s.go (s.offsetTarget off)))

/-- BR.s: uniform, on a scalar register (07 R162). -/
def execBrS (r : BitVec 6) (off : BitVec 16) (s : State) : Host.Outcome State Fault Refusal :=
  s.finish do
    s.srcTag (fun t => countTag t || t == .mask || t == .addr) (.s r)
    .ok (if s.sval r.toNat = 0 then s else s.go (s.offsetTarget off))

/-- The vote of BR.p and BR.np (07 R162): the popped entry decides for the lanes active without it. In a transaction a
divergent vote aborts it (18 R360). -/
def State.branchVote (s : State) (off : BitVec 16) (want : Bool) : Except Stop State := do
  need (s.canPop 1) predFault
  let cond := s.pred
  let act := s.rsys.exec &&& s.seenThread.mask &&& predBase s.seenThread.preds
  let taken := act &&& (if want then cond else ~~~cond)
  let t := s.thread
  let popped := s.setThread (t.popPreds 1)
  if taken = 0 then .ok popped
  else if taken = act then .ok (popped.go (s.offsetTarget off))
  else
    need s.cur.tx.isNone (.abort 8 none)
    let rest := t.mask &&& ~~~taken
    let nib := popped.exports (if taken.count ≤ rest.count then taken else rest)
    need (nib.isSome || s.canSplit 1 || s.canPend) recFault
    .ok (popped.withTransfer (.divide taken ⟨s.offsetTarget off, 0⟩ nib))

/-- BR.p (07 R162). -/
def execBrP (off : BitVec 16) (s : State) : Host.Outcome State Fault Refusal := s.finish (s.branchVote off true)
/-- BR.np (07 R162). -/
def execBrNp (off : BitVec 16) (s : State) : Host.Outcome State Fault Refusal := s.finish (s.branchVote off false)

/-- BRX over the active lanes' targets (07 R163). Lanes with a bad target trap alone, after the others have become a
split of their own where the wave has room for one. -/
def State.branchEach (s : State) (target : Nat → W64) : Except Stop State := do
  let act := s.active
  if act = 0 then .ok s
  else do
    match act.toList.findSome? fun l => s.fetchAway s.cur (target l) with
    | some k => .error (faultAt (awayCode k) 0)
    | none => .ok ()
    let bad := Mask.ofFn fun l => act.has l && !s.landing s.cur (target l)
    let here : PC := ⟨s.packet, s.slot⟩
    if bad != 0 then
      let tr : Trap := { Trap.of 0x0F with lanes := some bad, addr := bad.toList.head?.map target }
      let good := act &&& ~~~bad
      if good != 0 && s.canSplit 1 then
        let t := s.newSplit good here
        let t := t.setThread { t.thread with mask := t.thread.mask &&& ~~~good }
        .ok ({ t with issue := { t.issue with marker := false } }.raise here tr |>.withTransfer .done)
      else .error (.trap tr)
    else
      let targets := act.toList.foldl (fun acc l => insertRising (target l).toNat acc) []
      let lanesTo (t : Nat) : Mask := Mask.ofFn fun l => act.has l && (target l).toNat == t
      match targets with
      | [] => .ok s
      | [t] => .ok (s.go (w64 t))
      | t :: others =>
        need s.cur.tx.isNone (.abort 8 none)
        if s.canSplit others.length then
          .ok (s.withTransfer (.fan ⟨w64 t, 0⟩ (others.map fun x => (⟨w64 x, 0⟩, lanesTo x))))
        else
          need s.canPend recFault
          .ok (s.withTransfer (.serial ⟨w64 t, 0⟩ here (act &&& ~~~lanesTo t)))

/-- BRX va (07 R163). -/
def execBrx (a : BitVec 7) (s : State) : Host.Outcome State Fault Refusal :=
  s.finish do
    need (s.regOk a.toNat) illegal
    s.tagIn (· == .addr) (.v a)
    s.branchEach fun l => s.vval a.toNat l

/-- BRX.tbl va, base (07 R163). -/
def execBrxTbl (a : BitVec 7) (base : Src) (s : State) : Host.Outcome State Fault Refusal :=
  s.finish do
    need (s.regOk a.toNat) illegal
    s.tagIn (· == .idx32) (.v a)
    s.srcTag addrTag base
    s.branchEach fun l => w64 ((s.image base).toNat + 16 * elem 32 (s.vval a.toNat l) 0)

/-! CALL and RET (07 R164). -/

/-- CALL to a target: sD takes the address of the next packet. -/
def State.callTo (s : State) (d : BitVec 6) (t : W64) : Except Stop State := do
  s.needLanding t (targetFault t)
  .ok ((s.writeS d.toNat .addr (s.packet + 16)).go t)

/-- CALL (07 R164). -/
def execCall (d : BitVec 6) (off : BitVec 16) (s : State) : Host.Outcome State Fault Refusal :=
  s.finish (s.callTo d (s.offsetTarget off))

/-- CALL.r (07 R164). -/
def execCallR (d : BitVec 6) (a : Src) (s : State) : Host.Outcome State Fault Refusal :=
  s.finish do
    s.srcTag addrTag a
    s.callTo d (s.image a)

/-- RET (07 R164). -/
def execRet (a : Src) (s : State) : Host.Outcome State Fault Refusal :=
  s.finish do
    s.srcTag addrTag a
    need ((s.image a).extractLsb' 0 4 == 0) (targetFault (s.image a))
    .ok (s.go (s.image a))

/-- RET.e (07 R164). -/
def execRetE (a : Src) (s : State) : Host.Outcome State Fault Refusal :=
  s.finish do
    s.srcTag addrTag a
    s.needLanding (s.image a) (targetFault (s.image a))
    .ok (s.go (s.image a))

/-! RECONV, VOTE and EXIT (07 R158, R166, R167). -/

/-- RECONV (07 R158). -/
def execReconv (off : BitVec 16) (s : State) : Host.Outcome State Fault Refusal :=
  s.finish do
    need (decide (s.recs.length < 16)) recFault
    let t := s.thread
    let e := firstFree 15 (s.recs.map (·.1))
    let r : Rec := { addr := s.offsetTarget off, expect := t.mask, arrived := 0, pend := none, share := 0,
                     pos := t.stack.length, bits := [], depth := none, uneven := false, below := t.stack }
    let s := (s.setRecs (NMap.set s.recs e r)).setThread { t with stack := e :: t.stack }
    .ok { s with cur := s.cur.tidy }

/-- The result of VOTE from the bits of the active lanes (07 R166). -/
def voteResult (mode : VoteMode) (act bits : Mask) : Fmt × W64 :=
  match mode with
  | .any => (.n64, if bits = 0 then 0 else 1)
  | .all => (.n64, if bits = act then 1 else 0)
  | .ballot => (.mask, bits.zeroExtend 64)
  | .count => (.n64, w64 bits.count)

/-- The check of the register that VOTE reads, if it reads one. -/
def State.voteReady (s : State) (a : Option (BitVec 7)) : Except Stop Unit :=
  match a with
  | none => .ok ()
  | some r => do
    need (s.regOk r.toNat) illegal
    s.tagIn (· == .mask) (.v r)

/-- The bits of the active lanes on which VOTE votes. -/
def State.voteBits (s : State) (a : Option (BitVec 7)) : Mask :=
  s.active &&& match a with
    | some r => s.condition (.v r)
    | none => s.pred

/-- VOTE (07 R166); with no vector register it votes on the predicate. -/
def execVote (mode : VoteMode) (d : BitVec 6) (a : Option (BitVec 7)) (s : State) : Host.Outcome State Fault Refusal :=
  s.finish do
    s.voteReady a
    let (tag, v) := voteResult mode s.active (s.voteBits a)
    .ok (s.writeS d.toNat tag v)

/-- EXIT (07 R167, 08 R180). -/
def execExit (s : State) : Host.Outcome State Fault Refusal :=
  s.finish do
    s.noRunAhead
    .ok (s.withTransfer (if s.rsys.exec &&& s.exitLook = 0 then .exitAll else .exit s.active))

end Sys2Proof.Machine
end

