-- ==== Sys2Proof/Machine/MemOps.lean ====
section
/-! DEFINITION. LD, ST, ATOM, CAS and PREF (13 R250 to R256, R261 to R264). -/

namespace Sys2Proof.Machine

/-! Addresses (13 R250). -/

/-- An operand's image as an offset: 64-bit tags and untagged values whole, narrower tags from element 0. -/
def readByTag (t : Option Fmt) (x : W64) : W64 :=
  match t with
  | some f => if f.width = 64 then x else BitVec.ofInt 64 (f.num (elem f.width x 0))
  | none => x

/-- Tags of an address operand A. -/
def baseTag (space : Space) (t : Fmt) : Bool :=
  t == .addr || t == .n64 || t == .i64 || t == .b64 || (space != .global && (t == .n32 || t == .idx32))

/-- Tags of an offset operand B. -/
def offsetTag (t : Fmt) : Bool := t.isInt || t == .idx32 || t == .b64

/-- The address of a lane. -/
def State.laneAddr (s : State) (a b : Operand) (l : Nat) : W64 :=
  readByTag (s.tagOf a) (s.laneImage a l) + readByTag (s.tagOf b) (s.laneImage b l)

/-- The tag checks of an address. -/
def State.addrTags (s : State) (space : Space) (a b : Operand) : Except Stop Unit := do
  s.tagIn (baseTag space) a
  s.tagIn offsetTag b

/-- The lanes that access memory: the active ones, or one access for the thread (13 R250; of the lowest active lane, log
entry 21). -/
def State.accessLanes (s : State) (scalar : Bool) : List Nat :=
  if scalar then s.active.toList.take 1 else s.active.toList

/-- Both address operands hold one value for all lanes. -/
def oneAddress (a b : Operand) : Bool :=
  match a, b with
  | .u _, .u _ => true
  | _, _ => false

/-- Memory may be reached only in global space inside a transaction (18 R360 status 4). -/
def State.txSpace (s : State) (space : Space) : Except Stop Unit :=
  need (s.cur.tx.isNone || space == .global) (.abort 4 none)

/-- Whether the open transaction is .ro, in which a write aborts it (18 R357). -/
def State.txWrites (s : State) : Except Stop Unit :=
  need (match s.cur.tx with
    | some x => !x.ro
    | none => true) (.abort 4 none)

/-- Every piece of a transactional access can be read or held at once. -/
def State.txReady (s : State) (ps : List (Nat × Piece)) : Except Stop Unit := do
  s.txPlace ps
  need (s.over s.cur s.who .accesses) (.wait .accesses)
  match (ps.filter fun (_, p) => if p.spot = .stash then s.sectorHeld (p.pa / 32) else s.sectorAway (p.pa / 32)) with
  | [] => .ok ()
  | (_, p) :: _ => .error (.memory (s.freeSector (p.pa / 32)))

/-- The translations of an access's pieces are held (12 R235). -/
def State.holdPieces (s : State) (ps : List (Nat × Piece)) : State :=
  s.holdAll s.cur.cluster s.cur.ctx ((ps.filter fun (_, p) => match p.spot with
    | .shared => false
    | _ => true).map fun (_, p) => p.va)

/-! LD (13 R253, R254). -/

/-- The frames among pieces, without repeats. -/
def framesOf (ps : List Piece) : List Nat := ps.foldl (fun acc p => insertRising (p.pa / 256) acc) []

/-- The words that a missing piece adds to the missed set (12 R242): those of it that no live block covers, or all of them where
an atomic on its way is why it misses. -/
def State.missedWords (s : State) (frame : Nat) (p : Piece) : W32 :=
  let all : W32 := Mask.ofFn fun w => decide (p.pa / 8 % 32 ≤ w) && decide (w ≤ (p.pa + p.n - 1) / 8 % 32)
  let m := all &&& ~~~s.coveredWords frame
  if m = 0 then all else m

/-- A lease request for the words of a frame that pieces miss (12 R242); `read`: they enter the trace of what is read. -/
def State.fillRequest (s : State) (load hint : Nat) (l2 read : Bool) (ps : List Piece) (frame : Nat) : Instr :=
  let mine := ps.filter fun p => p.pa / 256 == frame
  let lo := mine.foldl (fun m p => Nat.min m (p.pa / 8 % 32)) 31
  let hi := mine.foldl (fun m p => Nat.max m ((p.pa + p.n - 1) / 8 % 32)) 0
  let missed := mine.foldl (fun m p => m ||| s.missedWords frame p) 0
  .leaseRequest (s.leaseFor load hint l2 frame missed (if read then lo else 31) (if read then hi else 0)
    ((mine.head?.map (·.va)).getD 0))

/-- The register and byte of a result at which byte `i` of an access stands: under SE 1 element K (13 R254). -/
def loadPlace (sz : Nat) (sel : Sel) (i : Nat) : Nat × Nat :=
  match sel with
  | some k => (0, k.toNat * sz + i)
  | none => (i / 8, i % 8)

/-- The parts of a load that the home must bring for one piece. -/
def loadParts (sz : Nat) (sel : Sel) (lane : Nat) (p : Piece) : List LoadPart :=
  if p.n = 16 then [⟨lane, 0, 0, p.pa, 8, false⟩, ⟨lane, 1, 0, p.pa + 8, 8, false⟩]
  else
    let (r, b) := loadPlace sz sel p.at_
    [⟨lane, r, b, p.pa, p.n, false⟩]

/-- The image of register `r` of a load in a lane, from the pieces whose bytes are known. -/
def loadImage (sz : Nat) (sel : Sel) (old : W64) (known : List (Nat × Piece × List Byte)) (lane r : Nat) : W64 :=
  let base : W64 := if sel.isSome then old else 0
  known.foldl (fun x (l, p, bs) =>
    if l ≠ lane then x
    else ((List.range bs.length).zip bs).foldl (fun x (i, b) =>
      let (q, o) := loadPlace sz sel (p.at_ + i)
      if q = r then setElem 8 x o b.toNat else x) x) base

/-- The registers of a load's result: two for 16 bytes. -/
def ldRegs (f : LdForm) : List RegName :=
  match f.d with
  | .v r => if f.sz = .b16 then [.v r.toNat, .v (r.toNat + 1)] else [.v r.toNat]
  | .s r => [.s r.toNat]

/-- The lanes of a result as its register holds them. -/
def State.resultMask (s : State) (d : Dest) : Mask :=
  match d with
  | .v _ => s.active
  | .s _ => -1

/-- What a read of a piece at once leaves. -/
def State.notePiece (s : State) (p : Piece) : State :=
  match p.spot with
  | .home .device => (s.readTouch p.pa p.n).noteHits p.pa p.n
  | .home t => s.holdLines t p.pa p.n
  | .stash => s.readTouch p.pa p.n
  | _ => s

/-- The result of a load from its pieces: what is known now, and what the homes still bring. -/
def State.deliver (s : State) (f : LdForm) (ps : List (Nat × Piece)) (bytes : Piece → Option (List Byte)) : State :=
  let sz := f.sz.bytes
  let ps := ps.map fun (l, p) => (if scalarDest (some f.d) then 0 else l, p)
  let known := ps.filterMap fun (l, p) => (bytes p).map fun bs => (l, p, bs)
  let missing := ps.filter fun (_, p) => (bytes p).isNone
  let parts := missing.flatMap fun (l, p) => loadParts sz f.sel l p
  let load := s.nextId
  let rs := ((List.range (ldRegs f).length).zip (ldRegs f)).map fun (k, r) =>
    (r, f.fmt, s.resultMask f.d, fun l => loadImage sz f.sel (s.oldImage f.d l) known l k)
  let t := known.foldl (fun t (_, p, _) => t.notePiece p) s
  let t := missing.foldl (fun t (_, p) => t.readTouch p.pa p.n) t
  let t := { t with nextId := s.nextId }.defer rs 0 parts none
  (framesOf (missing.map (·.2))).foldl (fun t fr => t.post (s.fillRequest load f.hint.toNat false true (missing.map (·.2)) fr)) t

/-- A register pair of a 16-byte load within the footprint. -/
def State.pairOk (s : State) (sz : Sz) (d : Dest) : Bool :=
  match d with
  | .v r => sz != .b16 || s.regsOk r.toNat 2
  | .s _ => true

/-- A load is one access of the thread where its addresses and its destination hold one value (13 R250). -/
def ldScalar (f : LdForm) : Bool := oneAddress f.a f.b && scalarDest (some f.d)

/-- The lanes of a load with their addresses. -/
def State.ldLanes (s : State) (f : LdForm) : List (Nat × W64) :=
  (s.accessLanes (ldScalar f)).map fun l => (l, s.laneAddr f.a f.b l)

/-- The accesses of a load, or its fault. -/
def State.ldAccesses (s : State) (f : LdForm) : Except Trap (List (Nat × Piece)) :=
  (laneAccesses (ldScalar f) false (s.ldLanes f) fun l a => s.pieces f.space l a f.sz.bytes .rd).mapError (s.walkTrap f.space)

/-- A piece outside device memory that an atomic on its way will change. -/
def State.behindAtomic (s : State) (p : Piece) : Bool :=
  match p.spot with
  | .home .device => false
  | .home t => atomQueued (s.cluster s.cur.cluster).queue t p.pa p.n
  | _ => false

/-- An earlier load of the thread still brings bytes of a piece: their values must not come out of order, whether or not the L1
could serve the later one at once (16 R314, R315). -/
def State.behindLoad (s : State) (p : Piece) : Bool :=
  p.spot == .home .device && s.cur.pending.any fun q => s.cur.owns s.who q.who q.own &&
    q.parts.any fun x => !x.atom && decide (x.pa < p.pa + p.n) && decide (p.pa < x.pa + x.n)

/-- LD (13 R253, R254). -/
def execLd (f : LdForm) (s : State) : Host.Outcome State Fault Refusal :=
  s.finish do
    need (s.destOk f.d && s.opOk f.a && s.opOk f.b && s.pairOk f.sz f.d) illegal
    s.addrTags f.space f.a f.b
    s.txSpace f.space
    need (f.sel.isNone || !s.awaits (RegName.ofDest f.d)) (.wait .results)
    s.ownReady f.sel f.d
    let lanes := s.ldLanes f
    if lanes.isEmpty then .ok s
    else
      match s.ldAccesses f with
      | .error tr => .error (s.memFault tr)
      | .ok ps =>
        match s.cur.tx with
        | some x => do
          s.txReady ps
          let t ← s.txTouchAll ps false
          let t := ps.foldl (fun t (_, p) => t.sawHome .device p.pa p.n) t
          .ok ((t.holdPieces ps).deliver f ps fun p => some (s.txBytes x p.pa p.n))
        | none => do
          s.memoryReady .rd ps
          need (!(ps.any fun (_, p) => s.behindAtomic p)) (.wait .accesses)
          need (!(ps.any fun (_, p) => s.behindLoad p)) (.wait .results)
          .ok ((s.holdPieces ps).deliver f ps s.pieceBytes)

/-! ST (13 R253, R255, R256). -/

/-- The data of a store in a lane: the selected element, or the bytes of one or two registers (13 R255). -/
def State.storeBytes (s : State) (f : StForm) (lane : Nat) : List Byte :=
  let n := f.sz.bytes
  let image (k : Nat) : W64 := match f.data with
    | .v r => s.vval (r.toNat + k) lane
    | .s r => s.sval (r.toNat + k)
  match f.sel with
  | some k => bytesOf n (elem (8 * n) (image 0) k.toNat)
  | none => if n = 16 then bytesOf 8 (image 0).toNat ++ bytesOf 8 (image 1).toNat else bytesOf n (image 0).toNat

/-- The data registers of a store. -/
def stData (f : StForm) : List Operand :=
  match f.data with
  | .v r => if f.sz = .b16 then [.v r, .v (r + 1)] else [.v r]
  | .s r => if f.sz = .b16 then [.u (.s r), .u (.s (r + 1))] else [.u (.s r)]

/-- The bytes that a lane of a store touches, as first address and length: in private space where its words stand (12 R231). -/
def State.touched (s : State) (space : Space) (n : Nat) (x : Nat × W64) : List (Nat × Nat) :=
  match space with
  | .priv => (if n = 16 then [0, 8] else [0]).map fun o => (privAddr s.cur.pbase x.1 (x.2.toNat + o), Nat.min n 8)
  | _ => [(x.2.toNat, n)]

/-- The ranges that the lanes of a .repair store touch cover every byte of each sector in them (13 R255). -/
def repairCovers (xs : List (Nat × Nat)) : Bool :=
  xs.all fun (a, n) => (List.range ((a + n - 1) / 32 + 1 - a / 32)).all fun k => (List.range 32).all fun i =>
    let x := (a / 32 + k) * 32 + i
    xs.any fun (b, m) => decide (b ≤ x) && decide (x < b + m)

/-- The sectors of device memory that a .repair store writes, each whole, and the other pieces; private words are the wave's as
well, and a window's sector, which its stash has given up, is written at its home at once. -/
def State.repairStores (s : State) (data : List (Nat × Piece × List Byte)) : State :=
  let far (p : Piece) : Bool := p.spot == .home .device || p.spot == .stash || p.spot == .priv .device
  let bytes : NMap Byte := data.foldl (fun m (_, p, bs) =>
    if far p then ((List.range bs.length).zip bs).foldl (fun m (i, b) => NMap.set m (p.pa + i) b) m else m) []
  let secs := bytes.foldl (fun acc (a, _) => insertRising (a / 32) acc) []
  let first (x : Nat) : Option Piece := (data.find? fun (_, p, _) => far p && p.pa / 32 == x).map fun (_, p, _) => p
  let s := secs.foldl (fun s x =>
    let bs := (List.range 32).map fun i => NMap.getD bytes (32 * x + i) 0
    match first x with
    | some ⟨.stash, _, _, _, _⟩ => s.storeHome .device (32 * x) bs true
    | some p => s.enqueue .device (32 * x) (if p.spot == .home .device then some (p.va / 32 * 32) else none) (.store bs true) none
    | none => s) s
  data.foldl (fun s (_, p, bs) => if far p && p.spot != .priv .device then s else s.writePiece p bs) s

/-- A .repair store can be made: the sectors that it writes in a window have left the stash (12 R247). -/
def State.repairReady (s : State) (ps : List (Nat × Piece)) : Except Stop Unit := do
  s.memoryReady .wr (ps.filter fun (_, p) => p.spot != .stash)
  s.claims ((ps.filter fun (_, p) => p.spot == .stash).foldl (fun acc (_, p) => insertRising (p.pa / 32) acc) [])

/-- The lanes of a store with their addresses. -/
def State.stLanes (s : State) (f : StForm) : List (Nat × W64) :=
  (s.accessLanes (oneAddress f.a f.b)).map fun l => (l, s.laneAddr f.a f.b l)

/-- The accesses of a store, or its fault. -/
def State.stAccesses (s : State) (f : StForm) : Except Trap (List (Nat × Piece)) :=
  (laneAccesses (oneAddress f.a f.b) true (s.stLanes f) fun l a => s.pieces f.space l a f.sz.bytes .wr).mapError
    (s.walkTrap f.space)

/-- The pieces of a store in the order in which they act, each with its bytes. -/
def State.stPieces (s : State) (f : StForm) (ps : List (Nat × Piece)) : List (Nat × Piece × List Byte) :=
  (s.ordered ps).map fun (l, p) => (l, p, ((s.storeBytes f l).drop p.at_).take p.n)

/-- ST (13 R253, R255, R256). -/
def execSt (f : StForm) (s : State) : Host.Outcome State Fault Refusal :=
  s.finish do
    need (s.opOk f.a && s.opOk f.b && (stData f).all s.opOk) illegal
    s.addrTags f.space f.a f.b
    s.tagsIn (fun t => t == f.fmt || t == .b64) (stData f)
    s.noRunAhead
    s.txSpace f.space
    s.txWrites
    let lanes := s.stLanes f
    if lanes.isEmpty then .ok s
    else
      need (!f.repair || repairCovers (lanes.flatMap (s.touched f.space f.sz.bytes))) illegal
      match s.stAccesses f with
      | .error tr => .error (s.memFault tr)
      | .ok ps =>
        let data := s.stPieces f ps
        if s.cur.tx.isSome then do
          s.txReady ps
          let t ← s.txTouchAll ps true
          let t := data.foldl (fun t (_, p, bs) => t.txHold p bs) (t.holdPieces ps)
          .ok (if f.repair then t.txRepair (ps.map (·.2)) else t)
        else do
          s.storesReady ps
          if f.repair then s.repairReady ps else s.memoryReady .wr ps
          let t := s.holdPieces ps
          .ok (if f.repair then t.repairStores data else data.foldl (fun t (_, p, bs) => t.writePiece p bs) t)

/-! ATOM and CAS (13 R261 to R263). -/

/-- One read-modify-write: the value written, if one is (13 R261, R262). -/
def HomeOp.apply (op : HomeOp) (old : Nat) : Option Nat :=
  match op with
  | .store _ _ => none
  | .atom (.red fn) f v => some (redStep fn f old (elem f.width v 0)).1
  | .atom .exch f v => some (elem f.width v 0)
  | .cas f cmp v => if old = elem f.width cmp 0 then some (elem f.width v 0) else none

/-- The place of an atomic access: TARGET 01 is refused (13 R252). -/
def atomPlace (x : Except Nat Piece) : Except Nat Piece :=
  match x with
  | .ok p => if p.spot = .home (.host false) then .error 2 else .ok p
  | .error c => .error c

/-- One lane of an atomic performed at once in shared memory or the stash: the state and the old value. At a poisoned sector it is
dropped and counted (17 R340, log entry 19). -/
def State.atomNow (s : State) (p : Piece) (op : HomeOp) : State × Nat :=
  let old := ofBytes ((s.pieceBytes p).getD [])
  if p.spot == .stash && s.poisonedIn p.pa p.n then (s.count 6 3, (Config.poisonedOld s.fresh).toNat)
  else match op.apply old with
  | some v => (s.writePiece p (bytesOf p.n v), old)
  | none => (s, old)

/-- One lane of an atomic held by the transaction. -/
def State.atomTx (s : State) (p : Piece) (op : HomeOp) : State × Nat :=
  match s.cur.tx with
  | none => (s, 0)
  | some x =>
    let old := ofBytes (s.txBytes x p.pa p.n)
    match op.apply old with
    | some v => (s.txHold p (bytesOf p.n v), old)
    | none => (s, old)

/-- The lanes of an atomic in their order, each seeing what the lane before it left (13 R263). -/
def runAtoms (ps : List (Nat × Piece)) (act : State → Nat → Piece → State × Nat) (s : State) : State × NMap Nat :=
  ps.foldl (fun (s, m) (l, p) =>
    let (t, old) := act s l p
    (t, NMap.set m l old)) (s, [])

/-- The lanes of an atomic with their addresses. -/
def State.atomLanes (s : State) (d : Option Dest) (a : Operand) : List (Nat × W64) :=
  (s.accessLanes (scalarDest d)).map fun l => (l, readByTag (s.tagOf a) (s.laneImage a l))

/-- The accesses of an atomic, or its fault. -/
def State.atomAccesses (s : State) (f : Fmt) (space : Space) (d : Option Dest) (a : Operand) :
    Except Trap (List (Nat × Piece)) :=
  (laneAccesses (scalarDest d) true (s.atomLanes d a) fun l x => (s.pieces space l x (f.width / 8) .rmw).map atomPlace).mapError
    (s.walkTrap space)

/-- The target of a piece on a path that meets the homes. -/
def Piece.target (p : Piece) : Target :=
  match p.spot with
  | .home t => t
  | .priv t => t
  | .bare t => t
  | _ => .device

/-- A piece that its home serves. -/
def Piece.far (p : Piece) : Bool :=
  match p.spot with
  | .home _ => true
  | _ => false

/-- ATOM or CAS in a space: the tags, the fault point, then every lane's read-modify-write. Homes perform those of global
memory (17 R327); the others are performed at once. -/
def State.atomic (s : State) (f : Fmt) (space : Space) (d : Option Dest) (a : Operand) (op : Nat → HomeOp) :
    Except Stop State := do
  s.noRunAhead
  s.txSpace space
  s.txWrites
  let lanes := s.atomLanes d a
  if lanes.isEmpty then .ok s
  else
    match s.atomAccesses f space d a with
    | .error tr => .error (s.memFault tr)
    | .ok ps =>
      let row (l : Nat) : Nat := if scalarDest d then 0 else l
      let result (s : State) (olds : NMap Nat) (parts : List LoadPart) : State :=
        match d with
        | none => s
        | some d => s.defer [(RegName.ofDest d, f, s.resultMask d, fun l => w64 (NMap.getD olds l 0))] 0 parts none
      if s.cur.tx.isSome then do
        s.txReady ps
        let t ← s.txTouchAll ps true
        let (t, olds) := runAtoms ((s.ordered ps).map fun (l, p) => (l, p)) (fun t l p => t.atomTx p (op l)) (t.holdPieces ps)
        .ok (result t (olds.map fun (l, v) => (row l, v)) [])
      else do
        s.storesReady ps
        s.memoryReady .rmw ps
        let near := runAtoms ((s.ordered ps).filter fun (_, p) => !p.far) (fun t l p => t.atomNow p (op l)) (s.holdPieces ps)
        let sent := (s.ordered ps).filter fun (_, p) => p.far
        let t := result near.1 (near.2.map fun (l, v) => (row l, v)) (sent.map fun (l, p) => ⟨row l, 0, 0, p.pa, p.n, true⟩)
        .ok (sent.foldl (fun t (l, p) => t.enqueue p.target p.pa (some p.va) (op l) (d.map fun _ => (near.1.nextId, 0, row l))) t)

/-- ATOM (13 R261). -/
def execAtom (f : AtomForm) (s : State) : Host.Outcome State Fault Refusal :=
  s.finish do
    need (f.d.all s.destOk && s.opOk f.a && s.opOk f.b) illegal
    s.tagIn (baseTag f.space) f.a
    s.tagIn (fun t => t == f.fmt || t == .b64) f.b
    s.atomic f.fmt f.space f.d f.a fun l => .atom f.fn f.fmt (w64 (s.elemAt f.fmt f.b l 0))

/-- CAS (13 R262). -/
def execCas (f : CasForm) (s : State) : Host.Outcome State Fault Refusal :=
  s.finish do
    let new := f.new.operand f.d
    need (s.destOk f.d && [f.a, f.cmp, new].all s.opOk) illegal
    s.tagIn (baseTag f.space) f.a
    s.tagsIn (· == f.fmt) [f.cmp, new]
    s.atomic f.fmt f.space (some f.d) f.a fun l =>
      .cas f.fmt (w64 (s.elemAt f.fmt f.cmp l 0)) (w64 (s.elemAt f.fmt new l 0))

/-! PREF (13 R264). -/

/-- What a prefetch asks for: the byte at each lane's address that can be read and that the cluster does not hold. -/
def State.prefPieces (s : State) (f : PrefForm) : List Piece :=
  s.active.toList.flatMap fun l =>
    (s.pieces .global l (s.laneAddr f.a f.b l).toNat 1 .rd).filterMap fun x => match x with
      | .ok p => if p.spot = .home .device && (s.l1Bytes s.sys.pts p.pa 1).isNone then some p else none
      | .error _ => none

/-- PREF: a fill for each active lane whose address can be read; the others are ignored. -/
def execPref (f : PrefForm) (s : State) : Host.Outcome State Fault Refusal :=
  s.finish do
    need (s.opOk f.a && s.opOk f.b) illegal
    s.addrTags .global f.a f.b
    let ps := s.prefPieces f
    .ok ((framesOf ps).foldl (fun t fr => t.post (s.fillRequest 0 f.hint.toNat f.l2 false ps fr)) s)

end Sys2Proof.Machine
end

