-- ==== Sys2Proof/Machine/RangeOps.lean ====
section
/-! DEFINITION. GATHER, SCATTER and SRED (13 R257 to R260), FENCE (16 R318 to R320), FLUSH and SEAL (13 R265, R266, 17 R336,
R337), and MERGE (11 R224 to R227). -/

namespace Sys2Proof.Machine

/-! GATHER and SCATTER (13 R257, R258). -/

/-- Same-class order of a thread's own SRED updates before its later accesses on path G (16 R314). -/
def State.gatherReady (s : State) : Except Stop Unit :=
  need (s.millsOut s.cur s.who).isEmpty (.wait .accesses)

/-- The row index of a lane (13 R257). -/
def State.rowIndex (s : State) (f : RowsForm) (l : Nat) : Nat := elem 32 (s.vval f.ix.toNat l) 0

/-- The row address of a lane, exact (13 R257). -/
def State.rowAddr (s : State) (f : RowsForm) (l : Nat) : Nat :=
  (readByTag (s.tagOf (.u f.base)) (s.image f.base)).toNat + s.rowIndex f l * 2 ^ (f.s3.toNat + 3)

/-- The 8-byte words of a lane's row, each with the cause that refuses it; none for the empty index (13 R252, R257). -/
def State.rowPieces (s : State) (f : RowsForm) (need : Need) (l : Nat) : List (Except Nat Piece) :=
  let r := s.rowAddr f l
  if s.rowIndex f l = 0xFFFFFFFF then []
  else if r % 8 ≠ 0 then [.error 3]
  else if 2 ^ 58 ≤ r then [.error 1]
  else (List.range (f.n1.toNat + 1)).map fun j => s.globalPiece need .bare (8 * j) 8 (r + 8 * j)

/-- The lanes from PROG that go through before the first that faults, and that fault (13 R258). -/
def State.rowLanes (s : State) (f : RowsForm) (need : Need) : List Nat × Option Trap :=
  (s.active.toList.filter fun l => decide (s.cur.prog.toNat ≤ l)).foldl (fun (acc : List Nat × Option Trap) l =>
    match acc.2 with
    | some _ => acc
    | none => match firstFault (s.rowPieces f need l) with
      | some (c, _) => (acc.1, some { Trap.of c with addr := some (w64 (s.rowAddr f l)), write := need.writes,
                                                     lanes := some (Mask.lane l) })
      | none => (acc.1 ++ [l], none)) ([], none)

/-- The pieces of a lane's row that are free of faults. -/
def State.rowOf (s : State) (f : RowsForm) (need : Need) (l : Nat) : List Piece :=
  (s.rowPieces f need l).filterMap fun x => match x with
    | .ok p => some p
    | .error _ => none

/-- The home sectors of pieces on path G. -/
def bareSectors (ps : List Piece) : List Nat :=
  (ps.filter fun p => p.spot == .bare .device).foldl (fun acc p => insertRising (p.pa / 32) acc) []

/-- The home sectors of pieces that path G reads are free. -/
def State.piecesFree (s : State) (ps : List Piece) : Except Stop Unit :=
  match (bareSectors ps).filter s.sectorAway with
  | [] => .ok ()
  | ks => .error (.memory (ks.flatMap s.freeSector))

/-- PROG of a stopped GATHER or SCATTER: the number of the lane that faulted (13 R258). -/
def trapLane (tr : Trap) : Nat := (((tr.lanes.map Mask.toList).getD []).head?).getD 0

/-- The lanes below the one before which the instruction stops short. -/
def lanesBelow (lanes : List Nat) (cut : Option Nat) : List Nat := lanes.filter fun l => !(cut.any fun k => decide (k ≤ l))

/-- Ends GATHER or SCATTER: PROG is 0, or holds the lane that faulted or before which a SAVE stops it. -/
def State.closeRows (s t : State) (tr : Option Trap) (cut : Option Nat) : Except Stop State :=
  s.closeLong t (tr.map fun tr => (w64 (trapLane tr), tr)) cut

/-- Word `j` of the row of a lane. -/
def State.gatherWord (s : State) (rows : NMap (List Piece)) (l j : Nat) : W64 :=
  match (NMap.getD rows l [])[j]? with
  | some p => match s.physRead p.target p.pa 8 with
    | .ok bs => w64 (ofBytes bs)
    | .error _ => 0
  | none => 0

/-- The destination tags of a GATHER that a fault stops, given at issue also where no lane has gone through (13 R257). -/
def State.rowTags (s : State) (f : RowsForm) : State :=
  (List.range (f.n1.toNat + 1)).foldl (fun s j =>
    let r := RegName.v (f.d.toNat + j)
    (s.beforeWrite r s.active).setTag r f.fmt) s

/-- GATHER (13 R257, R258). -/
def execGather (f : RowsForm) (s : State) : Host.Outcome State Fault Refusal :=
  s.finish do
    let n := f.n1.toNat + 1
    need (s.regsOk f.d.toNat n && s.regOk f.ix.toNat) illegal
    s.noSprig
    s.srcTag (baseTag .global) f.base
    s.tagIn (fun t => t == .idx32 || t == .n32 || t == .b64) (.v f.ix)
    s.noTx 2
    if s.active = 0 then .ok s.endLong
    else
      s.gatherReady
      let (all, tr) := s.rowLanes f .rd
      let cut := s.shortAt all
      let lanes := lanesBelow all cut
      let rows := lanes.map fun l => (l, s.rowOf f .rd l)
      s.piecesFree (rows.flatMap (·.2))
      let done := Mask.ofFn fun l => lanes.contains l
      let t := (rows.flatMap (·.2)).foldl (fun t p => if p.target = .device then t.readTouch p.pa 8 else t)
        (s.holdPieces ((rows.flatMap (·.2)).map fun p => (0, p)))
      let t := if tr.isSome || cut.isSome then t.rowTags f else t
      let t := t.defer ((List.range n).map fun j => (.v (f.d.toNat + j), f.fmt, done, fun l => s.gatherWord rows l j)) 0 [] none
      s.closeRows t tr cut

/-- A word that path G writes: the cluster's L1 forgets what it held of it (16 R320, log entry 80). -/
def State.scatterWord (s : State) (p : Piece) (v : W64) : State :=
  (s.physWrite p.target p.pa (bytesOf 8 v.toNat) s.sys.pts (.wave s.cur.id)).forgetWords s.cur.cluster p.pa 8

/-- SCATTER (13 R257, R258). Words that several lanes write take one of their values (13 R256). -/
def execScatter (f : RowsForm) (s : State) : Host.Outcome State Fault Refusal :=
  s.finish do
    let n := f.n1.toNat + 1
    need (s.regsOk f.d.toNat n && s.regOk f.ix.toNat) illegal
    s.noSprig
    s.srcTag (baseTag .global) f.base
    s.tagIn (fun t => t == .idx32 || t == .n32 || t == .b64) (.v f.ix)
    s.tagsIn (fun t => t == f.fmt || t == .b64) ((List.range n).map fun j => .v (f.d + BitVec.ofNat 7 j))
    s.noRunAhead
    s.noTx 2
    if s.active = 0 then .ok s.endLong
    else
      s.gatherReady
      let (all, tr) := s.rowLanes f .wr
      let cut := s.shortAt all
      let ps := (lanesBelow all cut).flatMap fun l => (s.rowOf f .wr l).map fun p => (l, p)
      s.claims (bareSectors (ps.map (·.2)))
      let t := (s.ordered ps).foldl (fun t (l, p) => t.scatterWord p (s.vval (f.d.toNat + p.at_ / 8) l)) (s.holdPieces ps)
      s.closeRows t tr cut

/-! SRED (13 R259, R260). -/

/-- The wave's combiner: one value for each address as its lanes name it, lanes in ascending order (13 R260). -/
def combine (fn : RedFn) (f : Fmt) (xs : List (Nat × Nat)) : NMap Nat :=
  xs.foldl (fun m (a, v) => NMap.set m a (match NMap.get? m a with
    | some acc => (redStep fn f acc v).1
    | none => v)) []

/-- Sends an update to its mill (13 R260). -/
def State.sendMill (s : State) (fn : RedFn) (f : Fmt) (pa va v : Nat) : State :=
  let u : MillUpdate :=
    { id := s.nextId, wave := s.cur.id, who := s.who, own := s.thread.mask, pa := pa, va := va, fn := fn, fmt := f, v := w64 v }
  { s with mills := s.mills ++ [u], nextId := s.nextId + 1 }.post (.millUpdate s.nextId)

/-- An SRED reaches device memory only (13 R252). -/
def millPlace (x : Except Nat Piece) : Except Nat Piece :=
  match x with
  | .ok p => if p.spot = .bare .device then .ok p else .error 2
  | .error c => .error c

/-- The accesses of an SRED, or its fault. -/
def State.sredAccesses (s : State) (f : SredForm) : Except Trap (List (Nat × Piece)) :=
  laneAccesses false true (s.active.toList.map fun l => (l, readByTag (s.tagOf f.a) (s.laneImage f.a l))) fun _ a =>
    if a % (f.fmt.width / 8) ≠ 0 then [.error 3]
    else [millPlace (s.globalPiece .rmw .bare 0 (f.fmt.width / 8) a)]

/-- SRED (13 R259, R260). -/
def execSred (f : SredForm) (s : State) : Host.Outcome State Fault Refusal :=
  s.finish do
    need (s.opOk f.a && s.opOk f.b) illegal
    s.tagIn (baseTag .global) f.a
    s.tagIn (· == f.fmt) f.b
    s.noRunAhead
    s.noTx 2
    match s.sredAccesses f with
    | .error tr => .error (.trap tr)
    | .ok ps =>
      let us := combine f.fn f.fmt (ps.map fun (l, p) => (p.va, s.elemAt f.fmt f.b l 0))
      let home (va : Nat) : Nat := ((ps.find? fun (_, p) => p.va == va).map fun (_, p) => p.pa).getD 0
      .ok (us.foldl (fun t (va, v) => t.sendMill f.fn f.fmt (home va) va v) (s.holdPieces ps))

/-! FENCE (16 R318 to R320). -/

/-- The accesses of class W of the issuing thread that a fence waits for: loads and atomics that have not returned, and
for a release the stores not yet at their homes, which at WAVE, TEAM and CLUSTER are performed once queued (16 R320). -/
def State.fenceW (s : State) (release wide : Bool) : List Nat :=
  s.cur.loadsOut s.who ++ (s.queuedBy s.cur s.who).filterMap fun q =>
    if release && (wide || match q.op with
      | .store _ _ => false
      | _ => true) then some q.id else none

/-- The acquire point (16 R319, 17 R328). -/
def ThreadSys.acquire (x : ThreadSys) (gt : BitVec 16) : ThreadSys := { x with pts := timeMax x.pts gt }

/-- A scope that reaches beyond the cluster (16 R319). -/
def wideScope (c : Scope) : Bool := c == .die || c == .device || c == .system

/-- The classes before a fence: those of the first set of a cross-path fence, else path W (16 R319). -/
def fenceClasses (f : FenceForm) : BitVec 6 := (f.xp.map (·.1)).getD 1

/-- The accesses that a fence waits for (16 R319, R320). -/
def State.fenceIds (s : State) (f : FenceForm) : List Nat :=
  let rel := f.ord.getLsbD 1 || f.xp.isSome
  (if (fenceClasses f).getLsbD 0 then s.fenceW rel (wideScope f.scope) else []) ++
    (if (fenceClasses f).getLsbD 3 && rel then s.millsOut s.cur s.who else [])

/-- The classes on which a fence holds the later accesses (16 R319). -/
def fenceHolds (f : FenceForm) : BitVec 6 := (f.xp.map (·.2)).getD 1

/-- FENCE (16 R319): the later accesses of the thread on the classes of the second set are held until the accesses counted
have been performed. -/
def execFence (f : FenceForm) (s : State) : Host.Outcome State Fault Refusal :=
  s.finish do
    s.noTx 2
    let acq := f.ord.getLsbD 0 && wideScope f.scope
    if (s.fenceIds f).isEmpty then .ok (if acq then s.setSys (s.sys.acquire s.gt) else s)
    else .ok (s.setThread { s.thread with holds := ⟨s.fenceIds f, acq, fenceHolds f⟩ :: s.thread.holds })

/-! FLUSH (13 R265, 12 R244). -/

/-- Whether a physical byte lies in a global range of the issuing wave's address space: whether some page of the range maps
to it. -/
def State.inRange (s : State) (base len : Nat) (t : Target) (pa : Nat) : Bool :=
  (List.range ((base + len - 1) / 2 ^ 14 + 1 - base / 2 ^ 14)).any fun k =>
    let va := (base / 2 ^ 14 + k) * 2 ^ 14
    match s.entry s.die s.cur.ctx va with
    | .error _ => false
    | .ok e =>
      let page := e.addr (va % 2 ^ e.bits)
      (leafTarget e.leaf.toNat).memory == t.memory && decide (page ≤ pa) && decide (pa < page + 2 ^ 14) &&
        decide (base ≤ va + (pa - page)) && decide (va + (pa - page) < base + len)

/-- The pages of a range whose walks must wait for a sector ask for it. -/
def State.rangeReady (s : State) (base len : Nat) : Except Stop Unit :=
  match (List.range ((base + len - 1) / 2 ^ 14 + 1 - base / 2 ^ 14)).filterMap fun k =>
      match s.leaf s.die s.cur.ctx ((base / 2 ^ 14 + k) * 2 ^ 14) with
      | .error c => awaySector c
      | .ok _ => none with
  | [] => .ok ()
  | ks => .error (.memory (ks.flatMap s.freeSector))

/-- A word of a frame of the team's stash lies in a global range. -/
def StashFrame.hit (f : StashFrame) (base len w : Nat) : Bool :=
  decide (base ≤ f.va * 256 + 8 * w) && decide (f.va * 256 + 8 * w < base + len)

/-- The target whose number a private key holds. -/
def privTarget (key : Nat) : Target :=
  match key % 32 with
  | 0 => .device
  | 1 => .host false
  | n => .peer (n - 1)

/-- The address of the word whose number a private key is. -/
def privPlace (key : Nat) : Nat := key / 32 * 8

/-- The whole words that a range touches (12 R244). -/
def wordRange (base len : Nat) : Nat × Nat := (base / 8 * 8, (base + len + 7) / 8 * 8 - base / 8 * 8)

/-- .wb: the wave's dirty private words and the team's dirty stash words of the range go home; copies remain (13 R265). -/
def State.writeBack (s : State) (base len : Nat) : State :=
  let hit (k : Nat) : Bool := s.inRange base len (privTarget k) (privPlace k)
  let mine := s.cur.priv.filter fun (k, _, dirty) => dirty && hit k
  let s := { s with cur := { s.cur with priv := s.cur.priv.map fun (k, v, dirty) => (k, v, dirty && !(mine.any fun x => x.1 == k)) } }
  let s := mine.foldl (fun s (k, v, _) => s.enqueue (privTarget k) (privPlace k) none (.store (bytesOf 8 v.toNat) false) none) s
  ((s.cluster s.cur.cluster).stash.filter fun f => s.cur.team == some f.team).foldl (fun s f =>
    (List.range 8).foldl (fun s k =>
      s.returnSome (f.frame * 8 + k) (f.hit base len)) s) s

/-- .inv: then the cluster's copies of the range are dropped, and the wave's private words (13 R265). A stash frame holds the
words of the range no more, and leaves with its last word (12 R244). -/
def State.dropCopies (s : State) (base len : Nat) : State :=
  let k := s.cluster s.cur.cluster
  let hit (pa : Nat) : Bool := s.inRange base len .device pa
  let blocks := k.blocks.flatMap fun b => b.cut fun w => hit (b.frame * 256 + 8 * w)
  let cut (f : StashFrame) : StashFrame :=
    if s.cur.team == some f.team then { f with held := f.held &&& ~~~Mask.ofFn (f.hit base len) } else f
  let stash := k.stash.map cut
  let priv := s.cur.priv.filter fun (j, _) => !s.inRange base len (privTarget j) (privPlace j)
  (stash.filter (·.held == 0)).foldl (fun s f => s.dropStash f.frame)
    ({ s with cur := { s.cur with priv := priv } }.setCluster s.cur.cluster { k with blocks := blocks, stash := stash })

/-- The poisoned sectors that lie wholly in a range (13 R265). -/
def State.poisonWithin (s : State) (base len : Nat) : List Nat :=
  s.poison.filter fun x => s.inRange base len .device (32 * x) && s.inRange base len .device (32 * x + 31)

/-- The wave's private words in poisoned sectors: the write-back of a dirty one is dropped and counted (17 R340). -/
def State.losePriv (s : State) (secs : List Nat) : State :=
  let lost (k : Nat) : Bool := privTarget k == .device && secs.contains (privPlace k / 32)
  let s := (s.cur.priv.filter fun (k, _, dirty) => dirty && lost k).foldl (fun s _ => s.count 6 3) s
  { s with cur := { s.cur with priv := s.cur.priv.filter fun (k, _) => !lost k } }

/-- .repair: sectors become zero and readable (13 R265, 17 R340). -/
def State.repairRange (s : State) (secs : List Nat) : State :=
  secs.foldl (fun s x => (s.homeWrite (32 * x) (List.replicate 32 0) 0 true (.wave s.cur.id)).forgetWords s.cur.cluster (32 * x) 32) s

/-- The first page of a range that .repair may not write, with the cause and the address (13 R265). -/
def State.repairFault (s : State) (base len : Nat) : Option (Nat × Nat) :=
  (List.range ((base + len - 1) / 2 ^ 14 + 1 - base / 2 ^ 14)).findSome? fun k =>
    let va := Nat.max base ((base / 2 ^ 14 + k) * 2 ^ 14)
    let n := Nat.min (base + len) ((base / 2 ^ 14 + k + 1) * 2 ^ 14) - va
    match s.translate s.die s.cur.ctx va .wr with
    | .error c => some (c, va)
    | .ok _ => if s.sealed (s.ctx s.cur.ctx).asid va n then some (2, va) else none

/-- FLUSH (13 R265); the length is the whole image (log entry 92). -/
def execFlush (f : FlushForm) (s : State) : Host.Outcome State Fault Refusal :=
  s.finish do
    s.srcTag addrTag f.base
    s.srcTag countTag f.len
    s.noRunAhead
    s.noTx 2
    let base := (s.image f.base).toNat
    let len := (s.image f.len).toNat
    need (decide (len ≤ 2 ^ 32)) illegal
    need (decide (base + len ≤ 2 ^ 58)) (faultAt 1 (s.image f.base))
    let (b, n) := wordRange base len
    if len = 0 then .ok s
    else do
      s.rangeReady base len
      match f.op with
      | .wb => .ok (s.writeBack b n)
      | .inv => .ok ((s.writeBack b n).dropCopies b n)
      | .repair =>
        match s.repairFault base len with
        | some (c, a) => .error (.trap { Trap.of c with addr := some (w64 a), write := true })
        | none => do
          let secs := s.poisonWithin base len
          need (secs.isEmpty || s.over s.cur s.who .accesses) (.wait .accesses)
          s.claims secs
          .ok ((((s.losePriv secs).writeBack b n).dropCopies b n).repairRange secs)

/-! SEAL and SEAL.open (13 R266, 17 R336, R337). -/

/-- Whether an entry of the seal table overlaps a range of an address space (13 R266). -/
def State.sealOverlaps (s : State) (asid : BitVec 12) (base len : Nat) : Bool :=
  s.sealTable.any fun (_, e) => e.asid == asid && decide (e.base < base + len) && decide (base < e.base + e.len)

/-- The words of a range that stashes have written go home before a seal takes effect on it (13 R266). -/
def State.stashesHome (s : State) (base len : Nat) : State :=
  (s.clusters.flatMap fun (_, k) => (k.stash.filter fun f =>
    f.dirty != 0 && (List.range 32).any fun w => s.inRange base len .device (f.frame * 256 + 8 * w)).map (·.frame)).foldl
    State.dropStash s

/-- SEAL (13 R266); the length is the whole image (log entry 92). -/
def execSealRange (d : BitVec 6) (base len : Src) (s : State) : Host.Outcome State Fault Refusal :=
  s.finish do
    s.noSprig
    s.srcTag addrTag base
    s.srcTag countTag len
    s.noRunAhead
    s.noTx 2
    let b := (s.image base).toNat
    let n := (s.image len).toNat
    need (decide (b % 256 = 0)) (faultAt 3 (s.image base))
    need (decide (n % 256 = 0) && decide (256 ≤ n) && decide (n ≤ 2 ^ 40)) illegal
    let asid := (s.ctx s.cur.ctx).asid
    if s.sealOverlaps asid b n then .ok (s.deferS d .n64 0x101)
    else if 64 ≤ s.sealTable.length then .ok (s.deferS d .n64 0x100)
    else
      need (s.over s.cur s.who .allAccesses) (.wait .allAccesses)
      s.rangeReady b n
      let e := firstFree 63 (s.sealTable.map (·.1))
      let t := s.stashesHome b n
      let x : SealEntry := { id := t.nextId, since := 0, asid := asid, ctx := s.cur.ctx, base := b, len := n, opening := false, plate := false }
      .ok ({ t with sealTable := NMap.set t.sealTable e x, nextId := t.nextId + 1 }.deferS d .n64 (w64 e))

/-- The lowest byte that a tensor's elements reach, and the one after the last (02 R53). -/
def Shape.reach (sh : Shape) : Int × Int :=
  let ends := (List.range 3).map fun k => 16 * ((sh.dims.getD (k + 1) 1 : Int) - 1) * sh.strides.getD k 0
  let b : Int := sh.base.toNat
  (ends.foldl (fun a x => a + min 0 x) b, ends.foldl (fun a x => a + max 0 x) b + ((sh.dims.headD 1 * sh.fmt.width + 7) / 8 : Nat))

/-- The elements that a rank reads of its source array (20 R388). -/
def Post.srcCount (p : Post) (n rank : Nat) : Nat :=
  match p.op with
  | .bar => 0
  | .bcast => if rank = p.root then p.count else 0
  | .rsc => n * p.count
  | _ => p.count

/-- The ranges that a transfer has still to read: its lists and its source pages (13 R273, R274). -/
def State.kvReads (s : State) (k : Kv) : List (Nat × Nat) :=
  k.left.flatMap fun n =>
    let entry (list_ : W64) : Nat := list_.toNat + 8 * n
    [(entry k.srclist, 8), (entry k.dstlist, 8)] ++
      if k.dir = 2 then []
      else match s.globalRead k.die k.ctx (entry k.srclist) 8 .rd with
        | .ok bs => [(ofBytes bs, 2 ^ k.pshift)]
        | .error _ => []

/-- Engine reads of a range that have been issued and have not completed: of the MLOADs, COPYs, KVX transfers and collectives under
way (17 R336). -/
def State.engineReads (s : State) (x : SealEntry) : Bool :=
  let hit (lo hi : Int) : Bool := decide (lo < (x.base + x.len : Nat)) && decide ((x.base : Int) < hi)
  let mine (ctx : Nat) : Bool := (s.ctx ctx).asid == x.asid
  (s.allWaves.any fun w => mine w.ctx &&
    ((w.ops.any fun o => match o.op with
      | .load _ _ _ _ _ rows => rows.any fun (_, es) => es.any fun e => e.any fun a => a.loc.tg.isSome && hit a.loc.va (a.loc.va + 8)
      | _ => false) ||
      w.chans.any fun c => c.jobs.any fun j => !j.form.fromShared && hit j.src.reach.1 j.src.reach.2)) ||
    (s.kvs.any fun k => mine k.ctx && (s.kvReads k).any fun (a, n) => hit a (a + n)) ||
    s.groups.any fun (_, g) => g.ranks.any fun (r, y) => y.posts.any fun (_, p) => mine p.ctx &&
      hit p.src.toNat (p.src.toNat + p.srcCount g.size r * (p.fmt.width / 8))

/-- The clusters that hold blocks tagged with an entry (17 R336). -/
def State.sealHolders (s : State) (e : Nat) : List Nat :=
  s.clusters.filterMap fun (c, k) => if k.blocks.any fun b => b.sealTag == some e then some c else none

/-- The reference count of an entry is zero: no block is tagged with it and no engine read of its range is under way (17
R336). -/
def State.sealUnused (s : State) (e : Nat) : Bool :=
  (s.sealHolders e).isEmpty && !((NMap.get? s.sealTable e).any s.engineReads)

/-- The replies under way carry the tag of an entry no more (17 R337). -/
def State.untag (s : State) (e : Nat) : State :=
  let g (i : Instr) : Instr := match i with
    | .leaseReply r => if r.sealTag = some e then .leaseReply { r with sealTag := none } else i
    | i => i
  { s with agenda := s.agenda.map g, urgent := s.urgent.map g }

/-- Frees an entry that nothing uses, and the results that wait for that (17 R337). -/
def State.freeSeal (s : State) (e : Nat) : State :=
  if s.sealUnused e then
    let free (p : Pending) : Pending := if p.sealWait = some e then { p with sealWait := none } else p
    let evs := s.allWaves.flatMap fun w => w.pending.filterMap fun p =>
      if p.sealWait = some e then some (Instr.variableLatencyResult w.id p.id) else none
    let t := { s with sealTable := NMap.erase s.sealTable e }.mapWaves fun w => { w with pending := w.pending.map free }
    evs.foldl State.postOnce t
  else s

/-- SEAL.open (13 R266, 17 R337): the result waits until the entry is free; the entry is the whole image (log entry 92). -/
def execSealOpen (d : BitVec 6) (entry : Src) (s : State) : Host.Outcome State Fault Refusal :=
  s.finish do
    s.noSprig
    s.srcTag countTag entry
    s.noRunAhead
    s.noTx 2
    let e := (s.image entry).toNat
    match NMap.get? s.sealTable e with
    | none => .ok (s.deferS d .n64 0x102)
    | some x =>
      if x.ctx ≠ s.cur.ctx ∨ x.plate then .ok (s.deferS d .n64 0x102)
      else
        let t := { s with sealTable := NMap.set s.sealTable e { x with opening := true, since := s.cycle.toNat } }.untag e
        let t := t.defer [(.s d.toNat, .n64, -1, fun _ => 0)] 0 [] (some e)
        .ok (((t.sealHolders e).foldl (fun t c => t.postOnce (.sealOpeningDrop e c)) t).freeSeal e)

/-! MERGE (11 R224 to R227). -/

/-- A MERGE descriptor as read: the six arrays and the two lengths (11 R224). -/
structure MergeDesc where
  aidx : Nat
  aval : Nat
  bidx : Nat
  bval : Nat
  oidx : Nat
  oval : Nat
  alen : Nat
  blen : Nat
  deriving DecidableEq, Repr

/-- The descriptor from its eight words. -/
def mergeDesc (ws : List W64) : MergeDesc :=
  let g (k : Nat) : Nat := (ws.getD k 0).toNat
  ⟨g 0, g 1, g 2, g 3, g 4, g 5, g 6 % 2 ^ 32, g 6 / 2 ^ 32⟩

/-- Where a MERGE stands: the wave, the entries written and consumed, the flags, what stopped it, and whether it stops for a
SAVE. -/
structure MergeAt where
  s : State
  o : Nat
  j : Nat
  i : Nat
  flags : BitVec 5
  stop : Option Stop
  short : Bool
  deriving DecidableEq, Repr

/-- PROG of a MERGE (11 R227). -/
def mergeProg (o j i : Nat) : Nat := o * 2 ^ 42 + j * 2 ^ 21 + i

/-- comb() and its flags (11 R225). -/
def mergeComb (fn : MergeFn) (f : Fmt) (x y : Nat) : Nat × BitVec 5 :=
  match fn with
  | .add => redStep .add f x y
  | .sub =>
    if f.isFloat then fadd f .rne false (numOf f x) (numOf f (Nat.xor y (2 ^ (f.width - 1))))
    else (fit f false (f.num x - f.num y), 0)
  | .min => redStep .min f x y
  | .max => redStep .max f x y

/-- neg() (11 R225). -/
def mergeNeg (f : Fmt) (y : Nat) : Nat :=
  if f.isFloat then Nat.xor y (2 ^ (f.width - 1)) else wrapInt f.width (-(f.num y))

/-- An entry that .dropz leaves out (11 R225). -/
def mergeZero (f : Fmt) (v : Nat) : Bool := v == 0 || (f.isFloat && v == 2 ^ (f.width - 1))

/-- One element loaded on path W: as it is, or, where this MERGE has written it, perhaps as it was before (11 R226). -/
def State.mergeRead (s0 s : State) (va n : Nat) : Except Stop (Nat × State) :=
  match s.wPiece .rd 0 n va with
  | .error c => .error (faultAt c (w64 va))
  | .ok p => do
    s.wReady p
    let new := s.wPieceBytes p
    let old := s0.wPieceBytes p
    .ok (ofBytes (if new = old || Config.overlapSeen s0.fresh va then new else old), s.wSaw p)

/-- A piece can be written at once on path W: in the stash, or at a home whose sector nobody else holds. -/
def State.wClaims (s : State) (p : Piece) : Except Stop Unit :=
  match p.spot with
  | .home .device => s.claims [p.pa / 32]
  | _ => s.memoryReady .wr [(0, p)]

/-- One element stored on path W at once. -/
def State.mergeWrite (s : State) (va n v : Nat) : Except Stop State :=
  match s.wPiece .wr 0 n va with
  | .error c => .error (.trap { Trap.of c with addr := some (w64 va), write := true })
  | .ok p => do
    s.wClaims p
    .ok ((match p.spot with
      | .home t => s.storeNow t p.pa (bytesOf n v)
      | _ => s.writePiece p (bytesOf n v)).hold s.cur.cluster s.cur.ctx va)

/-- The next entry of the union: index, value, flags, and the entries consumed; only the entry that stands at the length of its row
ends it (11 R225). -/
def State.mergeNext (s0 s : State) (f : MergeForm) (d : MergeDesc) (j i : Nat) :
    Except Stop (Nat × Nat × BitVec 5 × Nat × Nat × State) := do
  let n := f.fmt.width / 8
  let index (s : State) (more : Bool) (va : Nat) : Except Stop (Option Nat × State) :=
    if more then (s0.mergeRead s va 4).map fun (x, t) => (some x, t) else .ok (none, s)
  let fromA (s : State) (x : Nat) : Except Stop (Nat × Nat × BitVec 5 × Nat × Nat × State) := do
    let (v, s) ← s0.mergeRead s (d.aval + n * i) n
    .ok (x, v, 0, j, i + 1, s)
  let fromB (s : State) (y : Nat) : Except Stop (Nat × Nat × BitVec 5 × Nat × Nat × State) := do
    let (v, s) ← s0.mergeRead s (d.bval + n * j) n
    .ok (y, if f.fn = .sub then mergeNeg f.fmt v else v, 0, j + 1, i, s)
  let (a, s) ← index s (i != d.alen) (d.aidx + 4 * i)
  let (b, s) ← index s (j != d.blen) (d.bidx + 4 * j)
  match a, b with
  | some x, none => fromA s x
  | none, some y => fromB s y
  | some x, some y =>
    if i < d.alen ∧ x < y then fromA s x
    else if y < x then fromB s y
    else do
      let (v, s) ← s0.mergeRead s (d.aval + n * i) n
      let (w, s) ← s0.mergeRead s (d.bval + n * j) n
      let (r, fl) := mergeComb f.fn f.fmt v w
      .ok (x, r, fl, j + 1, i + 1, s)
  | none, none => .ok (0, 0, 0, j, i, s)

/-- One turn of the loop (11 R225); a fault on any access stops it (R226). -/
def State.mergeStep (s0 : State) (f : MergeForm) (d : MergeDesc) (m : MergeAt) : MergeAt :=
  let n := f.fmt.width / 8
  match s0.mergeNext m.s f d m.j m.i with
  | .error e => { m with stop := some e }
  | .ok (x, v, fl, j, i, s) =>
    if f.dropz && mergeZero f.fmt v then { m with s := s, j := j, i := i, flags := m.flags ||| fl }
    else match s.mergeWrite (d.oidx + 4 * m.o) 4 x with
      | .error e => { m with s := s, stop := some e }
      | .ok t => match t.mergeWrite (d.oval + n * m.o) n v with
        | .error e => { m with s := t, stop := some e }
        | .ok t => { m with s := t, o := m.o + 1, j := j, i := i, flags := m.flags ||| fl }

/-- The loop is over, or an access has faulted. -/
def MergeAt.over (m : MergeAt) (d : MergeDesc) : Bool := m.stop.isSome || (decide (d.alen ≤ m.i) && decide (d.blen ≤ m.j))

/-- The loop, with as many turns left as `fuel`; `first`: no turn has been made, so no SAVE stops it here. Where a descriptor
patched in between has left a row behind, it may need more turns than its rows have entries: it then stops at a pre-emption point
and goes on. -/
def State.mergeLoop (s0 : State) (f : MergeForm) (d : MergeDesc) : (fuel : Nat) → (first : Bool) → MergeAt → MergeAt
  | 0, _, m => { m with short := !m.over d }
  | k + 1, first, m =>
    if m.over d then m
    else if !first && s0.stopsShort (m.j + m.i) then { m with short := true }
    else s0.mergeLoop f d k false (s0.mergeStep f d m)

/-- The first base of a descriptor that is misaligned (11 R224, R225). -/
def mergeMisaligned (d : MergeDesc) (n : Nat) : Option Nat :=
  ([(d.aidx, 4), (d.aval, n), (d.bidx, 4), (d.bval, n), (d.oidx, 4), (d.oval, n)].find? fun x => x.1 % x.2 != 0).map (·.1)

/-- MERGE (11 R225). -/
def execMerge (f : MergeForm) (s : State) : Host.Outcome State Fault Refusal :=
  s.finish do
    s.noSprig
    s.srcTag addrTag f.desc
    s.noRunAhead
    s.noTx 2
    let a := s.image f.desc
    need (a.extractLsb' 0 6 == 0) (faultAt 3 a)
    let (ws, t) ← s.loadWords a.toNat 8
    let d := mergeDesc ws
    need (decide (d.alen ≤ 2 ^ 20) && decide (d.blen ≤ 2 ^ 20) && ws.getD 7 0 == 0) illegal
    need (mergeMisaligned d (f.fmt.width / 8)).isNone (faultAt 3 (w64 ((mergeMisaligned d (f.fmt.width / 8)).getD 0)))
    let p := s.cur.prog.toNat
    let m := t.mergeLoop f d (d.alen + d.blen) true ⟨t, p / 2 ^ 42, p / 2 ^ 21 % 2 ^ 21, p % 2 ^ 21, 0, none, false⟩
    let part := m.s.raiseFlags m.flags
    match m.stop with
    | some (.trap tr) => s.closeLong part (some (w64 (mergeProg m.o m.j m.i), tr)) none
    | some e => .error e
    | none =>
      if m.short then s.closeLong part none (some (mergeProg m.o m.j m.i))
      else s.closeLong (m.s.defer [(.s f.d.toNat, .n64, -1, fun _ => w64 m.o)] m.flags [] none) none none

end Sys2Proof.Machine
end

