-- ==== Sys2Proof/Machine/CoherEvents.lean ====
section
/-! DEFINITION. The events of the caches, the homes, the mills, and the host's and the peers' accesses (12 R239, R240;
17). -/

namespace Sys2Proof.Machine

/-! Waiting threads. -/

/-- Raises PTS of a thread's agent (17 R326). -/
def Wave.raisePts (w : Wave) (who : Who) (t : BitVec 16) : Wave :=
  match who with
  | .sprig j => match NMap.get? w.sprigs j with
    | some p => { w with sprigs := NMap.set w.sprigs j { p with sys := p.sys.acquire t } }
    | none => w
  | _ => { w with sys := w.sys.acquire t }

/-- An access of a wave is still to be performed. -/
def State.stillOut (s : State) (w : Wave) (id : Nat) : Bool :=
  (w.pending.any fun p => p.id == id && !p.parts.isEmpty) ||
    ((s.cluster w.cluster).queue.any fun q => q.id == id) || s.mills.any fun u => u.id == id

/-- The fences of a thread whose accesses have been performed hold nothing any more; an acquire raises the time of the
thread's agent (16 R319). -/
def State.wakeFence (s : State) (w : Wave) (x : Who × Thread) : State :=
  let (left, done) := x.2.holds.partition fun h => h.ids.any (s.stillOut w)
  if done.isEmpty then s
  else match s.wave? w.id with
    | none => s
    | some v =>
      let v := v.setThread x.1 { v.thread x.1 with holds := left }
      s.setWave (if done.any (·.acq) then v.raisePts x.1 s.gt else v)

/-- All fences are looked at, and the waves that wait for their accesses to retire (16 R319, 20 R394). -/
def State.wakeFences (s : State) : State :=
  let s := s.allWaves.foldl (fun s w => w.threads.foldl (fun s x => s.wakeFence w x) s) s
  s.allWaves.foldl (fun s w => if w.stage = .retiring then s.postOnce (.waveRetire w.id) else s) s

/-! What a request finds at a sector (17 R327, R332, R334, R339). -/

/-- A request waits behind a busy sector. -/
def State.waitAt (s : State) (sec : Nat) (i : Instr) : State :=
  let x := s.sector sec
  match x.busy with
  | some b => s.setSector sec { x with busy := some { b with waiting := b.waiting ++ [i] } }
  | none => s

/-- The sector is busy until its sharers have answered (17 R332); the answer of a peer comes while it is reached (17 R339). -/
def State.fanOut (s : State) (sec : Nat) (i : Instr) (targets : BitVec 16) : State :=
  let x := s.sector sec
  let s := s.invalidate sec { x with sharers := targets } 0
  let s := s.setSector sec { x with busy := some ⟨i, targets, 0, s.time, []⟩ }
  ((List.range 16).filter fun b => targets.getLsbD b).foldl
    (fun s b => s.postOnce (.invalidationAnswer sec b)) s

/-- The sector is busy until its owner outside has returned it (17 R334). -/
def State.recallOwner (s : State) (sec : Nat) (i : Instr) : State :=
  let x := s.sector sec
  (s.setSector sec { x with busy := some ⟨i, 0, x.owner, s.time, []⟩ }).send (.recall x.owner.toNat sec)

/-- The sector of a frame whose copies an eviction under way still recalls (17 R329). -/
def State.evicting (s : State) (frame : Nat) : Option Nat :=
  (List.range 8).findSome? fun k => match (NMap.get? s.sectors (frame * 8 + k)).bind (·.busy) with
    | some b => if b.req = .l2Evict frame then some (frame * 8 + k) else none
    | none => none

/-- A request finds no room in a full slice for its frames: another frame is evicted first, or the copy of one dropped (01 R22,
17 R329). -/
def State.makeRoom (s : State) (secs : List Nat) (i : Instr) : Option State :=
  (s.victimFor secs).map fun (f, home) =>
    if home then (s.soon (.l2Evict f)).post i else { s with copies := s.copies.filter fun (k, _) => k / 8 != f }.soon i

/-- The state in which a request waits at a sector, if it must: the sector is busy, an owner outside or a stash holds it, its
frame is being evicted (17 R327, R334, R335, R341). -/
def State.heldAt (s : State) (sec : Nat) (i : Instr) : Option State :=
  let x := s.sector sec
  if x.busy.isSome then some (s.waitAt sec i)
  else if 0x80 ≤ x.owner.toNat then some (s.recallOwner sec i)
  else if (s.stashOf (sec / 8)).isSome then some ((s.dropStash (sec / 8)).soon i)
  else if i = .l2Evict (sec / 8) then none
  else match s.evicting (sec / 8) with
    | some k => some (s.waitAt k i)
    | none => none

/-- The first of several sectors at which a request must wait, or the wait for room in their slices. -/
def State.heldAny (s : State) (secs : List Nat) (i : Instr) : Option State :=
  match secs.findSome? fun k => s.heldAt k i with
  | some t => some t
  | none => match i with
    | .l2Evict _ => none
    | _ => s.makeRoom secs i

/-- The same for one sector. -/
def State.held (s : State) (sec : Nat) (i : Instr) : Option State := s.heldAny [sec] i

/-- The first of several sectors at which a request must wait, or whose sharers in `tell` it must first tell (17 R332). -/
def State.heldTell (s : State) (secs : List Nat) (tell : Nat → BitVec 16) (i : Instr) : Option State :=
  match s.heldAny secs i with
  | some t => some t
  | none => (secs.find? fun k => tell k != 0).map fun k => s.fanOut k i (tell k)

/-- What a write to some sectors waits for (17 R327, R332). -/
def State.heldWrite (s : State) (secs : List Nat) (by_ : Writer) (i : Instr) : Option State :=
  s.heldTell secs (fun k => s.mustTell k by_) i

/-- What a unit of an engine waits for: the homes of what it reads, and at those of what it writes what a write waits for (17
R327, R332, R334). -/
def State.heldIO (s : State) (reads writes : List Nat) (by_ : Writer) (i : Instr) : Option State :=
  s.heldTell (reads ++ writes) (fun k => if writes.contains k then s.mustTell k by_ else 0) i

/-- A request whose table entry or packet lies in a sector that must be waited for. -/
def State.heldAway (s : State) (cause : Nat) (i : Instr) : Option State :=
  (awaySector cause).map fun k => (s.held k i).getD (s.soon i)

/-- Whether a seal holds a physical range, of one address space or of any: some page of an entry's range maps to it for the
context that made it (13 R266). -/
def State.sealedFor (s : State) (asid : Option (BitVec 12)) (pa n : Nat) : Bool :=
  s.sealTable.any fun (_, e) => (asid.all (· == e.asid)) &&
    (List.range ((e.base + e.len - 1) / 2 ^ 14 + 1 - e.base / 2 ^ 14)).any fun k =>
      let va := (e.base / 2 ^ 14 + k) * 2 ^ 14
      match s.leaf 0 e.ctx va with
      | .error _ => false
      | .ok (x, bits) =>
        let page := bitsOf x 14 44 * 2 ^ 14 + va % 2 ^ bits
        let lo := page + (Nat.max va e.base - va)
        let hi := page + (Nat.min (va + 2 ^ 14) (e.base + e.len) - va)
        leafTarget x == .device && decide (pa < hi) && decide (lo < pa + n)

/-- The sectors of a range. -/
def sectorsOf (pa n : Nat) : List Nat := (List.range ((pa + n - 1) / 32 + 1 - pa / 32)).map (pa / 32 + ·)

/-! Results of loads and atomics. -/

/-- Bytes that have come for a part of a load. -/
def Pending.fill (p : Pending) (x : LoadPart) (bs : List Byte) : Pending :=
  let regs := ((List.range p.regs.length).zip p.regs).map fun (k, q) =>
    if k = x.reg then { q with new := q.new.set x.lane (placeBytes (q.new.getD x.lane 0) x.at_ bs) } else q
  { p with regs := regs, parts := p.parts.filter (· != x) }

/-- Changes the result number `id` of a wave; once nothing of it is awaited it can be written. -/
def State.fillPending (s : State) (w id : Nat) (f : Pending → Pending) : State :=
  match s.wave? w with
  | none => s
  | some v =>
    let t := s.setWave { v with pending := v.pending.map fun p => if p.id = id then f p else p }
    if (v.pending.any fun p => p.id == id && (f p).parts.isEmpty) then t.postOnce (.variableLatencyResult w id) else t

/-! Leases (17 R326, R327, R333, R336). -/

/-- A request that only frees the sectors of its range for an access made at their homes, `excl` for a write. -/
def State.freeRange (s : State) (r : LeaseReq) : State :=
  let secs := sectorsOf (r.frame * 256 + 8 * r.first) (8 * (r.last + 1 - r.first))
  (if r.excl then s.heldWrite secs (.wave r.wave) (.leaseRequest r) else s.heldAny secs (.leaseRequest r)).getD s

/-- A lease granted, with its reply. -/
def State.lease (s : State) (r : LeaseReq) : State :=
  let got := s.wanted r
  let secs := wordSectors r.frame got
  match s.heldAny secs (.leaseRequest r) with
  | some t => t
  | none =>
    let t := secs.foldl (fun t k => t.grant r got k) s
    if r.l2only then t else t.post (.leaseReply (t.leaseReplyOf r got))

/-- LEASE_REQUEST (17 R326, R327): the home grants a lease and replies. An atomic of the cluster on its way to the same
words goes first (16 R314). -/
def execLeaseRequest (r : LeaseReq) (s : State) : Host.Outcome State Fault Refusal :=
  let pa := r.frame * 256 + 8 * r.first
  let n := 8 * (r.last + 1 - r.first)
  (if r.want = 0 then s.freeRange r
    else if atomQueued ((s.cluster r.cluster).queue.filter fun q => !q.sent) .device pa n then s.post (.leaseRequest r)
    else s.lease r).event

/-- A part of a load with the bytes of a reply, those of queued stores before them (17 R326). -/
def replyBytes (queue : List QEntry) (r : LeaseRep) (x : LoadPart) : List Byte :=
  (List.range x.n).map fun i =>
    match queuedByte queue .device (x.pa + i) with
    | some b => b
    | none => BitVec.ofNat 8 (elem 8 (replyWord r ((x.pa + i) / 8 % 32)) ((x.pa + i) % 8))

/-- The parts of a load that a reply brings. -/
def Pending.brought (p : Pending) (r : LeaseRep) : List LoadPart :=
  p.parts.filter fun x => !x.atom && x.pa / 256 == r.frame && decide (r.first ≤ x.pa / 8 % 32) &&
    decide ((x.pa + x.n - 1) / 8 % 32 < r.first + r.words.length)

/-- LEASE_REPLY (17 R326, 12 R243). -/
def execLeaseReply (r : LeaseRep) (s : State) : Host.Outcome State Fault Refusal :=
  let queue := (s.cluster r.cluster).queue
  let s := s.install r
  let s := s.fillPending r.wave r.load fun p => (p.brought r).foldl (fun p x => p.fill x (replyBytes queue r x)) p
  let s := match s.wave? r.wave with
    | some w => if r.load = 0 then s else s.setWave (w.raisePts (match r.sprig with
      | some j => .sprig j
      | none => .split 0) r.wts)
    | none => s
  s.wakeFences.event

/-! Stores and atomics at their homes (17 R327, R332). -/

/-- The old value of an atomic reaches the result that waits for it (13 R261). -/
def State.atomReply (s : State) (q : QEntry) (old : Nat) : State :=
  match q.reply with
  | none => s
  | some (id, reg, lane) => s.fillPending q.wave id fun p =>
      match p.parts.find? fun x => x.atom && x.reg == reg && x.lane == lane with
      | some x => p.fill x (bytesOf q.bytes old)
      | none => p

/-- An entry of a store queue performed at its home, and its acknowledgement with the WTS assigned, which comes before anything
else: no later value may reach the cluster before it (12 R238, 16 R315). -/
def State.performEntry (s : State) (c : Nat) (q : QEntry) : State :=
  let k := s.cluster c
  let mark (e : QEntry) : QEntry := if e.id = q.id then { e with sent := true } else e
  let s := s.setCluster c { k with queue := k.queue.map mark }
  let write (s : State) (bs : List Byte) (rep : Bool) : State :=
    match q.target with
    | .device => s.homeWrite q.pa bs q.time rep (.wave q.wave)
    | t => s.physWrite t q.pa bs q.time (.wave q.wave)
  let bad := q.target == .device && s.poisonedIn q.pa q.bytes
  let s := match q.op with
    | .store bs rep => write s bs rep
    | op =>
      if bad then (s.count 6 3).atomReply q (Config.poisonedOld s.fresh).toNat
      else
        let old := match s.physRead q.target q.pa q.bytes with
          | .ok bs => ofBytes bs
          | .error _ => 0
        let s := s.atomReply q old
        match op.apply old with
        | some v => write s (bytesOf q.bytes v) false
        | none => s.doom (.wave q.wave) (q.pa / 64) false
  let landed := q.target == .device && !(s.poisonedIn q.pa q.bytes)
  { s with urgent := .storeAck c q.id (if landed then (s.sector (q.pa / 32)).wts else q.time) :: s.urgent }

/-- The entry of a store queue that has not been sent. -/
def State.unsent (s : State) (c id : Nat) : Option QEntry := (s.cluster c).queue.find? fun q => q.id == id && !q.sent

/-- A seal refuses a write that a wave has issued before it was made (13 R266): the range is sealed in the wave's address space, a
private word's by where it lies. -/
def State.sealRefuses (s : State) (wave : Nat) (va : Option Nat) (t : Target) (pa n : Nat) : Bool :=
  match s.wave? wave with
  | none => false
  | some w =>
    let asid := (s.ctx w.ctx).asid
    match va with
    | some a => s.sealed asid a n
    | none => t == .device && s.sealedFor (some asid) pa n

/-- The trap of a write refused at its home: the wave takes it where its thread then stands (13 R266, log entry 40). -/
def State.refuseWrite (s : State) (wave : Nat) (who : Who) (va : Option Nat) : State :=
  match s.wave? wave with
  | none => s
  | some w =>
    if w.stage ≠ .running || w.due.isSome then s
    else match (if w.threads.any fun x => x.1 == who then some who else w.tokenThread) with
      | none => s
      | some who =>
        let s := s.select w.id who
        s.raise s.thread.pc { Trap.of 2 with addr := va.map w64, write := true }

/-- An entry of a store queue that a seal refuses: it leaves the queue, and the cluster forgets what it wrote. -/
def State.refuseEntry (s : State) (c : Nat) (q : QEntry) : State :=
  let k := s.cluster c
  let s := (s.setCluster c { k with queue := k.queue.filter (·.id != q.id) }).forgetWords c q.pa q.bytes
  let s := s.atomReply q (Config.poisonedOld s.fresh).toNat
  ((s.refuseWrite q.wave q.who q.va).sendQueue c).wakeFences

/-- HOME_STORE (17 R327, R332). -/
def execHomeStore (c id : Nat) (s : State) : Host.Outcome State Fault Refusal :=
  match s.unsent c id with
  | none => s.event
  | some q =>
    if s.sealRefuses q.wave q.va q.target q.pa q.bytes then (s.refuseEntry c q).event
    else if q.target ≠ .device then (s.performEntry c q).wakeFences.event
    else match s.heldWrite [q.pa / 32] (.wave q.wave) (.homeStore c id) with
      | some t => t.event
      | none => (s.performEntry c q).wakeFences.event

/-- What a cluster's L1 does when an entry of its queue has been acknowledged: its blocks that hold what a store wrote take the
WTS, and the replies under way do not bring back what was there before; what an atomic wrote it forgets (17 R326, 13
R263, log entry 80). -/
def State.ackBlocks (s : State) (c : Nat) (q : QEntry) (wts : BitVec 16) : State :=
  match q.target, q.op with
  | .device, .store bs _ =>
    let k := s.cluster c
    (s.setCluster c { k with blocks := k.blocks.map fun b => if b.holds q.pa bs.length then b.acked wts s.tick else b }).patchReplies
      c q.pa bs
  | .device, _ => s.forgetWords c q.pa q.bytes
  | _, _ => s

/-- STORE_ACK (17 R326): the entry leaves the queue, and the writer and the cluster's blocks take the WTS. -/
def execStoreAck (c id : Nat) (wts : BitVec 16) (s : State) : Host.Outcome State Fault Refusal :=
  let k := s.cluster c
  match k.queue.find? fun q => q.id == id with
  | none => s.event
  | some q =>
    let s := (s.setCluster c { k with queue := k.queue.filter (·.id != id) }).ackBlocks c q wts
    let s := match s.wave? q.wave with
      | some w => s.setWave (w.raisePts q.who wts)
      | none => s
    (s.sendQueue c).wakeFences.event

/-! Host and peers (17 R333, R334, R338). -/

/-- The SHARERS bit and the OWNER code of an agent outside (17 R330). -/
def outsideBit : Outside → BitVec 16
  | .host _ => 4
  | .peer p => BitVec.ofNat 16 (2 ^ (2 + p))
/-- OWNER of an agent outside. -/
def outsideOwner : Outside → BitVec 8
  | .host _ => 0x80
  | .peer p => BitVec.ofNat 8 (0x80 + p)

/-- The number under which a frozen function or peer is kept. -/
def outsideKey : Outside → Nat
  | .host fn => fn
  | .peer p => 32 + p

/-- What a frozen agent's request is answered with (03 R76). -/
def State.refuseOutside (s : State) (w : Outside) : State :=
  s.send (match w with
    | .host fn => .completerAbort fn
    | .peer p => .protectionError p)

/-- An agent outside violates its ranges or a seal: it alone freezes (03 R76, 13 R266). -/
def State.freezeOutside (s : State) (w : Outside) : State :=
  { s with aborting := insertRising (outsideKey w) s.aborting }.refuseOutside w

/-- Whether a seal of any address space holds a physical range (13 R266). -/
def State.sealedPa (s : State) (pa n : Nat) : Bool := s.sealedFor none pa n

/-- A write by the host or a peer performed at its homes (17 R338). -/
def State.performOutsideWrite (s : State) (w : Outside) (pa : Nat) (bytes : List Byte) : State :=
  (s.homeWrites pa bytes 0 .outside).send (.writeDone w pa)

/-- HOST_PEER_WRITE (17 R338). An address beyond device memory lies outside every range that a function or a peer is granted (03
R76, log entry 67). -/
def execHostPeerWrite (w : Outside) (pa : Nat) (bytes : List Byte) (s : State) : Host.Outcome State Fault Refusal :=
  if s.aborting.contains (outsideKey w) then (s.refuseOutside w).event
  else if !inDevice pa bytes.length then (s.freezeOutside w).event
  else if s.sealedPa pa bytes.length then (s.freezeOutside w).event
  else match s.heldWrite (sectorsOf pa bytes.length) .outside (.hostPeerWrite w pa bytes) with
    | some t => t.event
    | none => (s.performOutsideWrite w pa bytes).event

/-- The sectors of a range after an agent outside has taken copies of them (17 R333). -/
def State.share (s : State) (w : Outside) (pa n : Nat) : State :=
  (sectorsOf pa n).foldl (fun t k =>
    let t := t.doom .outside (k / 2) false
    let x := t.sector k
    t.setSector k { x with sharers := x.sharers ||| (outsideBit w) }) s

/-- HOST_PEER_READ (17 R333, R340): a poisoned sector is answered as such. -/
def execHostPeerRead (w : Outside) (pa n : Nat) (s : State) : Host.Outcome State Fault Refusal :=
  if s.aborting.contains (outsideKey w) then (s.refuseOutside w).event
  else if !inDevice pa n then (s.freezeOutside w).event
  else match s.heldAny (sectorsOf pa n) (.hostPeerRead w pa n) with
    | some t => t.event
    | none =>
      if s.poisonedIn pa n then ((s.count 6 1).send (.readPoison w pa)).event
      else ((s.share w pa n).send (.readData w pa ((s.share w pa n).seenBytes pa n))).event

/-- An agent outside takes a sector modifiable: every other holder has answered (17 R334). -/
def State.performOwn (s : State) (w : Outside) (sec : Nat) : State :=
  let s := s.doom .outside (sec / 2) true
  let x := s.sector sec
  (s.setSector sec { x with sharers := 0, owner := outsideOwner w }).send (.owned w sec)

/-- HOST_PEER_OWN_REQUEST (17 R334). -/
def execHostPeerOwnRequest (w : Outside) (sec : Nat) (s : State) : Host.Outcome State Fault Refusal :=
  if s.aborting.contains (outsideKey w) then (s.refuseOutside w).event
  else if !inDevice (32 * sec) 32 then (s.freezeOutside w).event
  else if s.sealedPa (32 * sec) 32 then (s.freezeOutside w).event
  else match s.heldTell [sec] (fun k => (s.sector k).sharers &&& ~~~outsideBit w) (.hostPeerOwnRequest w sec) with
    | some t => t.event
    | none => (s.performOwn w sec).event

/-! Answers (17 R332, R334, R339). -/

/-- The request for which a sector was busy goes on: a store and an outside owner at once, anything else as the next event; those
behind it follow in their order (17 R327, R341). -/
def State.freeBusy (s : State) (sec : Nat) : State :=
  let x := s.sector sec
  match x.busy with
  | none => s
  | some b =>
    let s := s.setSector sec { x with busy := none }
    let s := match b.req with
      | .homeStore c id => (match s.unsent c id with
        | some q => s.performEntry c q
        | none => s)
      | .hostPeerOwnRequest w k => s.performOwn w k
      | i => s.soon i
    (b.waiting.foldl State.soon s).wakeFences

/-- A sector after the answer of a sharer: its bit clears, the other die's L2 has dropped its copy, and with the last answer the
write goes on (17 R332). -/
def State.answered (s : State) (sec sharer : Nat) : State :=
  let x := s.sector sec
  match x.busy with
  | none => s
  | some b =>
    if !b.sharers.getLsbD sharer then s
    else
      let s := if sharer < 2 then { s with copies := NMap.erase s.copies sec } else s
      let bit : BitVec 16 := BitVec.ofNat 16 (2 ^ sharer)
      let left := b.sharers &&& ~~~bit
      let s := s.setSector sec { x with sharers := x.sharers &&& ~~~bit, busy := some { b with sharers := left } }
      if left = 0 ∧ b.owner = 0 then s.freeBusy sec else s

/-- INVALIDATION_ANSWER (17 R332). -/
def execInvalidationAnswer (sec sharer : Nat) (s : State) : Host.Outcome State Fault Refusal :=
  (s.answered sec sharer).event

/-- A sector after its owner outside has returned it: the words that the owner modified are written as one store, OWNER
becomes 0, and the request that waited goes on (17 R334). -/
def State.returned (s : State) (sec : Nat) (words : List (Nat × W64)) : State :=
  let x := s.sector sec
  let s := s.setSector sec { x with owner := 0 }
  let s := if words.isEmpty then s
    else
      let t := s.homeParts sec (words.map fun (k, v) => (32 * sec + 8 * (k % 4), bytesOf 8 v.toNat)) 0 false .outside
      t.setSector sec { t.sector sec with busy := x.busy }
  match x.busy with
  | some b => if b.owner ≠ 0 ∧ b.sharers = 0 then s.freeBusy sec else s
  | none => s

/-- RECALL_RETURN (17 R334). -/
def execRecallReturn (sec : Nat) (words : List (Nat × W64)) (s : State) : Host.Outcome State Fault Refusal :=
  if (s.sector sec).owner.toNat < 0x80 then s.event else (s.returned sec words).event

/-- A busy sector after 2 ms: the sharers that have not answered are forgotten, and an owner that has not answered leaves the
sector poisoned; the event is counted, and no late answer is heard (17 R339, log entry 84). -/
def State.timedOut (s : State) (sec : Nat) (b : Busy) : State :=
  let x := s.sector sec
  let s := s.setSector sec { x with sharers := x.sharers &&& ~~~b.sharers, owner := 0 }
  let s := if b.owner = 0 then s else { s with poison := insertRising sec s.poison }
  let late (i : Instr) : Bool := match i with
    | .invalidationAnswer k _ => k == sec
    | _ => false
  { s.count 6 0 with agenda := s.agenda.filter fun i => !late i }.freeBusy sec

/-- FANOUT_TIMEOUT (17 R339). -/
def execFanoutTimeout (sec : Nat) (s : State) : Host.Outcome State Fault Refusal :=
  match (s.sector sec).busy with
  | none => s.event
  | some b => if s.time < b.since + micros 2000 then s.event else (s.timedOut sec b).event

/-- HOST_SNOOP (17 R331): the L2 drops its copy of a line of host memory. -/
def execHostSnoop (line : Nat) (s : State) : Host.Outcome State Fault Refusal :=
  { s with lines := NMap.erase s.lines (lineKey (.host true) (64 * line)) }.event

/-! Stash, L2, mills, ECC and seals. -/

/-- A stash takes a frame (17 R335): it owns the eight sectors, whose WTS rises. -/
def State.fillStash (s : State) (c team va frame : Nat) : State :=
  let s := (List.range 8).foldl (fun s k =>
    let sec := frame * 8 + k
    let x := s.sector sec
    let wts := x.rts + 1
    (s.setSector sec { (x.written wts s.tick).holding 0xF with sharers := 0, owner := BitVec.ofNat 8 (c + 1) }).raiseGt wts) s
  let writable := match NMap.get? s.teams team with
    | some t => (s.translate (clusterDie c) t.ctx (256 * va) .rmw).toOption.isSome
    | none => false
  let f : StashFrame := { team := team, va := va, frame := frame, writable := writable, held := -1, dirty := 0,
                          words := (List.range 32).map fun k => w64 (ofBytes (s.mem.gets (frame * 256 + 8 * k) 8)) }
  s.setCluster c { s.cluster c with stash := f :: (s.cluster c).stash }

/-- A frame whose stash holds only some of its words takes the others again (12 R244, R246). -/
def State.refillStash (s : State) (c frame : Nat) : State :=
  let word (f : StashFrame) (k : Nat) : W64 := if f.held.getLsbD k then f.words.getD k 0
    else w64 (ofBytes (s.mem.gets (frame * 256 + 8 * k) 8))
  let k := s.cluster c
  s.setCluster c { k with stash := k.stash.map fun f =>
    if f.frame = frame then { f with words := (List.range 32).map (word f), held := -1 } else f }

/-- STASH_FILL (17 R335, 12 R246): once every sharer of the eight sectors has answered. -/
def execStashFill (c team : Nat) (frame : FrameName) (write : Bool) (s : State) : Host.Outcome State Fault Refusal :=
  if (NMap.get? s.teams team).isNone then s.event
  else if (s.cluster c).stash.any fun f => f.team == team && f.va == frame.va && f.frame == frame.pa then
    (s.refillStash c frame.pa).event
  else match s.heldTell (sectorsOf (frame.pa * 256) 256) (fun k => (s.sector k).sharers) (.stashFill c team frame write) with
    | some t => t.event
    | none => (s.fillStash c team frame.va frame.pa).event

/-- L2_EVICT (17 R329, R333, 18 R360): once copies and owners have been recalled, and their answers have come, FLOOR takes the
greatest RTS. -/
def execL2Evict (frame : Nat) (s : State) : Host.Outcome State Fault Refusal :=
  let secs := sectorsOf (frame * 256) 256
  match s.heldTell secs (fun k => (s.sector k).sharers) (.l2Evict frame) with
  | some t => t.event
  | none =>
    let slice := homeSlice (frame * 256)
    let old := NMap.getD s.floors slice (0, 0)
    let floor := secs.foldl (fun t k => if (NMap.get? s.sectors k).isSome then timeMax t (s.sector k).rts else t)
      (s.readTime old.1 old.2)
    let s := { s with floors := NMap.set s.floors slice (floor, s.tick),
                      sectors := s.sectors.filter fun (k, _) => k / 8 != frame }
    let hit (w : Wave) : Bool := match w.tx with
      | some x => (x.reads ++ x.writes).any fun b => b / 4 == frame
      | none => false
    ((s.allWaves.filter hit).foldl (fun s w => s.postOnce (.txCapacityEvict w.id)) s).event

/-- The update that a mill applies first among those of one thread to one address: the oldest (16 R314). -/
def State.millFirst (s : State) (u : MillUpdate) : MillUpdate :=
  (s.mills.find? fun v => v.wave == u.wave && v.who == u.who && v.pa == u.pa).getD u

/-- An update applied by its mill; the L1 of its wave's cluster forgets what it held there (12 R240, 13 R260, 16 R320, log entry
80). -/
def State.performMill (s : State) (u : MillUpdate) : State :=
  let n := u.fmt.width / 8
  let s := { s with mills := s.mills.filter (·.id != u.id) }
  if s.poisonedIn u.pa n then s.count 6 3
  else
    let old := ofBytes (s.seenBytes u.pa n)
    let s := s.homeWrite u.pa (bytesOf n (redStep u.fn u.fmt old (elem u.fmt.width u.v 0)).1) 0 false .outside
    match s.wave? u.wave with
    | some w => s.forgetWords w.cluster u.pa n
    | none => s

/-- MILL_UPDATE (12 R240, 13 R260). -/
def execMillUpdate (id : Nat) (s : State) : Host.Outcome State Fault Refusal :=
  match s.mills.find? fun u => u.id == id with
  | none => s.event
  | some u =>
    let v := s.millFirst u
    let s := if v.id = u.id then s else s.postOnce (.millUpdate u.id)
    if s.sealRefuses v.wave (some v.va) .device v.pa 1 then
      (({ s with mills := s.mills.filter (·.id != v.id) }.refuseWrite v.wave v.who (some v.va)).wakeFences).event
    else match s.heldWrite [v.pa / 32] .outside (.millUpdate v.id) with
    | some t => t.event
    | none => (s.performMill v).wakeFences.event

/-- ECC_ERROR (12 R239): a corrected error is counted for its stack; an uncorrectable one poisons the sector. No stack holds a
sector beyond device memory (log entry 67). -/
def execEccError (sec : Nat) (uncorrectable : Bool) (s : State) : Host.Outcome State Fault Refusal :=
  if !inDevice (32 * sec) 32 then s.event
  else if uncorrectable then
    (if s.poison.contains sec then s else { s with poison := insertRising sec s.poison }.count 6 0).event
  else (s.count 2 (homeStack (32 * sec))).event

/-- SEAL_OPENING_DROP (17 R337): a cluster drops the blocks tagged with the entry. -/
def execSealOpeningDrop (e c : Nat) (s : State) : Host.Outcome State Fault Refusal :=
  match NMap.get? s.sealTable e with
  | none => s.event
  | some x =>
    if !x.opening then s.event
    else
      let k := s.cluster c
      ((s.setCluster c { k with blocks := k.blocks.filter fun b => b.sealTag != some e }).freeSeal e).event

end Sys2Proof.Machine
end

