-- ==== Sys2Proof/Machine/Trap.lean ====
section
/-! DEFINITION. TRAP, TRAP.ret, BRK and TFENCE (19 R368, R369, 04 R101), the arrival of results of variable latency (07
R145), taking a trap that waited for them (19 R366), and abort tokens (20 R391). -/

namespace Sys2Proof.Machine

/-! Requested traps. -/

/-- A requested trap: its instruction has completed, and it resumes at the slot after (19 R362, R363). -/
def State.requested (s : State) (cause code : Nat) : Stop :=
  .trap { Trap.of cause with code := code, resume := some ((⟨s.packet, s.slot⟩ : PC).after s.slot) }

/-- TRAP (19 R368). -/
def execTrap (code : BitVec 7) (s : State) : Host.Outcome State Fault Refusal :=
  s.finish (.error (s.requested 0x11 code.toNat))

/-- BRK (04 R101). -/
def execBrk (code : BitVec 7) (s : State) : Host.Outcome State Fault Refusal :=
  s.finish (.error (s.requested 0x12 code.toNat))

/-! Return from a trap (19 R368). -/

/-- The frame of the handler that issues: TRAP.ret elsewhere is illegal, and the stacks must have their depths. -/
def State.returnFrame (s : State) : Except Stop Frame :=
  match s.cur.frame with
  | none => .error illegal
  | some f => do
    need (s.who == .handler) illegal
    .ok f

/-- The stacks of the handler have the depths of the frame (19 R368). -/
def State.returnDepths (s : State) (f : Frame) : Except Stop Unit := do
  need (s.thread.preds.length == f.pdepth) (.trap (Trap.of 0x0C))
  need (s.thread.stack.length == f.rdepth) (.trap (Trap.of 0x0D))

/-- The wave goes on at `t`. -/
def State.returnTo (s : State) (f : Frame) (t : PC) (same : Bool) : State :=
  { (s.trapReturn f t same).recheck with issue := { s.issue with transfer := some .done } }

/-- TRAP.ret (19 R368). -/
def execTrapRet (s : State) : Host.Outcome State Fault Refusal :=
  s.finish do
    let f ← s.returnFrame
    s.returnDepths f
    .ok (s.returnTo f f.resume true)

/-- TRAP.ret.to (19 R368). -/
def execTrapRetTo (a : Src) (s : State) : Host.Outcome State Fault Refusal :=
  s.finish do
    let f ← s.returnFrame
    s.srcTag addrTag a
    s.returnDepths f
    let t := s.image a
    s.needLanding t (faultAt 0x0F t)
    .ok ({ s with cur := { s.cur with prog := 0 } }.returnTo f ⟨t, 0⟩ false)

/-! TFENCE (19 R369, 08 R176). -/

/-- The flags that TFENCE looks at: in a sprig those of its parent at export too (08 R176). -/
def State.fencedFlags (s : State) : BitVec 5 :=
  match s.sprig? with
  | some p => (NMap.getD p.atExport 0x00C 0).truncate 5 ||| s.sys.flags
  | none => s.sys.flags

/-- TFENCE (19 R369). -/
def execTfence (s : State) : Host.Outcome State Fault Refusal :=
  s.finish do
    need (s.over s.cur s.who .flags) (.wait .flags)
    let hit := s.fencedFlags &&& s.sys.ftrap
    need (hit == 0) (s.requested 0x10 hit.toNat)
    .ok s

/-! Results of variable latency (07 R145 to R147, 06 R135). -/

/-- One register of a result written into a register file: the lanes that still take it. -/
def PendReg.write (q : PendReg) (scalar : Bool) (f : RegFile) : RegFile :=
  match q.reg with
  | .s r =>
    if scalar then
      { f with sregs := f.sregs.set r { f.sregs.getD r ⟨.b64, 0⟩ with val := q.image (f.sregs.getD r ⟨.b64, 0⟩).val 0 } }
    else f
  | .v r =>
    let old := f.vregs.getD r ⟨.b64, []⟩
    let lanes := lanesOf fun l => if q.lanes.has l then q.image (old.lanes.getD l 0) l else old.lanes.getD l 0
    { f with vregs := f.vregs.set r ⟨old.tag, lanes⟩ }

/-- A result written into the file of the thread that issued it. -/
def Pending.write (p : Pending) (f : RegFile) : RegFile := p.regs.foldl (fun f q => q.write (q.lanes != 0) f) f

/-- A result of the wave written into the registers of a sprig that left while it was pending (08 R174 rule 3). -/
def Pending.writeOut (p : Pending) (age : Nat) (f : RegFile) : RegFile :=
  p.regs.foldl (fun f q => q.write (match q.cut with
    | some n => decide (age < n)
    | none => true) f) f

/-- The wave with a result's values and flags written. -/
def Wave.writeResult (w : Wave) (p : Pending) : Wave :=
  let w := { w with pending := w.pending.filter (·.id != p.id) }
  match p.who with
  | .sprig j => match NMap.get? w.sprigs j with
    | some x =>
      let y := { x with file := p.write x.file, sys := { x.sys with flags := x.sys.flags ||| p.flags } }
      { w with sprigs := NMap.set w.sprigs j y }
    | none => w
  | _ =>
    let sprigs := w.sprigs.map fun ((j, x) : Nat × Sprig) =>
      (j, if p.id < x.age then { x with file := p.writeOut x.age x.file } else x)
    let w := { w with file := p.write w.file, sprigs := sprigs }
    match p.ahead, w.runAhead with
    | true, some r => { w with runAhead := some { r with flags := r.flags ||| p.flags } }
    | _, _ => { w with sys := { w.sys with flags := w.sys.flags ||| p.flags } }

/-- What waits for the results of a wave is looked at again: the rejoining of its sprigs, its retirement. -/
def State.resultsChanged (s : State) (w : Nat) : State :=
  match s.wave? w with
  | none => s
  | some x =>
    let s := x.sprigs.foldl (fun s (j, p) => if p.th.park = .join 0 then s.postOnce (.sprigRejoin w j) else s) s
    if x.stage = .retiring then s.postOnce (.waveRetire w) else s

/-- A result that can be written now. -/
def Wave.readyResult (w : Wave) (id : Nat) : Option Pending :=
  w.pending.find? fun p => p.id == id && p.parts.isEmpty && p.sealWait.isNone

/-- VARIABLE_LATENCY_RESULT (07 R145). -/
def execVariableLatencyResult (w id : Nat) (s : State) : Host.Outcome State Fault Refusal :=
  match s.wave? w with
  | none => s.event
  | some x => match x.readyResult id with
    | none => s.event
    | some p => ((s.setWave (x.writeResult p)).resultsChanged w).event

/-! Traps that wait, and abort tokens. -/

/-- What the taking of a trap of the issuing thread waits for at the homes: the packet at HANDLER, or a sector of the stop record
that the trap ends in (17 R327, R334, 19 R371). -/
def State.trapHeld (s : State) : Option State :=
  let again : Instr := .trapTake s.cur.id
  match s.handlerAway s.cur with
  | some k => s.heldAway (awayCode k) again
  | none =>
    if !s.logsTrap then none
    else match s.stopSectors with
      | .error k => s.heldAway (awayCode k) again
      | .ok secs => s.heldWrite secs (.wave s.cur.id) again

/-- TRAP_TAKE (19 R366): the results of the wave have been written. The packet at HANDLER may have to come home first, and before
a stop record is written its sectors are free (19 R371). -/
def execTrapTake (w : Nat) (s : State) : Host.Outcome State Fault Refusal :=
  match s.wave? w with
  | none => s.event
  | some x => match x.due with
    | none => s.event
    | some (who, at_, tr) =>
      if x.stage != .running then s.event
      else if !s.trapReady x then (s.postOnce (.trapTake w)).event
      else
        let t := s.select w who
        (t.trapHeld.getD (t.takeTrap who at_ tr)).event

/-- The completion word of a collective step, written for a member of this device (20 R388). A refused store freezes the
context (20 R387). -/
def State.stepDone (s : State) (p : Post) (v : W64) : State :=
  if p.done = 0 || !s.engineRuns p.ctx then s
  else match s.globalWrite p.die p.ctx p.done.toNat (bytesOf 8 v.toNat) p.time (.die p.die) with
    | .ok t => t
    | .error _ => s.freeze p.ctx 0xFF 5 true p.done.toNat

/-- The destination bytes of a step at one of `n` members (20 R388). -/
def Post.dstBytes (p : Post) (n : Nat) : Nat :=
  match p.op with
  | .bar => 0
  | .agat => n * p.count * (p.fmt.width / 8)
  | _ => p.count * (p.fmt.width / 8)

/-- After a failure the destination holds an undefined mix: any of its bytes may have changed (20 R388, log entry 12). -/
def State.mixDst (s : State) (n : Nat) (p : Post) : State :=
  if !s.engineRuns p.ctx then s
  else (List.range (p.dstBytes n)).foldl (fun s i =>
    let a := p.dst.toNat + i
    if Config.failedNew s.fresh a then
      match s.globalWrite p.die p.ctx a [Config.mixByte s.fresh a] p.time (.die p.die) with
      | .ok t => t
      | .error _ => s
    else s) s

/-- A part of a step that has failed at a member of a group of `n` ends (20 R388): its completion word is written, and then its
context freezes where a source of it was poisoned (17 R340, log entry 95). -/
def State.endFailing (s : State) (n : Nat) (x : Failing) : State :=
  let s := (s.mixDst n x.post).stepDone x.post (w64 (2 ^ 63 + x.code))
  match x.freeze with
  | some a => s.freeze x.post.ctx 0xFF 5 false a
  | none => s

/-- Parts of steps of a group fail with a code: they end one by one, each when its writes can be made (17 R327). -/
def State.fail (s : State) (gid : Nat) (xs : List Failing) : State :=
  match NMap.get? s.groups gid with
  | none => s
  | some g => { s with groups := NMap.set s.groups gid { g with failing := g.failing ++ xs } }.postOnce (.collStepRun gid [] [] .done)

/-- A part of a step with the code with which it fails. -/
def Post.failed (p : Post) (code : Nat) : Failing := ⟨p, code, none⟩

/-- The parts of a rank in steps from `k`, as they fail with a code. -/
def Rank.failsFrom (x : Rank) (k code : Nat) : List Failing :=
  (x.posts.filter fun (y : Nat × Post) => decide (k ≤ y.1)).map fun (y : Nat × Post) => y.2.failed code

/-- A member marks its group aborted, and its outstanding steps are cancelled (20 R391 rules 1, 2). -/
def State.abortRank (s : State) (gid rank : Nat) : State :=
  match (NMap.get? s.groups gid).bind fun g => (NMap.get? g.ranks rank).map fun x => (g, x) with
  | none => s
  | some (g, x) =>
    let y := { x with posts := [], aborted := true, proposal := none }
    { s with groups := NMap.set s.groups gid { g with ranks := NMap.set g.ranks rank y } }.fail gid
      (Rank.failsFrom x 0 4)

/-- A STEPAGR in which a wave is blocked counts as not issued (20 R391 rule 3). -/
def Wave.dropStepagr (w : Wave) (h : Nat) : Wave :=
  w.threads.foldl (fun w (who, t) => match t.park with
    | .stepagr _ k _ => if k = h then w.setThread who { t with park := .run } else w
    | _ => w) w

/-- The asynchronous trap 0x13 of a wave (20 R391 rule 3): after the completion of the steps that the token has cancelled, and for
a wave swapped out once it runs again. -/
def State.tokenTrap (s : State) (w : Wave) (handle : BitVec 4) (reason : Byte) : State :=
  match w.tokenThread with
  | none => s
  | some who =>
    let s := s.select w.id who
    let tr := { Trap.of 0x13 with code := handle.toNat * 256 + reason.toNat }
    if w.stage == .running && !s.failsFor w.id then s.raise s.thread.pc tr
    else { s with cur := { s.cur with due := some (who, s.thread.pc, tr) } }.postOnce (.trapTake w.id)

/-- What a token does at a member that can take it: marks the group, cancels its steps, and traps; a second token is
dropped (20 R391). -/
def State.takeToken (s : State) (w : Wave) (handle : BitVec 4) (reason : Byte) : State :=
  match NMap.get? w.members handle.toNat with
  | none => s
  | some m => match (NMap.get? s.groups m.gid).bind fun g => NMap.get? g.ranks m.rank with
    | none => s
    | some x =>
      if x.aborted then s
      else
        let t := (s.setWave (w.dropStepagr handle.toNat)).abortRank m.gid m.rank
        match t.wave? w.id with
        | some y => if y.stage == Stage.retiring then t else t.tokenTrap y handle reason
        | none => t

/-- The rank of a member on a peer becomes vacant (20 R392). -/
def State.vacate (s : State) (gid : Nat) (gone : List Nat) : State :=
  match NMap.get? s.groups gid with
  | none => s
  | some g =>
    let ranks := g.ranks.map fun ((r, x) : Nat × Rank) => (r, if gone.contains r then { x with vacant := true } else x)
    if gone.isEmpty then s
    else ({ s with groups := NMap.set s.groups gid { g with ranks := ranks } }.postOnce (.collStepRun gid [] [] .done)).postOnce
      (.stepagrAgreed gid [] [])

/-- The group that a wave holds under a handle. -/
def Wave.gidOf (w : Wave) (handle : Nat) : Nat := ((NMap.get? w.members handle).map (·.gid)).getD 0

/-- ABORT_TOKEN (20 R391): `sender` is the rank of a member on a peer. A token that meets another trap or handler mode is held (19
R367, R372); a wave that retires takes no trap. -/
def execAbortToken (w : Nat) (handle : BitVec 4) (reason : Byte) (sender : Option Nat) (s : State) :
    Host.Outcome State Fault Refusal :=
  match s.wave? w with
  | none => s.event
  | some x =>
    let s := s.vacate (x.gidOf handle.toNat) sender.toList
    if x.stage ≠ .running ∧ x.stage ≠ .swapped ∧ x.stage ≠ .retiring then s.event
    else if x.frame.isSome || x.due.isSome then
      (s.setWave { x with tokens := x.tokens ++ [(handle, reason)] }).event
    else
      let t := s.takeToken x handle reason
      (match t.wave? w with
        | some y => match y.tokens, y.frame, y.due with
          | (h, r) :: rest, none, none =>
            if y.stage == Stage.stopped then t
            else (t.setWave { y with tokens := rest }).post (.abortToken w h r none)
          | _, _, _ => t
        | none => t).event

end Sys2Proof.Machine
end

