-- ==== Sys2Proof/Machine/Flume.lean ====
section
/-! DEFINITION. The flume and the nib cores (08 R172 to R175, R179, R183), and the merge of splits at a join (07 R159). -/

namespace Sys2Proof.Machine

/-! Pulls and pushes (08 R174). -/

/-- A register has come to a sprig with its value at export. -/
def State.flume (s : State) (w j : Nat) (r : RegName) : State :=
  match s.wave? w with
  | none => s
  | some x => match NMap.get? x.sprigs j with
    | none => s
    | some p =>
      if p.recalled || p.held.contains r then s
      else s.setWave { x with sprigs := NMap.set x.sprigs j { p with held := r :: p.held } }

/-- FLUME_PULL (08 R174 rule 1). -/
def execFlumePull (w j : Nat) (r : RegName) (s : State) : Host.Outcome State Fault Refusal := (s.flume w j r).event

/-- FLUME_PUSH (08 R174 rule 2). -/
def execFlumePush (w j : Nat) (r : RegName) (s : State) : Host.Outcome State Fault Refusal := (s.flume w j r).event

/-! Leaving again after a recall (08 R183). -/

/-- A recalled sprig on nib core `n`: it takes its registers, EXEC and PTS from the wave as at any export (08 R173). -/
def State.reexport (s : State) (j n : Nat) (p : Sprig) : State :=
  let w := s.cur
  let m := p.lanes
  let sys := { p.sys with exec := (p.sys.exec &&& ~~~m) ||| (w.sys.exec &&& m), pts := timeMax p.sys.pts w.sys.pts }
  let q := { p with file := w.file, sys := sys, nib := n, recalled := false, wrote := [], held := [], age := s.nextId,
                    atExport := s.exportedRegs, splitsAtExport := w.splitsWord m p.exporter }
  { s with cur := { w with sprigs := NMap.set w.sprigs j q, fetched := w.fetched.filter fun (k, _) => k / 2 ^ 60 != j + 1 },
           nextId := s.nextId + 1 }

/-- SPRIG_REEXPORT (08 R183): it waits for a nib core with room (08 R172), while another trap is being taken, and while a save
holds the context (19 R374). -/
def execSprigReexport (w j : Nat) (s : State) : Host.Outcome State Fault Refusal :=
  match s.wave? w with
  | none => s.event
  | some x => match NMap.get? x.sprigs j with
    | none => s.event
    | some p =>
      if !p.recalled then s.event
      else if !s.mayReexport x j then (s.postOnce (.sprigReexport w j)).event
      else if p.th.park = .join 0 then (s.postOnce (.sprigRejoin w j)).event
      else match s.nibFor x.cluster p.lines with
        | none => (s.postOnce (.sprigReexport w j)).event
        | some n => ((s.select w (.split p.exporter)).reexport j n p).event

/-! Rejoining (08 R179). -/

/-- The four steps of a rejoining: write-back, ARRIVED, then what every end of a sprig does. -/
def State.rejoin (s : State) (j : Nat) (p : Sprig) : State :=
  let w := s.cur
  let m := p.th.mask
  let recs := match NMap.get? w.recs p.home with
    | some r => NMap.set w.recs p.home { r with arrived := r.arrived ||| m }
    | none => w.recs
  let live := if (NMap.get? w.recs p.home).isSome then w.live else w.live &&& ~~~m
  let s := ({ s with cur := { w with file := p.writeBack w.file, recs := recs, live := live } }.endSprig j m).handOver (.sprig j)
    (.split p.exporter)
  { s with cur := s.cur.tidy }.recheckBars.recheck

/-- SPRIG_REJOIN (08 R179): the results of the sprig have been written. -/
def execSprigRejoin (w j : Nat) (s : State) : Host.Outcome State Fault Refusal :=
  match s.wave? w with
  | none => s.event
  | some x => match NMap.get? x.sprigs j with
    | none => s.event
    | some p =>
      if p.th.park ≠ .join 0 || x.stage != .running || x.pending.any (fun q => q.who == .sprig j) then s.event
      else ((s.select w (.split p.exporter)).rejoin j p).event

/-! Merges (07 R159). -/

/-- The splits that wait at an entry. -/
def Wave.waitingAt (w : Wave) (e : Nat) : List (Nat × Thread) := w.splits.filter fun (_, t) => t.park == .join e

/-- Whether the merge at an entry can take place: every lane that is expected has arrived, no PEND is left, and the sprigs
exported from its lanes have rejoined. -/
def Wave.mergeReady (w : Wave) (e : Nat) (r : Rec) : Bool :=
  r.pend.isNone && r.arrived != 0 && r.expect &&& ~~~r.arrived == 0 &&
    !(w.sprigs.any fun (_, p) => p.home == e || p.lanes &&& r.expect != 0)

/-- A stack of a depth, its top first, from the bits that the lanes brought. -/
def predsOf (bits : List Mask) (depth : Nat) : List Mask := ((List.range depth).map fun k => bits.getD k 0).reverse

/-- The waiting splits of a wave become one (07 R159 steps 4, 5); where lanes wait without a split, they become a new one
if the wave holds fewer than four. -/
def Wave.merge (w : Wave) (e : Nat) (r : Rec) (now : Nat) : Option (Nat × Wave) :=
  let waiting := w.waitingAt e
  let gone := w.splits.filter fun (n, _) => !(waiting.any fun (k, _) => k == n)
  let made : Option (Nat × Thread) := match waiting with
    | (n, t) :: _ =>
      some (n, { t.resume now with mask := r.arrived, stack := t.stack.tail, pc := ⟨r.addr, 0⟩,
                                   preds := predsOf r.bits t.preds.length, chained := false,
                                   holds := waiting.flatMap fun x => x.2.holds })
    | [] =>
      if 4 ≤ w.splits.length then none
      else some (firstFree 3 (w.splits.map (·.1)),
        { Thread.blank with pc := ⟨r.addr, 0⟩, mask := r.arrived, stack := r.below,
                            preds := predsOf r.bits (r.depth.getD r.bits.length) })
  made.map fun (n, t) => (n, { w with splits := NMap.set gone n t, recs := NMap.erase w.recs e }.tidy)

/-- After a merge the accesses of the splits that arrived come before what the merged split does on other paths (07 R161); those on
the same path keep their order by themselves (16 R314). -/
def State.orderMerge (s : State) : State :=
  let after (ids : List Nat) (on : BitVec 6) : List Hold := if ids.isEmpty then [] else [⟨ids, false, on⟩]
  let ws := s.cur.loadsOut s.who ++ (s.queuedBy s.cur s.who).map (·.id)
  s.setThread { s.thread with holds := s.thread.holds ++ after ws 0b111110 ++ after (s.millsOut s.cur s.who) 0b110111 }

/-- JOIN_MERGE (07 R159): in handler mode the splits stay as they are (19 R366). -/
def execJoinMerge (w e : Nat) (s : State) : Host.Outcome State Fault Refusal :=
  match s.wave? w with
  | none => s.event
  | some x => match NMap.get? x.recs e with
    | none => s.event
    | some r =>
      if !x.mergeReady e r || x.frame.isSome || x.due.isSome || x.stage != .running then s.event
      else match x.merge e r s.cycle.toNat with
        | none => s.event
        | some (n, y) =>
          let t := ((s.setWave y).select w (.split n)).orderMerge.recheck
          (if r.uneven then t.raise t.thread.pc (Trap.of 0x0C) else t).event

end Sys2Proof.Machine
end

