-- ==== Sys2Proof/Machine/Engine.lean ====
section
/-! DEFINITION. What the engines share: freezing a context (03 R76, R77), shape records (02 R52, R54), and the elements of
a tensor (02 R53, R421). -/

namespace Sys2Proof

/-- The elements of a scale block; 1 for a format without block scales (02 R53). -/
def Fmt.blockSize (f : Fmt) : Nat :=
  match f with
  | .mxfp4 => 32
  | .nib4 => 64
  | _ => 1

end Sys2Proof

namespace Sys2Proof.Machine

/-! Shape records (02 R52, R54). -/

/-- A field of `n` bytes of words read from memory. -/
def wordsField (ws : List W64) (off n : Nat) : Nat := ofBytes (((ws.flatMap fun w => bytesOf 8 w.toNat).drop off).take n)

/-- The 16-byte strides and extents that a record gives for dimensions beyond its rank: extents of 1. -/
def shapeOf (ws : List W64) (fmt : Fmt) : Shape :=
  let g := wordsField ws
  let rank := g 0x35 1
  { base := w64 (g 0 8), scales := w64 (g 8 8), super := w64 (g 0x10 8),
    dims := (List.range 4).map fun k => if k < rank then g (0x18 + 4 * k) 4 else 1,
    strides := (List.range 3).map fun k => signedOf 32 (g (0x28 + 4 * k) 4),
    fmt := fmt, rank := rank, nanOob := g 0x36 1 == 1 }

/-- RANK, OOB and the reserved fields of a record are as they must be (02 R54). SCALES and SUPER of a format without such scales,
which R52 asks to be 0, are not checked here, only SUPER's alignment in `Shape.misaligned` (log entry 86). -/
def shapeFields (ws : List W64) : Bool :=
  let g := wordsField ws
  let rank := g 0x35 1
  decide (1 ≤ rank) && decide (rank ≤ 4) && decide (g 0x36 1 ≤ 1) && g 0x37 9 == 0 &&
    (List.range 4).all (fun k => decide (k < rank) || g (0x18 + 4 * k) 4 == 0) &&
    (List.range 3).all fun k => decide (k + 1 < rank) || g (0x28 + 4 * k) 4 == 0

/-- The address at which a record's BASE, SUPER or DIM0 is misaligned (02 R54). -/
def Shape.misaligned (sh : Shape) (rec_ : W64) : Option W64 :=
  if sh.base.toNat % 16 ≠ 0 then some sh.base
  else if sh.super.toNat % 4 ≠ 0 then some sh.super
  else if sh.dims.headD 1 % sh.fmt.blockSize ≠ 0 then some rec_
  else none

/-- The record in the words read, with the faults of its fields in their order (02 R54). -/
def parseShape (rec_ : W64) (ws : List W64) (ok : Fmt → Bool) : Except Stop Shape := do
  need (shapeFields ws) illegal
  let code := wordsField ws 0x34 1
  match if code < 32 then Fmt.ofCode (BitVec.ofNat 5 code) else none with
  | none => .error (.trap { Trap.of 8 with code := code })
  | some f => do
    need (f != .mask && ok f) (.trap { Trap.of 8 with code := code })
    let sh := shapeOf ws f
    match sh.misaligned rec_ with
    | some a => .error (faultAt 3 a)
    | none => .ok sh

/-- A word of a record as an engine reads it: old, or with what its wave has stored and the home does not hold yet (02 R55, log entry
52). -/
def State.recordWord (s : State) (va k : Nat) (w : W64) : W64 :=
  match s.translate s.die s.cur.ctx (va + 8 * k) .rd with
  | .error _ => w
  | .ok (t, pa) =>
    let mine := (s.cluster s.cur.cluster).queue.filter fun q => q.wave == s.cur.id
    w64 (ofBytes (((List.range 8).zip (bytesOf 8 w.toNat)).map fun (i, b) => match queuedByte mine t (pa + i) with
      | none => b
      | some x => if Config.recordNew s.fresh k then x else b))

/-- The record as an engine reads it at the start of an instruction (02 R54, R55). -/
def State.readShape (s : State) (rec_ : W64) (ok : Fmt → Bool) : Except Stop Shape := do
  need (rec_.extractLsb' 0 6 == 0) (faultAt 3 rec_)
  match s.translate s.die s.cur.ctx rec_.toNat .rd with
  | .ok (.device, pa) => s.sectorsFree pa 64
  | _ => .ok ()
  match s.globalWords s.die s.cur.ctx rec_.toNat 8 with
  | .error (c, a) => .error (faultAt c (w64 a))
  | .ok ws => parseShape rec_ (((List.range 8).zip ws).map fun (k, w) => s.recordWord rec_.toNat k w) ok

/-! Elements (02 R53). -/

/-- The indices lie within the extents. -/
def Shape.holds (sh : Shape) (ix : List Nat) : Bool :=
  (List.range 4).all fun k => decide (ix.getD k 0 < sh.dims.getD k 1)

/-- The address of an element's byte. -/
def Shape.addr (sh : Shape) (ix : List Nat) : W64 :=
  let off : Int := (List.range 3).foldl (fun acc k => acc + (ix.getD (k + 1) 0 : Int) * sh.strides.getD k 0) 0
  sh.base + BitVec.ofInt 64 (16 * off) + w64 (ix.headD 0 * sh.fmt.width / 8)

/-- The index of an element's block. -/
def Shape.block (sh : Shape) (ix : List Nat) : Nat :=
  let d (k : Nat) := sh.dims.getD k 1
  let i (k : Nat) := ix.getD k 0
  ((i 3 * d 2 + i 2) * d 1 + i 1) * (d 0 / sh.fmt.blockSize) + i 0 / sh.fmt.blockSize

/-- Bytes of a tensor in global memory, or in shared memory as an offset; or the cause that refuses them and the address. -/
def State.locate (s : State) (shared : Bool) (nd : Need) (va : W64) (n : Nat) : Except (Nat × W64) Loc :=
  if shared then
    if s.sharedBytes s.cur < va.toNat + n then .error (2, va) else .ok ⟨none, va.toNat, va.toNat⟩
  else match s.translate s.die s.cur.ctx va.toNat nd with
    | .error c => .error (c, va)
    | .ok (t, pa) =>
      if nd.writes && s.sealed (s.ctx s.cur.ctx).asid va.toNat n then .error (2, va)
      else if !nd.writes && t == .device && s.poisonedIn pa n then .error (4, va)
      else .ok ⟨some t, pa, va.toNat⟩

/-- The first fault among some accesses with the least cause in the order of 13 R252. -/
def worst (xs : List (Nat × W64)) : Option (Nat × W64) :=
  xs.foldl (fun acc x => match acc with
    | none => some x
    | some y => if causeRank x.1 < causeRank y.1 then some x else some y) none

/-- The errors of a list. -/
def errorsOf {α : Type} (xs : List (Except (Nat × W64) α)) : List (Nat × W64) :=
  xs.filterMap fun x => match x with
    | .error e => some e
    | .ok _ => none

/-- The block scale of an element: its byte, where the format has one (02 R53; log entry 93). -/
def State.scaleAt (s : State) (sh : Shape) (shared : Bool) (nd : Need) (ix : List Nat) : Except (Nat × W64) (Option Loc) :=
  if sh.fmt.blockSize = 1 then .ok none else (s.locate shared nd (sh.scales + w64 (sh.block ix)) 1).map some

/-- The superblock scale of an element: its four bytes, where the format has one (02 R53; log entry 93). -/
def State.superAt (s : State) (sh : Shape) (shared : Bool) (ix : List Nat) : Except (Nat × W64) (Option Loc) :=
  if sh.fmt ≠ .nib4 then .ok none else (s.locate shared .rd (sh.super + w64 (4 * (sh.block ix / 256))) 4).map some

/-- An element of a tensor with its scales, or the refusal of all its accesses that 13 R252 names; none outside the extents. -/
def State.elementAt (s : State) (sh : Shape) (shared : Bool) (nd : Need) (ix : List Nat) :
    Except (Nat × W64) (Option ElemAt) :=
  if !sh.holds ix then .ok none
  else
    match s.locate shared nd (sh.addr ix) ((sh.fmt.width + 7) / 8), s.scaleAt sh shared nd ix, s.superAt sh shared ix with
    | .ok loc, .ok scale, .ok super => .ok (some ⟨loc, sh.fmt.width == 4 && ix.headD 0 % 2 == 1, scale, super⟩)
    | loc, scale, super =>
      .error ((worst (errorsOf [loc.map some, scale, super])).getD (0, 0))

/-- The bytes at a place, for a wave of a team. -/
def State.locBytes (s : State) (team : Option Nat) (l : Loc) (n : Nat) : List Byte :=
  match l.tg with
  | none => ((team.bind fun t => NMap.get? s.teams t).map fun t => t.shared.gets l.pa n).getD (List.replicate n 0)
  | some .device => s.seenBytes l.pa n
  | some (.host _) => s.hostMem.gets l.pa n
  | some (.peer p) => (NMap.getD s.peerMem p []).gets l.pa n

/-- The number that `n` bytes at a place hold. -/
def State.locNum (s : State) (team : Option Nat) (l : Loc) (n : Nat) : Nat := ofBytes (s.locBytes team l n)

/-- The code of an element of format `f`. -/
def State.elemCode (s : State) (team : Option Nat) (f : Fmt) (e : ElemAt) : Nat :=
  let x := s.locNum team e.loc ((f.width + 7) / 8)
  if f.width = 4 then (if e.hi then x / 16 else x % 16) else x

/-- The codes of an element's block scale and superblock scale (02 R53): 0 where it has none. -/
def State.elemScales (s : State) (team : Option Nat) (e : ElemAt) : Nat × Nat :=
  ((e.scale.map fun l => s.locNum team l 1).getD 0, (e.super.map fun l => s.locNum team l 4).getD 0)

/-- An mxfp4 element with its scale code, rounded to a format (06 R123). -/
def mxValue (f : Fmt) (rnd : Rnd) (sat : Bool) (scale code : Nat) : Nat × BitVec 5 :=
  if scale = 0xFF then (f.nanCode, 0) else roundTo f rnd sat ((numOf .e2m1 code).scale ((scale : Int) - 127))

/-- An element of a tensor as f32 (14 R285): exact but for an mxfp4 element beyond f32, nib4 by 06 R126, with the flags of a
conversion (06 R119, R132). An f32 element keeps its bits. -/
def toF32 (src : Fmt) (scales : Nat × Nat) (code : Nat) : Nat × BitVec 5 :=
  match src with
  | .f32 => (code, 0)
  | .mxfp4 => mxValue .f32 .rne false scales.1 code
  | .nib4 => nib4Decode scales.2 scales.1 code
  | f => roundTo .f32 .rne false (numOf f code)

/-- What an element outside the extents reads as, at format `f` (02 R52, R421). -/
def oobCode (f : Fmt) (nan : Bool) : Nat := if nan && (f.isFloat || f == .e4m3 || f == .e5m2 || f == .e8m0) then f.nanCode else 0

/-- The sectors of device memory that some places reach. -/
def locSectors (ls : List (Loc × Nat)) : List Nat :=
  (ls.filter fun (l, _) => l.tg == some Target.device).foldl (fun acc (l, n) =>
    (sectorsOf l.pa n).foldl (fun acc k => insertRising k acc) acc) []

/-- The places of an element: its byte or bytes, and its scales. -/
def ElemAt.places (e : ElemAt) (f : Fmt) : List (Loc × Nat) :=
  [(e.loc, (f.width + 7) / 8)] ++ (e.scale.map fun l => (l, 1)).toList ++ (e.super.map fun l => (l, 4)).toList

/-- Home sectors that some places reach are free, or the thread waits for memory. -/
def State.locsFree (s : State) (ls : List (Loc × Nat)) : Except Stop Unit :=
  match (locSectors ls).filter s.sectorAway with
  | [] => .ok ()
  | ks => .error (.memory (ks.flatMap s.freeSector))

/-- What an engine's accesses to some sectors do to the transactions open there, the issuing wave's own too (18 R359). -/
def State.touchSectors (s : State) (secs : List Nat) (write : Bool) : State :=
  secs.foldl (fun s k => s.doom .outside (k / 2) write) s

/-- An engine's reading of a shape record does the same (18 R359). -/
def State.recordTouch (s : State) (rec_ : W64) : State :=
  match s.translate s.die s.cur.ctx rec_.toNat .rd with
  | .ok (.device, pa) => s.doom .outside (pa / 64) false
  | _ => s

/-- The same for places that an engine reads and places that it writes. -/
def State.engineTouch (s : State) (reads writes : List (Loc × Nat)) : State :=
  (s.touchSectors (locSectors reads) false).touchSectors (locSectors writes) true

/-- Bytes written at a place by an engine, at time `t`, for a wave of a team; the L1 of the wave's cluster forgets what it held
there (log entry 80). -/
def State.locWrite (s : State) (team : Option Nat) (l : Loc) (bs : List Byte) (t : BitVec 16) (by_ : Writer) : State :=
  match l.tg with
  | none => match team with
    | some k => s.sharedPutAt k l.pa bs
    | none => s
  | some tg =>
    let s := s.physWrite tg l.pa bs t by_
    match tg, by_.wave?.bind s.wave? with
    | .device, some w => s.forgetRange w.cluster l.pa bs.length
    | _, _ => s

end Sys2Proof.Machine
end

