-- ==== Sys2Proof/Machine/Matrix.lean ====
section
/-! DEFINITION. The matrix engine (14): MMA, MMG, MLOAD, MSTORE, MMOVE, batches, and run-ahead. A place is a tile register
or, from 8 on, a pencil tile. -/

namespace Sys2Proof

/-- The first accumulator tile, if there is one. -/
def Acc.base (a : Acc) (d : Nat) : Option Nat :=
  match a with
  | .none => Option.none
  | .own => some d
  | .tile c => some c.toNat

/-- MMG as the MMA whose B, tiles and span it has. -/
def MmgForm.asMma (f : MmgForm) : MmaForm :=
  { fmt := f.fmt, src := f.src, ecls := f.ecls, span := f.span, pair := false, sp := false, balt := f.balt, d := f.d,
    a := f.a, b := f.b, acc := f.acc, bx := f.bx, ax := 0 }

/-- The tiles that MMOVE reads. -/
def MmoveOp.tiles (o : MmoveOp) : List Nat :=
  match o with
  | .copy a => [a.toNat]
  | .fill _ => []
  | .add a b => [a.toNat, b.toNat]

end Sys2Proof

namespace Sys2Proof.Machine

/-! Tiles, pencil tiles and outstanding operations (14 R276, R289, R293). -/

/-- The contents of a place. -/
def Wave.tileAt (w : Wave) (place : Nat) : Tile :=
  if place < 8 then w.tiles.getD place Tile.blank else (w.pencils.getD (place - 8) ⟨Tile.blank, none⟩).tile

/-- Replaces the contents of a place. -/
def Wave.setTile (w : Wave) (place : Nat) (t : Tile) : Wave :=
  if place < 8 then { w with tiles := w.tiles.set place t }
  else { w with pencils := w.pencils.modify (place - 8) fun p => { p with tile := t } }

/-- The places that an operation reads. -/
def MatrixOp.reads (o : MatrixOp) : List Nat :=
  match o with
  | .load _ _ _ _ _ _ => []
  | .acc _ _ _ from_ _ _ => from_.toList
  | .move _ _ (.copy _) a _ _ _ => [a]
  | .move _ _ (.fill _) _ _ _ _ => []
  | .move _ _ (.add _ _) a b _ _ => [a, b]
  | .store a _ _ _ _ _ _ => [a]
  | .copy a _ => [a]

/-- The place that an operation writes. -/
def MatrixOp.writes (o : MatrixOp) : Option Nat :=
  match o with
  | .load d _ _ _ _ _ => some d
  | .acc _ _ d _ _ _ => some d
  | .move d _ _ _ _ _ _ => some d
  | .store _ _ _ _ _ _ _ => none
  | .copy _ d => some d

/-- Whether an operation stores to memory. -/
def MatrixOp.stores (o : MatrixOp) : Bool :=
  match o with
  | .store _ _ _ _ _ _ _ => true
  | _ => false

/-- The bytes of memory that an operation reaches. -/
def MatrixOp.places (o : MatrixOp) : List (Loc × Nat) :=
  match o with
  | .load _ _ src _ _ rows => rows.flatMap fun (_, es) => es.flatMap fun e => (e.map fun e => e.places src).getD []
  | .store _ _ fmt _ _ _ rows => rows.flatMap fun (_, es) => es.flatMap fun e => (e.map fun e => e.places fmt).getD []
  | _ => []

/-- Two ranges of bytes share a byte. -/
def locsMeet (a b : Loc × Nat) : Bool :=
  a.1.tg == b.1.tg && decide (a.1.pa < b.1.pa + b.2) && decide (b.1.pa < a.1.pa + a.2)

/-- The later operation `b` waits for the earlier `a`: they share a tile that one of them writes, or bytes of memory that
one of them stores (14 R276, R290). -/
def MatrixOp.before (a b : MatrixOp) : Bool :=
  (match a.writes with
    | some d => b.writes == some d || b.reads.contains d
    | none => false) ||
  (match b.writes with
    | some d => a.reads.contains d
    | none => false) ||
  ((a.stores || b.stores) && a.places.any fun x => b.places.any fun y => locsMeet x y)

/-- The operations of a wave that no earlier one holds up. -/
def readyFrom (earlier : List MatrixOp) (ops : List Outstanding) : List Outstanding :=
  match ops with
  | [] => []
  | o :: rest =>
    (if earlier.any fun e => e.before o.op then [] else [o]) ++ readyFrom (earlier ++ [o.op]) rest

/-- The tag of a place once every outstanding operation is complete (14 R276). -/
def Wave.tagAt (w : Wave) (place : Nat) : Fmt :=
  let tags : NMap Fmt := w.ops.foldl (fun m o =>
    let old (p : Nat) : Fmt := (NMap.get? m p).getD (w.tileAt p).tag
    match o.op with
    | .load d tag _ _ _ _ => (match tag with
      | some f => NMap.set m d f
      | none => m)
    | .acc _ _ d _ tag _ => NMap.set m d tag
    | .move d tag _ _ _ _ _ => NMap.set m d tag
    | .store _ _ _ _ _ _ _ => m
    | .copy a d => NMap.set m d (old a)) []
  (NMap.get? tags place).getD (w.tileAt place).tag

/-- The pencil tile that shadows a tile register. -/
def Wave.shadowOf (w : Wave) (t : Nat) : Option Nat :=
  ((List.range w.pencils.length).zip w.pencils).findSome? fun (k, p) => if p.shadows = some t then some k else none

/-- Where the issuing thread's reads of a tile register go (14 R293, 19 R367). -/
def State.placeOf (s : State) (t : Nat) : Nat :=
  if s.ahead then match s.cur.shadowOf t with
    | some p => 8 + p
    | none => t
  else t

/-- Adds an operation to the open batch, or to none. -/
def State.addOp (s : State) (op : MatrixOp) (batch : W64) : State :=
  let o : Outstanding := { id := s.nextId, batch := batch, op := op, flagTo := if s.holdsFlags then .held else .wave }
  { s with cur := { s.cur with ops := s.cur.ops ++ [o] }, nextId := s.nextId + 1 }

/-- The number of the open batch (14 R289). -/
def Wave.openBatch (w : Wave) : W64 := w.batch + 1

/-- A tile register takes a free pencil tile as its shadow, which starts as a copy of it (14 R293). -/
def State.shadowTile (s : State) (t : Nat) : State :=
  if !s.ahead || (s.cur.shadowOf t).isSome then s
  else match ((List.range s.cur.pencils.length).zip s.cur.pencils).find? fun (_, p) => p.shadows.isNone with
    | none => s
    | some (k, _) =>
      let w := s.cur
      let pencils := w.pencils.modify k fun p => { p with shadows := some t }
      { s with cur := { w with pencils := pencils } }.addOp (.copy t (8 + k)) 0

/-- The tile registers that an instruction writes take their shadows. -/
def State.shadow (s : State) (ts : List Nat) : State := ts.foldl State.shadowTile s

/-- Enough pencil tiles are free for the shadows that writes of some tiles begin (14 R293). -/
def State.shadowsOk (s : State) (ts : List Nat) : Bool :=
  !s.ahead || decide ((ts.filter fun t => (s.cur.shadowOf t).isNone).length ≤
    (s.cur.pencils.filter fun p => p.shadows.isNone).length)

/-- The cost of an energy class (07 R148). -/
def eclsCost (c : Nat) : Int :=
  match c with
  | 0 => 0
  | 1 => 1
  | 2 => 4
  | _ => 16

/-- A wave's INKWELL debited, to no less than −15; with the budget off it stays (07 R148, log entry 77). -/
def State.debited (s : State) (w : Wave) (ecls : Nat) : Wave :=
  if (s.ctx w.ctx).inkrateInForce = 0 then w else { w with inkwell := max (w.inkwell - eclsCost ecls) (-15) }

/-- The debit of MLOAD, MSTORE or MMOVE at its issue; a long instruction that resumes pays nothing (07 R148). -/
def State.debit (s : State) (resumes : Bool) (ecls : Nat) : State :=
  if resumes then s else { s with cur := s.debited s.cur ecls }

/-- INKWELL as the group sees it allows the issue (07 R148 rule 2), of an instruction that resumes too (log entry 77). -/
def State.inkFree (s : State) : Bool := !s.spent { s.cur with inkwell := s.view.inkwell }

/-! Completion of operations (14 R289). -/

/-- Asks for the operations, batches and whatever waits for them in a wave to be looked at again. -/
def State.opsChanged (s : State) (w : Nat) : State :=
  match s.wave? w with
  | none => s
  | some x =>
    let ready := readyFrom [] x.ops
    let acc (o : Outstanding) : Bool := match o.op with
      | .acc _ _ _ _ _ _ => true
      | _ => false
    let s := if ready.any fun o => !acc o then s.postOnce (.matrixOpComplete w) else s
    let s := if ready.any acc then s.postOnce (.mmaTileDone w) else s
    let s := match x.closed with
      | b :: _ => if x.ops.any fun o => o.batch == b then s else s.postOnce (.batchRetire w)
      | [] => s
    s.resultsChanged w

/-- Flags of an operation of a wave (14 R293). -/
def Wave.opFlags (w : Wave) (dest : FlagTo) (f : BitVec 5) : Wave :=
  match dest, w.runAhead with
  | .drop, _ => w
  | .held, some r => { w with runAhead := some { r with flags := r.flags ||| f } }
  | _, _ => { w with sys := { w.sys with flags := w.sys.flags ||| f } }

/-- The rows of a tile with some of them replaced. -/
def Tile.put (t : Tile) (tag : Option Fmt) (rows : NMap (List W32)) : Tile :=
  { tag := tag.getD t.tag, rows := rows.foldl (fun rs (k, r) => rs.set k r) t.rows }

/-- An element that MLOAD brings, at the tile's format (14 R285, 02 R421). -/
def State.loadElem (s : State) (team : Option Nat) (src fmt : Fmt) (nan : Bool) (e : Option ElemAt) : W32 × BitVec 5 :=
  match e with
  | none =>
    if fmt = .i32 then (0, 0)
    else if src.isBlock then (BitVec.ofNat 32 (if nan then Fmt.nanCode .f32 else 0), 0)
    else (BitVec.ofNat 32 (toF32 src (0, 0) (oobCode src nan)).1, 0)
  | some e =>
    let c := s.elemCode team src e
    if fmt = .i32 then (BitVec.ofInt 32 (src.num c), 0)
    else
      let (v, f) := toF32 src (s.elemScales team e) c
      (BitVec.ofNat 32 v, f)

/-- What an element of a row becomes in MMOVE, with its flags (14 R288). -/
def moveElem (tag : Fmt) (op : MmoveOp) (fill x y : W32) : W32 × BitVec 5 :=
  match op with
  | .copy _ => (x, 0)
  | .fill _ => (fill, 0)
  | .add _ _ =>
    if tag = .i32 then (x + y, 0)
    else
      let (v, f) := fadd .f32 .rne false (numOf .f32 x.toNat) (numOf .f32 y.toNat)
      (BitVec.ofNat 32 v, f)

/-- Rows of values with flags, apart. -/
def splitRows (rows : NMap (List (W32 × BitVec 5))) : NMap (List W32) × BitVec 5 :=
  (rows.map fun (k, r) => (k, r.map (·.1)),
    rows.foldl (fun acc (_, r) => r.foldl (fun acc x => acc ||| x.2) acc) 0)

/-- One element that MSTORE writes: its place and its bytes. -/
abbrev Stored := Loc × List Byte

/-- A row that is not mxfp4: each element converted (14 R286, 10 R209). -/
def storeRow (src fmt : Fmt) (rnd : Rnd) (sat : Bool) (vals : List W32) (es : List (Option ElemAt)) :
    List Stored × BitVec 5 :=
  (vals.zip es).foldl (fun (acc : List Stored × BitVec 5) (v, e) => match e with
    | none => acc
    | some e =>
      let (c, f) := convElem src fmt rnd sat v.toNat
      (acc.1 ++ [(e.loc, bytesOf (fmt.width / 8) c)], acc.2 ||| f)) ([], 0)

/-- 32 columns of a row that MSTORE quantizes to mxfp4: whole bytes, and the scale (14 R286, 06 R124). -/
def storeBlock (vals : List W32) (es : List (Option ElemAt)) : List Stored × BitVec 5 :=
  match es.head? with
  | some (some e) =>
    let (scale, codes, f) := mxQuant (vals.map fun v => numOf .f32 v.toNat)
    let bytes := (List.range 16).filterMap fun k => match es[2 * k]? with
      | some (some x) => some (x.loc, [BitVec.ofNat 8 (codes.getD (2 * k) 0 + 16 * codes.getD (2 * k + 1) 0)])
      | _ => none
    (bytes ++ (e.scale.map fun l => (l, [BitVec.ofNat 8 scale])).toList, f)
  | _ => ([], 0)

/-- What MSTORE writes for a row. -/
def storedRow (src fmt : Fmt) (rnd : Rnd) (sat : Bool) (vals : List W32) (es : List (Option ElemAt)) :
    List Stored × BitVec 5 :=
  if fmt = .mxfp4 then
    (List.range 4).foldl (fun (acc : List Stored × BitVec 5) g =>
      let (xs, f) := storeBlock ((vals.drop (32 * g)).take 32) ((es.drop (32 * g)).take 32)
      (acc.1 ++ xs, acc.2 ||| f)) ([], 0)
  else storeRow src fmt rnd sat vals es

/-- The stored bytes that a seal now refuses (14 R286). -/
def State.sealedStore (s : State) (ctx : Nat) (xs : List Stored) : Option Loc :=
  xs.findSome? fun (l, bs) =>
    if l.tg.isSome && s.sealed (s.ctx ctx).asid l.va bs.length then some l else none

/-- An operation other than an MMA's tile carried out for a wave. -/
def State.performOp (s : State) (w : Wave) (o : Outstanding) : State :=
  let done (w : Wave) : Wave := { w with ops := w.ops.filter fun x => x.id != o.id }
  match o.op with
  | .load d tag src fmt nan rows =>
    let (vals, f) := splitRows (rows.map fun (k, es) => (k, es.map (s.loadElem w.team src fmt nan)))
    s.setWave ((done (w.setTile d ((w.tileAt d).put tag vals))).opFlags o.flagTo f)
  | .acc _ _ _ _ _ _ => s
  | .move d tag op a b fill lanes =>
    let x := w.tileAt a
    let y := w.tileAt b
    let (vals, f) := splitRows (lanes.toList.map fun k =>
      (k, ((x.rows.getD k []).zip (y.rows.getD k [])).map fun (p, q) => moveElem tag op fill p q))
    s.setWave ((done (w.setTile d ((w.tileAt d).put (some tag) vals))).opFlags o.flagTo f)
  | .store a src fmt rnd sat time rows =>
    let (xs, f) := rows.foldl (fun (acc : List Stored × BitVec 5) (k, es) =>
      let (ys, g) := storedRow src fmt rnd sat ((w.tileAt a).rows.getD k []) es
      (acc.1 ++ ys, acc.2 ||| g)) ([], 0)
    match s.sealedStore w.ctx xs with
    | some l => s.freeze w.ctx w.cluster 2 true l.va
    | none =>
      let t := s.setWave ((done w).opFlags o.flagTo f)
      xs.foldl (fun t (l, bs) => t.locWrite w.team l bs time (.wave w.id)) t
  | .copy a d => s.setWave (done (w.setTile d (w.tileAt a)))

/-- One of the operations of a wave, other than a tile of an MMA, that none before it holds up. -/
def Wave.nextOp (w : Wave) (fresh : Nat) : Option Outstanding :=
  let ready := (readyFrom [] w.ops).filter fun o => match o.op with
    | .acc _ _ _ _ _ _ => false
    | _ => true
  ready[Config.pick fresh % Nat.max 1 ready.length]?

/-- The places that an operation reads in memory, and those that it writes. -/
def MatrixOp.io (o : MatrixOp) : List (Loc × Nat) × List (Loc × Nat) := if o.stores then ([], o.places) else (o.places, [])

/-- MATRIX_OP_COMPLETE (14 R289): one of the wave's operations that none before it holds up. -/
def execMatrixOpComplete (w : Nat) (s : State) : Host.Outcome State Fault Refusal :=
  match s.wave? w with
  | none => s.event
  | some x =>
    match x.nextOp s.fresh with
    | none => s.event
    | some o =>
      if !s.engineRuns x.ctx then s.event
      else match s.heldIO (locSectors o.op.io.1) (locSectors o.op.io.2) (.wave w) (.matrixOpComplete w) with
        | some t => t.event
        | none =>
          let t := s.engineTouch o.op.io.1 o.op.io.2
          ((t.performOp ((t.wave? w).getD x) o).opsChanged w).event

/-- BATCH_RETIRE (14 R289): the oldest closed batch has no operation left. -/
def execBatchRetire (w : Nat) (s : State) : Host.Outcome State Fault Refusal :=
  match s.wave? w with
  | none => s.event
  | some x => match x.closed with
    | [] => s.event
    | b :: rest =>
      if x.ops.any fun o => o.batch == b then s.event
      else ((s.setWave { x with closed := rest }).opsChanged w).event

/-! Exact sums (06 R137). -/

/-- The value of an element code before its block scale. -/
def matrixNum (f : Fmt) (c : Nat) : Num :=
  match f with
  | .mxfp4 => numOf .e2m1 c
  | .nib4 =>
    let k := codebook.getD (c % 16) 0
    .fin (decide (k < 0)) k.natAbs (-8)
  | .i8 => numInt (Fmt.num .i8 c)
  | f => numOf f c

/-- The value of a block scale; none is the NaN of an element outside the extents, which sets no flag (02 R421). -/
def scaleNum (f : Fmt) (x : Option (Nat × Nat)) : Num × BitVec 5 :=
  match x with
  | none => (.nan false, 0)
  | some (q, sup) =>
    if f = .mxfp4 then (numOf .e8m0 q, 0)
    else match goodScale sup with
      | none => (.nan false, flagIV)
      | some (m, e) =>
        let (bs, fl) := nib4Scale m e q
        (numOf .f32 bs, fl)

/-- The exact sum of the products of one chunk, the terms taken in ascending order; that order decides whether IV is set where a
quiet NaN stands beside infinities of both signs (06 R137, log entry 78). -/
def chunkSum (fa fb : Fmt) (sp : Bool) (as : List Nat) (bs : List (Option Nat)) : Num × BitVec 5 :=
  let terms := (as.zip bs).filterMap fun (a, b) => b.map fun b => mulNum (matrixNum fa a) (matrixNum fb b)
  match terms with
  | [] => (.fin false 0 0, 0)
  | t :: rest =>
    let (x, f) := rest.foldl (fun (acc : Num × BitVec 5) y =>
      let (z, g) := addNum .rne acc.1 y.1
      (z, acc.2 ||| y.2 ||| g)) t
    (if sp && x.isZero then .fin false 0 0 else x, f)

/-- The rounded sum of a chunk with its scales, or for i32 the sum modulo 2^32. -/
def chunkValue (fa fb fmt : Fmt) (sp : Bool) (as : List Nat) (bs : List (Option Nat)) (sa sb : Option (Num × BitVec 5)) :
    W32 × BitVec 5 :=
  let (x, f) := chunkSum fa fb sp as bs
  if fmt = .i32 then match x with
    | .fin n m e => (BitVec.ofInt 32 (inUnits n m e 0), 0)
    | _ => (0, 0)
  else
    let scaled (acc : Num × BitVec 5) (sc : Option (Num × BitVec 5)) : Num × BitVec 5 := match sc with
      | none => acc
      | some (v, g) =>
        let (z, h) := mulNum acc.1 v
        (z, acc.2 ||| g ||| h)
    let (y, g) := scaled (scaled (x, f) sa) sb
    let (v, h) := roundTo .f32 .rne false y
    (BitVec.ofNat 32 v, g ||| h)

/-- A list in chunksOf of `n`. -/
def chunksOf {α : Type} (n : Nat) (xs : List α) : List (List α) :=
  (List.range (xs.length / n)).map fun k => (xs.drop (k * n)).take n

/-- An accumulator with the sums of its K-chunks added in turn (14 R282). -/
def accumulate (fmt : Fmt) (acc : W32) (sums : List (W32 × BitVec 5)) : W32 × BitVec 5 :=
  sums.foldl (fun (a : W32 × BitVec 5) x =>
    if fmt = .i32 then (a.1 + x.1, 0)
    else
      let (v, f) := fadd .f32 .rne false (numOf .f32 x.1.toNat) (numOf .f32 a.1.toNat)
      (BitVec.ofNat 32 v, a.2 ||| x.2 ||| f)) (acc, 0)

/-! MMA and MMG: shapes and checks (14 R277 to R281). -/

/-- K of a form (14 R277). -/
def mmaK (f : Fmt) (sp : Bool) : Nat :=
  if sp then 128
  else match f with
    | .e4m3 | .e5m2 | .i8 => 64
    | .bf16 | .f16 => 32
    | .f32 => 8
    | _ => 128

/-- The K-chunk of a format (06 R137). -/
def mmaChunk (f : Fmt) : Nat :=
  match f with
  | .f32 => 8
  | .i8 | .nib4 => 64
  | _ => 32

/-- The elements of a column that a wave holds (14 R277, R278). -/
def mmaKept (f : Fmt) (pair sp : Bool) : Nat := if sp then 64 else if pair then mmaK f false / 2 else mmaK f false

/-- B's format under BALT (14 R277). -/
def mmaBFmt (f : Fmt) (balt : Bool) : Fmt :=
  if !balt then f else if f = .e4m3 then .e5m2 else .e4m3

/-- The tiles of a span (14 R280). -/
def spanTiles (span : BitVec 2) : Nat := 2 ^ span.toNat

/-- The tiles that MMA or MMG names are within the footprint and do not overlap in part (14 R281). -/
def State.mmaTiles (s : State) (d n : Nat) (acc : Option Nat) : Bool :=
  s.tilesOk d n && match acc with
    | none => true
    | some c => s.tilesOk c n && (c == d || decide (c + n ≤ d) || decide (d + n ≤ c))

/-- The waves of a quad in order, those that are placed (01 R33). -/
def State.quadWaves (s : State) (team : Option Nat) (q : Nat) : List Wave :=
  (List.range 4).filterMap fun k => s.allWaves.find? fun w => w.team == team && w.waveNo.toNat == 4 * q + k

/-- A quad of a team of `n` waves is complete (01 R33). -/
def quadFull (nos : List Nat) (q : Nat) : Bool := (List.range 4).all fun i => nos.contains (4 * q + i)

/-- Where the quad-collective instructions may issue (14 R281). -/
def State.mmaConvergence (s : State) (pair : Bool) : Except Stop Unit := do
  s.noSprig
  let w := s.cur
  let q := w.waveNo.toNat / 4
  let nos := ((s.teamOf w).map (·.nos)).getD []
  need (s.active == -1 && decide (w.splits.length ≤ 1) && w.joins == 0 && quadFull nos q &&
    (!pair || quadFull nos (Nat.xor q 4))) convergence

/-- `n` registers from `r`. -/
def vregsFrom (r : BitVec 7) (n : Nat) : List Operand := (List.range n).map fun k => .v (r + BitVec.ofNat 7 k)

/-- The K elements of a lane in registers from `r` (14 R278). -/
def State.rowCodes (s : State) (f : Fmt) (r n lane : Nat) : List Nat :=
  (List.range n).map fun k =>
    let per := 64 / f.width
    elem f.width (s.vval (r + k / per) lane) (k % per)

/-- The codes of the block scales in a lane of a scale register (14 R279). -/
def State.scaleCodes (s : State) (f : Fmt) (r n lane : Nat) : List (Option (Nat × Nat)) :=
  (List.range n).map fun b => some (elem 8 (s.vval r lane) b, if f = .nib4 then elem 32 (s.vval r lane) 1 else 0)

/-- The 128 bits of .sp metadata in a lane (14 R279). -/
def State.metaBits (s : State) (r lane : Nat) : Nat := (s.vval r lane).toNat + (s.vval (r + 1) lane).toNat * 2 ^ 64

/-- The two positions of a metadata group. -/
def metaPair (m g : Nat) : Nat × Nat := (bitsOf m (4 * g) 2, bitsOf m (4 * g + 2) 2)

/-- A column of .sp: its logical elements, none where it keeps none (14 R278, R279). -/
def sparseColumn (kept : List Nat) (m : Nat) : List (Option Nat) :=
  (List.range 128).map fun k =>
    let (p0, p1) := metaPair m (k / 4)
    if k % 4 = p0 then kept[2 * (k / 4)]? else if k % 4 = p1 then kept[2 * (k / 4) + 1]? else none

/-- The lowest group of the metadata of a span that is not valid (14 R281). -/
def State.badMeta (s : State) (r tiles : Nat) : Option Nat :=
  (List.range 32).find? fun g => (List.range tiles).any fun j => (List.range 32).any fun l =>
    let (p0, p1) := metaPair (s.metaBits (r + 2 * j) l) g
    decide (p1 ≤ p0)

/-- The template of the current word, as fetched (14 R281). -/
def State.wordTemplate (s : State) : W64 :=
  match s.keptPacket with
  | some p => s.template ((pktWord p s.slot).extractLsb' 23 7).toNat
  | none => 0

/-- The tag of a scale register (14 R279). -/
def scaleTag (f t : Fmt) : Bool := if f = .mxfp4 then t == .e8m0 else t == .b64

/-- The accumulator tiles carry the format (14 R281). -/
def State.accTags (s : State) (fmt : Fmt) (acc : Option Nat) (n : Nat) : Except Stop Unit :=
  match acc with
  | none => .ok ()
  | some c => match ((List.range n).map fun k => s.cur.tagAt (s.placeOf (c + k))).find? (· != fmt) with
    | some t => .error (tagFault t)
    | none => .ok ()

/-- What a wave arrives with: B and its scales are read from its registers (14 R278, R279, R281). -/
def State.arrival (s : State) (f : MmaForm) (rows : List (List Nat)) (rowScales : List (List (Option (Nat × Nat)))) :
    Arrival :=
  let n := spanTiles f.span
  let bf := mmaBFmt f.src f.balt
  let kept := mmaKept f.src f.pair f.sp
  let rb := kept * bf.width / 64
  let blocks := if f.src.isBlock then kept / f.src.blockSize else 0
  { template := s.wordTemplate, prog := s.cur.prog.toNat % 16, span := n, pair := f.pair, sp := f.sp, fmt := f.fmt,
    aFmt := f.src, bFmt := bf, ecls := f.ecls.toNat, d := f.d.toNat, acc := f.acc.base f.d.toNat, rows := rows,
    rowScales := rowScales,
    cols := (List.range n).map fun j => (List.range 32).map fun l =>
      let codes := s.rowCodes bf (f.b.toNat + j * rb) kept l
      if f.sp then sparseColumn codes (s.metaBits (f.bx.toNat + 2 * j) l) else codes.map some,
    colScales := (List.range n).map fun j => (List.range 32).map fun l => s.scaleCodes f.src (f.bx.toNat + j) blocks l,
    started := none, read := [] }

/-- The checks of the B side, the tiles and the place of issue, which MMA and MMG share (14 R281); `aOk` says whether the
registers of A lie within the footprint, and `aTags` checks their tags. -/
def State.mmaChecks (s : State) (f : MmaForm) (aOk : Bool) (aTags : Except Stop Unit) : Except Stop Unit := do
  let n := spanTiles f.span
  let d := f.d.toNat
  let acc := f.acc.base d
  let bf := mmaBFmt f.src f.balt
  let rb := mmaKept f.src f.pair f.sp * bf.width / 64
  let further := if f.src.isBlock then n else if f.sp then 2 * n else 0
  need (s.mmaTiles d n acc && aOk && s.regsOk f.b.toNat (n * rb) && s.regsOk f.bx.toNat further &&
    s.shadowsOk ((List.range n).map (d + ·))) illegal
  s.mmaConvergence f.pair
  aTags
  s.tagsIn (· == bf) (vregsFrom f.b (n * rb))
  s.tagsIn (if f.sp then (· == .b64) else scaleTag f.src) (vregsFrom f.bx further)
  s.accTags f.fmt acc n
  if f.sp then match s.badMeta f.bx.toNat n with
    | some g => .error (.trap { Trap.of 10 with code := g })
    | none => .ok ()
  else .ok ()

/-- The checks of an MMA: with those it shares, the registers of A and their tags. -/
def State.mmaReady (s : State) (f : MmaForm) : Except Stop Unit :=
  let ra := mmaK f.src f.sp * f.src.width / 64
  let scales := vregsFrom f.ax (if f.src.isBlock then 1 else 0)
  s.mmaChecks f (s.regsOk f.a.toNat ra && scales.all s.opOk) do
    s.tagsIn (· == f.src) (vregsFrom f.a ra)
    s.tagsIn (scaleTag f.src) scales

/-- What a wave arrives with at an MMA: A from its registers (14 R278, R279). -/
def State.mmaArrival (s : State) (f : MmaForm) : Arrival :=
  let k := mmaK f.src f.sp
  let blocks := if f.src.isBlock then k / f.src.blockSize else 0
  s.arrival f ((List.range 32).map fun l => s.rowCodes f.src f.a.toNat k l)
    ((List.range 32).map fun l => s.scaleCodes f.src f.ax.toNat blocks l)

/-- MMA (14 R280, R281): the wave arrives at its rendezvous. -/
def execMma (f : MmaForm) (s : State) : Host.Outcome State Fault Refusal :=
  s.finish do
    s.mmaReady f
    .error (.park .rendezvous (some (s.mmaArrival f)))

/-! MMG: rows from memory (14 R284). -/

/-- Refusals with one that must be waited for before the others. -/
def awayFirst (xs : List (Nat × W64)) : List (Nat × W64) := (xs.find? fun x => (awaySector x.1).isSome).toList ++ xs

/-- The K elements of an indexed row, or its fault. -/
def State.mmgRow (s : State) (sh : Shape) (k o r : Nat) : Except (Nat × W64) (List (Option ElemAt)) :=
  if o % sh.fmt.blockSize ≠ 0 then .error (3, sh.addr [o, r])
  else
    let xs := (List.range k).map fun i => s.elementAt sh false .rd [o + i, r]
    match worst (errorsOf xs) with
    | some e => .error e
    | none => .ok (xs.filterMap fun x => match x with
      | .ok e => some e
      | .error _ => none)

/-- The code of zero of a format. -/
def zeroCode (f : Fmt) : Nat := if f = .nib4 then 7 else 0

/-- A block scale of one (14 R284). -/
def unitScale (f : Fmt) : Nat × Nat := if f = .mxfp4 then (127, 0) else (255, 0x3F800000)

/-- The codes of a row and its block scales as read; outside the extents, zeros with unit scales, or the NaN of 02 R421. -/
def State.mmgCodes (s : State) (sh : Shape) (es : List (Option ElemAt)) : List Nat × List (Option (Nat × Nat)) :=
  let f := sh.fmt
  (es.map fun e => match e with
    | some e => s.elemCode none f e
    | none => if f.isBlock then zeroCode f else oobCode f sh.nanOob,
   if !f.isBlock then [] else (chunksOf f.blockSize es).map fun b => match b.head? with
    | some (some e) => some (s.elemScales none e)
    | _ => if sh.nanOob then none else some (unitScale f))

/-- The rows of A that an MMG's index register names: the elements of each lane, none for the empty index; or the fault
of the lowest lane that has one. -/
def State.mmgRows (s : State) (sh : Shape) (k : Nat) (ix : BitVec 7) : Except Stop (List (Option (List (Option ElemAt)))) :=
  let row (l : Nat) : Except (Nat × W64) (Option (List (Option ElemAt))) :=
    let r := elem 32 (s.vval ix.toNat l) 0
    if r = 0xFFFFFFFF then .ok none else (s.mmgRow sh k (elem 32 (s.vval ix.toNat l) 1) r).map some
  let rows := (List.range 32).map row
  match awayFirst (errorsOf rows) with
  | [] => .ok (rows.map fun x => match x with
    | .ok e => e
    | .error _ => none)
  | (c, a) :: _ =>
    let lanes := Mask.ofFn fun l => match row l with
      | .error (d, _) => d == c
      | .ok _ => false
    .error (.trap { Trap.of c with addr := some a, lanes := some lanes })

/-- A row of A of an MMG: its codes and block scales; the empty index gives zeros with unit scales. -/
def State.mmgLane (s : State) (f : MmgForm) (sh : Shape) (r : Option (List (Option ElemAt))) :
    List Nat × List (Option (Nat × Nat)) :=
  match r with
  | none => (List.replicate (mmaK f.src false) (zeroCode f.src),
      if f.src.isBlock then List.replicate (mmaK f.src false / f.src.blockSize) (some (unitScale f.src)) else [])
  | some es => s.mmgCodes sh es

/-- The places of the rows of A of an MMG. -/
def mmgPlaces (sh : Shape) (rows : List (Option (List (Option ElemAt)))) : List (Loc × Nat) :=
  rows.flatMap fun r => (r.getD []).flatMap fun e => (e.map fun e => e.places sh.fmt).getD []

/-- The home sectors that an MMG reads: those of its record and of its rows. -/
def State.mmgReads (s : State) (f : MmgForm) (sh : Shape) (rows : List (Option (List (Option ElemAt)))) : List Nat :=
  let rec_ := match s.translate s.die s.cur.ctx (s.image (.c f.ent)).toNat .rd with
    | .ok (.device, pa) => [pa / 32, pa / 32 + 1]
    | _ => []
  rec_ ++ locSectors (mmgPlaces sh rows)

/-- MMG (14 R284). -/
def execMmg (f : MmgForm) (s : State) : Host.Outcome State Fault Refusal :=
  s.finish do
    let k := mmaK f.src false
    s.mmaChecks f.asMma (s.regOk f.a.toNat) (s.tagIn (fun t => t == .idx32 || t == .b64) (.v f.a))
    s.noTx 2
    need (s.over s.cur s.who .stores) (.wait .stores)
    let sh ← s.readShape (s.image (.c f.ent)) (· == f.src)
    let rows ← s.mmgRows sh k f.a
    s.locsFree (mmgPlaces sh rows)
    let codes := rows.map (s.mmgLane f sh)
    .error (.park .rendezvous (some { s.arrival f.asMma (codes.map (·.1)) (codes.map (·.2)) with read := s.mmgReads f sh rows }))

/-! The rendezvous (14 R281 to R283). -/

/-- A wave waits at its rendezvous, which has not completed, and no trap of it is to be taken first (19 R372). -/
def Wave.arrived (w : Wave) : Bool := w.stage == .running && w.due.isNone && match w.arrival with
  | some a => a.started.isNone
  | none => false

/-- The waves of a rendezvous, when all have arrived: the four of a quad, or the eight of a pair when all of them name
.pair. -/
def State.rendezvous (s : State) (w : Wave) : Option (List Wave) :=
  let q := w.waveNo.toNat / 4
  let pairs (ws : List Wave) : Bool := ws.all fun x => match x.arrival with
    | some a => a.pair
    | none => false
  let here := s.quadWaves w.team q
  if here.length ≠ 4 || !here.all Wave.arrived then none
  else if !pairs here then some here
  else
    let there := s.quadWaves w.team (Nat.xor q 4)
    if there.length ≠ 4 || !there.all Wave.arrived || !pairs there then none
    else some (if q < 4 then here ++ there else there ++ here)

/-- The thread of a wave that waits at the rendezvous. -/
def Wave.rendezvousThread (w : Wave) : Option Who :=
  (w.threads.find? fun (_, t) => t.park == .rendezvous).map (·.1)

/-- The thread at the rendezvous goes on after its MMA (14 R283). -/
def State.leaveMma (s : State) (w : Nat) : State :=
  match s.wave? w with
  | none => s
  | some x => match x.rendezvousThread with
    | none => s
    | some who =>
      let t := ((x.thread who).resume s.cycle.toNat).pass
      s.setWave ({ x with arrival := none, prog := 0 }.setThread who t)

/-- A wave at a rendezvous that fails raises 0x09 at its MMA (14 R281). -/
def State.mmaMismatch (s : State) (w : Nat) : State :=
  match s.wave? w with
  | none => s
  | some x => match x.rendezvousThread with
    | none => s
    | some who =>
      let t := (x.thread who).resume s.cycle.toNat
      let s := (s.setWave ({ x with arrival := none }.setThread who t)).select w who
      s.raise ⟨t.pc.pkt, t.slot⟩ (Trap.of 9)

/-- The B columns of a tile of the operation, by column of the result, with their scales (14 R278, R282). -/
def opColumns (as : List Arrival) (j : Nat) : List (List (Option Nat) × List (Option (Nat × Nat))) :=
  (List.range 128).map fun c =>
    let half (h : Nat) := match as[4 * h + c / 32]? with
      | some a => ((a.cols.getD j []).getD (c % 32) [], (a.colScales.getD j []).getD (c % 32) [])
      | none => ([], [])
    ((half 0).1 ++ (half 1).1, (half 0).2 ++ (half 1).2)

/-- The sums of one tile for the rows of one wave (14 R282). -/
def tileSums (a : Arrival) (cols : List (List (Option Nat) × List (Option (Nat × Nat)))) :
    List (List (List (W32 × BitVec 5))) :=
  let n := mmaChunk a.aFmt
  let cs := cols.map fun (c, sc) => (chunksOf n c, sc.map (scaleNum a.aFmt))
  (a.rows.zip (a.rowScales ++ List.replicate 32 [])).map fun (r, rs) =>
    let rc := chunksOf n r
    let rsc := rs.map (scaleNum a.aFmt)
    cs.map fun (cc, csc) => (List.range rc.length).map fun k =>
      chunkValue a.aFmt a.bFmt a.fmt a.sp (rc.getD k []) (cc.getD k []) rsc[k]? csc[k]?

/-- The operation begins in a wave: its debit, its shadows, and the tiles that are to be computed (14 R282). -/
def State.beginMma (s : State) (as : List Arrival) (mma : Nat) (w : Nat) : State :=
  match s.wave? w with
  | none => s
  | some x => match x.arrival, x.rendezvousThread with
    | some a, some who =>
      let s := if a.prog = 0 then (s.setWave (s.debited x a.ecls)).count 4 a.ecls else s
      let s := s.select w who
      let from_ (k : Nat) : Option Nat := a.acc.map fun c => s.placeOf (c + k)
      let froms := (List.range a.span).map from_
      let s := s.shadow ((List.range a.span).map (a.d + ·))
      let s := (List.range (a.span - a.prog)).foldl (fun s i =>
        let j := a.prog + i
        s.addOp (.acc mma j (s.placeOf (a.d + j)) (froms.getD j none) a.fmt (tileSums a (opColumns as j)))
          s.cur.openBatch) s
      { s with cur := { s.cur with arrival := some { a with started := some a.prog } } }
    | _, _ => s

/-- MMA_RENDEZVOUS (14 R281, R282). -/
def execMmaRendezvous (w : Nat) (s : State) : Host.Outcome State Fault Refusal :=
  match s.wave? w with
  | none => s.event
  | some x => match s.rendezvous x with
    | none => s.event
    | some ws =>
      if ws.any fun y => s.spent y || !s.engineRuns y.ctx then s.event
      else
        let as := ws.filterMap (·.arrival)
        let same := as.all fun a => a.template == (x.arrival.map (·.template)).getD 0 &&
          a.prog == (x.arrival.map (·.prog)).getD 0
        if !same then (ws.foldl (fun s y => s.mmaMismatch y.id) s).event
        else
          let t := ws.foldl (fun t y => t.beginMma as s.nextId y.id) { s with nextId := s.nextId + 1 }
          let last := as.all fun a => decide (a.span ≤ a.prog + 1)
          let t := if last then ws.foldl (fun t y => t.leaveMma y.id) t else t
          (ws.foldl (fun t y => t.opsChanged y.id) t).event

/-- The operation and tile that the arrays work on for a wave. -/
def Wave.accOp (w : Wave) : Option (Nat × Nat) :=
  w.ops.findSome? fun o => match o.op with
    | .acc m j _ _ _ _ => some (m, j)
    | _ => none

/-- The outstanding tile `j` of operation `m`, if no earlier operation of the wave holds it up. -/
def Wave.accReady (w : Wave) (m j : Nat) : Option Outstanding :=
  (readyFrom [] w.ops).find? fun o => match o.op with
    | .acc n k _ _ _ _ => n == m && k == j
    | _ => false

/-- A wave with a tile of an operation written for its rows (14 R282). -/
def Wave.writeAcc (w : Wave) (o : Outstanding) : Wave :=
  match o.op with
  | .acc _ _ d from_ tag sums =>
    let start : W32 := if tag = .i32 then 0 else 0x80000000
    let src : List (List W32) := match from_ with
      | some p => (w.tileAt p).rows
      | none => []
    let (vals, f) := splitRows (((List.range 32).zip sums).map fun (k, r) =>
      (k, ((List.range r.length).zip r).map fun (c, xs) =>
        accumulate tag (if from_.isSome then (src.getD k []).getD c 0 else start) xs))
    let t := w.setTile d ((w.tileAt d).put (some tag) vals)
    { t with ops := t.ops.filter fun x => x.id != o.id }.opFlags o.flagTo f
  | _ => w

/-- Tile `j` is written in a wave: its next tile begins, and with its last tile the wave leaves (14 R283). -/
def State.nextTile (s : State) (w j : Nat) : State :=
  match s.wave? w with
  | none => s
  | some x => match x.arrival with
    | some a =>
      if a.started ≠ some j then s
      else
        let s := s.setWave { x with prog := w64 (j + 1), arrival := some { a with started := some (j + 1) } }
        if a.span ≤ j + 2 then s.leaveMma w else s
    | none => s

/-- The wave has tile `j` of operation `m` still to be written. -/
def Wave.owesTile (w : Wave) (m j : Nat) : Bool := w.ops.any fun o => o.op.accOf == some (m, j)

/-- MMA_TILE_DONE (14 R282, R283): a tile is written in every wave of the operation at once, when nothing before it holds any of
them up. -/
def execMmaTileDone (w : Nat) (s : State) : Host.Outcome State Fault Refusal :=
  match s.wave? w with
  | none => s.event
  | some x => match x.accOp with
    | none => s.event
    | some (m, j) =>
      let ws := s.allWaves.filter fun y => y.owesTile m j
      if !s.engineRuns x.ctx || ws.any fun y => (y.accReady m j).isNone then s.event
      else
        let t := ws.foldl (fun t y => match y.accReady m j with
          | some o => t.setWave (y.writeAcc o)
          | none => t) s
        let t := ws.foldl (fun t y => t.nextTile y.id j) t
        (ws.foldl (fun t y => t.opsChanged y.id) t).event

/-! MLOAD and MSTORE (14 R285 to R287). -/

/-- Column and row origin, read by the tag as an offset is (13 R250, 14 R285). -/
def State.origin (s : State) (org : Src) : Nat × Nat :=
  let x := readByTag (s.tagOf (.u org)) (s.image org)
  (elem 32 x 0, elem 32 x 1)

/-- The indices of element κ of row ρ (14 R285). -/
def tileIndex (t : Bool) (c0 r0 row col : Nat) : List Nat := if t then [c0 + row, r0 + col] else [c0 + col, r0 + row]

/-- The active lanes from PROG on. -/
def State.lanesLeft (s : State) : List Nat := s.active.toList.filter fun l => decide (s.cur.prog.toNat ≤ l)

/-- The rows of the active lanes from PROG up to the first that faults, and that fault; none from lane `cut` on (14 R287). -/
def State.tileRows (s : State) (sh : Shape) (shared t : Bool) (nd : Need) (c0 r0 : Nat) (cut : Option Nat) :
    NMap (List (Option ElemAt)) × Option (Nat × Trap) :=
  (lanesBelow s.lanesLeft cut).foldl
    (fun (acc : NMap (List (Option ElemAt)) × Option (Nat × Trap)) l =>
      match acc.2 with
      | some _ => acc
      | none =>
        let xs := (List.range 128).map fun k => s.elementAt sh shared nd (tileIndex t c0 r0 l k)
        match worst (errorsOf xs) with
        | some (c, a) =>
          (acc.1, some (l, { Trap.of c with addr := some a, write := nd.writes, lanes := some (Mask.lane l) }))
        | none => (acc.1 ++ [(l, xs.filterMap fun x => match x with
            | .ok e => some e
            | .error _ => none)], none)) ([], none)

/-- What MLOAD and MSTORE check alike before their record is read. -/
def State.tileChecks (s : State) (tile : Nat) (ok : Bool) (rec_ org : Src) : Except Stop Unit := do
  need (s.tilesOk tile 1 && ok) illegal
  s.noSprig
  s.srcTag (baseTag .global) rec_
  s.srcTag offsetTag org

/-- MLOAD's or MSTORE's operation issued: a fault or a SAVE keeps the rows below it (14 R287), and a group that traps debits
nothing (07 R148 rule 6). -/
def State.issueRows (s t : State) (ecls : BitVec 2) (tr : Option (Nat × Trap)) (cut : Option Nat) : Except Stop State :=
  let u := if tr.isNone then t.debit s.cur.resumesLong ecls.toNat else t
  s.closeLong (u.opsChanged s.cur.id) (tr.map fun (row, tr) => (w64 row, tr)) (if tr.isSome then none else cut)

/-- The record formats that MLOAD reads into a tile (14 R285). -/
def mloadFmt (fmt src : Fmt) : Bool :=
  match src with
  | .f32 | .bf16 | .f16 | .e4m3 | .e5m2 | .mxfp4 | .nib4 => fmt == .f32
  | .i8 | .n8 | .i16 | .n16 | .i32 => fmt == .i32
  | _ => false

/-- MLOAD's operation; the tile takes the format where every row is issued. -/
def State.issueLoad (s : State) (f : MloadForm) (src : Fmt) (nan : Bool) (rows : NMap (List (Option ElemAt))) (whole : Bool) : State :=
  let t := s.shadow [f.d.toNat]
  t.addOp (.load (t.placeOf f.d.toNat) (if whole then some f.fmt else none) src f.fmt nan rows) t.cur.openBatch

/-- The places that rows of elements reach. -/
def rowPlaces (sh : Shape) (rows : NMap (List (Option ElemAt))) : List (Loc × Nat) :=
  rows.flatMap fun (_, es) => es.flatMap fun e => (e.map fun e => e.places sh.fmt).getD []

/-- MLOAD (14 R285, R287). -/
def execMload (f : MloadForm) (s : State) : Host.Outcome State Fault Refusal :=
  s.finish do
    let d := f.d.toNat
    s.tileChecks d (s.shadowsOk [d]) f.rec_ f.org
    s.noTx 2
    need s.inkFree (.wait .inkwell)
    if s.active = 0 then s.issueRows (s.issueLoad f f.fmt false [] true) f.ecls none none
    else
      let sh ← s.readShape (s.image f.rec_) (mloadFmt f.fmt)
      let (c0, r0) := s.origin f.org
      let cut := s.shortAt s.lanesLeft
      let (rows, tr) := s.tileRows sh f.shared f.t .rd c0 r0 cut
      s.locsFree (rowPlaces sh rows)
      let s := s.recordTouch (s.image f.rec_)
      let t := if rows.isEmpty && tr.isSome then s else s.issueLoad f sh.fmt sh.nanOob rows (tr.isNone && cut.isNone)
      s.issueRows t f.ecls tr cut

/-- MSTORE (14 R286, R287). -/
def execMstore (f : MstoreForm) (s : State) : Host.Outcome State Fault Refusal :=
  s.finish do
    let a := f.m.toNat
    s.tileChecks a true f.rec_ f.org
    let tag := s.cur.tagAt (s.placeOf a)
    need (tag == f.src) (tagFault tag)
    s.noRunAhead
    s.noTx 2
    need s.inkFree (.wait .inkwell)
    if s.active = 0 then s.issueRows s f.ecls none none
    else
      let sh ← s.readShape (s.image f.rec_) (· == f.fmt)
      let (c0, r0) := s.origin f.org
      need (f.fmt != .mxfp4 || c0 % 32 == 0) (faultAt 3 (s.image f.rec_))
      let cut := s.shortAt s.lanesLeft
      let (rows, tr) := s.tileRows sh f.shared f.t .wr c0 r0 cut
      s.locsFree (rowPlaces sh rows)
      let s := s.recordTouch (s.image f.rec_)
      let t := if rows.isEmpty then s
        else s.addOp (.store a f.src f.fmt f.rnd f.sat s.sys.pts rows) s.cur.openBatch
      s.issueRows t f.ecls tr cut

/-! MMOVE (14 R288). -/

/-- The source tiles of MMOVE carry the format. -/
def State.tileTags (s : State) (fmt : Fmt) (ts : List Nat) : Except Stop Unit :=
  match (ts.map fun t => s.cur.tagAt (s.placeOf t)).find? (· != fmt) with
  | some t => .error (tagFault t)
  | none => .ok ()

/-- The tag of the register that a fill reads. -/
def State.fillTag (s : State) (f : MmoveForm) : Except Stop Unit :=
  match f.op with
  | .fill a => s.srcTag (fun t => t == f.fmt || t == .b64) a
  | _ => .ok ()

/-- The value of a fill. -/
def State.fillValue (s : State) (f : MmoveForm) : W32 :=
  match f.op with
  | .fill a => BitVec.ofNat 32 (s.value f.fmt a)
  | _ => 0

/-- MMOVE's operation, for the active rows; the destination takes its tag whatever they are. -/
def State.issueMove (s : State) (f : MmoveForm) : State :=
  let from_ := f.op.tiles.map s.placeOf
  let t := s.shadow [f.d.toNat]
  t.addOp (.move (t.placeOf f.d.toNat) f.fmt f.op (from_.getD 0 0) (from_.getD 1 0) (s.fillValue f) s.active) t.cur.openBatch

/-- MMOVE (14 R288). -/
def execMmove (f : MmoveForm) (s : State) : Host.Outcome State Fault Refusal :=
  s.finish do
    let d := f.d.toNat
    let ts := f.op.tiles
    need (s.tilesOk d 1 && ts.all (fun t => s.tilesOk t 1) && s.shadowsOk [d]) illegal
    s.noSprig
    s.fillTag f
    s.tileTags f.fmt ts
    need s.inkFree (.wait .inkwell)
    .ok (((s.issueMove f).debit false f.ecls.toNat).opsChanged s.cur.id)

/-! Batches (14 R289). -/

/-- MBATCH (14 R289). -/
def execMbatch (d : BitVec 6) (s : State) : Host.Outcome State Fault Refusal :=
  s.finish do
    s.noSprig
    need (s.over s.cur s.who .mbatch) (.wait .mbatch)
    let n := s.cur.openBatch
    let t := { s with cur := { s.cur with batch := n, closed := s.cur.closed ++ [n] } }
    .ok ((t.opsChanged s.cur.id).deferS d .n64 n)

/-- MWAIT (14 R289). -/
def execMwait (n : Src) (s : State) : Host.Outcome State Fault Refusal :=
  s.finish do
    s.noSprig
    s.srcTag countTag n
    let k := s.value .n64 n
    need (decide (k ≤ 15)) illegal
    need (s.over s.cur s.who (.mwait k)) (.wait (.mwait k))
    .ok s

/-! Run-ahead (14 R292 to R294). -/

/-- PENCIL and INK stand in one split of a wave with no sprig out. -/
def State.alone (s : State) : Except Stop Unit := do
  s.noSprig
  need (decide (s.cur.splits.length ≤ 1) && s.cur.joins == 0) convergence

/-- PENCIL (14 R292, 19 R367). -/
def execPencil (hold : Bool) (off : BitVec 16) (s : State) : Host.Outcome State Fault Refusal :=
  s.finish do
    s.noSprig
    need (s.cur.runAhead.isNone && !s.inHandler && decide (0 < s.cur.foot.pencils)) illegal
    s.alone
    s.noTx 2
    .ok { s with cur := { s.cur with runAhead := some ⟨hold, s.offsetTarget off, 0⟩ } }

/-- The shadows of run-ahead become their tile registers (14 R294). -/
def State.commitShadows (s : State) : State :=
  ((List.range s.cur.pencils.length).zip s.cur.pencils).foldl (fun s (k, p) => match p.shadows with
    | some t => s.addOp (.copy (8 + k) t) 0
    | none => s) s

/-- A wave whose run-ahead closes: its shadows are gone, and what was held apart goes where `to` says. -/
def Wave.closeAhead (w : Wave) (dest : FlagTo) : Wave :=
  { w with
    runAhead := none
    pencils := w.pencils.map fun p => { p with shadows := none }
    ops := w.ops.map fun o => if o.flagTo = .held then { o with flagTo := dest } else o
    pending := w.pending.map fun p =>
      if p.ahead then { p with ahead := false, flags := if dest = .drop then 0 else p.flags } else p }

/-- INK (14 R294). -/
def execInk (a : Src) (s : State) : Host.Outcome State Fault Refusal :=
  s.finish do
    s.noSprig
    match s.cur.runAhead with
    | none => .error illegal
    | some r =>
      need (!s.inHandler) illegal
      s.alone
      s.srcTag (fun t => countTag t || t == .mask || t == .addr) a
      if s.image a ≠ 0 then
        let t := s.commitShadows
        let t := { t with cur := t.cur.closeAhead .wave }
        .ok ((t.raiseFlags r.flags).opsChanged s.cur.id)
      else
        let t := { s with cur := s.cur.closeAhead .drop }
        .ok (t.go r.alt)

end Sys2Proof.Machine
end

