-- ==== Sys2Proof/Machine/Copy.lean ====
section
/-! DEFINITION. The copy channels: COPY, CHWAIT and what a channel moves (13 R267 to R272); and KVX (13 R273, R274). -/

namespace Sys2Proof

/-- A stage of the transform chain, by number (13 R267). -/
def CopyForm.stage (f : CopyForm) (n : Nat) : Nat := f.chain.toNat / 16 ^ n % 16

/-- Whether the chain has a stage of a kind. -/
def CopyForm.hasStage (f : CopyForm) (k : Nat) : Bool := (List.range 4).any fun n => f.stage n == k

/-- The COPY writes registers (13 R272). -/
def CopyForm.toRegs (f : CopyForm) : Bool :=
  match f.dst with
  | .regs _ => true
  | _ => false

/-- The COPY writes shared memory. -/
def CopyForm.toShared (f : CopyForm) : Bool :=
  match f.dst with
  | .shared _ => true
  | _ => false

end Sys2Proof

namespace Sys2Proof.Machine

/-! The units of a COPY (13 R268, R269, R272): the 8-byte words of its destination, or whole blocks where it quantizes. -/

/-- The extent of a dimension. -/
def Shape.dim (sh : Shape) (k : Nat) : Nat := sh.dims.getD k 1

/-- The rows of a tensor. -/
def Shape.rows (sh : Shape) : Nat := sh.dim 1 * sh.dim 2 * sh.dim 3

/-- The bytes of a row. -/
def Shape.rowBytes (sh : Shape) : Nat := (sh.dim 0 * sh.fmt.width + 7) / 8

/-- The destination bytes of a COPY to memory, or to registers (13 R269, R272). -/
def copyBytes (regs : Bool) (dst : Shape) : Nat :=
  if regs then (dst.dim 0 * dst.rows * dst.fmt.width + 7) / 8 else dst.rows * dst.rowBytes

/-- The elements of a unit. -/
def CopyJob.per (j : CopyJob) : Nat := if j.form.hasStage 4 then j.dst.fmt.blockSize else 64 / j.dst.fmt.width

/-- The units of a row. -/
def CopyJob.perRow (j : CopyJob) : Nat := (j.dst.dim 0 + j.per - 1) / j.per

/-- The number of units. -/
def CopyJob.units (j : CopyJob) : Nat :=
  if j.form.toRegs then (j.bytes + 7) / 8 else j.dst.rows * j.perRow

/-- The destination bytes of the first `n` units. -/
def CopyJob.bytesAt (j : CopyJob) (n : Nat) : Nat :=
  if j.form.toRegs then Nat.min (8 * n) j.bytes
  else n / j.perRow * j.dst.rowBytes + Nat.min (n % j.perRow * (j.per * j.dst.fmt.width / 8)) j.dst.rowBytes

/-- The index that an element has in its tensor, from its column and the number of its row. -/
def Shape.index (sh : Shape) (i0 row : Nat) : List Nat := [i0, row % sh.dim 1, row / sh.dim 1 % sh.dim 2, row / sh.dim 1 / sh.dim 2]

/-- The destination indices of the elements of unit `n`, i0 fastest (13 R268). -/
def CopyJob.indices (j : CopyJob) (n : Nat) : List (List Nat) :=
  if j.form.toRegs then
    (List.range j.per).filterMap fun e =>
      let k := n * j.per + e
      if k < j.dst.dim 0 * j.dst.rows then some (j.dst.index (k % j.dst.dim 0) (k / j.dst.dim 0)) else none
  else
    (List.range j.per).filterMap fun e =>
      let i0 := n % j.perRow * j.per + e
      if i0 < j.dst.dim 0 then some (j.dst.index i0 (n / j.perRow)) else none

/-- The source index of a destination index (13 R268). -/
def CopyJob.sourceIndex (j : CopyJob) (ix : List Nat) : List Nat :=
  if j.form.hasStage 2 then [ix.getD 1 0, ix.getD 0 0, ix.getD 2 0, ix.getD 3 0] else ix

/-! The transform chain (13 R268). -/

/-- An element on its way through the chain: its code and the codes of its scales. -/
abbrev Moved := Nat × (Nat × Nat)

/-- What a source element outside the extents reads as (02 R53, R421). -/
def oobMoved (f : Fmt) (nan : Bool) : Moved :=
  if f.isBlock then (zeroCode f, if nan then (if f = .mxfp4 then (255, 0) else (0, 0)) else unitScale f)
  else (oobCode f nan, (0, 0))

/-- One stage over the elements of a unit; `sup` is the superblock scale of the destination. -/
def copyStage (f : CopyForm) (sup : Nat) (stage : Nat) (x : Fmt × List Moved) : Fmt × List Moved :=
  match stage with
  | 1 => (f.fmt, x.2.map fun m => ((convElem x.1 f.fmt f.rnd f.sat m.1).1, m.2))
  | 3 => (.f32, x.2.map fun m => ((toF32 x.1 m.2 m.1).1, m.2))
  | 4 =>
    let (q, cs, _) := if f.fmt = .mxfp4 then mxQuant (x.2.map fun m => numOf .f32 m.1)
      else nib4Quant .f32 sup (x.2.map (·.1))
    (f.fmt, cs.map fun c => (c, (q, sup)))
  | _ => x

/-- The chain over the elements of a unit. -/
def copyChain (f : CopyForm) (sup : Nat) (xs : List Moved) : List Moved :=
  ((List.range 4).foldl (fun x n => copyStage f sup (f.stage n) x) (f.src, xs)).2

/-- The bytes that the codes of a unit make, low nibble first; `old` is what stands in the last byte. -/
def unitBytes (w : Nat) (codes : List Nat) (old : Byte) : List Byte :=
  if w = 4 then (List.range ((codes.length + 1) / 2)).map fun k =>
      BitVec.ofNat 8 (codes.getD (2 * k) 0 + 16 * codes.getD (2 * k + 1) (old.toNat / 16))
  else codes.flatMap (bytesOf (w / 8))

/-! What a channel moves (13 R269 to R272). -/

/-- A format whose elements are read as bare nibbles where no stage reads their scales (log entry 94). -/
def CopyJob.source (j : CopyJob) : Shape :=
  if j.src.fmt.isBlock && !j.form.hasStage 3 then { j.src with fmt := .e2m1 } else j.src

/-- The destination without its scales where no stage writes them (log entry 94). -/
def CopyJob.target (j : CopyJob) : Shape :=
  if j.dst.fmt.isBlock && !j.form.hasStage 4 then { j.dst with fmt := .e2m1 } else j.dst

/-- A unit read and ready to be written: the places read, the elements after the chain, and where they go: for each 16 bytes
of it the first element's place with its scales, or none for registers. -/
structure CopyUnit where
  reads : List (Loc × Nat)
  codes : List Moved
  into : List ElemAt
  deriving DecidableEq, Repr

/-- The elements of a unit that begin 16 bytes of it. -/
def unitHeads (w : Nat) (ixs : List (List Nat)) : List (List Nat) :=
  (List.range ((ixs.length * w + 127) / 128)).filterMap fun k => ixs[k * (128 / w)]?

/-- Unit `n` of a COPY of the issuing wave, or the refusal, the address and whether it was a write (03 R76). -/
def State.copyUnit (s : State) (j : CopyJob) (n : Nat) : Except (Nat × W64 × Bool) CopyUnit :=
  let ixs := j.indices n
  let src := j.source
  let xs := ixs.map fun ix => s.elementAt src j.form.fromShared .rd (j.sourceIndex ix)
  match errorsOf xs with
  | (c, a) :: _ => .error (c, a, false)
  | [] =>
    let es := xs.filterMap fun x => match x with
      | .ok e => some e
      | .error _ => none
    let heads := if j.form.toRegs then [] else unitHeads j.dst.fmt.width ixs
    let ys := heads.map fun ix => s.elementAt j.target j.form.toShared .wr ix
    match errorsOf ys with
    | (c, a) :: _ => .error (c, a, true)
    | [] =>
      let into := ys.filterMap fun y => match y with
        | .ok e => e
        | .error _ => none
      let sup := match into.head?.bind (·.super) with
        | some l => s.locNum s.cur.team l 4
        | none => 0
      let codes := es.map fun e => match e with
        | some e => (s.elemCode s.cur.team src.fmt e, s.elemScales s.cur.team e)
        | none => oobMoved j.src.fmt j.src.nanOob
      .ok { reads := es.flatMap fun e => (e.map fun e => e.places src.fmt).getD [], codes := copyChain j.form sup codes,
            into := into }

/-- Writes a word of a register of the wave (13 R272). -/
def State.copyToReg (s : State) (r lane : Nat) (bs : List Byte) : State :=
  let s := s.pushOut (.v r)
  let w := s.cur
  let old := w.file.vregs.getD r ⟨.b64, []⟩
  let new := placeBytes (old.lanes.getD lane 0) 0 bs
  { s with cur := { w with file := { w.file with vregs := w.file.vregs.set r { old with lanes := old.lanes.set lane new } } } }

/-- The bytes of a unit and what it writes at its destination. -/
def State.writeUnit (s : State) (j : CopyJob) (n : Nat) (u : CopyUnit) : State :=
  let w := j.dst.fmt.width
  let codes := u.codes.map (·.1)
  match j.form.dst, u.into with
  | .regs r, _ => s.copyToReg (r.toNat + n / 32) (n % 32) (unitBytes w codes 0)
  | _, [] => s
  | _, e :: rest =>
    let last := (rest.getLast?).getD e
    let old := ((s.locBytes s.cur.team last.loc ((codes.length * w + 7) / 8 - 16 * rest.length)).getLast?).getD 0
    let bytes := unitBytes w codes old
    let s := ((List.range u.into.length).zip u.into).foldl (fun s (k, e) =>
      s.locWrite s.cur.team e.loc ((bytes.drop (16 * k)).take 16) j.time (.wave s.cur.id)) s
    match e.scale with
    | some l => s.locWrite s.cur.team l [BitVec.ofNat 8 (((u.codes.map (·.2.1)).headD 0))] j.time (.wave s.cur.id)
    | none => s

/-- The bytes that a unit writes, for the seals and the homes. -/
def CopyUnit.writes (u : CopyUnit) (j : CopyJob) : List (Loc × Nat) :=
  let bytes := (u.codes.length * j.dst.fmt.width + 7) / 8
  ((List.range u.into.length).zip u.into).map (fun (k, e) => (e.loc, Nat.min 16 (bytes - 16 * k))) ++
    (u.into.head?.bind fun e => e.scale.map fun l => (l, 1)).toList

/-- A channel after another unit of its first COPY: the pointer may stay behind, but not beyond the end of a COPY. -/
def Chan.advance (c : Chan) (fresh : Nat) : Chan :=
  match c.jobs with
  | [] => c
  | j :: rest =>
    let k := j.done + 1
    if j.units ≤ k then { wp := j.until_, jobs := rest }
    else { wp := if Config.pointerLags fresh then c.wp else j.from_ + w64 (j.bytesAt k), jobs := { j with done := k } :: rest }

/-- Threads that AWAIT.chan holds on a channel are looked at (18 R353). -/
def State.chanMoved (s : State) (w ch : Nat) : State :=
  match s.wave? w with
  | none => s
  | some x =>
    let s := x.threads.foldl (fun s (who, t) => match t.park with
      | .await (.chan n _) => if n = ch then s.postOnce (.awaitWake w who) else s
      | _ => s) s
    let s := match x.chans[ch]? with
      | some c => if c.jobs.isEmpty then s else s.postOnce (.copyProgress w ch)
      | none => s
    s.resultsChanged w

/-- COPY_PROGRESS (13 R269): the next unit of a channel. A refusal freezes the context (03 R76). -/
def execCopyProgress (w ch : Nat) (s : State) : Host.Outcome State Fault Refusal :=
  match s.wave? w with
  | none => s.event
  | some x => match (x.chans[ch]?).bind fun c => c.jobs.head? with
    | none => s.event
    | some j =>
      if !s.engineRuns x.ctx then s.event
      else
        let t := s.select w (.split 0)
        let step (t : State) : State :=
          { t with cur := { t.cur with chans := t.cur.chans.modify ch fun c => c.advance s.fresh } }.chanMoved w ch
        if j.units ≤ j.done then (step t).event
        else match t.copyUnit j j.done with
          | .error (c, a, wr) =>
            ((t.heldAway c (.copyProgress w ch)).getD (t.freeze x.ctx x.cluster 1 wr a.toNat)).event
          | .ok u =>
            match t.heldIO (locSectors u.reads) (locSectors (u.writes j)) (.wave w) (.copyProgress w ch) with
            | some h => h.event
            | none => (step ((t.engineTouch u.reads (u.writes j)).writeUnit j j.done u)).event

/-! COPY and CHWAIT (13 R267, R271). -/

/-- The destination's shape: its record, or for registers the source's elements at the destination's format (13 R272). -/
def State.copyTarget (s : State) (f : CopyForm) (src : Shape) : Except Stop Shape :=
  match f.dst with
  | .global r => s.readShape (s.image r) (· == f.fmt)
  | .shared r => s.readShape (s.image r) (· == f.fmt)
  | .regs _ =>
    let swap := f.hasStage 2
    let d0 := src.dim (if swap then 1 else 0)
    let d1 := src.dim (if swap then 0 else 1)
    .ok { src with fmt := f.fmt, dims := [d0, d1, src.dim 2, src.dim 3] }

/-- The registers that a COPY writes lie within the footprint (13 R272). -/
def State.copyRegs (s : State) (f : CopyForm) (bytes : Nat) : Bool :=
  match f.dst with
  | .regs r => decide (bytes ≤ 2048) && s.regsOk r.toNat ((bytes + 255) / 256)
  | _ => true

/-- The registers of a COPY take its format at issue (13 R272). -/
def State.copyTags (s : State) (f : CopyForm) (bytes : Nat) : State :=
  match f.dst with
  | .regs r => (List.range ((bytes + 255) / 256)).foldl (fun s k => s.setTag (.v (r.toNat + k)) f.fmt) s
  | _ => s

/-- The tag of the word that names the destination's record. -/
def State.copyDstTag (s : State) (f : CopyForm) : Except Stop Unit :=
  match f.dst with
  | .global r => s.srcTag (baseTag .global) r
  | .shared r => s.srcTag (baseTag .global) r
  | .regs _ => .ok ()

/-- Where the write pointer of a channel will stand once its COPYs are done (13 R269). -/
def State.chanEnd (s : State) (ch : Nat) : W64 :=
  let c := s.cur.chans.getD ch ⟨0, []⟩
  (c.jobs.getLast?.map (·.until_)).getD c.wp

/-- A COPY joins its channel. -/
def State.queueCopy (s : State) (ch : Nat) (job : CopyJob) : State :=
  let c := s.cur.chans.getD ch ⟨0, []⟩
  { s with cur := { s.cur with chans := s.cur.chans.set ch { c with jobs := c.jobs ++ [job] } } }

/-- The address of the record that a COPY reads last: its destination's, where it has one. -/
def State.copyRecord (s : State) (f : CopyForm) : W64 :=
  match f.dst with
  | .global r => s.image r
  | .shared r => s.image r
  | .regs _ => s.image f.srec

/-- COPY (13 R267 to R269). -/
def execCopy (f : CopyForm) (s : State) : Host.Outcome State Fault Refusal :=
  s.finish do
    let ch := f.ch.toNat
    need (decide (ch < s.cur.foot.chans) && s.copyRegs f 0) illegal
    s.noSprig
    s.srcTag (baseTag .global) f.srec
    s.copyDstTag f
    s.noRunAhead
    s.noTx 2
    need (s.over s.cur s.who (.copyFull ch)) (.wait (.copyFull ch))
    let src ← s.readShape (s.image f.srec) (· == f.src)
    let dst ← s.copyTarget f src
    let bytes := copyBytes f.toRegs dst
    need (s.copyRegs f bytes) illegal
    let from_ := s.chanEnd ch
    let s := (s.recordTouch (s.image f.srec)).recordTouch (s.copyRecord f)
    let t := s.queueCopy ch ⟨f, src, dst, 0, from_, from_ + w64 bytes, s.sys.pts⟩
    .ok (((t.copyTags f bytes).postOnce (.copyProgress s.cur.id ch)).deferS f.d .n64 (from_ + w64 bytes))

/-- CHWAIT (13 R271); the channel and the target are whole images (log entry 92). -/
def execChwait (f : ChwaitForm) (s : State) : Host.Outcome State Fault Refusal :=
  s.finish do
    let ch := s.value .n64 f.ch
    need (decide (ch < Nat.min 8 s.cur.foot.chans)) illegal
    s.noSprig
    s.srcTag countTag f.ch
    s.srcTag countTag f.v
    need (f.try_ || s.over s.cur s.who (.chwait ch (s.image f.v))) (.wait (.chwait ch (s.image f.v)))
    let t := if wideScope f.scope then s.setSys (s.sys.acquire s.gt) else s
    .ok (t.deferS f.d .n64 (s.cur.chans.getD ch ⟨0, []⟩).wp)

/-! KVX (13 R273, R274). -/

/-- The descriptor's fields lie in their ranges (13 R273). -/
def kvxFields (ws : List W64) : Bool :=
  let g := wordsField ws
  let dir := g 0 1
  let peer := g 1 1
  decide (dir ≤ 2) && (if dir = 0 then peer == 0 else decide (1 ≤ peer) && decide (peer ≤ 13)) &&
    decide (12 ≤ g 2 1) && decide (g 2 1 ≤ 21) && g 3 1 == 0 && decide (1 ≤ g 4 4) && decide (g 4 4 ≤ 4096) &&
    decide (g 0x20 8 < 2 ^ 63) && (List.range 3).all fun k => g (0x28 + 8 * k) 8 == 0

/-- A misaligned list or DONE (13 R274). -/
def kvxMisaligned (ws : List W64) : Option W64 :=
  ([8, 0x10, 0x18].map fun o => w64 (wordsField ws o 8)).find? fun a => a.toNat % 8 ≠ 0

/-- The transfer that a descriptor asks for. -/
def State.kvxJob (s : State) (ws : List W64) : Kv :=
  let g := wordsField ws
  { id := s.nextId, ctx := s.cur.ctx, die := s.die, cluster := s.cur.cluster, time := s.sys.pts, dir := g 0 1, peer := g 1 1,
    pshift := g 2 1, npages := g 4 4, srclist := w64 (g 8 8), dstlist := w64 (g 0x10 8), done := w64 (g 0x18 8),
    doneval := w64 (g 0x20 8), left := List.range (g 4 4) }

/-- KVX (13 R274; the descriptor's tags: log entry 92). -/
def execKvx (_ : Scope) (d : BitVec 6) (desc : Src) (s : State) : Host.Outcome State Fault Refusal :=
  s.finish do
    s.noSprig
    s.srcTag (baseTag .global) desc
    s.noRunAhead
    s.noTx 2
    let a := s.image desc
    need (a.extractLsb' 0 6 == 0) (faultAt 3 a)
    let (ws, t) ← s.loadWords a.toNat 8
    need (kvxFields ws) illegal
    match kvxMisaligned ws with
    | some x => .error (faultAt 3 x)
    | none =>
      if 64 ≤ (s.kvs.filter fun k => k.ctx == s.cur.ctx && k.die == s.die).length then .ok (t.deferS d .n64 1)
      else
        let j := t.kvxJob ws
        let t := { t with kvs := t.kvs ++ [j], nextId := t.nextId + 1 }.post (.kvxComplete j.id .done)
        .ok (t.deferS d .n64 0)

/-- An entry of a page list, read on path K. -/
def State.kvxAddr (s : State) (k : Kv) (list_ : W64) (n : Nat) : Except (Nat × Nat × Bool) Nat :=
  let a := list_.toNat + 8 * n
  match s.globalRead k.die k.ctx a 8 .rd with
  | .error c => .error (c, a, false)
  | .ok bs =>
    let p := ofBytes bs
    if p % 2 ^ k.pshift ≠ 0 then .error (3, p, false) else .ok p

/-- How moving 4 KiB of a page ends: done, with what it read, refused by the peer, or poisoned. -/
inductive Chunk where
  | data (bytes : List Byte)
  | peerRefused
  | poisoned
  deriving DecidableEq, Repr

/-- 4 KiB of a source page (13 R273, 20 R382). -/
def State.kvxRead (s : State) (k : Kv) (a : Nat) : Except (Nat × Nat × Bool) Chunk :=
  if k.dir = 2 then
    .ok (if Config.peerGrants k.peer a then .data ((NMap.getD s.peerMem k.peer []).gets a 4096) else .peerRefused)
  else match s.translate k.die k.ctx a .rd with
    | .error c => .error (c, a, false)
    | .ok (t, pa) => match s.physRead t pa 4096 with
      | .error _ => .ok .poisoned
      | .ok bs => .ok (.data bs)

/-- 4 KiB written at a destination page; none where the peer refuses it. -/
def State.kvxWrite (s : State) (k : Kv) (a : Nat) (bs : List Byte) : Except (Nat × Nat × Bool) (Option State) :=
  if k.dir = 1 then
    .ok (if Config.peerGrants k.peer a then some (s.physWrite (.peer k.peer) a bs k.time (.die k.die)) else none)
  else match s.globalWrite k.die k.ctx a bs k.time (.die k.die) with
    | .error c => .error (c, a, true)
    | .ok t => match s.translate k.die k.ctx a .wr with
      | .ok (.device, pa) => .ok (some (t.forgetRange k.cluster pa bs.length))
      | _ => .ok (some t)

/-- The bytes at a destination page as they stand. -/
def State.kvxOld (s : State) (k : Kv) (a : Nat) : List Byte :=
  if k.dir = 1 then (NMap.getD s.peerMem k.peer []).gets a 4096
  else match s.globalRead k.die k.ctx a 4096 .rd with
    | .ok bs => bs
    | .error _ => List.replicate 4096 0

/-- A page moved, 4 KiB after 4 KiB; under `mix` only some of its bytes have come (13 R274). The code says how it ended:
0 well, 1 refused by the peer, 3 poisoned. -/
def State.kvxMove (s : State) (k : Kv) (mix : Bool) (src dst : Nat) : (fuel : Nat) → Except (Nat × Nat × Bool) (State × Nat)
  | 0 => .ok (s, 0)
  | n + 1 =>
    let off := (2 ^ (k.pshift - 12) - (n + 1)) * 4096
    match s.kvxRead k (src + off) with
    | .error e => .error e
    | .ok .peerRefused => .ok (s, 1)
    | .ok .poisoned => .ok (s, 3)
    | .ok (.data bs) =>
      let bs := if mix then
          ((List.range 4096).zip (bs.zip (s.kvxOld k (dst + off)))).map fun (i, x, y) =>
            if Config.failedNew s.fresh (dst + off + i) then x else y
        else bs
      match s.kvxWrite k (dst + off) bs with
      | .error e => .error e
      | .ok none => .ok (s, 1)
      | .ok (some t) => t.kvxMove k mix src dst n

/-- Page `n` of a transfer. -/
def State.kvxPage (s : State) (k : Kv) (mix : Bool) (n : Nat) : Except (Nat × Nat × Bool) (State × Nat) :=
  match s.kvxAddr k k.srclist n with
  | .error e => .error e
  | .ok src => match s.kvxAddr k k.dstlist n with
    | .error e => .error e
    | .ok dst => s.kvxMove k mix src dst (2 ^ (k.pshift - 12))

/-- A transfer ends: it leaves the queue, and its completion word is written (13 R274). -/
def State.kvxEnd (s : State) (k : Kv) (v : W64) : State :=
  let s := { s with kvs := s.kvs.filter fun x => x.id != k.id }
  if k.done = 0 then s
  else match s.globalWrite k.die k.ctx k.done.toNat (bytesOf 8 v.toNat) k.time (.die k.die) with
    | .ok t => t
    | .error _ => s.freeze k.ctx 0xFF 4 true k.done.toNat

/-- The sectors of device memory that a range of a context within pages of 4 KiB reaches. -/
def State.rangeSectors (s : State) (die ctx va n : Nat) (nd : Need) : List Nat :=
  (List.range ((va + n + 4095) / 4096 - va / 4096)).flatMap fun i =>
    let lo := Nat.max va ((va / 4096 + i) * 4096)
    match s.translate die ctx lo nd with
    | .ok (.device, pa) => sectorsOf pa (Nat.min (va + n) ((va / 4096 + i + 1) * 4096) - lo)
    | _ => []

/-- A sector that must be waited for before a range can be translated (17 R334). -/
def State.rangeAway (s : State) (die ctx va n : Nat) (nd : Need) : Option Nat :=
  (List.range ((va + n + 4095) / 4096 - va / 4096)).findSome? fun i =>
    match s.translate die ctx (Nat.max va ((va / 4096 + i) * 4096)) nd with
    | .error c => awaySector c
    | .ok _ => none

/-- The sectors of device memory that a page of a transfer reads, its lists among them, and those that it writes. -/
def State.kvxSectors (s : State) (k : Kv) (n : Nat) : List Nat × List Nat :=
  let page (own : Bool) (list_ : W64) (nd : Need) : List Nat :=
    if !own then []
    else match s.kvxAddr k list_ n with
      | .error _ => []
      | .ok a => s.rangeSectors k.die k.ctx a (2 ^ k.pshift) nd
  let entry (list_ : W64) : List Nat := s.rangeSectors k.die k.ctx (list_.toNat + 8 * n) 8 .rd
  (entry k.srclist ++ entry k.dstlist ++ page (k.dir != 2) k.srclist .rd, page (k.dir != 1) k.dstlist .wr)

/-- A transfer that fails: some bytes of the pages left have come (13 R274), none of a page that it would have to wait for. Its
completion word comes next. -/
def State.kvxFail (s : State) (k : Kv) (code : Nat) : State :=
  let s := k.left.foldl (fun s n =>
    let (rs, ws) := s.kvxSectors k n
    if (rs ++ ws).any s.sectorAway || ws.any fun x => s.mustTell x (.die k.die) != 0 then s
    else match s.kvxPage k true n with
      | .ok (t, _) => t
      | .error _ => s) s
  let ended (x : Kv) : Kv := if x.id = k.id then { x with left := [], doneval := w64 (2 ^ 63 + code) } else x
  { s with kvs := s.kvs.map ended }.post (.kvxComplete k.id .done)

/-- A page of a transfer has been moved, or is refused, or has failed with a code. -/
def State.pageMoved (s : State) (id : Nat) (e : FabricEnd) (k : Kv) (n : Nat) (r : Except (Nat × Nat × Bool) (State × Nat)) :
    Host.Outcome State Fault Refusal :=
  match r with
  | .error (c, a, wr) => ((s.heldAway c (.kvxComplete id e)).getD (s.freeze k.ctx 0xFF 4 wr a)).event
  | .ok (t, 0) =>
    let kvs := t.kvs.map fun x => if x.id = id then { x with left := x.left.filter (· != n) } else x
    ({ t with kvs := kvs }.post (.kvxComplete id e)).event
  | .ok (t, code) => (t.kvxFail k code).event

/-- A page of a transfer is moved once its sectors are free. -/
def State.movePage (s : State) (id : Nat) (e : FabricEnd) (k : Kv) (n : Nat) : Host.Outcome State Fault Refusal :=
  let io := s.kvxSectors k n
  match s.heldIO io.1 io.2 (.die k.die) (.kvxComplete id e) with
  | some t => t.event
  | none => s.pageMoved id e k n (((s.touchSectors io.1 false).touchSectors io.2 true).kvxPage k false n)

/-- KVX_COMPLETE (13 R274): the next page, in any order, or the end of the transfer. -/
def execKvxComplete (id : Nat) (e : FabricEnd) (s : State) : Host.Outcome State Fault Refusal :=
  match s.kvs.find? fun k => k.id == id with
  | none => s.event
  | some k =>
    if !s.engineRuns k.ctx then s.event
    else
      let lost := k.dir != 0 && (e == .linkLost || s.lostPeers.contains k.peer)
      if k.left.isEmpty then
        ((s.heldIO [] (if k.done = 0 then [] else s.rangeSectors k.die k.ctx k.done.toNat 8 .wr) (.die k.die) (.kvxComplete id e)).getD
          (s.kvxEnd k k.doneval)).event
      else if lost then (s.kvxFail k 2).event
      else if k.dir != 0 && e == .refused then (s.kvxFail k 1).event
      else if k.dir == 2 && e == .poisoned then (s.kvxFail k 3).event
      else s.movePage id e k (k.left.getD (Config.nextPage s.fresh % k.left.length) 0)

end Sys2Proof.Machine
end

