-- ==== Sys2Proof/Machine/Sync.lean ====
section
/-! DEFINITION. BAR (18 R343, R344), SIGNAL and WAITV (18 R345 to R347), the rings with QPUT and QTAKE (18 R348 to R352),
AWAIT (18 R353) and the logjam detector (18 R356). -/

namespace Sys2Proof.Machine

/-! Barriers (18 R343, R344). -/

/-- An arrival of lanes of a wave at a barrier in mode `m`, and whether it counts for the next phase; none where the phase
has another mode. -/
def Bar.arrive (b : Bar) (w : Wave) (m : Option Nat) (lanes : Mask) : Option (Bool × Bar) :=
  let b := b.mark w
  let add (xs : NMap Mask) : NMap Mask := NMap.set xs w.id (NMap.getD xs w.id 0 ||| lanes)
  if b.full.contains w.id then
    if b.nextMode.all (· == m) then some (true, { b with nextMode := some m, nextArrived := add b.nextArrived }) else none
  else if b.mode.all (· == m) then some (false, { b with mode := some m, arrived := add b.arrived }.mark w)
  else none

/-- The tag of a count that BAR names. -/
def State.barTag (s : State) (f : BarForm) : Except Stop Unit :=
  match f.cnt with
  | none => .ok ()
  | some n => s.srcTag countTag n

/-- BAR (18 R343). -/
def execBar (f : BarForm) (s : State) : Host.Outcome State Fault Refusal :=
  s.finish do
    s.barTag f
    let id := f.id.toNat
    let n := f.cnt.map fun n => (s.image n).toNat
    need (n.all fun n => decide (1 ≤ n) && decide (n ≤ 32)) illegal
    s.noTx 2
    match ((s.bars s.cur).getD id Bar.blank).arrive s.cur n s.active with
    | none => .error illegal
    | some (next, b) => do
      need (s.over s.cur s.who .accesses) (.wait .accesses)
      let t := (s.setBars ((s.bars s.cur).set id b)).postOnce (.barPhaseComplete s.cur.id id)
      .ok (if f.arrive then t else t.block (.bar id next f.scope))

/-- The waves that take part in the barriers of a wave: those of its team not yet retired, or a task alone. -/
def State.barWaves (s : State) (w : Wave) : List Nat :=
  match s.teamOf w with
  | some t => t.live
  | none => [w.id]

/-- A phase completes (18 R344): the waves that have arrived are as many as those of the team that have not retired; one that
retired after it had arrived counts among the first. -/
def Bar.complete (b : Bar) (waves : List Nat) : Bool :=
  !b.full.isEmpty && match b.mode with
    | none => false
    | some none => decide (waves.length ≤ b.full.length)
    | some (some n) => decide (n ≤ b.full.length)

/-- The barrier in its next phase, with the arrivals recorded for it: a wave that retired after it had arrived for that phase,
which is none of the waves `live`, has arrived (18 R344). -/
def Bar.advance (b : Bar) (live : List Nat) : Bar :=
  { phase := b.phase + 1, mode := b.nextMode, arrived := b.nextArrived,
    full := (b.nextArrived.map (·.1)).filter fun w => !live.contains w, nextMode := none, nextArrived := [] }

/-- A wave's threads when a phase of barrier `id` completes: those that wait in it go on with an acquire. -/
def Wave.passBar (w : Wave) (id : Nat) (gt : BitVec 16) (now : Nat) : Wave :=
  w.threads.foldl (fun w (who, t) =>
    match t.park with
    | .bar k next sc =>
      if k ≠ id then w
      else if next then w.setThread who { t with park := .bar id false sc }
      else
        let w := w.setThread who (t.resume now)
        if wideScope sc then w.raisePts who gt else w
    | _ => w) w

/-- BAR_PHASE_COMPLETE (18 R344). -/
def execBarPhaseComplete (w id : Nat) (s : State) : Host.Outcome State Fault Refusal :=
  match s.wave? w with
  | none => s.event
  | some x =>
    let ids := s.barWaves x
    let waves := ids.filterMap s.wave?
    let b := waves.foldl (fun (b : Bar) w => b.mark w) ((s.bars x).getD id Bar.blank)
    if !b.complete ids then s.event
    else
      let b := waves.foldl (fun (b : Bar) w => b.mark w) (b.advance ids)
      let t := s.select w (.split 0)
      let t := t.setBars ((t.bars t.cur).set id b)
      let t := t.mapWaves fun v => if ids.contains v.id then v.passBar id s.gt s.cycle.toNat else v
      (t.post (.barPhaseComplete w id)).event

/-! Threads that wait inside an instruction. -/

/-- Whether a thread of a wave learns that its wait may be over: the wave runs, and in handler mode only the handler
goes on (19 R366). -/
def Wave.hears (w : Wave) (who : Who) : Bool :=
  w.issues && (w.frame.isNone || who == .handler)

/-- The issuing thread leaves the instruction in which it waited. -/
def State.passOn (s : State) : State := s.setThread (s.thread.resume s.cycle.toNat).pass

/-- The wait of the issuing thread is over: it leaves the instruction, done by `t`, or its whole group issues again (log entry
15). -/
def State.wake (s t : State) : State :=
  if s.thread.chained then s.setThread (s.thread.resume s.cycle.toNat) else t.passOn

/-- A trap of the issuing thread at the instruction in which it waits. -/
def State.parkedTrap (s : State) (tr : Trap) : State := s.raise ⟨s.packet, s.thread.slot⟩ tr

/-- The space of SIGNAL, WAITV and AWAIT.ev. -/
def syncSpace (shared : Bool) : Space := if shared then .shared else .global

/-! SIGNAL (18 R345). -/

/-- The address of the word of SIGNAL or WAITV. -/
def State.wordAddr (s : State) (a : Src) : W64 := readByTag (s.tagOf (.u a)) (s.image a)

/-- The access of the thread to the word of SIGNAL or WAITV, or its fault; none without an active lane. -/
def State.wordAccesses (s : State) (space : Space) (a : Src) (nd : Need) : Except Trap (List (Nat × Piece)) :=
  laneAccesses true nd.writes ((s.accessLanes true).map fun l => (l, s.wordAddr a)) fun l x =>
    if nd.writes then (s.pieces space l x 8 nd).map atomPlace else s.pieces space l x 8 nd

/-- The atomic of a SIGNAL: queued for its home, or performed at once. -/
def State.signal (s : State) (p : Piece) (op : HomeOp) : State :=
  match p.spot with
  | .home tg => s.enqueue tg p.pa (some p.va) op none
  | _ => (s.atomNow p op).1

/-- SIGNAL: a release, and one atomic on an 8-byte word. -/
def execSignal (f : SignalForm) (s : State) : Host.Outcome State Fault Refusal :=
  s.finish do
    let space := syncSpace f.shared
    s.srcTag (baseTag space) f.a
    s.noRunAhead
    s.noTx 2
    match s.wordAccesses space f.a .rmw with
    | .error tr => .error (.trap tr)
    | .ok ps => do
      need (ps.isEmpty || s.over s.cur s.who .accesses) (.wait .accesses)
      s.memoryReady .rmw ps
      .ok (ps.foldl (fun t (_, p) => t.signal p (.atom (if f.add then .red .add else .exch) .n64 (s.image f.v))) s)

/-! WAITV (18 R346, R347). -/

/-- The condition of WAITV, unsigned. -/
def waitHolds (c : WaitCond) (word v : W64) : Bool :=
  match c with
  | .eq => word == v
  | .ne => word != v
  | .ge => decide (v.toNat ≤ word.toNat)
  | .lt => decide (word.toNat < v.toNat)

/-- The key of the word at a place. -/
def State.locKey (s : State) (l : Loc) : Nat :=
  match l.tg with
  | none => sharedKey (s.cur.team.getD 0) l.pa
  | some t => wordKey t l.pa

/-- The word with a key is one of shared memory. -/
def keyShared (key : Nat) : Bool := key % 32 == 31

/-- A read of a place at its home, for the issuing thread. -/
def State.sawLoc (s : State) (l : Loc) (n : Nat) : State :=
  match l.tg with
  | none => s
  | some t => s.sawHome t l.pa n

/-- Whether a place holds poison. -/
def State.locPoison (s : State) (l : Loc) (n : Nat) : Bool := l.tg == some Target.device && s.poisonedIn l.pa n

/-- WAITV with its condition met: sD takes the word, and an acquire follows. -/
def State.waitDone (s : State) (d : BitVec 6) (l : Loc) (word : W64) (sc : Scope) : State :=
  let s := (s.sawLoc l 8).deferS d .n64 word
  if wideScope sc && l.tg.isSome then s.setSys (s.sys.acquire s.gt) else s

/-- The place that WAITV reads. -/
def State.waitLoc (s : State) (f : WaitvForm) (p : Piece) : Loc :=
  ⟨if f.shared then none else some p.target, p.pa, (s.wordAddr f.a).toNat⟩

/-- WAITV (18 R346). -/
def execWaitv (f : WaitvForm) (s : State) : Host.Outcome State Fault Refusal :=
  s.finish do
    let space := syncSpace f.shared
    s.noSprig
    s.srcTag (baseTag space) f.a
    s.srcTag countTag f.v
    s.noTx 2
    let addr := s.wordAddr f.a
    match s.wordAccesses space f.a .rd with
    | .error tr => .error (.trap tr)
    | .ok [] => .ok s
    | .ok ((_, p) :: _) => do
      need (s.over s.cur s.who .accesses) (.wait .accesses)
      let l := s.waitLoc f p
      s.locsFree [(l, 8)]
      need (!s.locPoison l 8) (faultAt 4 addr)
      let word := w64 (s.locNum s.cur.team l 8)
      if waitHolds f.cond word (s.image f.v) then .ok (s.waitDone f.d l word f.scope)
      else .error (.park (.waitv f.d f.cond (s.locKey l) addr (s.image f.v) f.scope) none)

/-- A trap of a thread at the word on which it waits, with the address that its instruction names (19 R363). -/
def State.wordTrap (s : State) (cause : Nat) (addr : W64) : State := s.parkedTrap { Trap.of cause with addr := some addr }

/-- WAITV_RECHECK (18 R346): the word has been written and is read again, by a translation of its own (12 R235). -/
def execWaitvRecheck (w : Nat) (who : Who) (s : State) : Host.Outcome State Fault Refusal :=
  match s.wave? w with
  | none => s.event
  | some x => match (x.thread who).park with
    | .waitv d cond key addr v sc =>
      if !x.hears who then s.event
      else
        let t := s.select w who
        match t.locate (keyShared key) .rd addr 8 with
        | .error (c, a) => ((s.heldAway c (.waitvRecheck w who)).getD (t.wordTrap c a)).event
        | .ok l => match s.heldAny (locSectors [(l, 8)]) (.waitvRecheck w who) with
          | some t => t.event
          | none =>
            let word := w64 (t.locNum t.cur.team l 8)
            if waitHolds cond word v then (t.wake (t.waitDone d l word sc)).event else (t.sawLoc l 8).event
    | _ => s.event

/-! Rings (18 R348 to R352). -/

/-- A ring as its header stands: the header's place and address, the element array, and the counts. -/
structure Ring where
  hdr : Loc
  va : W64
  base : Nat
  log : Nat
  head : Nat
  tail : Nat
  deriving DecidableEq, Repr

/-- The capacity of a ring. -/
def Ring.cap (r : Ring) : Nat := 2 ^ r.log

/-- The elements that a ring holds. -/
def Ring.held (r : Ring) : Nat := (2 ^ 32 - r.head + r.tail) % 2 ^ 32

/-- The empty value. -/
def emptyValue : W64 := -1

/-- The header's address of ring `k` of a class (18 R348). -/
def State.ringAddr (s : State) (glob : Bool) (k : Nat) : W64 :=
  w64 ((if glob then (s.const s.cur 7 53).toNat else 0) + 16 * k)

/-- A trap that names a ring: the ring fault 0x15, or the logjam 0x0E (19 R363). -/
def State.ringTrap (s : State) (cause : Nat) (glob : Bool) (k : Nat) : Trap :=
  { Trap.of cause with addr := some (s.ringAddr glob k), code := glob.toNat * 256 + k % 256 }

/-- A ring's number and the place of its header are as 18 R350 asks. -/
def State.ringPlace (s : State) (glob : Bool) (k : Nat) : Bool :=
  let base := (s.const s.cur 7 53).toNat
  if glob then decide (k ≤ 255) && base % 4096 == 0 && decide (base < 2 ^ 58)
  else decide (k ≤ 63) && decide (16 * k + 16 ≤ s.sharedBytes s.cur)

/-- The fields of a header and the place of its element array are as 18 R350 asks. -/
def State.ringOk (s : State) (glob : Bool) (word r : Nat) : Bool :=
  bitsOf word 58 6 == 0 && bitsOf word 5 3 == 0 && decide (1 ≤ r) && decide (r ≤ 20) &&
    (glob || decide (bitsOf word 8 50 * 256 + 8 * 2 ^ r ≤ s.sharedBytes s.cur))

/-- A memory fault of a ring operation. -/
def ringMemTrap (nd : Need) (x : Nat × W64) : Trap := { Trap.of x.1 with addr := some x.2, write := nd.writes }

/-- Ring `k` of a class, checked (18 R350). -/
def State.ring (s : State) (glob : Bool) (k : Nat) (nd : Need) : Except Trap Ring :=
  let va := s.ringAddr glob k
  if !s.ringPlace glob k then .error (s.ringTrap 0x15 glob k)
  else match s.locate (!glob) nd va 16 with
    | .error e => .error (ringMemTrap nd e)
    | .ok l =>
      if l.tg == some Target.device && s.sectorAway (l.pa / 32) then .error (ringMemTrap nd (awayCode (l.pa / 32), va))
      else if s.locPoison l 16 then .error (ringMemTrap nd (4, va))
      else
        let w0 := s.locNum s.cur.team l 8
        let w1 := s.locNum s.cur.team { l with pa := l.pa + 8 } 8
        if s.ringOk glob w0 (w0 % 32) then
          .ok { hdr := l, va := va, base := bitsOf w0 8 50 * 256, log := w0 % 32, head := w1 % 2 ^ 32, tail := w1 / 2 ^ 32 }
        else .error (s.ringTrap 0x15 glob k)

/-- The places of `n` elements from number `i` on (18 R349). -/
def State.ringElems (s : State) (glob : Bool) (r : Ring) (nd : Need) (i n : Nat) : Except Trap (List Loc) :=
  let xs := (List.range n).map fun j => s.locate (!glob) nd (w64 (r.base + 8 * ((i + j) % r.cap))) 8
  match worst (errorsOf xs) with
  | some e => .error (ringMemTrap nd e)
  | none => .ok (xs.filterMap fun x => match x with
    | .ok l => some l
    | .error _ => none)

/-- The last eight distinct waves of a history (18 R355). -/
def pushWave (xs : List Nat) (w : Nat) : List Nat :=
  let ys := xs.filter (· != w) ++ [w]
  ys.drop (ys.length - 8)

/-- Whether a history belongs to ring `k` of a class for a wave (18 R348). -/
def RingHist.is (h : RingHist) (w : Wave) (glob : Bool) (k : Nat) : Bool :=
  h.ctx == w.ctx && h.k == k && h.team == (if glob then none else w.team)

/-- A completed operation enters the history of its ring (18 R355). -/
def State.ringDone (s : State) (glob : Bool) (k : Nat) (put : Bool) : State :=
  let w := s.cur
  let note (h : RingHist) : RingHist :=
    if put then { h with putters := pushWave h.putters w.id, count := h.count + 1 }
    else { h with takers := pushWave h.takers w.id, count := h.count + 1 }
  let known := s.rings.any fun h => h.is w glob k
  let rings := if known then s.rings else
    s.rings ++ [{ id := s.nextId, ctx := w.ctx, team := if glob then none else w.team, k := k, putters := [], takers := [], count := 0 }]
  { s with rings := rings.map (fun h => if h.is w glob k then note h else h), nextId := s.nextId + 1 }

/-- An 8-byte write of the ring unit for the issuing wave. -/
def State.ringWrite (s : State) (l : Loc) (v : W64) : State :=
  match l.tg with
  | none => s.sharedPut l.pa (bytesOf 8 v.toNat)
  | some t => s.storeNow t l.pa (bytesOf 8 v.toNat)

/-- The counts of a header written: none where the operation moved no element. -/
def State.ringCounts (s : State) (r : Ring) (n head tail : Nat) : State :=
  if n = 0 then s
  else s.ringWrite { r.hdr with pa := r.hdr.pa + 8 } (w64 (tail % 2 ^ 32 * 2 ^ 32 + head % 2 ^ 32))

/-- What a ring operation comes to when the ring unit looks at it: the places it reads, those it writes and the state after
it, or none while it waits. -/
abbrev RingStep := Except Trap (Option ((List (Loc × Nat) × List (Loc × Nat)) × State))

/-- The header of a ring among the places written: where the operation moved an element. -/
def Ring.written (r : Ring) (n : Nat) : List (Loc × Nat) := if n = 0 then [] else [(r.hdr, 16)]

/-- A put of values (18 R351). -/
def State.put (s : State) (d : BitVec 6) (glob try_ : Bool) (k : Nat) (vals : List W64) : RingStep :=
  match s.ring glob k .rmw with
  | .error e => .error e
  | .ok r =>
    let room := r.cap - r.held
    if vals.contains emptyValue || (!try_ && decide (r.cap < vals.length)) then .error (s.ringTrap 0x15 glob k)
    else if !try_ && decide (room < vals.length) then .ok none
    else
      let vs := vals.take room
      match s.ringElems glob r .wr r.tail vs.length with
      | .error e => .error e
      | .ok ls =>
        let t := (ls.zip vs).foldl (fun t (l, v) => t.ringWrite l v) (s.sawLoc r.hdr 16)
        let t := (t.ringCounts r vs.length r.head (r.tail + vs.length)).ringDone glob k true
        .ok (some (([(r.hdr, 16)], r.written vs.length ++ ls.map (·, 8)), t.deferS d .n64 (w64 vs.length)))

/-- The value that lane `l` receives of the elements taken: in ascending order of the lanes. -/
def takenAt (lanes : Mask) (vs : List W64) (l : Nat) : W64 :=
  vs.getD ((lanes.toList.filter fun k => decide (k < l)).length) emptyValue

/-- A take (18 R352). -/
def State.take (s : State) (d : Dest) (glob try_ : Bool) (k : Nat) (lanes : Mask) (sc : Scope) : RingStep :=
  match s.ring glob k .rmw with
  | .error e => .error e
  | .ok r =>
    if !try_ && r.held == 0 then .ok none
    else
      let want := match d with
        | .s _ => 1
        | .v _ => lanes.count
      match s.ringElems glob r .rd r.head (Nat.min want r.held) with
      | .error e => .error e
      | .ok ls =>
        let vs := ls.map fun l => w64 (s.locNum s.cur.team l 8)
        let t := ls.foldl (fun t l => t.sawLoc l 8) (s.sawLoc r.hdr 16)
        let t := (t.ringCounts r vs.length (r.head + vs.length) r.tail).ringDone glob k false
        let t := match d with
          | .s x => t.deferS x .b64 (vs.headD emptyValue)
          | .v x => t.defer [(.v x.toNat, .b64, lanes, takenAt lanes vs)] 0 [] none
        let t := if wideScope sc && glob then t.setSys (t.sys.acquire t.gt) else t
        .ok (some (((r.hdr, 16) :: ls.map (·, 8), r.written vs.length), t))

/-- The header's key of a ring, for its park. -/
def State.ringKey (s : State) (glob : Bool) (k : Nat) (nd : Need) : Nat :=
  match s.ring glob k nd with
  | .ok r => s.locKey r.hdr
  | .error _ => 0

/-- A ring operation at issue: it traps, completes, or parks. -/
def State.ringIssue (s : State) (x : RingStep) (p : Park) : Except Stop State :=
  match x with
  | .error tr => .error (.trap tr)
  | .ok none => .error (.park p none)
  | .ok (some ((reads, writes), t)) => do
    s.locsFree reads
    s.claims (locSectors writes)
    .ok t

/-- The values that QPUT puts: one of each active lane, or one of the thread. -/
def State.putValues (s : State) (f : QputForm) : List W64 :=
  match f.v with
  | .v r => s.active.toList.map fun l => s.vval r.toNat l
  | .u x => if s.active = 0 then [] else [s.image x]

/-- QPUT (18 R351). -/
def execQput (f : QputForm) (s : State) : Host.Outcome State Fault Refusal :=
  s.finish do
    need (s.opOk f.v) illegal
    s.noSprig
    s.srcTag countTag f.k
    s.noRunAhead
    s.noTx 2
    let k := (s.image f.k).toNat
    let vals := s.putValues f
    if vals.isEmpty then .ok (s.deferS f.d .n64 0)
    else do
      need (s.over s.cur s.who .accesses) (.wait .accesses)
      s.ringIssue (s.put f.d f.glob f.try_ k vals) (.qput f.d f.glob k (s.ringKey f.glob k .rmw) vals f.scope)

/-- QTAKE (18 R352). -/
def execQtake (f : QtakeForm) (s : State) : Host.Outcome State Fault Refusal :=
  s.finish do
    need (s.destOk f.d) illegal
    s.noSprig
    s.srcTag countTag f.k
    s.noRunAhead
    s.noTx 2
    let k := (s.image f.k).toNat
    if s.active = 0 then .ok s
    else do
      need (s.over s.cur s.who .accesses) (.wait .accesses)
      s.ringIssue (s.take f.d f.glob f.try_ k s.active f.scope)
        (.qtake f.d f.glob k (s.ringKey f.glob k .rmw) s.active f.scope)

/-- The operation of a thread that waits at a ring. -/
def State.ringStep (s : State) (p : Park) : Option RingStep :=
  match p with
  | .qput d g k _ vals _ => some (s.put d g false k vals)
  | .qtake d g k _ lanes sc => some (s.take d g false k lanes sc)
  | _ => none

/-- RING_WAKE (18 R351, R352): the ring unit looks at a waiting operation again. -/
def execRingWake (w : Nat) (who : Who) (s : State) : Host.Outcome State Fault Refusal :=
  match s.wave? w with
  | none => s.event
  | some x =>
    if !x.hears who then s.event
    else
      let t := s.select w who
      match t.ringStep t.thread.park with
      | none => s.event
      | some (.error tr) => ((s.heldAway tr.cause (.ringWake w who)).getD (t.parkedTrap tr)).event
      | some (.ok none) => s.event
      | some (.ok (some ((reads, writes), u))) =>
        match s.heldIO (locSectors reads) (locSectors writes) (.wave w) (.ringWake w who) with
        | some h => h.event
        | none => (t.wake u).event

/-! AWAIT (18 R353). -/

/-- The place that AWAIT.ev watches, checked as an 8-byte load. -/
def State.evPlace (s : State) (shared : Bool) (a : W64) : Except Stop Loc :=
  if a.toNat % 8 ≠ 0 then .error (faultAt 3 a)
  else if shared then
    if s.sharedBytes s.cur < a.toNat + 8 then .error (faultAt 2 a) else .ok ⟨none, a.toNat, a.toNat⟩
  else match s.translate s.die s.cur.ctx a.toNat .rd with
    | .error c => .error (faultAt c a)
    | .ok (t, pa) => .ok ⟨some t, pa, a.toNat⟩

/-- A ring that AWAIT names. -/
def State.awaitRing (s : State) (glob : Bool) (k : Src) : Except Stop Nat :=
  match s.ring glob (s.image k).toNat .rd with
  | .error tr => .error (.trap tr)
  | .ok r => do
    s.locsFree [(r.hdr, 16)]
    .ok (s.locKey r.hdr)

/-- The condition of an AWAIT with its operands read and checked. -/
def State.awaitCond (s : State) (f : AwaitForm) : Except Stop AwaitCond :=
  match f with
  | .rne g k => do
    s.srcTag countTag k
    s.noTx 2
    let h ← s.awaitRing g k
    .ok (.rne g (s.image k).toNat h)
  | .rnf g k => do
    s.srcTag countTag k
    s.noTx 2
    let h ← s.awaitRing g k
    .ok (.rnf g (s.image k).toNat h)
  | .kids => do
    s.noTx 2
    .ok .kids
  | .chan n v => do
    s.srcTag countTag n
    s.srcTag countTag v
    s.noTx 2
    .ok (.chan (s.image n).toNat (s.image v))
  | .ev sh a => do
    s.srcTag (baseTag (syncSpace sh)) a
    s.noTx 2
    let l ← s.evPlace sh (readByTag (s.tagOf (.u a)) (s.image a))
    .ok (.ev (s.locKey l) (w64 l.va) (s.cycle.toNat + 2 ^ 20))

/-- Whether the condition of an AWAIT of the issuing wave holds. -/
def State.awaitHolds (s : State) (c : AwaitCond) : Except Trap Bool :=
  match c with
  | .rne g k _ => (s.ring g k .rd).map fun r => r.held != 0
  | .rnf g k _ => (s.ring g k .rd).map fun r => decide (r.held < r.cap)
  | .kids => .ok (s.cur.children == 0)
  | .chan n v => .ok (decide (v.toNat ≤ (s.cur.chans.getD n ⟨0, []⟩).wp.toNat))
  | .ev _ _ until_ => .ok (decide (until_ ≤ s.cycle.toNat))
  | .hit => .ok true

/-- An AWAIT.ev that issues again with its group after it has been told of a write. -/
def State.heardNow (s : State) (c : AwaitCond) : Bool :=
  match c with
  | .ev _ _ _ => s.thread.heard && s.thread.slot == s.slot
  | _ => false

/-- The channel that AWAIT.chan names is one of the wave's (18 R353). -/
def State.awaitNames (s : State) (f : AwaitForm) : Bool :=
  match f with
  | .chan n _ => decide ((s.image n).toNat < Nat.min 8 s.cur.foot.chans)
  | _ => true

/-- AWAIT (18 R353): it returns at once or parks its split. -/
def execAwait (f : AwaitForm) (s : State) : Host.Outcome State Fault Refusal :=
  s.finish do
    need (s.awaitNames f) illegal
    s.noSprig
    let c ← s.awaitCond f
    match s.awaitHolds c with
    | .error tr => .error (.trap tr)
    | .ok true => .ok s
    | .ok false => if s.heardNow c then .ok s else .error (.park (.await c) none)

/-- An AWAIT of a group that waits for a write is over when its group issues again. -/
def State.hear (s : State) : State :=
  match s.thread.park with
  | .await (.ev _ _ _) => s.setThread { s.thread with heard := true }
  | .await .hit => s.setThread { s.thread with heard := true }
  | _ => s

/-- AWAIT_WAKE (18 R353): the condition of a parked thread is looked at; a wave swapped out is to be placed again (18
R354). -/
def execAwaitWake (w : Nat) (who : Who) (s : State) : Host.Outcome State Fault Refusal :=
  match s.wave? w with
  | none => s.event
  | some x => match (x.thread who).park with
    | .await c =>
      let t := s.select w who
      match t.awaitHolds c with
      | .ok false => s.event
      | .ok true =>
        if x.stage = .swapped then (s.postOnce (.waveSwapIn w)).event
        else if x.hears who then (t.hear.wake t).event
        else s.event
      | .error tr => (if x.hears who then (s.heldAway tr.cause (.awaitWake w who)).getD (t.parkedTrap tr) else s).event
    | _ => s.event

/-! GEN moves on under waiting threads (12 R235). -/

/-- The key of a word of global memory as its address now translates; it stays where translation fails, which the next look at the
word will meet. -/
def State.newKey (s : State) (key : Nat) (addr : W64) : Nat :=
  if keyShared key then key
  else match s.translate s.die s.cur.ctx addr.toNat .rd with
    | .ok (t, pa) => wordKey t pa
    | .error _ => key

/-- A park of the issuing thread with the words that it watches translated afresh. -/
def State.newPark (s : State) (p : Park) : Park :=
  match p with
  | .waitv d c k a v sc => .waitv d c (s.newKey k a) a v sc
  | .await (.ev k a u) => .await (.ev (s.newKey k a) a u)
  | .await (.rne g k h) => .await (.rne g k (s.newKey h (s.ringAddr g k)))
  | .await (.rnf g k h) => .await (.rnf g k (s.newKey h (s.ringAddr g k)))
  | .qput d g k h vs sc => .qput d g k (s.newKey h (s.ringAddr g k)) vs sc
  | .qtake d g k h m sc => .qtake d g k (s.newKey h (s.ringAddr g k)) m sc
  | p => p

/-- The threads of an address space that wait on a word watch it where it now lies, and look at it (12 R235). -/
def State.followGen (s : State) (asid : BitVec 12) : State :=
  let mine (w : Wave) : Bool := (s.ctx w.ctx).asid == asid
  let follow (w : Wave) : Wave :=
    w.threads.foldl (fun y (who, t) => y.setThread who { t with park := (s.select w.id who).newPark t.park }) w
  let t := s.mapWaves fun w => if mine w then follow w else w
  (t.allWaves.filter mine).foldl State.rewake t

/-! The logjam detector (18 R356). -/

/-- The ring that a thread waits for, and whether it waits for an element. -/
def Park.ringOf (p : Park) : Option (Bool × Nat × Bool) :=
  match p with
  | .qput _ g k _ _ _ => some (g, k, false)
  | .qtake _ g k _ _ _ => some (g, k, true)
  | .await (.rne g k _) => some (g, k, true)
  | .await (.rnf g k _) => some (g, k, false)
  | _ => none

/-- The rings that a wave waits for: the thread, the class and number, and whether it waits for an element. -/
def Wave.ringWaits (w : Wave) : List (Who × Bool × Nat × Bool) :=
  if w.stage != .running then []
  else w.threads.filterMap fun (who, t) => if w.hears who then t.park.ringOf.map fun x => (who, x) else none

/-- A ring of the issuing wave is empty, or full. -/
def State.ringStuck (s : State) (g : Bool) (k : Nat) (forElem : Bool) : Bool :=
  match s.ring g k .rd with
  | .ok r => if forElem then r.held == 0 else r.held == r.cap
  | .error _ => false

/-- The threads of a wave that wait for an element of an empty ring, or for room in a full one. -/
def State.stuckWaits (s : State) (w : Wave) : List (Who × Bool × Nat × Bool) :=
  w.ringWaits.filter fun (who, g, k, forElem) => (s.select w.id who).ringStuck g k forElem

/-- The wait-for relation among the blocked waves (18 R356). -/
def State.waitsFor (s : State) : List (Nat × Nat × Nat × Nat) :=
  let blocked := s.allWaves.filter fun w => !(s.stuckWaits w).isEmpty
  blocked.flatMap fun w => (s.stuckWaits w).flatMap fun (_, g, k, forElem) =>
    (s.rings.filter fun h => h.is w g k).flatMap fun h =>
      ((if forElem then h.putters else h.takers).filter fun v => blocked.any fun b => b.id == v).map fun v =>
        (w.id, h.id, h.count, v)

/-- The waves that a set of waves reaches in at most `fuel` steps of a relation. -/
def reach (es : List (Nat × Nat × Nat × Nat)) : (fuel : Nat) → List Nat → List Nat
  | 0, xs => xs
  | n + 1, xs => reach es n (es.foldl (fun acc (a, _, _, b) => if xs.contains a then insertRising b acc else acc) xs)

/-- The waves that a wave waits for, directly or through others. -/
def reachedFrom (es : List (Nat × Nat × Nat × Nat)) (w : Nat) : List Nat :=
  reach es es.length ((es.filter fun e => e.1 == w).foldl (fun acc (_, _, _, b) => insertRising b acc) [])

/-- Whether a wave was placed before another: of waves placed in one cycle the one on the lower cluster, then the one of the lower
WAVEID (18 R356). -/
def Wave.notAfter (x y : Wave) : Bool :=
  if x.placedAt != y.placedAt then decide (x.placedAt < y.placedAt)
  else if x.cluster != y.cluster then decide (x.cluster < y.cluster)
  else if x.waveNo != y.waveNo then decide (x.waveNo.toNat < y.waveNo.toNat)
  else decide (x.id ≤ y.id)

/-- The rings through which a wave waits in a circle of waves that are no younger than it. -/
def State.jams (s : State) (es : List (Nat × Nat × Nat × Nat)) (w : Nat) : List Nat :=
  let old (a : Nat) : Bool := match s.wave? a, s.wave? w with
    | some x, some y => x.notAfter y
    | _, _ => false
  let older := es.filter fun (a, _, _, b) => old a && old b
  (older.filter fun (a, _, _, b) => a == w && (b == w || (reachedFrom older b).contains w)).map fun (_, i, _, _) => i

/-- The youngest wave of each logjam: of a circle of waves that wait for each other (18 R356). -/
def State.jammed (s : State) (es : List (Nat × Nat × Nat × Nat)) : List Nat :=
  es.foldl (fun acc (w, _, _, _) => if (s.jams es w).isEmpty then acc else insertRising w acc) []

/-- The logjam trap 0x0E at the instruction in which a wave waits for one of the jammed rings. -/
def State.jam (s : State) (es : List (Nat × Nat × Nat × Nat)) (w : Nat) : State :=
  match s.wave? w with
  | none => s
  | some x =>
    let rings := s.rings.filter fun h => (s.jams es w).contains h.id
    match x.ringWaits.find? fun (_, g, k, _) => rings.any fun h => h.is x g k with
    | none => s
    | some (who, g, k, _) =>
      let t := s.select w who
      t.parkedTrap (t.ringTrap 0x0E g k)

/-- LOGJAM_SCAN (18 R356): what has stood unchanged since the scan before is a logjam. -/
def execLogjamScan (s : State) : Host.Outcome State Fault Refusal :=
  let now := s.waitsFor
  let es := now.filter s.scan.contains
  ((s.jammed es).foldl (fun (s : State) w => s.jam es w) { s with scan := now }).event

end Sys2Proof.Machine
end

