-- ==== Sys2Proof/Machine/Tx.lean ====
section
/-! DEFINITION. TXBEGIN, TXEND and TXABORT, and what aborts a transaction from outside (18 R357 to R361). -/

namespace Sys2Proof.Machine

/-- TXBEGIN (18 R357). -/
def execTxbegin (ro : Bool) (d : BitVec 6) (off : BitVec 16) (s : State) : Host.Outcome State Fault Refusal :=
  s.finish do
    need (!s.inSprig && decide (s.cur.splits.length ≤ 1) && s.cur.sprigs.isEmpty && s.cur.joins == 0) convergence
    need (!s.ahead) illegal
    s.noTx 6
    let x : Tx := { who := s.who, handler := s.offsetTarget off, d := d, ro := ro, reads := [], writes := [], held := [], vas := [], repairs := [],
                    begun := s.cycle.toNat, gt := s.gt, doomed := none }
    .ok ({ s with cur := { s.cur with tx := some x } }.deferS d .n64 0)

/-- TXEND and TXABORT outside a transaction raise 0x16 (18 R358). -/
def State.openTx (s : State) : Except Stop Tx :=
  match s.cur.tx with
  | none => .error (.trap (Trap.of 0x16))
  | some x => .ok x

/-- The held bytes as runs at consecutive addresses, none of which crosses a sector. -/
def heldRuns (m : NMap Byte) : List (Nat × List Byte) :=
  (m.foldl (fun (acc : List (Nat × List Byte)) (a, b) =>
    match acc with
    | (p, bs) :: rest => if p + bs.length = a ∧ a % 32 ≠ 0 then (p, bs ++ [b]) :: rest else (a, [b]) :: acc
    | [] => [(a, [b])]) []).reverse

/-- The commit: every held store reaches its write point in one step, and an acquire follows (18 R358). -/
def State.commit (s : State) (x : Tx) : State :=
  let s := { s with cur := { s.cur with tx := none } }
  let s := (heldRuns x.held).foldl (fun s (pa, bs) => s.storeHome .device pa bs (x.repairs.contains (pa / 32))) s
  s.setSys (s.sys.acquire s.gt)

/-- The global address of a held byte. -/
def Tx.globalOf (x : Tx) (pa : Nat) : Nat := NMap.getD x.vas (pa / 8) 0 * 8 + pa % 8

/-- TXEND (18 R358). A transaction that has lost a conflict aborts; so does one whose stores a seal now refuses, as for a memory
fault (13 R266, 18 R360). -/
def execTxend (s : State) : Host.Outcome State Fault Refusal :=
  s.finish do
    s.noSprig
    let x ← s.openTx
    need x.doomed.isNone (.abort (x.doomed.getD 1) none)
    need (s.over s.cur s.who .accesses) (.wait .accesses)
    let runs := heldRuns x.held
    match runs.find? fun (pa, bs) => s.sealedPa pa bs.length with
    | some (pa, _) => .error (.abort 7 (some { Trap.of 2 with addr := some (w64 (x.globalOf pa)), write := true }))
    | none => do
      s.claims (runs.map fun (pa, _) => pa / 32)
      .ok (s.commit x)

/-- TXABORT (18 R358). -/
def execTxabort (code : BitVec 8) (s : State) : Host.Outcome State Fault Refusal :=
  s.finish do
    s.noSprig
    let _ ← s.openTx
    .error (.abort (5 + 256 * code.toNat) none)

/-- The transaction of a wave ends with a status. -/
def State.endTx (s : State) (w : Nat) (x : Tx) (status : Nat) : State := (s.select w x.who).abortTx status

/-- TX_CONFLICT_ABORT (18 R359): the transaction has lost a conflict. -/
def execTxConflictAbort (w : Nat) (s : State) : Host.Outcome State Fault Refusal :=
  match (s.wave? w).bind (·.tx) with
  | none => s.event
  | some x => match x.doomed with
    | none => s.event
    | some st => (s.endTx w x st).event

/-- TX_CAPACITY_EVICT (18 R360): the L2 has evicted a tracked block. -/
def execTxCapacityEvict (w : Nat) (s : State) : Host.Outcome State Fault Refusal :=
  match (s.wave? w).bind (·.tx) with
  | none => s.event
  | some x => (s.endTx w x 2).event

/-- TX_TIMEOUT (18 R360): the transaction has been open for 65,536 cycles. -/
def execTxTimeout (w : Nat) (s : State) : Host.Outcome State Fault Refusal :=
  match (s.wave? w).bind (·.tx) with
  | none => s.event
  | some x => (if x.begun + 65536 ≤ s.cycle.toNat then s.endTx w x 3 else s).event

end Sys2Proof.Machine
end

