-- ==== Sys2Proof/Machine/Coll.lean ====
section
/-! DEFINITION. Collective groups: COLL, what a step does, and STEPAGR (20 R384 to R393). -/

namespace Sys2Proof.Machine

/-! COLL (20 R387). -/

/-- What every COLL checks before its record is read, and the record's words. -/
def State.collRecord (s : State) (a : Src) (n : Nat) : Except Stop (List W64 × State) := do
  s.noSprig
  s.srcTag addrTag a
  s.noRunAhead
  s.noTx 2
  let d := s.image a
  need (decide (d.toNat % (8 * n) = 0)) (faultAt 3 d)
  s.loadWords d.toNat n

/-- A group record is as 20 R384 asks. -/
def groupOk (ws : List W64) : Bool :=
  let g := wordsField ws
  let n := g 4 1
  g 0 4 != 0 && decide (2 ≤ n) && decide (n ≤ 64) && decide (g 5 1 < n) &&
    ((List.range 58).all fun k => g (6 + k) 1 == 0) &&
    ((List.range 64).all fun r => if r < n then decide (g (0x40 + r) 1 ≤ 13) else g (0x40 + r) 1 == 0) &&
    g (0x40 + g 5 1) 1 == 0

/-- A rank that nobody has joined. -/
def Rank.blank (dev : Nat) : Rank :=
  { dev := dev, wave := none, posts := [], next := 1, vacant := false, aborted := false, proposal := none }

/-- A group as a record describes it. -/
def groupOf (ws : List W64) : Group :=
  let g := wordsField ws
  { gid := g 0 4, size := g 4 1, ranks := (List.range (g 4 1)).map fun r => (r, Rank.blank (g (0x40 + r) 1)), agreed := 0,
    failing := [] }

/-- Nothing is left of a group: its ranks are vacant and have no step outstanding. -/
def Group.idle (g : Group) : Bool := g.failing.isEmpty && g.ranks.all fun (_, x) => x.vacant && x.posts.isEmpty

/-- The group that a record names, as this device knows it, or a new one. -/
def State.groupNamed (s : State) (ws : List W64) : Group :=
  match NMap.get? s.groups (groupOf ws).gid with
  | some g => if g.idle then groupOf ws else g
  | none => groupOf ws

/-- The step counter of a new member: that of the others (20 R392). -/
def Group.nextStep (g : Group) (rank : Nat) : Nat :=
  let others := g.ranks.filter fun (r, x) => r != rank && !x.vacant && (x.wave.isSome || x.dev != 0)
  (others.foldl (fun (m : Option Nat) (_, x) => some (match m with
    | some n => Nat.min n x.next
    | none => x.next)) none).getD 1

/-- A rank is held by another wave than `w`: one on this device, or one on a peer (20 R384, R387). -/
def Rank.heldByOther (x : Rank) (w : Nat) : Bool := !x.vacant && (x.dev != 0 || (x.wave.isSome && x.wave != some w))

/-- The rank that a wave takes in a group: its step counter is 1, or that of the others where it fills a vacant rank, of
which it leaves the steps that run on; those that the new member issues again have failed (20 R387, R392, R394, log entry 95). A
wave that already holds the rank keeps it as it is. -/
def Group.taken (g : Group) (rank w : Nat) : Rank × List Failing :=
  let x := NMap.getD g.ranks rank (Rank.blank 0)
  if x.wave = some w then (x, [])
  else
    let next := if x.vacant then g.nextStep rank else 1
    ({ Rank.blank 0 with wave := some w, next := next, posts := x.posts.filter fun (k, _) => decide (k < next) },
      x.failsFrom next 6)

/-- COLL.join once its record is read: the value of sD, and the membership (20 R387, R392). -/
def State.join (s : State) (ws : List W64) : W64 × State :=
  let w := s.cur
  let rank := wordsField ws 5 1
  let g := s.groupNamed ws
  if 16 ≤ w.members.length then (w64 (2 ^ 63 + 1), s)
  else if (NMap.getD g.ranks rank (Rank.blank 0)).heldByOther w.id then (w64 (2 ^ 63 + 7), s)
  else
    let h := firstFree 15 (w.members.map (·.1))
    let (y, gone) := g.taken rank w.id
    let t := { s with groups := NMap.set s.groups g.gid { g with ranks := NMap.set g.ranks rank y } }
    let t := if gone.isEmpty then t else t.fail g.gid gone
    (w64 h, { t with cur := { t.cur with members := NMap.set w.members h ⟨g.gid, rank⟩ } })

/-- COLL.join (20 R387). -/
def execCollJoin (_ : Scope) (d : BitVec 6) (a : Src) (s : State) : Host.Outcome State Fault Refusal :=
  s.finish do
    let (ws, t) ← s.collRecord a 16
    need (groupOk ws) illegal
    let (v, t) := t.join ws
    .ok (t.deferS d .n64 v)

/-- A collective descriptor is as 20 R386 asks. -/
def collFields (op : CollOp) (e : Nat) (ws : List W64) : Bool :=
  let g := wordsField ws
  decide (g 0 1 ≤ 15) && (op == .bcast || g 1 1 == 0) && g 2 6 == 0 && g 0x1C 4 == 0 && g 0x30 8 == 0 && g 0x38 8 == 0 &&
    g 0x20 8 % 8 == 0 && decide (g 0x28 8 < 2 ^ 63) &&
    (if op = .bar then g 8 8 == 0 && g 0x10 8 == 0 && g 0x18 4 == 0
     else g 8 8 % e == 0 && g 0x10 8 % e == 0 && decide (1 ≤ g 0x18 4) && decide (g 0x18 4 ≤ 2 ^ 28))

/-- The step that a descriptor asks for. -/
def State.stepOf (s : State) (op : CollOp) (fn : RedFn) (fmt : Fmt) (scope : Scope) (ws : List W64) : Post :=
  let g := wordsField ws
  { op := op, fn := fn, fmt := fmt, scope := scope, count := g 0x18 4, root := g 1 1, src := w64 (g 8 8), dst := w64 (g 0x10 8),
    done := w64 (g 0x20 8), doneval := w64 (g 0x28 8), die := s.die, time := s.sys.pts,
    ctx := s.cur.ctx, wave := s.cur.id }

/-- The collectives of a context queued on a die. -/
def State.collQueue (s : State) (ctx die : Nat) : Nat :=
  let mine (p : Post) : Bool := p.ctx == ctx && p.die == die
  s.groups.foldl (fun acc (_, g) => g.ranks.foldl (fun acc (_, x) => acc + (x.posts.filter fun (_, p) => mine p).length)
    (acc + (g.failing.filter fun x => mine x.post).length)) 0

/-- A collective once its descriptor is read: the value of sD, and the step posted (20 R387). -/
def State.postStep (s : State) (h : Nat) (p : Post) : Except Stop (W64 × State) :=
  match NMap.get? s.cur.members h with
  | none => .ok (w64 (2 ^ 63 + 2), s)
  | some m => match (NMap.get? s.groups m.gid).bind fun g => (NMap.get? g.ranks m.rank).map fun x => (g, x) with
    | none => .ok (w64 (2 ^ 63 + 2), s)
    | some (g, x) =>
      if p.op = .bcast ∧ g.size ≤ p.root then .error illegal
      else if x.aborted then .ok (w64 (2 ^ 63 + 3), s)
      else if 64 ≤ s.collQueue s.cur.ctx s.die then .ok (w64 (2 ^ 63 + 1), s)
      else
        let y := { x with posts := NMap.set x.posts x.next p, next := x.next + 1 }
        let t := { s with groups := NMap.set s.groups m.gid { g with ranks := NMap.set g.ranks m.rank y } }
        .ok (w64 x.next, t.postOnce (.collStepRun m.gid [] [] .done))

/-- COLL but for .join (20 R387). -/
def State.coll (s : State) (op : CollOp) (fn : RedFn) (fmt : Fmt) (scope : Scope) (d : BitVec 6) (a : Src) :
    Except Stop State := do
  let (ws, t) ← s.collRecord a 8
  need (collFields op (fmt.width / 8) ws) illegal
  let (v, t) ← t.postStep (wordsField ws 0 1) (s.stepOf op fn fmt scope ws)
  .ok (t.deferS d .n64 v)

/-- COLL.ared (20 R387). -/
def execCollAred (f : CollForm) (s : State) : Host.Outcome State Fault Refusal :=
  s.finish (s.coll .ared f.fn f.fmt f.scope f.d f.a)

/-- COLL.rsc (20 R387). -/
def execCollRsc (f : CollForm) (s : State) : Host.Outcome State Fault Refusal :=
  s.finish (s.coll .rsc f.fn f.fmt f.scope f.d f.a)

/-- COLL.agat (20 R387). -/
def execCollAgat (fmt : Fmt) (scope : Scope) (d : BitVec 6) (a : Src) (s : State) : Host.Outcome State Fault Refusal :=
  s.finish (s.coll .agat .add fmt scope d a)

/-- COLL.bcast (20 R387). -/
def execCollBcast (fmt : Fmt) (scope : Scope) (d : BitVec 6) (a : Src) (s : State) : Host.Outcome State Fault Refusal :=
  s.finish (s.coll .bcast .add fmt scope d a)

/-- COLL.bar (20 R387). -/
def execCollBar (scope : Scope) (d : BitVec 6) (a : Src) (s : State) : Host.Outcome State Fault Refusal :=
  s.finish (s.coll .bar .add .b64 scope d a)

/-! What a step does (20 R388). -/

/-- Why an array of a member cannot be read or written: translation or a seal refuses it, the peer that holds it does not serve it,
with the code of R388, or a sector of it is poisoned. -/
inductive ArrayStop where
  | refused (addr : Nat)
  | peer (code : Nat)
  | poisoned (addr : Nat)
  deriving DecidableEq, Repr

/-- What an access of a collective that fails with a cause ends in (20 R382, R387, R388). -/
def State.arrayStop (s : State) (ctx die va : Nat) (n : Need) (cause : Nat) : ArrayStop :=
  match s.peerCode die ctx va n with
  | some c => .peer c
  | none => if cause = 4 then .poisoned va else .refused va

/-- Elements of an array of a context, in memory order. -/
def State.arrayRead (s : State) (ctx die va e : Nat) : (n : Nat) → Except ArrayStop (List Nat)
  | 0 => .ok []
  | n + 1 =>
    match s.globalRead die ctx va e .rd with
    | .error c => .error (s.arrayStop ctx die va .rd c)
    | .ok bs => match s.arrayRead ctx die (va + e) e n with
      | .error x => .error x
      | .ok xs => .ok (ofBytes bs :: xs)

/-- Elements written to an array of a context. -/
def State.arrayWrite (s : State) (ctx die va e : Nat) (time : BitVec 16) (xs : List Nat) : Except ArrayStop State :=
  match xs with
  | [] => .ok s
  | x :: rest =>
    match s.globalWrite die ctx va (bytesOf e x) time (.die die) with
    | .error c => .error (s.arrayStop ctx die va .wr c)
    | .ok t => t.arrayWrite ctx die (va + e) e time rest

/-- The fold of one element over the ranks in ascending order, as SRED combines (13 R260). -/
def foldRanks (fn : RedFn) (f : Fmt) (xs : List Nat) : Nat :=
  match xs with
  | [] => 0
  | x :: rest => rest.foldl (fun acc v => (redStep fn f acc v).1) x

/-- The destination array of rank `m`, from the sources of the ranks in ascending order. -/
def Post.result (p : Post) (srcs : List (List Nat)) (m : Nat) : List Nat :=
  let at_ (i : Nat) : Nat := foldRanks p.fn p.fmt (srcs.map fun xs => xs.getD i 0)
  match p.op with
  | .ared => (List.range p.count).map at_
  | .rsc => (List.range p.count).map fun i => at_ (m * p.count + i)
  | .agat => srcs.flatten
  | .bcast => srcs.getD p.root []
  | .bar => []

/-- What must agree among the ranks of a step. -/
def Post.shape (p : Post) : CollOp × RedFn × Fmt × Nat × Nat := (p.op, p.fn, p.fmt, p.count, p.root)

/-- The same of what a peer brings. -/
def peerShape (p : PeerPost) : CollOp × RedFn × Fmt × Nat × Nat := (p.op, p.fn, p.fmt, p.count, p.root)

/-- The elements of a byte string. -/
def elementsOf (e : Nat) (bs : List Byte) : List Nat :=
  (List.range (bs.length / e)).map fun i => ofBytes ((bs.drop (e * i)).take e)

/-- The steps of a group that are outstanding at the members of this device, by rank: those of step `k`. -/
def Group.posted (g : Group) (k : Nat) : NMap (Rank × Post) :=
  g.ranks.filterMap fun (r, x) => (NMap.get? x.posts k).map fun p => (r, (x, p))

/-- The step that runs next: the least outstanding one. -/
def Group.step (g : Group) : Option Nat :=
  g.ranks.foldl (fun m (_, x) => x.posts.foldl (fun m (k, _) => some (match m with
    | some n => Nat.min n k
    | none => k)) m) none

/-- A step is over: it leaves the members, and the members on peers are past it. -/
def State.closeStep (s : State) (gid k : Nat) : State :=
  match NMap.get? s.groups gid with
  | none => s
  | some g =>
    let ranks := g.ranks.map fun ((r, x) : Nat × Rank) =>
      (r, if x.dev = 0 then { x with posts := NMap.erase x.posts k } else { x with next := k + 1 })
    { s with groups := NMap.set s.groups gid { g with ranks := ranks } }.postOnce (.collStepRun gid [] [] .done)

/-- A step that fails at every member (20 R388); at those of `bad` last, whose contexts freeze at an address (17 R340). -/
def State.failAll (s : State) (gid k : Nat) (g : Group) (code : Nat) (bad : List (Nat × Nat)) : State :=
  let mine (r : Nat) : Option Nat := (bad.find? fun b => b.1 == r).map (·.2)
  let xs := (g.posted k).map fun (r, _, p) => Failing.mk p code (mine r)
  (s.closeStep gid k).fail gid (xs.filter (·.freeze.isNone) ++ xs.filter (·.freeze.isSome))

/-- What rank `r` of a group of `n` sends. -/
def State.source (s : State) (n r : Nat) (p : Post) : Except ArrayStop (List Nat) :=
  s.arrayRead p.ctx p.die p.src.toNat (p.fmt.width / 8) (p.srcCount n r)

/-- The sources of a step in rank order, or the first that cannot be read, with its context. -/
def State.sources (s : State) (g : Group) (posts : NMap (Rank × Post)) (peers : List PeerPost) :
    Except (Nat × ArrayStop) (List (List Nat)) :=
  (List.range g.size).foldl (fun acc r =>
    match acc with
    | .error e => .error e
    | .ok xss =>
      match NMap.get? posts r with
      | some (_, p) =>
        (match s.source g.size r p with
        | .ok xs => .ok (xss ++ [xs])
        | .error e => .error (p.ctx, e))
      | none => match peers.find? fun p => p.rank == r with
        | some p => .ok (xss ++ [elementsOf (p.fmt.width / 8) p.data])
        | none => .ok (xss ++ [[]])) (.ok [])

/-- The ranks of this device whose source holds a poisoned sector, with the address (17 R340). -/
def State.badSources (s : State) (n : Nat) (posts : NMap (Rank × Post)) : List (Nat × Nat) :=
  posts.filterMap fun (r, _, p) => match s.source n r p with
    | .error (.poisoned a) => some (r, a)
    | _ => none

/-- A step meets an array that cannot be used: a local refusal freezes the context (20 R387), and the others fail the step (20 R388,
17 R340). -/
def State.stopStep (s : State) (gid k : Nat) (g : Group) (ctx : Nat) (write : Bool) (e : ArrayStop) : State :=
  match e with
  | .refused a => s.freeze ctx 0xFF 5 write a
  | .peer c => s.failAll gid k g c []
  | .poisoned _ => s.failAll gid k g 3 (s.badSources g.size (g.posted k))

/-- Every destination of a step written, then every completion word (20 R388). -/
def State.deliverStep (s : State) (gid k : Nat) (g : Group) (posts : NMap (Rank × Post)) (srcs : List (List Nat)) : State :=
  let written : Except (Nat × ArrayStop) State := posts.foldl (fun (acc : Except (Nat × ArrayStop) State) (r, _, p) =>
    match acc with
    | .error e => .error e
    | .ok t => match t.arrayWrite p.ctx p.die p.dst.toNat (p.fmt.width / 8) p.time (p.result srcs r) with
      | .error e => .error (p.ctx, e)
      | .ok u => .ok u) (.ok s)
  match written with
  | .error (c, e) => s.stopStep gid k g c true e
  | .ok t => posts.foldl (fun t (_, _, p) => t.stepDone p p.doneval) (t.closeStep gid k)

/-- The ranges that a part of a step of `n` members writes. -/
def Post.writeRanges (p : Post) (n : Nat) : List (Nat × Nat × Nat × Nat × Need) :=
  [(p.die, p.ctx, p.dst.toNat, p.dstBytes n, .wr), (p.die, p.ctx, p.done.toNat, if p.done = 0 then 0 else 8, .wr)]

/-- The ranges that a step reaches for the members of this device: die, context, address, length and access. -/
def stepRanges (n : Nat) (posts : NMap (Rank × Post)) : List (Nat × Nat × Nat × Nat × Need) :=
  posts.flatMap fun (r, _, p) => (p.die, p.ctx, p.src.toNat, p.srcCount n r * (p.fmt.width / 8), .rd) :: p.writeRanges n

/-- The home sectors that ranges reach, with the die and whether they are written. -/
def State.rangesSectors (s : State) (rs : List (Nat × Nat × Nat × Nat × Need)) : List (Nat × Bool × Nat) :=
  rs.flatMap fun (die, ctx, va, len, nd) => (s.rangeSectors die ctx va len nd).map fun k => (die, nd.writes, k)

/-- A request of the fabric waits for a sector that a translation of it needs, or for the homes of what it reads and writes, where
each writer's die keeps its copy (17 R327, R332, R334). -/
def State.heldRanges (s : State) (rs : List (Nat × Nat × Nat × Nat × Need)) (i : Instr) : Option State :=
  match rs.findSome? fun (die, ctx, va, len, nd) => s.rangeAway die ctx va len nd with
  | some k => some ((s.held k i).getD (s.soon i))
  | none =>
    let secs := s.rangesSectors rs
    s.heldTell (secs.map (·.2.2)) (fun k => secs.foldl (fun m (die, wr, x) =>
      if wr && x == k then m ||| s.mustTell k (.die die) else m) 0) i

/-- What a step waits for. -/
def State.heldStep (s : State) (n : Nat) (posts : NMap (Rank × Post)) (i : Instr) : Option State :=
  s.heldRanges (stepRanges n posts) i

/-- What the end of a part of a step that has failed waits for: nothing where its context has been stopped. -/
def State.heldFailing (s : State) (n : Nat) (x : Failing) (i : Instr) : Option State :=
  if s.engineRuns x.post.ctx then s.heldRanges (x.post.writeRanges n) i else none

/-- A member on a peer that brings its part of a step or a proposal has joined. -/
def State.peersJoined (s : State) (gid : Nat) (rs : List Nat) : State :=
  match NMap.get? s.groups gid with
  | none => s
  | some g =>
    let ranks := g.ranks.map fun ((r, x) : Nat × Rank) => (r, if rs.contains r && x.dev != 0 then { x with vacant := false } else x)
    { s with groups := NMap.set s.groups gid { g with ranks := ranks } }

/-- The outstanding steps of members whose waves were stopped are cancelled (20 R391). -/
def State.dropStopped (s : State) (gid : Nat) : State :=
  match NMap.get? s.groups gid with
  | none => s
  | some g => (g.ranks.filter fun (_, x) => x.vacant && x.aborted && !x.posts.isEmpty).foldl
      (fun s (r, _) => s.abortRank gid r) s

/-- A step of which nothing need be waited for (20 R388, R392). -/
def State.runFreeStep (s : State) (gid k : Nat) (g : Group) (peers : List PeerPost) (e : FabricEnd) (posts : NMap (Rank × Post))
    (vacant differ : Bool) : State :=
  if vacant then s.failAll gid k g 6 []
  else if differ then s.failAll gid k g 5 []
  else if e = .refused then s.failAll gid k g 1 []
  else if e = .linkLost || g.ranks.any fun (_, x) => s.lostPeers.contains x.dev then s.failAll gid k g 2 []
  else if e = .poisoned then s.failAll gid k g 3 []
  else
    let reads := (s.rangesSectors (stepRanges g.size posts)).filter fun (_, wr, _) => !wr
    let s := s.touchSectors (reads.map (·.2.2)) false
    match s.sources g posts peers with
    | .error (c, x) => s.stopStep gid k g c false x
    | .ok srcs => s.deliverStep gid k g posts srcs

/-- A step of which every member that has joined has issued its part; while a rank is vacant no step runs to its end (20 R388,
R392). -/
def State.runStep (s : State) (gid k : Nat) (g : Group) (peers : List PeerPost) (e : FabricEnd) : State :=
  let posts := g.posted k
  let missing := g.ranks.filter fun (r, _) =>
    (NMap.get? posts r).isNone && !(peers.any fun p => p.rank == r)
  let shapes := posts.map (fun (_, _, p) => p.shape) ++ peers.map peerShape
  if missing.any fun (_, x) => !x.vacant then s
  else if posts.any fun (_, _, p) => !s.engineRuns p.ctx then s
  else match s.heldStep g.size posts (.collStepRun gid peers [] e) with
  | some t => t
  | none => s.runFreeStep gid k g peers e posts (g.ranks.any fun (_, x) => x.vacant) (shapes.any fun x => some x != shapes.head?)

/-- The next part of a step of a group that has failed ends, or waits; the group is then looked at again (20 R388). -/
def State.runFailing (s : State) (gid : Nat) (g : Group) (x : Failing) (rest : List Failing) (again : Instr) : State :=
  match s.heldFailing g.size x again with
  | some t => t
  | none =>
    ({ s with groups := NMap.set s.groups gid { g with failing := rest } }.endFailing g.size x).postOnce again

/-- COLL_STEP_RUN (20 R388, R392): `peers` is what the members on peers bring, and `gone` are those of them that have
retired. What has failed ends first. -/
def execCollStepRun (gid : Nat) (peers : List PeerPost) (gone : List Nat) (e : FabricEnd) (s : State) :
    Host.Outcome State Fault Refusal :=
  let s := (((s.vacate gid gone).peersJoined gid (peers.map (·.rank))).dropStopped gid)
  match NMap.get? s.groups gid with
  | none => s.event
  | some g => match g.failing, g.step with
    | x :: rest, _ => (s.runFailing gid g x rest (.collStepRun gid peers [] e)).event
    | [], none => s.event
    | [], some k => (s.runStep gid k g peers e).event

/-! STEPAGR (20 R389, R390). -/

/-- What both forms of STEPAGR check, and the release that they begin with (20 R390): the membership of a handle, none where the wave
does not hold it. -/
def State.stepagrHead (s : State) (h : Src) (b : Option Src) : Except Stop (Option Member) := do
  s.noSprig
  s.srcTag countTag h
  match b with
  | some x => s.srcTag countTag x
  | none => .ok ()
  s.noRunAhead
  s.noTx 2
  need (s.over s.cur s.who .accesses) (.wait .accesses)
  .ok (NMap.get? s.cur.members (s.image h).toNat)

/-- STEPAGR returns a value: it ends as the acquire of its fence does (20 R390). -/
def State.stepagrGives (s : State) (d : BitVec 6) (v : W64) : State := (s.setSys (s.sys.acquire s.gt)).deferS d .n64 v

/-- STEPAGR.read (20 R390). -/
def execStepagrRead (d : BitVec 6) (h : Src) (s : State) : Host.Outcome State Fault Refusal :=
  s.finish do
    let m ← s.stepagrHead h none
    match m with
    | none => .ok (s.stepagrGives d (w64 (2 ^ 63 + 2)))
    | some m => .ok (s.stepagrGives d (w64 (((NMap.get? s.groups m.gid).map fun g => g.agreed.toNat).getD 0)))

/-- STEPAGR (20 R390): the split waits for the others' proposals. -/
def execStepagr (d : BitVec 6) (h x : Src) (s : State) : Host.Outcome State Fault Refusal :=
  s.finish do
    let m ← s.stepagrHead h (some x)
    match m with
    | none => .ok (s.stepagrGives d (w64 (2 ^ 63 + 2)))
    | some _ => .error (.park (.stepagr d (s.image h).toNat ((s.image x).truncate 32)) none)

/-- What a thread that is blocked in STEPAGR waits with: its destination, its handle and its proposal. -/
structure Agreeing where
  who : Who
  since : Nat
  d : BitVec 6
  handle : Nat
  proposal : W32
  deriving DecidableEq, Repr

/-- The STEPAGR of a wave on a group that is agreed on next: the one that has waited longest, as one agreement is made of one
STEPAGR of each member (20 R390, log entry 95). -/
def Wave.agreeing (w : Wave) (gid : Nat) : Option Agreeing :=
  (w.threads.filterMap fun (who, t) => match t.park with
    | .stepagr d h s => if (NMap.get? w.members h).any fun m => m.gid == gid then some ⟨who, t.since, d, h, s⟩ else none
    | _ => none).foldl (fun best x => match best with
      | some b => if x.since < b.since then some x else some b
      | none => some x) none

/-- The proposal of a rank: of the wave on this device, or what a peer has brought. -/
def State.proposalOf (s : State) (gid : Nat) (x : Rank) : Option W32 :=
  match x.wave with
  | some v => (s.wave? v).bind fun w => (w.agreeing gid).map (·.proposal)
  | none => x.proposal

/-- The step that a group agrees on: the least proposal, once every rank that is not vacant has one. -/
def State.agreement (s : State) (gid : Nat) (g : Group) : Option W32 :=
  let live := g.ranks.filter fun (_, x) => !x.vacant
  if live.any fun (_, x) => (s.proposalOf gid x).isNone then none
  else live.foldl (fun (m : Option W32) (_, x) => match m, s.proposalOf gid x with
    | some a, some b => some (if b.toNat < a.toNat then b else a)
    | none, b => b
    | a, none => a) none

/-- What agreement on step `a` does at every rank: later steps are cancelled, next becomes a + 1, and the mark of an abort
goes (20 R390). -/
def State.unwind (s : State) (gid : Nat) (g : Group) (a : W32) : State :=
  let ranks := g.ranks.map fun ((r, x) : Nat × Rank) =>
    (r, { x with posts := x.posts.filter fun (k, _) => decide (k ≤ a.toNat), next := a.toNat + 1,
                 aborted := if x.vacant then x.aborted else false, proposal := none })
  { s with groups := NMap.set s.groups gid { g with ranks := ranks, agreed := a } }.fail gid
    (g.ranks.flatMap fun ((_, x) : Nat × Rank) => x.failsFrom (a.toNat + 1) 4)

/-- The STEPAGR of one thread of a wave returns (20 R390). -/
def State.stepagrDone (s : State) (w : Nat) (x : Agreeing) (a : W32) : State :=
  let s := s.select w x.who
  let s := { s with cur := { s.cur with step := BitVec.ofNat 36 (x.handle * 2 ^ 32 + a.toNat) } }
  (s.stepagrGives x.d (a.zeroExtend 64)).passOn

/-- The STEPAGR of a wave that has been agreed on returns. -/
def State.agreeWave (s : State) (gid : Nat) (a : W32) (w : Wave) : State :=
  match (s.wave? w.id).filter fun y => y.stage == Stage.running with
  | none => s
  | some y => match y.agreeing gid with
    | none => s
    | some x => s.stepagrDone w.id x a

/-- The group with the proposals that members on peers bring. -/
def Group.propose (g : Group) (peers : List (Nat × W32)) : Group :=
  { g with ranks := g.ranks.map fun ((r, x) : Nat × Rank) =>
      (r, match peers.find? fun p => p.1 == r with
        | some (_, v) => { x with proposal := some v }
        | none => x) }

/-- STEPAGR_AGREED (20 R390): `peers` are the proposals of members on peers, and `gone` those of them that have retired. -/
def execStepagrAgreed (gid : Nat) (peers : List (Nat × W32)) (gone : List Nat) (s : State) :
    Host.Outcome State Fault Refusal :=
  let s := (s.vacate gid gone).peersJoined gid (peers.map (·.1))
  match NMap.get? s.groups gid with
  | none => s.event
  | some g =>
    let g := g.propose peers
    let s := { s with groups := NMap.set s.groups gid g }
    match s.agreement gid g with
    | none => s.event
    | some a =>
      let waves := g.ranks.filterMap fun (_, x) => x.wave.bind s.wave?
      ((waves.foldl (fun t w => t.agreeWave gid a w) (s.unwind gid g a)).postOnce (.stepagrAgreed gid [] [])).event

end Sys2Proof.Machine
end

