-- ==== Sys2Proof/Machine/Sparse.lean ====
section
/-! DEFINITION. Computed sparsity (15): LDPRUNE, PATBIND and PATGEN. -/

namespace Sys2Proof

/-- The elements of a group (15 R297). -/
def Prune.group (p : Prune) : Nat :=
  match p with
  | .p48 => 8
  | _ => 4

/-- The metadata registers of a pattern (15 R297). -/
def Prune.metaRegs (p : Prune) : Nat :=
  match p with
  | .p48 => 3
  | _ => 2

end Sys2Proof

namespace Sys2Proof.Machine

/-! Pruning (15 R296, R297). -/

/-- An element's value for ranking; an integer's is exact. -/
def rankNum (f : Fmt) (c : Nat) : Num := if f.isFloat || f == .e4m3 || f == .e5m2 then numOf f c else numInt (f.num c)

/-- Element `x` ranks above element `y` by magnitude (15 R296). -/
def outranks (f : Fmt) (x y : Nat) : Bool :=
  let a := (rankNum f x)
  let b := (rankNum f y)
  match a, b with
  | .nan _, .nan _ => false
  | .nan _, _ => true
  | _, .nan _ => false
  | .inf _, .inf _ => false
  | .inf _, _ => true
  | _, .inf _ => false
  | _, _ => ltNum b.abs a.abs

/-- The positions of the `n` elements of a group that rank highest, ascending (15 R296). -/
def keptAt (f : Fmt) (n : Nat) (xs : List Nat) : List Nat :=
  (List.range xs.length).filter fun i =>
    decide (((List.range xs.length).filter fun j =>
      outranks f (xs.getD j 0) (xs.getD i 0) || (decide (j < i) && !outranks f (xs.getD i 0) (xs.getD j 0))).length < n)

/-- A group pruned: its kept elements and their positions as the layout holds them (15 R297). -/
def pruneGroup (f : Fmt) (p : Prune) (xs : List Nat) : List (Nat × Nat) :=
  match p with
  | .p24 => (keptAt f 2 xs).map fun i => (xs.getD i 0, i)
  | .p48 => (keptAt f 4 xs).map fun i => (xs.getD i 0, i)
  | .p14 =>
    let i := (keptAt f 1 xs).headD 0
    if i < 3 then [(xs.getD i 0, i), (0, i + 1)] else [(0, 2), (xs.getD i 0, 3)]

/-- The metadata bits of a group (15 R297). -/
def groupMeta (p : Prune) (kept : List (Nat × Nat)) : Nat :=
  let w := if p.group = 8 then 3 else 2
  ((List.range kept.length).zip kept).foldl (fun acc (k, _, i) => acc + i * 2 ^ (w * k)) 0

/-- A lane pruned: the images of its 8 value registers, and of its metadata registers (15 R297). -/
def pruneLane (f : Fmt) (p : Prune) (xs : List Nat) : List W64 × List W64 :=
  let groups := (chunksOf p.group xs).map (pruneGroup f p)
  let kept := groups.flatten.map (·.1)
  let per := 64 / f.width
  let bits := if p.group = 8 then 12 else 4
  let meta_ := ((List.range groups.length).zip groups).foldl (fun acc (g, k) => acc + groupMeta p k * 2 ^ (bits * g)) 0
  ((List.range 8).map fun r => buildElems f.width fun k => kept.getD (r * per + k) 0,
   (List.range p.metaRegs).map fun r => w64 (meta_ / 2 ^ (64 * r)))

/-! LDPRUNE (15 R298, R299). -/

/-- An element whose bits path W reads; none outside the extents. -/
def State.wElement (s : State) (sh : Shape) (shared : Bool) (ix : List Nat) : Except (Nat × W64) (Option ElemAt) :=
  if shared || !sh.holds ix then s.elementAt sh shared .rd ix
  else
    let a := sh.addr ix
    match s.wPiece .rd 0 (sh.fmt.width / 8) a.toNat with
    | .error c => .error (c, a)
    | .ok p => .ok (some ⟨⟨some p.target, p.pa, p.va⟩, false, none, none⟩)

/-- The words of global memory in which some places lie, as pieces of path W. -/
def State.wPieces (s : State) (ls : List (Loc × Nat)) : List Piece :=
  (ls.foldl (fun acc (l, _) => if l.tg.isSome then insertRising (l.va / 8) acc else acc) []).filterMap fun k =>
    (s.wPiece .rd 0 8 (8 * k)).toOption

/-- All of some pieces can be read at once on path W. -/
def State.wAllReady (s : State) (ps : List Piece) : Except Stop Unit := ps.forM s.wReady

/-- The elements of a lane, or its fault (13 R252). -/
def State.pruneElems (s : State) (f : LdpruneForm) (sh : Shape) (c0 k0 lane : Nat) :
    Except (Nat × W64) (List (Option ElemAt)) :=
  let xs := (List.range (1024 / f.fmt.width)).map fun k => s.wElement sh f.shared (if f.t then [c0 + lane, k0 + k] else [k0 + k, c0 + lane])
  match worst (errorsOf xs) with
  | some e => .error e
  | none => .ok (xs.filterMap fun x => match x with
    | .ok e => some e
    | .error _ => none)

/-- The code of an element read on path W (15 R298). -/
def State.wCode (s : State) (sh : Shape) (e : Option ElemAt) : Nat :=
  match e with
  | none => oobCode sh.fmt sh.nanOob
  | some e =>
    let n := sh.fmt.width / 8
    match e.loc.tg with
    | none => s.locNum s.cur.team e.loc n
    | some _ => match s.wPiece .rd 0 n e.loc.va with
      | .ok p => ofBytes (s.wPieceBytes p)
      | .error _ => 0

/-- What reading some pieces on path W leaves. -/
def State.wTouches (s : State) (ps : List Piece) : State := ps.foldl State.wSaw s

/-- The columns of the active lanes, or the fault of the lowest lane that has one. -/
def State.pruneLanes (s : State) (f : LdpruneForm) (sh : Shape) : Except Stop (NMap (List (Option ElemAt))) :=
  let (k0, c0) := match f.org with
    | some o => s.origin o
    | none => (0, 0)
  let rows := s.active.toList.map fun l => (l, s.pruneElems f sh c0 k0 l)
  match awayFirst (errorsOf (rows.map (·.2))) with
  | [] => .ok (rows.filterMap fun (l, x) => match x with
    | .ok e => some (l, e)
    | .error _ => none)
  | (c, a) :: _ =>
    let lanes := Mask.ofFn fun l => rows.any fun (m, x) => m == l && match x with
      | .error (d, _) => d == c
      | .ok _ => false
    .error (.trap { Trap.of c with addr := some a, lanes := some lanes })

/-- The tag of an origin register. -/
def State.orgTag (s : State) (org : Option Src) : Except Stop Unit :=
  match org with
  | some o => s.srcTag offsetTag o
  | none => .ok ()

/-- What LDPRUNE writes: 8 value registers, and those of the metadata (15 R297, R298). -/
def State.pruneRegs (s : State) (f : LdpruneForm) (sh : Shape) (rows : NMap (List (Option ElemAt))) :
    List (RegName × Fmt × Mask × (Nat → W64)) :=
  let lane (l : Nat) : List W64 × List W64 := pruneLane f.fmt f.pat ((NMap.getD rows l []).map (s.wCode sh))
  let lanes := (List.range 32).map fun l => if s.active.has l then lane l else ([], [])
  let reg (g : List W64 × List W64 → List W64) (k l : Nat) : W64 := (g (lanes.getD l ([], []))).getD k 0
  ((List.range 8).map fun k => (RegName.v (f.d.toNat + k), f.fmt, s.active, reg (·.1) k)) ++
    (List.range f.pat.metaRegs).map fun k => (RegName.v (f.m.toNat + k), Fmt.b64, s.active, reg (·.2) k)

/-- LDPRUNE (15 R298, R299). -/
def execLdprune (f : LdpruneForm) (s : State) : Host.Outcome State Fault Refusal :=
  s.finish do
    let d := f.d.toNat
    let m := f.m.toNat
    let mr := f.pat.metaRegs
    need (s.regsOk d 8 && s.regsOk m mr && (decide (d + 8 ≤ m) || decide (m + mr ≤ d))) illegal
    s.noSprig
    s.srcTag (baseTag .global) f.rec_
    s.orgTag f.org
    s.noTx 2
    if s.active = 0 then .ok s
    else
      let a := s.image f.rec_
      need (a.extractLsb' 0 6 == 0) (faultAt 3 a)
      let (ws, t) ← s.loadWords a.toNat 8
      let sh ← parseShape a ws (· == f.fmt)
      let rows ← s.pruneLanes f sh
      let ps := s.wPieces (rowPlaces sh rows)
      s.wAllReady ps
      .ok ((t.wTouches ps).defer (s.pruneRegs f sh rows) 0 [] none)

/-! Stencil programs (15 R301 to R303). -/

/-- A pattern as the tree that its postfix program builds (15 R302). -/
inductive Pat where
  | band (lo hi : Int)
  | dilate (stride phase : Nat)
  | blockdiag (size : Nat)
  | kron (p q : Pat) (bsr bsc : Nat)
  | hash (k seed : Nat)
  | union (p q : Pat)
  | intersect (p q : Pat)
  | clip (p : Pat) (side : Bool) (off : Int)
  deriving DecidableEq, Repr

/-- The first free column from `c` on (15 R303). -/
def probe (taken : List Nat) (n : Nat) : (fuel c : Nat) → Nat
  | 0, c => c
  | m + 1, c => if taken.contains c then probe taken n m ((c + 1) % n) else c

/-- H(r) of HASH (15 R303). -/
def hashColumns (k seed r n : Nat) : List Nat :=
  (List.range (Nat.min k n)).foldl (fun h j =>
    let x : W32 := BitVec.ofNat 32 (r * 0x2C1B3C6D + j * 0x297A2D39 + seed)
    let x := x ^^^ (x >>> 15)
    let x := x * 0x6C8E9CF5#32
    let x := x ^^^ (x >>> 13)
    h ++ [probe h n h.length (x.toNat % n)]) []

/-- member() (15 R302). -/
def Pat.member (p : Pat) (r c nr nc : Nat) : Bool :=
  decide (r < nr) && decide (c < nc) && match p with
    | .band lo hi => decide (lo ≤ (c : Int) - r) && decide ((c : Int) - r ≤ hi)
    | .dilate s ph => c % s == ph
    | .blockdiag b => r / b == c / b
    | .kron p q br bc =>
      p.member (r / br) (c / bc) ((nr + br - 1) / br) ((nc + bc - 1) / bc) && q.member (r % br) (c % bc) br bc
    | .hash k seed => (hashColumns k seed r nc).contains c
    | .union p q => p.member r c nr nc || q.member r c nr nc
    | .intersect p q => p.member r c nr nc && q.member r c nr nc
    | .clip p side off => p.member r c nr nc && (if side then decide (off ≤ (c : Int) - r) else decide ((c : Int) - r ≤ off))

/-- Whether a program can be walked from its columns (15 R304). -/
def Pat.invertible (p : Pat) : Bool :=
  match p with
  | .hash _ _ => false
  | .kron p q _ _ => p.invertible && q.invertible
  | .union p q => p.invertible && q.invertible
  | .intersect p q => p.invertible && q.invertible
  | .clip p _ _ => p.invertible
  | _ => true

/-- The fields of a step lie in their ranges (15 R301, R304). -/
def stepOk (w : W32) : Bool :=
  let x := w.toNat
  let hi := bitsOf x 14 14
  let lo := bitsOf x 0 14
  match x / 2 ^ 28 with
  | 0 => bitsOf x 0 28 == 0
  | 1 => decide (signedOf 14 hi ≤ signedOf 14 lo)
  | 2 => decide (1 ≤ hi) && decide (lo < hi)
  | 3 => decide (1 ≤ hi) && lo == 0
  | 4 => decide (1 ≤ hi) && decide (1 ≤ lo)
  | 5 => decide (1 ≤ bitsOf x 20 8)
  | 6 => bitsOf x 0 28 == 0
  | 7 => bitsOf x 0 28 == 0
  | 8 => true
  | _ => false

/-- The stack after a step; none where it pops an empty one or grows deeper than 8 (15 R301, R304). -/
def stepStack (w : W32) (st : List Pat) : Option (List Pat) :=
  let x := w.toNat
  let hi := bitsOf x 14 14
  let lo := bitsOf x 0 14
  let push (p : Pat) : Option (List Pat) := if st.length < 8 then some (p :: st) else none
  match x / 2 ^ 28, st with
  | 1, _ => push (.band (signedOf 14 hi) (signedOf 14 lo))
  | 2, _ => push (.dilate hi lo)
  | 3, _ => push (.blockdiag hi)
  | 4, q :: p :: rest => some (.kron p q hi lo :: rest)
  | 5, _ => push (.hash (bitsOf x 20 8) (bitsOf x 0 20))
  | 6, q :: p :: rest => some (.union p q :: rest)
  | 7, q :: p :: rest => some (.intersect p q :: rest)
  | 8, p :: rest => some (.clip p (x / 2 ^ 27 % 2 == 1) (signedOf 27 x) :: rest)
  | _, _ => none

/-- The tree of a checked program (15 R302). -/
def patternOf (steps : List W32) : Option Pat :=
  match steps.foldl (fun st w => (st.bind (stepStack w))) (some []) with
  | some [p] => some p
  | _ => none

/-! PATBIND (15 R300, R304 to R306). -/

/-- The number of the first step of a program that offends, from step `n` on with stack `st`; after the first END every
step is 0 (15 R301, R304). -/
def badStep (n : Nat) (ended : Bool) (st : List Pat) (ws : List W32) : Option Nat :=
  match ws with
  | [] => if ended || st.length = 1 then none else some 15
  | w :: rest =>
    if ended then (if w = 0 then badStep (n + 1) true st rest else some n)
    else if !stepOk w then some n
    else if w.toNat / 2 ^ 28 = 0 then (if st.length = 1 then badStep (n + 1) true st rest else some n)
    else match stepStack w st with
      | none => some n
      | some st => badStep (n + 1) false st rest

/-- The steps of a bind record. -/
def bindSteps (ws : List W64) : List W32 := (List.range 16).map fun n => BitVec.ofNat 32 (wordsField ws (0x20 + 4 * n) 4)

/-- The first condition of 15 R304 that a record meets: the cause and the offset of the field or step, or of the address
itself where that is misaligned. -/
def bindFault (a : W64) (ws : List W64) : Option (Nat × W64) :=
  let g := wordsField ws
  let big (n : Nat) : Bool := decide (n = 0) || decide (2 ^ 28 < n)
  if g 8 8 % 4 ≠ 0 then some (3, a + 8)
  else if g 0x10 8 % 4 ≠ 0 then some (3, a + 0x10)
  else if big (g 0 4) then some (7, a)
  else if big (g 4 4) then some (7, a + 4)
  else if g 8 8 = 0 ∧ g 0x10 8 ≠ 0 then some (7, a + 0x10)
  else if g 0x18 8 ≠ 0 then some (7, a + 0x18)
  else match badStep 0 false [] (bindSteps ws) with
    | some n => some (7, a + w64 (0x20 + 4 * n))
    | none =>
      if (List.range 4).any fun k => g (0x60 + 8 * k) 8 != 0 then some (7, a + 0x60) else none

/-- A slot from its record: the steps before the first END (15 R305, R306). -/
def bindOf (ws : List W64) : Bind :=
  let g := wordsField ws
  { steps := (bindSteps ws).takeWhile (· != 0), nrows := g 0 4, ncols := g 4 4, invptr := w64 (g 8 8),
    invidx := w64 (g 0x10 8) }

/-- PATBIND (15 R305). -/
def execPatbind (slot : BitVec 3) (rec_ : Src) (s : State) : Host.Outcome State Fault Refusal :=
  s.finish do
    s.noSprig
    s.srcTag addrTag rec_
    s.noRunAhead
    s.noTx 2
    let a := s.image rec_
    need (a.extractLsb' 0 7 == 0) (faultAt 3 a)
    let (ws, t) ← s.loadWords a.toNat 16
    match bindFault a ws with
    | some (c, x) => .error (faultAt c x)
    | none => .ok { t with cur := { t.cur with binds := t.cur.binds.set slot.toNat (some (bindOf ws)) } }

/-- PATBIND.clear (15 R305). -/
def execPatbindClear (slot : BitVec 3) (s : State) : Host.Outcome State Fault Refusal :=
  s.finish do
    s.noSprig
    s.noRunAhead
    s.noTx 2
    .ok { s with cur := { s.cur with binds := s.cur.binds.set slot.toNat none } }

/-! PATGEN (15 R307 to R309). -/

/-- The slot as it stood before the chain group (15 R305). -/
def State.bindSlot (s : State) (n : Nat) : Option Bind := s.view.binds.getD n none

/-- The columns of row `t`, ascending (15 R307). -/
def rowList (b : Bind) (p : Pat) (t : Nat) : List Nat := (List.range b.ncols).filter fun c => p.member t c b.nrows b.ncols

/-- The rows of column `t`, ascending (15 R308). -/
def columnList (b : Bind) (p : Pat) (t : Nat) : List Nat := (List.range b.nrows).filter fun r => p.member r t b.nrows b.ncols

/-- A 4-byte word of an inverse table on path W, and its sector (15 R308). -/
def State.tableWord (s : State) (a : Nat) : Except (Nat × Nat) (Nat × Loc) :=
  match s.wPiece .rd 0 4 a with
  | .error c => .error (c, a)
  | .ok p => .ok (ofBytes (s.wPieceBytes p), ⟨some p.target, p.pa, a⟩)

/-- What a walk finds: the length of the list, and its entry for each lane, or the lane that faults (15 R307, R308). -/
structure Walk where
  length : Nat
  entries : NMap Nat
  places : List (Loc × Nat)
  fault : Option (Nat × Trap)
  deriving DecidableEq, Repr

/-- A walk of a list that the program gives. -/
def walkOf (list_ : List Nat) (pos : Nat) : Walk :=
  { length := list_.length, entries := (List.range 32).filterMap fun j => (list_[pos + j]?).map fun x => (j, x),
    places := [], fault := none }

/-- A fault of lane `j` in a table read. -/
def tableFault (j : Nat) (x : Nat × Nat) : Nat × Trap :=
  (j, { Trap.of x.1 with addr := some (w64 x.2), lanes := some (Mask.lane j) })

/-- Of the refusals of two entries the one with the first cause in the order of 13 R252. -/
def worstEntry {α : Type} (x y : Except (Nat × Nat) α) : Option (Nat × Nat) :=
  match x, y with
  | .error a, .error b => some (if causeRank b.1 < causeRank a.1 then b else a)
  | .error a, _ => some a
  | _, .error b => some b
  | _, _ => none

/-- A walk of column `t` through the inverse table, for the lanes given (15 R308). -/
def State.tableWalk (s : State) (b : Bind) (t pos : Nat) (lanes : List Nat) : Walk :=
  let a := b.invptr.toNat + 4 * t
  let first := lanes.headD 0
  if b.ncols ≤ t then walkOf [] pos
  else match s.tableWord a, s.tableWord (a + 4) with
    | .ok (p0, l0), .ok (p1, l1) =>
      lanes.foldl (fun (w : Walk) j =>
        if w.fault.isSome || w.length ≤ pos + j then w
        else match s.tableWord (b.invidx.toNat + 4 * (p0 + pos + j)) with
          | .error x => { w with fault := some (tableFault j x) }
          | .ok (v, l) => { w with entries := w.entries ++ [(j, v)], places := (l, 4) :: w.places })
        ⟨p1 - p0, [], [(l0, 4), (l1, 4)], none⟩
    | p0, p1 => ⟨0, [], [], (worstEntry p0 p1).map (tableFault first)⟩

/-- The slot of a PATGEN and its pattern. -/
def State.boundPattern (s : State) (slot : Nat) : Option (Bind × Pat) :=
  (s.bindSlot slot).bind fun b => (patternOf b.steps).map fun p => (b, p)

/-- The row or column that PATGEN walks. -/
def State.patLine (s : State) (f : PatgenForm) : Nat := elem 32 (s.image f.a) 0

/-- The position from which it walks. -/
def State.patPos (s : State) (f : PatgenForm) : Nat := elem 32 (s.image (.s f.b)) 0

/-- The walk of a PATGEN, its lanes from PROG on and below `cut`: of a row or a column of the program, or of the inverse table. -/
def State.patWalk (s : State) (f : PatgenForm) (b : Bind) (p : Pat) (cut : Option Nat) : Walk :=
  if !f.tr then walkOf (rowList b p (s.patLine f)) (s.patPos f)
  else if b.invptr = 0 then walkOf (columnList b p (s.patLine f)) (s.patPos f)
  else s.tableWalk b (s.patLine f) (s.patPos f) (lanesBelow s.lanesLeft cut)

/-- What PATGEN writes to its vector register in the lanes from PROG on that `ok` admits (15 R307). -/
def State.patVector (s : State) (f : PatgenForm) (w : Walk) (ok : Nat → Bool) : RegName × Fmt × Mask × (Nat → W64) :=
  (.v f.d.toNat, .idx32, Mask.ofFn fun l => s.active.has l && decide (s.cur.prog.toNat ≤ l) && ok l,
    fun l => match NMap.get? w.entries l with
      | some x => w64 (x + s.patLine f * 2 ^ 32)
      | none => -1)

/-- PATGEN (15 R307 to R309). -/
def execPatgen (f : PatgenForm) (s : State) : Host.Outcome State Fault Refusal :=
  s.finish do
    need (s.regOk f.d.toNat) illegal
    s.noSprig
    match s.boundPattern f.slot.toNat with
    | none => .error illegal
    | some (b, p) =>
      s.srcTag countTag f.a
      s.srcTag countTag (.s f.b)
      need (!f.tr || b.invptr != 0 || p.invertible) (.trap { Trap.of 11 with code := f.slot.toNat })
      if s.active = 0 then .ok s.endLong
      else
        need (!f.tr || b.invptr == 0 || s.over s.cur s.who .accesses) (.wait .accesses)
        let cut := s.shortAt s.lanesLeft
        let w := s.patWalk f b p cut
        let ps := s.wPieces w.places
        s.wAllReady ps
        let pos := s.patPos f
        let n := Nat.min 32 (w.length - pos)
        let rs := match (w.fault.map (·.1)).or cut with
          | some j => [s.patVector f w fun l => decide (l < j)]
          | none => [s.patVector f w fun _ => true, (.s f.b.toNat, .n64, -1, fun _ => w64 ((pos + n) % 2 ^ 32 + n * 2 ^ 32))]
        s.closeLong ((s.wTouches ps).defer rs 0 [] none) (w.fault.map fun (j, tr) => (w64 j, tr))
          (if w.fault.isSome then none else cut)

end Sys2Proof.Machine
end

