-- ==== Sys2Proof/Machine/SysReg.lean ====
section
/-! DEFINITION. System registers (07 R168 to R170), register blocks (03 R71, R72) and PULL (08 R184). -/

namespace Sys2Proof.Machine

/-! SGET (07 R169, 08 R175). -/

/-- An index that SGET reads (07 R168); CHWPn only below CHANS (02 R43). -/
def State.sgetIndex (s : State) (ix : Nat) : Bool :=
  decide (ix ≤ 6) || (decide (8 ≤ ix) && decide (ix ≤ 0x1A)) ||
    (decide (0x20 ≤ ix) && decide (ix < 0x20 + Nat.min 8 s.cur.foot.chans)) || (decide (0x30 ≤ ix) && decide (ix ≤ 0x37))

/-- The engine-state list, whose values have variable latency (07 R145). -/
def sgetVariable (ix : Nat) : Bool := ix == 0x17 || decide (0x20 ≤ ix)

/-- SPLITS as the issuing thread reads it (07 R155, 08 R175, 19 R367). -/
def State.splitsValue (s : State) : W64 :=
  match s.sprig? with
  | some p => w64 (p.splitsAtExport.toNat % 2 ^ 32 + (s.ownLanes &&& s.cur.live).toNat * 2 ^ 32)
  | none => s.cur.splitsWord s.thread.mask s.splitIx

/-- A register of the wave, or in a sprig its value at export (08 R175). -/
def State.waveReg (s : State) (ix : Nat) (now : W64) : W64 :=
  match s.sprig? with
  | some p => NMap.getD p.atExport ix now
  | none => now

/-- The value of a system register (07 R168, R170). -/
def State.sysValue (s : State) (ix : Nat) : W64 :=
  let w := s.cur
  let x := s.rsys
  if ix < 0x18 then
    match ix with
    | 0x000 => x.exec.zeroExtend 64
    | 0x002 => w.waveNo.zeroExtend 64
    | 0x003 => w.teamNo.zeroExtend 64
    | 0x004 => w64 w.quad
    | 0x005 => w64 w.cluster
    | 0x006 => w64 s.die
    | 0x008 => x.pts.zeroExtend 64
    | 0x009 => x.lease.zeroExtend 64
    | 0x00A => s.waveReg ix (s.inkwellWord { w with inkwell := s.view.inkwell })
    | 0x00B => s.waveReg ix s.view.prog
    | 0x00C => x.flags.zeroExtend 64
    | 0x00D => x.ftrap.zeroExtend 64
    | 0x00E => s.waveReg ix (s.view.expthr.zeroExtend 64)
    | 0x00F => w64 s.seenThread.preds.length
    | 0x010 => w64 s.seenThread.stack.length
    | 0x011 => s.splitsValue
    | 0x012 => s.waveReg ix w.xbase
    | 0x013 => s.waveReg ix (s.view.xgen.zeroExtend 64)
    | 0x014 => s.waveReg ix (s.view.step.zeroExtend 64)
    | 0x015 => s.waveReg ix w.trapinfo
    | 0x016 => s.waveReg ix w.trapaddr
    | 0x017 => s.waveReg ix s.seenThread.blocked.word
    | _ => 0
  else if ix = 0x18 then s.cycle
  else if ix = 0x19 then w64 s.tick
  else if ix = 0x1A then x.cwin.zeroExtend 64
  else if ix < 0x30 then s.waveReg ix (((s.view.chans[ix - 0x20]?).map (·.wp)).getD 0)
  else s.waveReg ix (Bind.word (s.view.binds.getD (ix - 0x30) none))

/-- SGET (07 R169). -/
def State.sgetTo (s : State) (fmt : Fmt) (d : Dest) (ix : Nat) : Except Stop State := do
  need (s.destOk d && s.sgetIndex ix) illegal
  match d with
  | .s r =>
    need (ix != 1) illegal
    .ok (if sgetVariable ix then s.deferS r fmt (s.sysValue ix) else s.writeS r.toNat fmt (s.sysValue ix))
  | .v r =>
    s.partialReady none (.v r)
    let g (l : Nat) : W64 := if ix = 1 then w64 l else s.sysValue ix
    .ok (if sgetVariable ix then s.defer [(.v r.toNat, fmt, s.active, g)] 0 [] none
      else s.writeV r.toNat fmt s.active g)

/-- SGET through fixed entry 6 (04 R94, 07 R169). -/
def execSgetFixed (d : BitVec 6) (ix : BitVec 12) (s : State) : Host.Outcome State Fault Refusal :=
  s.finish (s.sgetTo .b64 (.s d) ix.toNat)

/-- SGET (07 R169). A pinned index and one of the word are read alike. -/
def execSget (fmt : Fmt) (d : Dest) (ix : BitVec 12) (_ : Bool) (s : State) : Host.Outcome State Fault Refusal :=
  s.finish (s.sgetTo fmt d ix.toNat)

/-! SSET (07 R151, R168 to R170). -/

/-- An index that SSET writes (07 R168). -/
def ssetIndex (ix : Nat) : Bool :=
  ix == 0x000 || ix == 0x009 || ix == 0x00C || ix == 0x00D || ix == 0x00E || ix == 0x01A

/-- Whether a value lies in the range that a writable register states (07 R168, R169); its reserved bits are ignored
(00 R11), so the three bits of CWIN admit none outside its range. -/
def ssetInRange (ix : Nat) (v : W64) : Bool :=
  match ix with
  | 0x009 => decide (1 ≤ v.toNat % 4096)
  | 0x00E => decide (v.toNat % 16 ≤ 8)
  | _ => true

/-- The write of a system register: EXEC at the thread's own lanes only; FLAGS together with what its group raises
(06 R135); EXPTHR of a sprig is its own (08 R175). -/
def State.sysWrite (s : State) (ix : Nat) (v : W64) : State :=
  let x := s.sys
  match ix with
  | 0x000 =>
    let m := s.thread.mask
    (s.setSys { x with exec := (x.exec &&& ~~~m) ||| (v.truncate 32 &&& m) }).recheckBars
  | 0x009 => s.setSys { x with lease := v.truncate 12 }
  | 0x00C => s.setSys { x with flags := v.truncate 5 ||| s.issue.raised }
  | 0x00D => s.setSys { x with ftrap := v.truncate 5 }
  | 0x00E =>
    match s.who, s.sprig? with
    | .sprig j, some p =>
      let q := { p with atExport := NMap.set p.atExport 0x00E (v &&& 15) }
      { s with cur := { s.cur with sprigs := NMap.set s.cur.sprigs j q } }
    | _, _ => { s with cur := { s.cur with expthr := v.truncate 4 } }
  | 0x01A => s.setSys { x with cwin := v.truncate 3 }
  | _ => s

/-- SSET (07 R169). -/
def execSset (ix : BitVec 12) (a : Src) (s : State) : Host.Outcome State Fault Refusal :=
  s.finish do
    need (ssetIndex ix.toNat) illegal
    need (ssetInRange ix.toNat (s.image a)) illegal
    .ok (s.sysWrite ix.toNat (s.image a))

/-! BLKACQ and BLKREL (03 R72). -/

/-- The waves that have registers on a quadrant. -/
def State.onQuadrant (s : State) (unit : Nat) : List Wave :=
  s.allWaves.filter fun w => w.unit == unit && w.stage != .swapped && w.stage != .saved

/-- F: the free ordinary blocks of a quadrant (03 R71). -/
def State.freeBlocks (s : State) (unit : Nat) : Nat :=
  31 - (s.onQuadrant unit).foldl (fun acc w => acc + w.held - w.lent.toNat) 0

/-- E is free and the wave is the oldest of its quadrant (03 R71, R72). -/
def State.mayBorrow (s : State) (w : Wave) : Bool :=
  (s.onQuadrant w.unit).all fun x => !x.lent && decide (w.age ≤ x.age)

/-- Gives the wave `n` blocks, the new registers being zero with tag b64 (03 R72). -/
def Wave.acquire (w : Wave) (n : Nat) (lent : Bool) : Wave :=
  let fresh := (List.range 128).map fun r =>
    if 16 * w.held ≤ r ∧ r < 16 * n then (⟨.b64, List.replicate 32 0⟩ : VReg)
    else w.file.vregs.getD r ⟨.b64, []⟩
  { w with held := n, lent := w.lent || lent, file := { w.file with vregs := fresh } }

/-- The issuing wave with `n` blocks, if it may have them (03 R72). -/
def State.granted (s : State) (n : Nat) : Wave :=
  let w := s.cur
  let free := s.freeBlocks w.unit
  if n ≤ w.held then w
  else if n - w.held ≤ free then w.acquire n false
  else if n - w.held ≤ free + 1 && s.mayBorrow w then w.acquire n true
  else w

/-- BLKACQ (03 R72). -/
def execBlkacq (d : BitVec 6) (n : Src) (s : State) : Host.Outcome State Fault Refusal :=
  s.finish do
    s.noSprig
    s.srcTag countTag n
    let n := (s.value .n64 n)
    need (decide (1 ≤ n) && decide (n ≤ 8)) illegal
    .ok ({ s with cur := s.granted n }.writeS d.toNat .n64 (w64 (s.granted n).held))

/-- The registers above `n` blocks are pushed to the sprigs that have not pulled them (08 R174). -/
def State.pushFrom (s : State) (n : Nat) : State :=
  (List.range (16 * (s.cur.held - n))).foldl (fun t k => t.pushOut (.v (16 * n + k))) s

/-- BLKREL (03 R72). -/
def execBlkrel (d : BitVec 6) (n : Src) (s : State) : Host.Outcome State Fault Refusal :=
  s.finish do
    s.noSprig
    s.srcTag countTag n
    let n := (s.value .n64 n)
    need (decide (1 ≤ n) && decide (n ≤ 8)) illegal
    let h := s.cur.held
    if h ≤ n then .ok (s.writeS d.toNat .n64 (w64 h))
    else
      need (s.over s.cur s.who (.blocks n)) (.wait (.blocks n))
      let t := s.pushFrom n
      .ok ({ t with cur := { t.cur with held := n, lent := false } }.writeS d.toNat .n64 (w64 n))

/-! PULL (08 R184). -/

/-- The pulls of registers that the issuing sprig does not hold; none outside a sprig. -/
def State.pullRegs (s : State) (rs : List RegName) : State :=
  match s.who, s.sprig? with
  | .sprig j, some p => rs.foldl (fun t g => if p.held.contains g then t else t.postOnce (.flumePull s.cur.id j g)) s
  | _, _ => s

/-- PULL: in a sprig, a pull of every register that it does not hold. -/
def execPull (scalar : Bool) (r : BitVec 7) (n1 : BitVec 5) (s : State) : Host.Outcome State Fault Refusal :=
  s.finish do
    let n := n1.toNat + 1
    need (if scalar then decide (r.toNat + n ≤ 64) else s.regsOk r.toNat n) illegal
    .ok (s.pullRegs ((List.range n).map fun k => if scalar then .s (r.toNat + k) else .v (r.toNat + k)))

end Sys2Proof.Machine
end

