-- ==== Sys2Proof/Machine/Units.lean ====
section
/-! DEFINITION. What the front end, the dispatcher and the distributor share: their access to memory (03 R68), the units of
clusters and quadrants (01 R17, R33; 03 R69), and what becomes free when a wave or a team goes (20 R394, R395). -/

namespace Sys2Proof.Machine

/-! The front end's memory (03 R62, R65, R68). -/

/-- Bytes that the front end reads through a context's translation; none where translation or protection refuses one or its
sector is poisoned. -/
def State.frontRead (s : State) (ctx va n : Nat) : Option (List Byte) :=
  match s.globalWords 0 ctx (va / 8 * 8) ((va % 8 + n + 7) / 8) with
  | .ok ws => some (((ws.flatMap fun w => bytesOf 8 w.toNat).drop (va % 8)).take n)
  | .error _ => none

/-- The home sectors of a range of a context, with one that a translation of it must wait for. -/
def State.frontSectors (s : State) (ctx va n : Nat) (nd : Need) : List Nat :=
  (s.rangeAway 0 ctx va n nd).toList ++ s.rangeSectors 0 ctx va n nd

/-- An 8-byte store of the front end or the dispatcher (02 R47, 20 R395): nothing where the address is misaligned or
translation, protection or a seal refuses it. -/
def State.frontWrite (s : State) (ctx : Nat) (va v : W64) : Option State :=
  if va.toNat % 8 ≠ 0 then none
  else match s.globalWrite 0 ctx va.toNat (bytesOf 8 v.toNat) 0 .outside with
    | .ok t => some t
    | .error _ => none

/-- A refused access of the front end or the dispatcher freezes the context (03 R76, R77). -/
def State.freezeFront (s : State) (ctx : Nat) (write : Bool) (va : W64) : State := s.freeze ctx 0xFE 6 write va.toNat

/-- The front end and the distributor serve a context: it runs, and no save holds it (03 R61, 19 R376). -/
def State.serves (s : State) (ctx : Nat) : Bool := (s.ctx ctx).state == .run && !(s.ctx ctx).held

/-! The waves of a launch (02 R40, R41). -/

/-- The footprint in 4 bytes: blocks, tiles and channels from `off`, pencil tiles at `pen`. -/
def footAt (g : Nat → Nat → Nat) (off pen : Nat) : Foot := ⟨g off 1, g (off + 1) 1, g (off + 2) 1, g pen 1⟩

/-- A range of bytes of a record as a number. -/
def recField (r : List Byte) (off n : Nat) : Nat := ofBytes ((r.drop off).take n)

/-- The waves of a team or gang in ascending number, with their entry packets and footprints. -/
def recWaves (r : List Byte) : List (Nat × Nat × Foot) :=
  let g := recField r
  if g 0 2 = 1 then (List.range (g 0x30 2)).map fun n => (n, g 0x40 4, footAt g 0x35 0x3D)
  else
    ((List.range 3).foldl (fun (acc : List (Nat × Nat × Foot) × Nat) k =>
      let o := 0x50 + 16 * k
      let n := g (o + 4) 1
      (acc.1 ++ (List.range n).map (fun i => (acc.2 + i, g o 4, footAt g (o + 5) (o + 8))), acc.2 + (n + 3) / 4 * 4))
      ([], 0)).1

/-! Room (03 R69). -/

/-- The waves among some that run on quadrant `quad` of the half `half` of a pair (01 R33). -/
def onQuad (ws : List (Nat × Foot)) (half quad : Nat) : List Foot :=
  ws.filterMap fun (n, f) => if n / 16 = half ∧ n % 4 = quad then some f else none

/-- The channels of a quadrant that are taken: a wave swapped out keeps its own (18 R354). -/
def State.usedChans (s : State) (unit : Nat) : Nat :=
  (s.allWaves.filter fun w => w.unit == unit && w.stage != .saved).foldl (fun a w => a + w.foot.chans) 0

/-- A quadrant has room for some waves: slots, blocks, tiles, pencil tiles and channels. -/
def State.quadFits (s : State) (unit : Nat) (more : List Foot) : Bool :=
  let here := s.onQuadrant unit
  let sum (f : Foot → Nat) := more.foldl (fun a x => a + f x) 0
  decide (here.length + more.length ≤ 8) && decide (sum (·.blocks) ≤ s.freeBlocks unit) &&
    decide (here.foldl (fun a w => a + w.foot.tiles) (sum (·.tiles)) ≤ 8) &&
    decide (here.foldl (fun a w => a + w.foot.pencils) (sum (·.pencils)) ≤ 4) &&
    decide (s.usedChans unit + sum (·.chans) ≤ 16)

/-- The broad core of a cluster on which a team fits, core 0 for a pair. -/
def State.coreFor (s : State) (c : Nat) (pair : Bool) (ws : List (Nat × Foot)) : Option Nat :=
  let fits (core half : Nat) : Bool := (List.range 4).all fun q => s.quadFits (c * 16 + core * 4 + q) (onQuad ws half q)
  if pair then (if fits 0 0 && fits 1 1 then some 0 else none)
  else if fits 0 0 then some 0
  else if fits 1 0 then some 1
  else none

/-- The first quadrant of a cluster that has room for a task, those of core 0 first (log entry 74): its core and its
number. -/
def State.taskFor (s : State) (c : Nat) (f : Foot) : Option (Nat × Nat) :=
  ((List.range 8).find? fun k => s.quadFits (c * 16 + k) [f]).map fun k => (k / 4, k % 4)

/-- A quantity of the launch records summed over the teams of a cluster. -/
def State.usedOn (s : State) (c off n : Nat) : Nat :=
  s.teams.foldl (fun a (_, t) => if t.cluster = c then a + ((NMap.get? s.launches t.launch).map (·.field off n)).getD 0 else a) 0

/-- No team and no task is resident on a cluster. -/
def State.emptyCluster (s : State) (c : Nat) : Bool :=
  !(s.teams.any fun (_, t) => t.cluster == c) && !(s.allWaves.any fun w => w.cluster == c && w.stage != .saved)

/-- A cluster's division of its SRAM is a record's (01 R17). -/
def State.sameDivision (s : State) (c : Nat) (l : Launch) : Bool :=
  let k := s.cluster c
  k.l1 == l.field 0x32 1 && k.sh == l.field 0x33 1 && k.st == l.field 0x34 1

/-- Shared memory, stash and stash windows of a cluster, under the record's division, are free for one more of its teams. -/
def State.sramFits (s : State) (c : Nat) (l : Launch) : Bool :=
  decide (s.usedOn c 0x38 2 + l.field 0x38 2 ≤ 16 * l.field 0x33 1) &&
    decide (s.usedOn c 0x3A 2 + l.field 0x3A 2 ≤ 16 * l.field 0x34 1) &&
    decide (s.usedOn c 0x3C 1 + l.field 0x3C 1 ≤ 16)

/-! What becomes free. -/

/-- Something may now find room. -/
def State.roomMade (s : State) : State :=
  let s := (s.postOnce (.placeWork 0)).postOnce (.placeWork 1)
  s.allWaves.foldl (fun s w => if w.stage = .swapped then s.postOnce (.waveSwapIn w.id) else s) s

/-- A team retires: its stash goes home, and its shared memory, windows, barriers and rings go (20 R395, 12 R247). -/
def State.freeTeam (s : State) (t : Nat) : State :=
  match NMap.get? s.teams t with
  | none => s
  | some x =>
    let frames := (s.cluster x.cluster).stash.filter fun f => f.team == t
    let s := frames.foldl (fun s f => s.dropStash f.frame) s
    { s with teams := NMap.erase s.teams t, rings := s.rings.filter fun h => h.team != some t }

/-- A wave leaves its team: the last one takes the team with it, and else the barriers of the team are looked at again (18
R344). -/
def State.leaveTeam (s : State) (w : Wave) : State :=
  match w.team with
  | none => s
  | some t => match NMap.get? s.teams t with
    | none => s
    | some x =>
      let live := x.live.filter (· != w.id)
      match live with
      | [] => s.freeTeam t
      | v :: _ =>
        let s := { s with teams := NMap.set s.teams t { x with live := live } }
        (List.range 16).foldl (fun s id =>
          if ((x.bars[id]?).map (·.full)).getD [] = [] then s else s.postOnce (.barPhaseComplete v id)) s

/-- A wave's memberships end without a token, and its ranks become vacant (20 R392). -/
def State.leaveGroups (s : State) (w : Wave) : State :=
  w.members.foldl (fun s (_, m) =>
    match NMap.get? s.groups m.gid with
    | none => s
    | some g => match NMap.get? g.ranks m.rank with
      | none => s
      | some x =>
        if x.wave ≠ some w.id then s
        else
          let ranks := NMap.set g.ranks m.rank { x with vacant := true, wave := none, proposal := none }
          ({ s with groups := NMap.set s.groups m.gid { g with ranks := ranks } }.postOnce
            (.collStepRun m.gid [] [] .done)).postOnce (.stepagrAgreed m.gid [] [])) s

/-- A child of a resident wave has retired (03 R74): threads that AWAIT.kids holds are looked at. -/
def State.childGone (s : State) (parent : Option Nat) : State :=
  match parent.bind s.wave? with
  | none => s
  | some x =>
    let s := s.setWave { x with children := x.children - 1 }
    x.threads.foldl (fun s (who, t) => match t.park with
      | .await .kids => s.postOnce (.awaitWake x.id who)
      | _ => s) s

/-- A wave leaves its slot. -/
def State.removeWave (s : State) (w : Nat) : State :=
  if s.cur.id = w ∧ s.cur.stage ≠ .none then { s with cur := Wave.blank } else { s with waves := NMap.erase s.waves w }

/-- A launch whose teams are all placed and whose waves and descendants have all retired is complete (03 R74). -/
def State.checkLaunch (s : State) (l : Nat) : State :=
  match NMap.get? s.launches l with
  | some x => if x.outstanding = 0 ∧ x.unplaced = 0 then s.postOnce (.launchComplete l) else s
  | none => s

/-- One wave fewer is outstanding. -/
def State.launchLeft (s : State) (l : Nat) : State :=
  match NMap.get? s.launches l with
  | some x => { s with launches := NMap.set s.launches l { x with outstanding := x.outstanding - 1 } }.checkLaunch l
  | none => s

/-- Retirement of a wave (20 R394, R395). -/
def State.retire (s : State) (w : Wave) : State :=
  let s := (s.leaveGroups w).childGone w.parent
  (((s.leaveTeam w).removeWave w.id).launchLeft w.launch).roomMade

/-- What a wave waits for before it retires (20 R394). -/
def State.retirable (s : State) (w : Wave) : Bool :=
  w.pending.isEmpty && w.ops.isEmpty && !(w.chans.any fun c => !c.jobs.isEmpty) && s.over w (.split 0) .allAccesses

/-- WAVE_RETIRE (20 R394): the event happens again when something that the wave waits for has changed. -/
def execWaveRetire (w : Nat) (s : State) : Host.Outcome State Fault Refusal :=
  match s.wave? w with
  | none => s.event
  | some x => if x.stage = .retiring ∧ s.retirable x then (s.retire x).event else s.event

/-! Completion words (20 R395). -/

/-- STATUS and INFO of a completion word. -/
def doneWord (status info : Nat) : W64 := w64 (status * 2 ^ 60 + info % 2 ^ 32)

/-- A completion word written, or the context frozen (20 R395). -/
def State.writeDone (s : State) (ctx : Nat) (done : W64) (status info : Nat) : State :=
  if done = 0 then s
  else match s.frontWrite ctx done (doneWord status info) with
    | some t => t
    | none => s.freezeFront ctx true done

/-- Node `n` of an impression is done (02 R47): its successors may start, and after the last node the impression ends. -/
def State.nodeDone (s : State) (imp n : Nat) : State :=
  match NMap.get? s.impressions imp with
  | none => s
  | some x =>
    let nodes := ((s.ctx x.ctx).plates.getD x.slot Plate.reset).nodes
    let done := insertRising n x.done
    let s := { s with impressions := NMap.set s.impressions imp { x with done := done } }
    let s := ((nodes[n]?).map (·.succ)).getD [] |>.foldl (fun s k => s.postOnce (.nodeStart imp k)) s
    if done.length = nodes.length then s.postOnce (.impressionComplete imp) else s

/-- What follows a launch's completion word: its launch node is done, unless the word could not be written. -/
def State.launchOver (s : State) (ctx : Nat) (node : Option (Nat × Nat)) : State :=
  match node with
  | some (imp, n) => if (s.ctx ctx).state = .run then s.nodeDone imp n else s
  | none => s

/-- LAUNCH_COMPLETE (20 R395): DONE is written once every wave and descendant has retired; a launch that is stopped or torn
down writes none. -/
def execLaunchComplete (l : Nat) (s : State) : Host.Outcome State Fault Refusal :=
  match NMap.get? s.launches l with
  | none => s.event
  | some x =>
    if x.outstanding ≠ 0 ∨ x.unplaced ≠ 0 ∨ (s.ctx x.ctx).state ≠ .run then s.event
    else
      let done := w64 (x.field 0x20 8)
      match s.heldWrite (s.frontSectors x.ctx done.toNat (if done = 0 then 0 else 8) .wr) .outside (.launchComplete l) with
      | some t => t.event
      | none =>
        let s := { s with launches := NMap.erase s.launches l }.writeDone x.ctx done 0 (x.field 4 4)
        (s.launchOver x.ctx x.node).event

end Sys2Proof.Machine
end

