-- ==== Sys2Proof/Machine/Plates.lean ====
section
/-! DEFINITION. Graph plates, kicks, patch tables and impressions (02 R44 to R51; 03 R62 to R66; 20 R396). -/

namespace Sys2Proof.Machine

/-- Plate register `p` of a slot. -/
def State.plate (s : State) (n p : Nat) : Plate := (s.ctx n).plates.getD p Plate.reset

/-- Replaces a plate register. -/
def State.setPlate (s : State) (n p : Nat) (x : Plate) : State :=
  s.setCtx n { s.ctx n with plates := (s.ctx n).plates.set p x }

/-! Requests of a function (03 R76). -/

/-- A function is frozen by a violation. -/
def State.frozenFn (s : State) (fn : Nat) : Bool := s.aborting.contains (outsideKey (.host fn))

/-- A request of a function that makes the state `t`: while the function is frozen it has no effect and completes with
Completer Abort (03 R76). -/
def State.request (s : State) (fn : Nat) (t : State) : State := if s.frozenFn fn then s.send (.completerAbort fn) else t

/-- The function that a slot's window belongs to: its requests reach the slot's registers (03 R56). -/
def State.ownerOf (s : State) (n : Nat) : Nat := (s.ctx n).owner.toNat

/-! Kicks (03 R63 to R66). -/

/-- TAG of a KICK value (03 R63). -/
def kickTag (v : W64) : Nat := bitsOf v.toNat 48 16
/-- SLOT of a KICK value. -/
def kickSlot (v : W64) : Nat := bitsOf v.toNat 0 4
/-- The patch-table address that a KICK value names. -/
def kickTable (v : W64) : Nat := bitsOf v.toNat 4 44 * 16

/-- A drop is recorded in KICKSTAT (03 R63, R66). -/
def State.dropKick (s : State) (n : Nat) (v : W64) (code : Nat) : State :=
  s.setCtx n { s.ctx n with kickTag := BitVec.ofNat 16 (kickTag v), kickSlot := BitVec.ofNat 4 (kickSlot v),
                            kickNew := true, kickCode := BitVec.ofNat 4 code }

/-- The kick at the head of a plate slot's order (03 R65). -/
def State.headKick (s : State) (n p : Nat) : Option Kick := (s.ctx n).kicks.find? fun k => kickSlot k.value == p

/-- The first kick of a plate slot leaves the queue, and the next one is validated. -/
def State.popKick (s : State) (n p : Nat) : State :=
  let c := s.ctx n
  let s := s.setCtx n { c with kicks := c.kicks.eraseP fun k => kickSlot k.value == p }
  if (s.headKick n p).isSome then s.postOnce (.kickValidate n p) else s

/-- The head kick of a slot is dropped with a code. -/
def State.dropHead (s : State) (n p : Nat) (k : Kick) (code : Nat) : State := (s.popKick n p).dropKick n k.value code

/-- The head kick of a slot changed. -/
def State.setHead (s : State) (n p : Nat) (k : Kick) : State :=
  let c := s.ctx n
  match c.kicks.findIdx? fun x => kickSlot x.value == p with
  | some i => s.setCtx n { c with kicks := c.kicks.set i k }
  | none => s

/-- A write of KICK: dropped at once, or queued (03 R64). -/
def State.writeKick (s : State) (n : Nat) (v : W64) : State :=
  let s := s.setCtx n { s.ctx n with kickReg := v }
  let c := s.ctx n
  if !c.enable || c.state != .run then s.dropKick n v 6
  else if !(s.plate n (kickSlot v)).valid then s.dropKick n v 3
  else if 64 ≤ c.kicks.length then s.dropKick n v 5
  else (s.setCtx n { c with kicks := c.kicks ++ [⟨v, 0, 0, false⟩] }).postOnce (.kickValidate n (kickSlot v))

/-- KICK (03 R64, R76). -/
def execKick (n : Nat) (v : W64) (s : State) : Host.Outcome State Fault Refusal :=
  (s.request (s.ownerOf n) (s.writeKick n v)).event

/-! Patch tables (02 R49 to R51). -/

/-- Entry `i` of a patch table. -/
def patchAt (b : List Byte) (i : Nat) : Patch :=
  let g (o n : Nat) : Nat := recField b (16 * i + o) n
  ⟨g 0 2, g 2 1, g 3 1, g 4 4, w64 (g 8 8)⟩

/-- The bytes that a patch writes. -/
def Patch.width (p : Patch) : Nat := 2 ^ (p.size % 4)

/-- A patch that 02 R51 lets stand on a plate's nodes. -/
def Patch.ok (p : Patch) (nodes : List PlateNode) : Bool :=
  decide (p.size < 4) && decide (p.where_ ≤ 1) && ((nodes[p.node]?).map (·.kind)).getD 0 == 1 &&
    p.offset % p.width == 0 && decide (p.offset + p.width ≤ if p.where_ = 0 then 128 else 4096) &&
    !(p.where_ == 0 && decide (p.offset < 2))

/-- Bytes with a patch over them. -/
def Patch.apply (p : Patch) (bs : List Byte) : List Byte :=
  bs.take p.offset ++ bytesOf p.width p.value.toNat ++ bs.drop (p.offset + p.width)

/-- The patches of an impression for one part of a node, in table order: 0 its launch record, 1 its constant block. Each
launch node has copies of its own, also where two nodes name one record or one constant block (log entry 70). -/
def Impression.patched (x : Impression) (node part : Nat) (bs : List Byte) : List Byte :=
  (x.patches.filter fun p => p.node == node && p.where_ == part).foldl (fun bs p => p.apply bs) bs

/-- A kick whose header matches: its entries are read and checked, and it becomes an impression that is queued (02 R50,
R51; 03 R65). -/
def State.readPatches (s : State) (n p : Nat) (k : Kick) (h : List Byte) : State :=
  let count := recField h 2 2
  if 1024 < count || recField h 4 12 != 0 then s.dropHead n p k 2
  else match s.frontRead n (kickTable k.value + 16) (16 * count) with
    | none => s.dropHead n p k 4
    | some b =>
      let patches := (List.range count).map (patchAt b)
      let plate := s.plate n p
      if patches.any fun x => !x.ok plate.nodes then s.dropHead n p k 2
      else
        let x : Impression := { ctx := n, slot := p, tag := BitVec.ofNat 16 (kickTag k.value), plate := plate.base,
                                patches := patches, running := false, started := [], done := [] }
        ({ s with impressions := NMap.set s.impressions s.nextId x, nextId := s.nextId + 1 }.popKick n p).postOnce
          (.impressionStart n p)

/-- One read of the header for the head kick of a slot (03 R65): the first, or one a microsecond after another, of 65. -/
def State.tryKick (s : State) (n p : Nat) (k : Kick) : State :=
  match s.frontRead n (kickTable k.value) 16 with
  | none => s.dropHead n p k 4
  | some h =>
    if recField h 0 2 = kickTag k.value then s.readPatches n p k h
    else if 64 ≤ k.reads then s.dropHead n p k 1
    else s.setHead n p { k with reads := k.reads + 1, since := if k.reads = 0 then s.time else k.since }

/-- The sectors that a read for a kick must wait for. -/
def State.kickSectors (s : State) (n : Nat) (k : Kick) : List Nat :=
  s.frontSectors n (kickTable k.value) 16 .rd ++
    match s.frontRead n (kickTable k.value) 16 with
    | none => []
    | some h =>
      if recField h 0 2 = kickTag k.value ∧ recField h 2 2 ≤ 1024 then
        s.frontSectors n (kickTable k.value + 16) (16 * recField h 2 2) .rd
      else []

/-- The head kick of a slot reads, or is dropped with no-plate; it waits for a registration under way (03 R62, R65). -/
def State.stepKick (s : State) (n p : Nat) (k : Kick) (ev : Instr) : State :=
  if k.dead || !(s.plate n p).valid then s.dropHead n p k 3
  else if (s.plate n p).entry.isNone then s.postOnce ev
  else match s.heldAny (s.kickSectors n k) ev with
    | some t => t
    | none => (s.touchSectors (s.kickSectors n k) false).tryKick n p k

/-- KICK_VALIDATE (03 R65): the kick has reached the head of its slot's order. -/
def execKickValidate (n p : Nat) (s : State) : Host.Outcome State Fault Refusal :=
  match s.headKick n p with
  | none => s.event
  | some k => if !s.serves n || k.reads != 0 then s.event else (s.stepKick n p k (.kickValidate n p)).event

/-- KICK_RETRY (03 R65). -/
def execKickRetry (n p : Nat) (s : State) : Host.Outcome State Fault Refusal :=
  match s.headKick n p with
  | none => s.event
  | some k => if !s.serves n || k.reads == 0 then s.event else (s.stepKick n p k (.kickRetry n p)).event

/-! Registration (02 R44 to R46, 03 R62). -/

/-- The nodes that have node `k` among their successors. -/
def predsIn (nodes : List PlateNode) (k : Nat) : List Nat :=
  (List.range nodes.length).filter fun i => ((nodes[i]?).map (·.succ.contains k)).getD false

/-- The nodes that can be done after those of `done`, round after round. -/
def reachedNodes (nodes : List PlateNode) : (fuel : Nat) → (done : List Nat) → List Nat
  | 0, done => done
  | n + 1, done =>
    reachedNodes nodes n ((List.range nodes.length).filter fun k => (predsIn nodes k).all fun i => done.contains i)

/-- The edges form no cycle. -/
def acyclic (nodes : List PlateNode) : Bool := (reachedNodes nodes nodes.length []).length == nodes.length

/-- The header is one of a plate, with its tables inside SIZE (02 R44, R46; log entry 56). -/
def headerOk (h : List Byte) : Bool :=
  let g := recField h
  g 0 4 == 0x0001A7E0 && g 4 2 == 1 && decide (1 ≤ g 6 2) && decide (g 6 2 ≤ 4096) && decide (g 8 4 ≤ 65536) &&
    decide (64 ≤ g 12 4) && decide (g 12 4 ≤ 2 ^ 24) && g 16 8 % 32 == 0 && g 24 8 % 4 == 0 && g 32 32 == 0 &&
    decide (g 16 8 + 32 * g 6 2 ≤ g 12 4) && decide (g 24 8 + 4 * g 8 4 ≤ g 12 4)

/-- Node `i` of a node table is as 02 R45 and R46 ask, on edges and a size; log entry 56 names the refusals that R46's
list does not. -/
def nodeOk (b : List Byte) (edges : List Nat) (size i : Nat) : Bool :=
  let g (o n : Nat) : Nat := recField b (32 * i + o) n
  let kind := g 0 1
  decide (1 ≤ kind) && decide (kind ≤ 3) && g 1 1 == 0 && g 12 4 == 0 && g 2 2 == edges.count i &&
    (g 4 4 == 0 || decide (g 8 4 + g 4 4 ≤ edges.length)) && (kind == 3 || g 24 8 == 0) &&
    (kind != 1 || (g 16 8 % 128 == 0 && decide (g 16 8 + 128 ≤ size))) && (kind != 2 || g 16 8 == 0)

/-- Node `i` of a node table; the record of a launch node must be readable (log entry 56). -/
def State.nodeAt (s : State) (n base : Nat) (b : List Byte) (edges : List Nat) (i : Nat) : Option PlateNode :=
  let g (o n : Nat) : Nat := recField b (32 * i + o) n
  let x : PlateNode := ⟨g 0 1, (edges.drop (g 8 4)).take (g 4 4), w64 (g 16 8), w64 (g 24 8)⟩
  if x.kind ≠ 1 then some x
  else (s.frontRead n (base + g 16 8) 128).map fun _ => x

/-- The plate at an address: its size and nodes, or none where 02 R46 refuses it. -/
def State.readPlate (s : State) (n base : Nat) : Option (Nat × List PlateNode) := do
  let h ← s.frontRead n base 64
  if !headerOk h then none
  else
    let g := recField h
    let size := g 12 4
    let b ← s.frontRead n (base + g 16 8) (32 * g 6 2)
    let e ← s.frontRead n (base + g 24 8) (4 * g 8 4)
    let edges := (List.range (g 8 4)).map fun k => recField e (4 * k) 4
    if edges.any (fun k => decide (g 6 2 ≤ k)) || (List.range (g 6 2)).any fun i => !nodeOk b edges size i then none
    else
      let nodes ← (List.range (g 6 2)).mapM (s.nodeAt n base b edges)
      if acyclic nodes then some (size, nodes) else none

/-- The sectors that a registration must wait for: those of the whole plate. -/
def State.plateSectors (s : State) (n base : Nat) : List Nat :=
  s.frontSectors n base 64 .rd ++
    match s.frontRead n base 64 with
    | none => []
    | some h => if headerOk h then s.frontSectors n base (recField h 12 4) .rd else []

/-- The plate read and checked, and the words of its range sealed, or ERR set (02 R46, 03 R62, 12 R244). -/
def State.registerPlate (s : State) (n p : Nat) (addr : W64) : State :=
  let x := { Plate.reset with addr := addr }
  let asid := (s.ctx n).asid
  match s.readPlate n addr.toNat with
  | none => s.setPlate n p { x with err := true }
  | some (size, nodes) =>
    if s.sealOverlaps asid addr.toNat size || decide (64 ≤ s.sealTable.length) then s.setPlate n p { x with err := true }
    else
      let e := firstFree 63 (s.sealTable.map (·.1))
      let s := { s with sealTable := NMap.set s.sealTable e ⟨s.nextId, 0, asid, n, addr.toNat, roundUp size 8, false, true⟩,
                        nextId := s.nextId + 1 }
      s.setPlate n p { x with valid := true, entry := some e, base := addr, nodes := nodes }

/-- ADDR of a PLATE value. -/
def plateAddr (v : W64) : W64 := w64 (bitsOf v.toNat 12 46 * 4096)

/-- Some impression of a plate slot has not finished. -/
def State.slotBusy (s : State) (n p : Nat) : Bool := s.impressions.any fun (_, x) => x.ctx == n && x.slot == p

/-- The seal of an unregistered plate whose impressions have finished is released: the copies tagged with its entry go, no reply
brings one any more, and the entry is free once no engine reads its range (03 R62, 17 R337). -/
def State.releasePlate (s : State) (n p : Nat) : State :=
  let x := s.plate n p
  if !x.releasing || s.slotBusy n p then s
  else match x.entry with
    | none => s
    | some e =>
      let drop (k : Cluster) : Cluster := { k with blocks := k.blocks.filter fun b => b.sealTag != some e }
      let open_ (m : NMap SealEntry) : NMap SealEntry := match NMap.get? m e with
        | some y => NMap.set m e { y with opening := true, since := s.cycle.toNat }
        | none => m
      let s := { s with sealTable := open_ s.sealTable, clusters := s.clusters.map fun (c, k) => (c, drop k) }
      ((s.untag e).setPlate n p { x with releasing := false, entry := none, nodes := [] }).freeSeal e

/-- A write of VALID 1 that the device takes: ADDR is stored, ERR is clear, and VALID reads 1 while the plate is read (03 R62). -/
def State.openPlate (s : State) (n p : Nat) (addr : W64) : State :=
  (s.releasePlate n p).setPlate n p { Plate.reset with addr := addr, valid := true }

/-- A write of VALID 1 (03 R62): ignored while VALID reads 1, and while impressions of an unregistered plate run under a
seal still held; a seal that only waits to be released is released first. Where the plate's sectors must come first, the
registration goes on by the same event. -/
def State.writeValid1 (s : State) (n p : Nat) (v : W64) : State :=
  let x := s.plate n p
  if (x.valid && x.entry.isSome) || (x.releasing && s.slotBusy n p) || decide (16 ≤ p) then s
  else
    let s := if x.valid then s else s.openPlate n p (plateAddr v)
    let addr := (s.plate n p).addr
    (s.heldAny (s.plateSectors n addr.toNat) (.plateRegister n p v)).getD
      ((s.touchSectors (s.plateSectors n addr.toNat) false).registerPlate n p addr)

/-- Requests that are waiting are withdrawn; at a busy sector `idle` stands for the one that waits for its answers. -/
def State.withdraw (s : State) (gone : Instr → Bool) (idle : Instr) : State :=
  let busy (b : Busy) : Busy :=
    { b with req := if gone b.req then idle else b.req, waiting := b.waiting.filter fun i => !gone i }
  { s with agenda := s.agenda.filter fun i => !gone i, urgent := s.urgent.filter fun i => !gone i,
           sectors := s.sectors.map fun ((k, x) : Nat × Sector) => (k, { x with busy := x.busy.map busy }) }

/-- A registration under way is given up (03 R62). -/
def State.stopRegister (s : State) (n p : Nat) : State :=
  s.withdraw (fun i => match i with
    | .plateRegister m q _ => m == n && q == p
    | _ => false) (.plateSealRelease n p)

/-- PLATE_REGISTER (03 R62, R76). -/
def execPlateRegister (n p : Nat) (v : W64) (s : State) : Host.Outcome State Fault Refusal :=
  (s.request (s.ownerOf n) (s.writeValid1 n p v)).event

/-- The seal of an unregistered plate may be released. -/
def State.checkPlate (s : State) (n p : Nat) : State :=
  if (s.plate n p).releasing && !s.slotBusy n p then s.postOnce (.plateSealRelease n p) else s

/-- The kicks of a slot at a write of VALID 0: those queued are marked, and one that retries is dropped at once (03 R62,
R65). -/
def State.killKicks (s : State) (n p : Nat) : State :=
  let c := s.ctx n
  let s := s.setCtx n { c with kicks := c.kicks.map fun k => if kickSlot k.value = p then { k with dead := true } else k }
  match s.headKick n p with
  | some k => if k.reads = 0 then s else s.dropHead n p k 3
  | none => s

/-- A write of VALID 0 (03 R62). -/
def State.writeValid0 (s : State) (n p : Nat) (v : W64) : State :=
  let x := s.plate n p
  let s := s.setPlate n p { x with addr := plateAddr v, valid := false, releasing := x.releasing || (x.valid && x.entry.isSome) }
  ((s.stopRegister n p).killKicks n p).checkPlate n p

/-- PLATE_UNREGISTER (03 R62, R76). -/
def execPlateUnregister (n p : Nat) (v : W64) (s : State) : Host.Outcome State Fault Refusal :=
  (s.request (s.ownerOf n) (s.writeValid0 n p v)).event

/-- PLATE_SEAL_RELEASE (03 R62): the accepted impressions have finished. -/
def execPlateSealRelease (n p : Nat) (s : State) : Host.Outcome State Fault Refusal := (s.releasePlate n p).event

/-! Impressions (02 R47, R48; 20 R396). -/

/-- IMPRESSION_START (02 R48): the oldest impression of a slot begins once no other of that plate runs. -/
def execImpressionStart (n p : Nat) (s : State) : Host.Outcome State Fault Refusal :=
  match s.impressions.find? fun (_, x) => x.ctx = n ∧ x.slot = p with
  | none => s.event
  | some (imp, x) =>
    if x.running || !s.serves n then s.event
    else
      let nodes := (s.plate n p).nodes
      let first := (List.range nodes.length).filter fun k => (predsIn nodes k).isEmpty
      let s := { s with impressions := NMap.set s.impressions imp { x with running := true } }
      (first.foldl (fun s k => s.postOnce (.nodeStart imp k)) s).event

/-- A node is marked as started. -/
def State.markStarted (s : State) (imp n : Nat) : State :=
  match NMap.get? s.impressions imp with
  | some x => { s with impressions := NMap.set s.impressions imp { x with started := insertRising n x.started } }
  | none => s

/-- A write node's store (02 R47): refused, it freezes the context, and the node is never done. -/
def State.writeNode (s : State) (imp k ctx : Nat) (x : PlateNode) : State :=
  match s.heldWrite (s.frontSectors ctx x.arg.toNat 8 .wr) .outside (.nodeStart imp k) with
  | some t => t
  | none =>
    match (s.markStarted imp k).frontWrite ctx x.arg x.val with
    | some t => t.post (.writeNodeDone imp k)
    | none => (s.markStarted imp k).freezeFront ctx true x.arg

/-- A node starts (02 R47): a launch node goes to the dispatcher, and a join node is done at once. -/
def State.startNode (s : State) (imp k : Nat) (x : Impression) (nd : PlateNode) : State :=
  match nd.kind with
  | 1 =>
    let t : Ticket := ⟨x.ctx, none, x.plate + nd.arg, none, some (imp, k), none, none⟩
    let s := { s with tickets := NMap.set s.tickets s.nextId t, nextId := s.nextId + 1 }
    (s.markStarted imp k).post (.launchAccept (s.nextId - 1))
  | 2 => (s.markStarted imp k).nodeDone imp k
  | _ => s.writeNode imp k x.ctx nd

/-- NODE_START (02 R47): the predecessors of the node are done. -/
def execNodeStart (imp k : Nat) (s : State) : Host.Outcome State Fault Refusal :=
  match NMap.get? s.impressions imp with
  | none => s.event
  | some x =>
    let nodes := (s.plate x.ctx x.slot).nodes
    match nodes[k]? with
    | none => s.event
    | some nd =>
      if !x.running || !s.serves x.ctx || x.started.contains k || !((predsIn nodes k).all fun i => x.done.contains i) then
        s.event
      else (s.startNode imp k x nd).event

/-- WRITE_NODE_DONE (02 R47): the store of a write node is visible. -/
def execWriteNodeDone (imp k : Nat) (s : State) : Host.Outcome State Fault Refusal :=
  match NMap.get? s.impressions imp with
  | none => s.event
  | some x =>
    let kind := (((s.plate x.ctx x.slot).nodes[k]?).map (·.kind)).getD 0
    if kind = 3 ∧ x.started.contains k ∧ ¬x.done.contains k ∧ (s.ctx x.ctx).state = .run then (s.nodeDone imp k).event
    else s.event

/-- The slots that a function sees as windows, in ascending order (03 R56). -/
def State.windowsOf (s : State) (fn : Nat) : List Nat :=
  ((List.range 512).filter fun n => (s.ctx n).owner.toNat == fn).take 64

/-- The MSI-X vector of an impression (20 R396). -/
def State.vector (s : State) (n p : Nat) : Nat :=
  16 * (((s.windowsOf (s.ctx n).owner.toNat).findIdx? (· == n)).getD (Config.noWindow n % 64)) + p

/-- An MSI-X vector goes to a function; one that the host has masked sets its pending bit (20 R396, log entry 96). -/
def State.sendVector (s : State) (fn v : Nat) : State :=
  if s.msixMasked.contains (fn, v) then
    { s with msixPending := if s.msixPending.contains (fn, v) then s.msixPending else s.msixPending ++ [(fn, v)] }
  else s.send (.msix fn v)

/-- IMPRESSION_COMPLETE (20 R396): every node is done. -/
def execImpressionComplete (imp : Nat) (s : State) : Host.Outcome State Fault Refusal :=
  match NMap.get? s.impressions imp with
  | none => s.event
  | some x =>
    if x.done.length ≠ (s.plate x.ctx x.slot).nodes.length ∨ (s.ctx x.ctx).state ≠ .run then s.event
    else
      let s := s.sendVector (s.ctx x.ctx).owner.toNat (s.vector x.ctx x.slot)
      let s := { s with impressions := NMap.erase s.impressions imp }
      let s := (s.postOnce (.impressionStart x.ctx x.slot)).postOnce (.kickValidate x.ctx x.slot)
      (s.checkPlate x.ctx x.slot).event

end Sys2Proof.Machine
end

