-- ==== Sys2Proof/Machine/Slots.lean ====
section
/-! DEFINITION. Context slots: their owners, their states, GEN bumps, teardown and the resets of functions (03 R56 to R61,
R75, R76; 12 R235, R236). -/

namespace Sys2Proof.Machine

/-! GEN (12 R235, R236). -/

/-- An access of an address space that has been translated is not complete: its bump waits (12 R235). -/
def State.asidBusy (s : State) (asid : BitVec 12) : Bool :=
  let mine (w : Wave) : Bool := (s.ctx w.ctx).asid == asid
  let of (w : Nat) : Bool := ((s.wave? w).map mine).getD true
  (s.allWaves.any fun w => mine w && ((w.pending.any fun p => !p.parts.isEmpty) || (s.engineRuns w.ctx && w.ops.any fun o =>
    match o.op with
    | .load .. => true
    | .store .. => true
    | _ => false))) ||
    (s.clusters.any fun (_, k) => k.queue.any fun q => of q.wave) || s.mills.any fun u => of u.wave

/-- A bump of GEN: none where the next value may not be used yet (12 R236). -/
def State.tryBump (s : State) (asid : BitVec 12) : Option State :=
  let a := NMap.getD s.asids asid.toNat ⟨0, []⟩
  let v := a.gen + 1
  let free := match NMap.get? a.retired v.toNat with
    | none => true
    | some begun => decide (begun + 1 ≤ s.scrubs)
  if free then
    some { s with asids := NMap.set s.asids asid.toNat ⟨v, NMap.set a.retired a.gen.toNat (s.scrubs + 1)⟩ }
  else none

/-- A write of 1 to BUMP (03 R58). -/
def State.requestBump (s : State) (n : Nat) : State :=
  let c := s.ctx n
  if c.bump || c.state == .tearing then s
  else (s.setCtx n { c with bump := true, bumpres := 0 }).postOnce (.bumpComplete n)

/-- BUMP (03 R58, R76). -/
def execBump (n : Nat) (s : State) : Host.Outcome State Fault Refusal := (s.request (s.ownerOf n) (s.requestBump n)).event

/-- BUMP_COMPLETE (12 R235, R236): the accesses under the old GEN have completed; GEN advances, or the bump reads busy. -/
def execBumpComplete (n : Nat) (s : State) : Host.Outcome State Fault Refusal :=
  let c := s.ctx n
  if !c.bump || s.asidBusy c.asid then s.event
  else match s.tryBump c.asid with
    | some t => ((t.setCtx n { c with bump := false, bumpres := 1 }).followGen c.asid).event
    | none => (s.setCtx n { c with bump := false, bumpres := 2 }).event

/-- The entries of a TLB whose GEN is current. -/
def State.currentEntries (s : State) (tlb : List TlbEntry) : List TlbEntry := tlb.filter fun e => e.gen == s.gen e.asid

/-- SCRUB_PASS_END (12 R236): every translation whose GEN is not current has been removed from every TLB. -/
def execScrubPassEnd (s : State) : Host.Outcome State Fault Refusal :=
  { s with scrubs := s.scrubs + 1,
           clusters := s.clusters.map fun ((c, k) : Nat × Cluster) => (c, { k with tlb := s.currentEntries k.tlb }),
           tlbs := s.tlbs.map fun (d, t) => (d, s.currentEntries t) }.event

/-- Bumps of the address spaces of an invalidation: the state and those still to be bumped. -/
def State.bumpEach (s : State) (asids : List (BitVec 12)) : State × List (BitVec 12) :=
  asids.foldl (fun (acc : State × List (BitVec 12)) a =>
    if acc.1.asidBusy a then (acc.1, acc.2 ++ [a])
    else match acc.1.tryBump a with
      | some t => (t.followGen a, acc.2)
      | none => (acc.1, acc.2 ++ [a])) (s, [])

/-- The invalidations that are not complete try again; one with nothing left to bump is completed (12 R235). -/
def State.retryAts (s : State) : State :=
  s.atsPending.foldl (fun s (p, as_) =>
    let (t, left) := s.bumpEach as_
    if left.isEmpty then t.send (.atsDone p) else { t with atsPending := t.atsPending ++ [(p, left)] })
    { s with atsPending := [] }

/-- The address spaces of the slots that carry a PASID. -/
def State.asidsOf (s : State) (pasid : BitVec 20) : List (BitVec 12) :=
  (((List.range 512).filter fun n => (s.ctx n).pasid == pasid).map fun n => (s.ctx n).asid).eraseDups

/-- ATS_INVALIDATE (12 R235). -/
def execAtsInvalidate (pasid : BitVec 20) (s : State) : Host.Outcome State Fault Refusal :=
  { s with atsPending := s.atsPending ++ [(pasid, s.asidsOf pasid)] }.retryAts.event

/-! ENABLE and OWNER (03 R56, R58, R61). -/

/-- A write of ENABLE (03 R58, R61). -/
def State.setEnable (s : State) (n : Nat) (on : Bool) : State :=
  let c := s.ctx n
  match c.state with
  | .off => s.setCtx n (if on then { c with enable := true, state := .run, lastHost := none } else { c with enable := false })
  | .tearing => s
  | _ => s.setCtx n { c with enable := on }

/-- ENABLE (03 R58, R76). -/
def execEnable (n : Nat) (on : Bool) (s : State) : Host.Outcome State Fault Refusal :=
  (s.request (s.ownerOf n) (s.setEnable n on)).event

/-- A write of the slot-owner table (03 R56): only in OFF, to an owner that exists, and to a virtual function with room. -/
def State.setOwner (s : State) (n : Nat) (v : Byte) : State :=
  let o := v.extractLsb' 0 5
  let c := s.ctx n
  let owns := ((List.range 512).filter fun k => (s.ctx k).owner == o && k != n).length
  if 512 ≤ n ∨ 16 < o.toNat ∨ c.state ≠ .off ∨ (o ≠ 0 ∧ 64 ≤ owns) then s else s.setCtx n { c with owner := o }

/-- SLOT_OWNER_WRITE (03 R56, R76): a request of the physical function. -/
def execSlotOwnerWrite (n : Nat) (v : Byte) (s : State) : Host.Outcome State Fault Refusal :=
  (s.request 0 (s.setOwner n v)).event

/-! Teardown (03 R75). -/

/-- Step 1: the front end drops the kicks, and the impressions end; the seals of unregistered plates may go. -/
def State.dropFront (s : State) (n : Nat) : State :=
  let kicks := (s.ctx n).kicks
  let s := kicks.foldl (fun s k => s.dropKick n k.value 6) (s.setCtx n { s.ctx n with kicks := [] })
  let s := { s with impressions := s.impressions.filter fun (_, x) => x.ctx != n }
  (List.range 16).foldl (fun s p => (s.stopRegister n p).checkPlate n p) s

/-- Step 2: launches that are not accepted and work that is not placed go. -/
def State.dropQueued (s : State) (n : Nat) : State :=
  { s with tickets := s.tickets.filter fun (_, t) => t.ctx != n, items := s.items.filter fun i => i.ctx != n }

/-- Step 3: the waves of the context tell their groups, and they and their launches and transfers go; a save or a restore
under way fails. -/
def State.dropWork (s : State) (n : Nat) : State :=
  let ws := s.allWaves.filter fun w => w.ctx == n
  let s := ws.foldl (fun s w => s.sendTokens w 3) s
  let s := ws.foldl (fun s w => (s.leaveTeam w).removeWave w.id) s
  let c := s.ctx n
  let s := s.setCtx n { c with pre := if c.pre.state = 1 then { c.pre with err := 5, state := 3, job := 0 } else c.pre }
  { s with launches := s.launches.filter fun (_, l) => l.ctx != n, kvs := s.kvs.filter fun k => k.ctx != n }

/-- A teardown begins (03 R58, R75). -/
def State.tearDown (s : State) (n : Nat) : State :=
  let c := s.ctx n
  if c.state ≠ .run ∧ c.state ≠ .frozen then s
  else
    let s := s.setCtx n { c with state := .tearing, tearing := true }
    (((s.dropFront n).dropQueued n).dropWork n).roomMade.postOnce (.teardownComplete n)

/-- TEARDOWN (03 R75, R76). -/
def execTeardown (n : Nat) (s : State) : Host.Outcome State Fault Refusal := (s.request (s.ownerOf n) (s.tearDown n)).event

/-- TEARDOWN_COMPLETE (03 R75 step 4): GEN has advanced, and the context is OFF. -/
def execTeardownComplete (n : Nat) (s : State) : Host.Outcome State Fault Refusal :=
  let c := s.ctx n
  if c.state ≠ .tearing || s.asidBusy c.asid then s.event
  else match s.tryBump c.asid with
    | some t =>
      ((t.setCtx n { c with state := .off, enable := false, tearing := false, held := false }).followGen c.asid).event
    | none => s.event

/-! Masters outside (03 R76). -/

/-- HOST_FUNCTION_VIOLATION (03 R76): the function's further requests complete with Completer Abort. -/
def execHostFunctionViolation (fn : Nat) (s : State) : Host.Outcome State Fault Refusal :=
  ({ s with aborting := insertRising (outsideKey (.host fn)) s.aborting }.send (.completerAbort fn)).event

/-- PEER_VIOLATION (03 R76): the peer's requests are answered with a protection error. -/
def execPeerViolation (p : Nat) (s : State) : Host.Outcome State Fault Refusal :=
  ({ s with aborting := insertRising (outsideKey (.peer p)) s.aborting }.send (.protectionError p)).event

/-- FUNCTION_LEVEL_RESET (03 R76): the function's requests are served again, and its contexts are torn down. -/
def execFunctionLevelReset (fn : Nat) (s : State) : Host.Outcome State Fault Refusal :=
  let s := { s with aborting := s.aborting.filter (· != outsideKey (.host fn)) }
  (((List.range 512).filter fun n => (s.ctx n).owner.toNat == fn).foldl (fun s n => s.tearDown n) s).event

end Sys2Proof.Machine
end

