-- ==== Sys2Proof/Machine/Launch.lean ====
section
/-! DEFINITION. The dispatcher and the distributor: accepting launches (02 R36, R42; 03 R67, R68), placing teams and tasks
(03 R69, R70), starting waves (02 R35, R38, R420), and swapping waves out and in (18 R354). -/

namespace Sys2Proof.Machine

/-! Checking a record (02 R39 to R42). -/

/-- `[o]` where a field at offset `o` takes part in a breach. -/
def breach (o : Nat) (bad : Bool) : List Nat := if bad then [o] else []

/-- The role fields that take part in a breach: role `k`, in a gang or in a team launch (02 R39, R40). -/
def roleBreaches (g : Nat → Nat → Nat) (gang : Bool) (k : Nat) : List Nat :=
  let o := 0x50 + 16 * k
  let here := gang && g (o + 4) 1 != 0
  let most (i n : Nat) : List Nat := breach (o + i) (decide ((if here then n else 0) < g (o + i) 1))
  breach o (!here && g o 4 != 0) ++ most 4 32 ++ most 5 8 ++ breach (o + 5) (here && g (o + 5) 1 == 0) ++ most 6 8 ++
    most 7 8 ++ most 8 4 ++ breach (o + 9) (g (o + 9) 7 != 0)

/-- The fields of a team launch, which a gang launch leaves zero. -/
def teamBreaches (g : Nat → Nat → Nat) (gang : Bool) : List Nat :=
  let most (o n m : Nat) : List Nat := breach o (decide ((if gang then 0 else m) < g o n))
  most 0x30 2 32 ++ breach 0x30 (!gang && g 0x30 2 == 0) ++ most 0x35 1 8 ++ breach 0x35 (!gang && g 0x35 1 == 0) ++
    most 0x36 1 8 ++ most 0x37 1 8 ++ most 0x3D 1 4 ++ breach 0x40 (gang && g 0x40 4 != 0)

/-- A gang breaks 02 R41. -/
def gangBad (r : List Byte) : Bool :=
  (recWaves r).isEmpty || (recWaves r).any fun x => decide (32 ≤ x.1)

/-- The offsets of all the fields that take part in a breach of 02 R42. -/
def breaches (r : List Byte) : List Nat :=
  let g := recField r
  let gang := g 0 2 == 2
  breach 0 (g 0 2 != 1 && g 0 2 != 2) ++ breach 2 (decide (3 < g 2 1)) ++ breach 3 (decide (8 < g 3 1)) ++
    breach 4 (g 4 4 == 0 || decide (2 ^ 24 < g 4 4)) ++ breach 8 (g 8 8 % 16 != 0) ++ breach 0x10 (g 0x10 8 % 1024 != 0) ++
    breach 0x18 (g 0x18 8 % 256 != 0) ++
    breach 0x32 (decide (g 0x32 1 < 8) || g 0x32 1 + g 0x33 1 + g 0x34 1 != 32) ++
    breach 0x33 (decide (16 < g 0x33 1) || decide (16 * g 0x33 1 < g 0x38 2)) ++
    breach 0x34 (decide (16 < g 0x34 1) || decide (16 * g 0x34 1 < g 0x3A 2)) ++
    breach 0x3C (decide (4 < g 0x3C 1)) ++ breach 0x3E (g 0x3E 2 != 0) ++ breach 0x44 (g 0x44 12 != 0) ++
    teamBreaches g gang ++ (List.range 3).flatMap (roleBreaches g gang) ++ breach 0x54 (gang && gangBad r)

/-- INFO of a record that 02 R42 refuses: the lowest of those offsets. -/
def badOffset (r : List Byte) : Option Nat :=
  (breaches r).foldl (fun acc o => some (match acc with
    | some m => Nat.min m o
    | none => o)) none

/-- The sums of some footprints stay within what an empty quadrant has (03 R69). -/
def quadCan (fs : List Foot) : Bool :=
  let sum (f : Foot → Nat) := fs.foldl (fun a x => a + f x) 0
  decide (fs.length ≤ 8) && decide (sum (·.blocks) ≤ 31) && decide (sum (·.tiles) ≤ 8) && decide (sum (·.pencils) ≤ 4) &&
    decide (sum (·.chans) ≤ 16)

/-- A team or gang of a record can be placed on an empty cluster (02 R42). -/
def placeable (r : List Byte) : Bool :=
  let ws := (recWaves r).map fun x => (x.1, x.2.2)
  (List.range 8).all fun k => quadCan (onQuad ws (k / 4) (k % 4))

/-! Acceptance (03 R67, R68). -/

/-- The 8-byte words of some bytes. -/
def wordsOf (bs : List Byte) : List W64 := (List.range (bs.length / 8)).map fun i => w64 (recField bs (8 * i) 8)

/-- A launch record (0) or a constant block (1) with the patches of a launch node's impression (02 R49). -/
def State.ticketPart (s : State) (t : Ticket) (part : Nat) (bs : List Byte) : List Byte :=
  match t.node.bind fun n => (NMap.get? s.impressions n.1).map fun x => (n.2, x) with
  | some (k, x) => x.patched k part bs
  | none => bs

/-- The record that a ticket hands over: the one at its address, in the plate for a launch node, with the impression's
patches or ARGS of LAUNCH.args (03 R68, R73); none where it cannot be read. -/
def State.ticketRecord (s : State) (t : Ticket) : Option (List Byte) :=
  (s.frontRead t.ctx t.addr.toNat 128).map fun (bs : List Byte) => match t.args with
    | some v => bs.take 0x28 ++ bytesOf 8 v.toNat ++ bs.drop 0x30
    | none => s.ticketPart t 0 bs

/-- The cluster at which the search for a host launch of a context starts (03 R70 rule 3). -/
def State.hostStart (s : State) (ctx : Nat) : Nat :=
  match (s.ctx ctx).lastHost with
  | none => ctx % 72
  | some c => (c + 1) % 72

/-- A refused launch writes DONE at once and starts no wave (20 R395). -/
def State.refuseLaunch (s : State) (t : Ticket) (r : List Byte) (status info : Nat) : State :=
  (s.writeDone t.ctx (w64 (recField r 0x20 8)) status info).launchOver t.ctx t.node

/-- An accepted launch: its teams join the queue of their die (03 R70 rule 1). Its class is fixed here, from CLASS as it
stands (log entry 71). -/
def State.addLaunch (s : State) (t : Ticket) (r : List Byte) (table consts : List W64) : State :=
  let l : Launch := { ctx := t.ctx, record := r, exemplar := table, consts := consts, node := t.node, outstanding := 0,
                      unplaced := recField r 4 4, host := t.cluster.isNone }
  let die := t.die.getD (clusterDie (s.hostStart t.ctx))
  let i : Item := { id := s.nextId + 1, ctx := t.ctx, launch := s.nextId, cls := Nat.min (recField r 2 1) (s.ctx t.ctx).cls.toNat,
                    die := die, cluster := t.cluster, team := some 0, pc := 0, s0 := 0, depth := 0, parent := none,
                    foot := ⟨0, 0, 0, 0⟩, exemplar := [], xbase := 0, expthr := 0, pts := 0, restored := [] }
  { s with launches := NMap.set s.launches s.nextId l, items := s.items ++ [i], nextId := s.nextId + 2 }.postOnce
    (.placeWork die)

/-- The dispatcher reads and checks a launch, no-fit among the checks, and then reads its table and its constants (03 R67,
R68). -/
def State.accept (s : State) (t : Ticket) : State :=
  match s.ticketRecord t with
  | none => s.freezeFront t.ctx false t.addr
  | some r => match badOffset r with
    | some o => s.refuseLaunch t r 1 o
    | none =>
      if !placeable r then s.refuseLaunch t r 2 0
      else match s.frontRead t.ctx (recField r 0x10 8) 1024, s.frontRead t.ctx (recField r 0x18 8) 4096 with
        | none, _ => s.refuseLaunch t r 1 0x10
        | _, none => s.refuseLaunch t r 1 0x18
        | some x, some c => s.addLaunch t r (wordsOf x) (wordsOf (s.ticketPart t 1 c))

/-- A launch with a record is refused (03 R67). -/
def State.refusesRecord (s : State) (ctx : Nat) (r : List Byte) : Bool :=
  (badOffset r).isSome || !placeable r || (s.frontRead ctx (recField r 0x10 8) 1024).isNone ||
    (s.frontRead ctx (recField r 0x18 8) 4096).isNone

/-- The sectors that an acceptance reads, and those of the completion word that it writes where it refuses. -/
def State.ticketSectors (s : State) (t : Ticket) : List Nat × List Nat :=
  let own := s.frontSectors t.ctx t.addr.toNat 128 .rd
  match s.ticketRecord t with
  | none => (own, [])
  | some r =>
    let g := recField r
    (own ++ s.frontSectors t.ctx (g 0x10 8) 1024 .rd ++ s.frontSectors t.ctx (g 0x18 8) 4096 .rd,
      if g 0x20 8 = 0 || !s.refusesRecord t.ctx r then [] else s.frontSectors t.ctx (g 0x20 8) 8 .wr)

/-- LAUNCH_ACCEPT (03 R67, R68). -/
def execLaunchAccept (k : Nat) (s : State) : Host.Outcome State Fault Refusal :=
  match NMap.get? s.tickets k with
  | none => s.event
  | some t =>
    if !s.serves t.ctx then s.event
    else match s.heldIO (s.ticketSectors t).1 (s.ticketSectors t).2 .outside (.launchAccept k) with
      | some u => u.event
      | none => ({ s.touchSectors (s.ticketSectors t).1 false with tickets := NMap.erase s.tickets k }.accept t).event

/-! New waves (02 R38; 12 R230; 17 R325). -/

/-- A wave as it starts, with a footprint and an entry packet; s0 has the tag b64 (log entry 72). -/
def newWave (id ctx launch cluster core quad : Nat) (f : Foot) (pc s0 : W64) : Wave :=
  { Wave.blank with
    id := id, stage := .placed, ctx := ctx, launch := launch, cluster := cluster, core := core, quad := quad, age := id,
    held := f.blocks, foot := f,
    file := { RegFile.blank with sregs := RegFile.blank.sregs.set 0 ⟨.b64, s0⟩ },
    sys := { exec := -1, flags := 0, ftrap := 0, lease := 10, cwin := 0, pts := 0 },
    tiles := List.replicate f.tiles Tile.blank, pencils := List.replicate f.pencils ⟨Tile.blank, none⟩,
    chans := List.replicate f.chans ⟨0, []⟩, live := -1, splits := [(0, { Thread.blank with pc := ⟨pc, 0⟩, mask := -1 })] }

/-- INKWELL at the start of a wave (07 R148 rules 4, 5). -/
def State.firstInk (s : State) (ctx : Nat) : Int :=
  let r := (s.ctx ctx).inkrateInForce.toNat
  if r = 0 then 0x7FFFFFFF else r

/-- The decode table of a launch: a malformed entry stands with V = 0 (02 R35). -/
def launchTable (ts : List W64) : NMap W64 :=
  (List.range 120).map fun k =>
    let t := ts.getD (8 + k) 0
    (8 + k, if malformed t then t &&& ~~~(BitVec.ofNat 64 (2 ^ 56)) else t)

/-- Entry `e` of constant window 7 of a launch. -/
def Launch.const7 (l : Launch) (e : Nat) : Nat := (l.consts.getD (448 + e) 0).toNat

/-- The stash windows of a launch: base and length (12 R245). -/
def Launch.windows (l : Launch) : List (Nat × Nat) :=
  (List.range (l.field 0x3C 1)).map fun w => (l.const7 (56 + 2 * w), l.const7 (57 + 2 * w))

/-- Wave `n` of team `k` of a launch, on a core. -/
def State.teamWave (s : State) (i : Item) (l : Launch) (team k id c core : Nat) (x : Nat × Nat × Foot) : Wave :=
  let w := newWave id i.ctx i.launch c core (x.1 % 4) x.2.2 (w64 (l.field 8 8 + 16 * x.2.1)) (w64 (l.field 0x28 8))
  { w with placedAt := s.cycle.toNat, team := some team, teamNo := BitVec.ofNat 24 k, waveNo := BitVec.ofNat 5 x.1, cls := i.cls,
           pbase := (l.const7 54 + 32 * l.const7 55 * (k * 32 + x.1)) % 2 ^ 64, xbase := w64 (l.field 0x10 8),
           expthr := BitVec.ofNat 4 (l.field 3 1), exemplar := launchTable l.exemplar, inkwell := s.firstInk i.ctx,
           sys := { w.sys with pts := s.gt } }

/-! Placement (03 R69, R70). -/

/-- The clusters in the order in which an item looks for room (03 R70 rule 3, 19 R379). -/
def State.order (s : State) (i : Item) : List Nat :=
  match i.cluster with
  | none => (List.range 72).map fun k => (s.hostStart i.ctx + k) % 72
  | some c =>
    (List.range 36).map (fun k => c / 36 * 36 + (c % 36 + k) % 36) ++
      (List.range 36).map fun k => (1 - c / 36) * 36 + (c % 36 + k) % 36

/-- The cluster and core that a team takes: the first in the order whose division matches and where it fits, else the first
empty one (03 R70 rule 4). -/
def State.teamPlace (s : State) (i : Item) (l : Launch) (ws : List (Nat × Foot)) : Option (Nat × Nat) :=
  let pair := (recWaves l.record).any fun x => decide (16 ≤ x.1)
  let try_ (ok : Nat → Bool) : Option (Nat × Nat) := (s.order i).findSome? fun c =>
    if ok c && s.sramFits c l then (s.coreFor c pair ws).map fun k => (c, k) else none
  match try_ fun c => s.sameDivision c l with
  | some x => some x
  | none => try_ s.emptyCluster

/-- The cluster takes the division of a record, and its L1 keeps what its part holds (01 R17, R31). -/
def State.divideSram (s : State) (c : Nat) (l : Launch) : State :=
  let k := { s.cluster c with l1 := l.field 0x32 1, sh := l.field 0x33 1, st := l.field 0x34 1 }
  s.setCluster c (k.evict k.blocks.length)

/-- The waves placed at once, and started once all have their slots (03 R70 rule 5). -/
def State.addWaves (s : State) (ws : List Wave) : State :=
  let s := { s with waves := ws.foldl (fun m w => NMap.set m w.id w) s.waves }
  ws.foldl (fun s w => s.post (.waveStart w.id)) s

/-- A host team notes its cluster (03 R70 rule 3). -/
def State.noteHost (s : State) (ctx c : Nat) (l : Launch) : State :=
  if l.host then s.setCtx ctx { s.ctx ctx with lastHost := some c } else s

/-- The next team of a launch placed on a core; the item goes with its last team. -/
def State.placeTeam (s : State) (i : Item) (l : Launch) (k c core : Nat) : State :=
  let ws := recWaves l.record
  let team := s.nextId
  let pair := ws.any fun x => decide (16 ≤ x.1)
  let new := ((List.range ws.length).zip ws).map fun (j, x) =>
    s.teamWave i l team k (team + 1 + j) c (if pair then x.1 / 16 else core) x
  let t : Team := { ctx := i.ctx, launch := i.launch, teamNo := k, cluster := c, core := core, nos := ws.map (·.1),
                    live := new.map (·.id), shared := [], bars := List.replicate 16 Bar.blank, windows := l.windows }
  let left := l.unplaced - 1
  let items := if left = 0 then s.items.filter fun x => x.id != i.id
    else s.items.map fun x => if x.id = i.id then { x with team := some (k + 1) } else x
  let l2 := { l with unplaced := left, outstanding := l.outstanding + ws.length }
  let s := (s.divideSram c l).noteHost i.ctx c l
  { s with teams := NMap.set s.teams team t, items := items, nextId := team + 1 + ws.length,
           launches := NMap.set s.launches i.launch l2 }.addWaves new

/-- A task placed on a quadrant (03 R69, R74). -/
def State.placeTask (s : State) (i : Item) (c core quad : Nat) : State :=
  let w := newWave s.nextId i.ctx i.launch c core quad i.foot i.pc i.s0
  let w := { w with placedAt := s.cycle.toNat, depth := i.depth, cls := i.cls, parent := i.parent, exemplar := i.exemplar, xbase := i.xbase,
                    expthr := i.expthr, inkwell := s.firstInk i.ctx, sys := { w.sys with pts := i.pts } }
  { s with items := s.items.filter fun x => x.id != i.id, nextId := s.nextId + 1 }.addWaves [w]

/-- A wave of an image as its placement finds it: PTS becomes GT, its age is that of its placement, and what it waits for
is looked at again (19 R379). -/
def State.resumeWave (s : State) (id c core quad : Nat) : State :=
  match s.wave? id with
  | none => s
  | some w =>
    let stage := if w.halted then Stage.stopped else Stage.running
    let w := { w with stage := stage, cluster := c, core := core, quad := quad, age := s.nextId, placedAt := s.cycle.toNat,
                      sys := { w.sys with pts := s.gt },
                      sprigs := w.sprigs.map fun (j, p) => (j, { p with sys := { p.sys with pts := s.gt } }) }
    let s := { s with nextId := s.nextId + 1 }.setWave w
    let s := s.rewake w
    let s := w.sprigs.foldl (fun s (j, _) => s.postOnce (.sprigReexport id j)) s
    w.recs.foldl (fun s (e, r) => if r.arrived != 0 then s.postOnce (.joinMerge id e) else s) s

/-- The barriers of a team placed again are looked at (18 R344). -/
def State.checkBars (s : State) (w : Wave) : State :=
  let n := (s.bars w).length
  (List.range n).foldl (fun s k => s.postOnce (.barPhaseComplete w.id k)) s

/-- A team or a task of an image placed (19 R379). -/
def State.placeRestored (s : State) (i : Item) (l : Launch) : Option State :=
  let ws := i.restored.filterMap s.wave?
  let foot (w : Wave) : Foot := { w.foot with blocks := w.held }
  let done (s : State) : State := { s with items := s.items.filter fun x => x.id != i.id }
  match ws with
  | [] => some (done s)
  | w :: _ =>
    match w.team with
    | none => (s.order i).findSome? fun c => (s.taskFor c (foot w)).map fun (core, quad) =>
        ((done s).resumeWave w.id c core quad).checkBars w
    | some t => match s.teamPlace i l (ws.map fun w => (w.waveNo.toNat, foot w)), NMap.get? s.teams t with
      | some (c, core), some x =>
        let pair := (recWaves l.record).any fun y => decide (16 ≤ y.1)
        let s := ((done s).divideSram c l).noteHost i.ctx c l
        let s := { s with teams := NMap.set s.teams t { x with cluster := c, core := core } }
        let s := ws.foldl (fun s w =>
          s.resumeWave w.id c (if pair then w.waveNo.toNat / 16 else core) (w.waveNo.toNat % 4)) s
        some (s.checkBars w)
      | _, _ => none

/-- A pending item placed, if it fits anywhere (03 R69, R70). -/
def State.placeItem (s : State) (i : Item) : Option State :=
  match NMap.get? s.launches i.launch with
  | none => some { s with items := s.items.filter fun x => x.id != i.id }
  | some l =>
    if !i.restored.isEmpty then s.placeRestored i l
    else match i.team with
      | some k => (s.teamPlace i l ((recWaves l.record).map fun x => (x.1, x.2.2))).map fun (c, core) => s.placeTeam i l k c core
      | none => (s.order i).findSome? fun c => (s.taskFor c i.foot).map fun (core, quad) => s.placeTask i c core quad

/-- The item that the distributor serves on a die: the oldest of the highest class with pending work (03 R70 rule 2). -/
def State.headItem (s : State) (die : Nat) : Option Item :=
  (s.items.filter fun i => i.die == die && s.serves i.ctx).foldl (fun acc i => match acc with
    | none => some i
    | some j => if j.cls < i.cls then some i else some j) none

/-- PLACE_WORK (03 R69, R70): an item that fits nowhere holds back what comes after it. -/
def execPlaceWork (die : Nat) (s : State) : Host.Outcome State Fault Refusal :=
  match (s.headItem die).bind s.placeItem with
  | none => s.event
  | some t => (t.postOnce (.placeWork die)).event

/-! The first packet (02 R35, R38, R420). -/

/-- The constant entry at which the stash windows of a launch fail (12 R245, 02 R420). -/
def Launch.windowFault (l : Launch) : Option Nat :=
  let ws := l.windows
  let at_ (w : Nat) : Nat × Nat := ws.getD w (0, 0)
  let one (w : Nat) : Option Nat :=
    let (b, n) := at_ w
    if 2 ^ 58 ≤ b ∨ b % 256 ≠ 0 then some (56 + 2 * w)
    else if n = 0 ∨ 2 ^ 32 ≤ n ∨ n % 256 ≠ 0 ∨ 2 ^ 58 < b + n then some (57 + 2 * w)
    else none
  let meets (w : Nat) : Bool := (List.range w).any fun v =>
    decide ((at_ v).1 < (at_ w).1 + (at_ w).2) && decide ((at_ w).1 < (at_ v).1 + (at_ v).2)
  let sum (w : Nat) : Nat := (ws.take (w + 1)).foldl (fun a x => a + x.2) 0
  let all := List.range ws.length
  match all.findSome? one with
  | some e => some e
  | none => match all.find? meets with
    | some w => some (56 + 2 * w)
    | none => (all.find? fun w => decide (4096 * l.field 0x3A 2 < sum w)).map fun w => 57 + 2 * w

/-- The cause and the constant entry of the checks 1 to 3 of 02 R420. -/
def Launch.constFault (l : Launch) : Option (Nat × Nat) :=
  if l.const7 54 % 256 ≠ 0 then some (3, 54)
  else if 2 ^ 58 ≤ l.const7 54 then some (7, 54)
  else if l.const7 55 % 8 ≠ 0 ∨ 2 ^ 32 ≤ l.const7 55 then some (7, 55)
  else l.windowFault.map fun e => (7, e)

/-- The first check of 02 R420 that fails for a wave; a task makes only the last two. -/
def State.startFault (s : State) (w : Wave) : Option Trap :=
  let pkt := (w.thread (.split 0)).pc.pkt
  let fetch : Option Trap := match s.fetch w pkt.toNat with
    | .error c => some { Trap.of c with addr := some pkt }
    | .ok p => if pktEntry p then none else some { Trap.of 0x0F with addr := some pkt }
  match w.team, s.launchOf w with
  | some _, some l =>
    (match l.constFault with
    | some (c, e) => some { Trap.of c with addr := some (w64 (l.field 0x18 8 + 3584 + 8 * e)) }
    | none => match firstMalformed (l.exemplar.drop 8) 8 with
      | some e => some { Trap.of 6 with addr := some (w64 (l.field 0x10 8 + 8 * e)), code := e }
      | none => fetch)
  | _, _ => fetch

/-- WAVE_START (02 R38, R420): the wave can issue, or it traps before its first packet. PTS is GT, but a task's what its parent had at
its SPAWN (17 R325, 03 R74; log entry 76). -/
def execWaveStart (w : Nat) (s : State) : Host.Outcome State Fault Refusal :=
  match s.wave? w with
  | none => s.event
  | some x =>
    if x.stage ≠ .placed then s.event
    else
      let pts := if x.team.isSome then s.gt else x.sys.pts
      let t := (s.setWave { x with stage := .running, sys := { x.sys with pts := pts } }).select w (.split 0)
      match t.startFault t.cur with
      | none => t.event
      | some tr => ((s.heldAway tr.cause (.waveStart w)).getD (t.raise t.thread.pc tr)).event

/-! INKWELL (07 R148). -/

/-- INKWELL after a refill, from the rate that was in force and the new one (07 R148 rules 3, 8). -/
def refillInk (old new : Nat) (ink : Int) : Int :=
  if new = 0 then 0x7FFFFFFF else if old = 0 then new else min (ink + new) (4 * new)

/-- INKWELL_REFILL (07 R148): every wave gains its context's rate; a rendezvous that waits for INKWELL is looked at again. -/
def execInkwellRefill (s : State) : Host.Outcome State Fault Refusal :=
  let rate (n : Nat) : Nat × Nat := ((s.ctx n).inkrateInForce.toNat, (s.ctx n).inkrate.toNat)
  let t := s.mapWaves fun w => { w with inkwell := refillInk (rate w.ctx).1 (rate w.ctx).2 w.inkwell }
  let ctxs := t.ctxs.map fun ((n, c) : Nat × Ctx) => (n, { c with inkrateInForce := c.inkrate })
  let t := { t with ctxs := ctxs }
  (s.allWaves.foldl (fun t w =>
    if w.threads.any fun x => x.2.park == .rendezvous then t.postOnce (.mmaRendezvous w.id) else t) t).event

/-! Swapping (18 R354). -/

/-- A thread is parked in AWAIT. -/
def Thread.awaiting (t : Thread) : Bool :=
  match t.park with
  | .await _ => true
  | _ => false

/-- The sectors of device memory of a wave's dirty private words. -/
def Wave.privSectors (w : Wave) : List Nat :=
  w.priv.foldl (fun acc (k, _, dirty) => if dirty && privTarget k == .device then insertRising (privPlace k / 32) acc else acc) []

/-- The wave's dirty private words, and its team's dirty stash words, go home (19 R374). -/
def State.settleMemory (s : State) (w : Wave) : State :=
  let s := match s.wave? w.id with
    | some x => s.setWave { x with priv := [] }
    | none => s
  let s := w.priv.foldl (fun s (k, x, dirty) =>
    if dirty then s.physWrite (privTarget k) (privPlace k) (bytesOf 8 x.toNat) w.sys.pts (.wave w.id) else s) s
  ((s.cluster w.cluster).stash.filter fun f => w.team == some f.team).foldl (fun s f =>
    (List.range 8).foldl (fun s k => s.returnWords (f.frame * 8 + k)) s) s

/-- A wave that may be swapped out (18 R354). -/
def State.maySwap (s : State) (w : Wave) : Bool :=
  let ts := w.threads.map (·.2)
  w.stage == .running && !ts.isEmpty && w.sprigs.isEmpty && ts.all Thread.awaiting &&
    ts.any (fun t => decide (t.since + 65536 ≤ s.cycle.toNat)) && w.pending.isEmpty && w.ops.isEmpty && w.closed.isEmpty &&
    w.arrival.isNone && w.tx.isNone && w.due.isNone && !(w.chans.any fun c => c.jobs.any fun j => j.form.toRegs) &&
    (match s.headItem (clusterDie w.cluster) with
      | some i => (s.placeItem i).isNone
      | none => false)

/-- WAVE_SWAP_OUT (18 R354). -/
def execWaveSwapOut (w : Nat) (s : State) : Host.Outcome State Fault Refusal :=
  match s.wave? w with
  | none => s.event
  | some x =>
    if !s.maySwap x then s.event
    else match s.heldWrite x.privSectors (.wave w) (.waveSwapOut w) with
    | some t => t.event
    | none =>
      let s := s.settleMemory x
      match s.wave? w with
      | none => s.event
      | some x => ((s.setWave { x with stage := .swapped, lent := false }).postOnce (.placeWork (clusterDie x.cluster))).event

/-- The condition of some AWAIT of a wave holds. -/
def State.someHolds (s : State) (w : Wave) : Bool :=
  w.threads.any fun (who, t) => match t.park with
    | .await c => (match (s.select w.id who).awaitHolds c with
      | .ok b => b
      | .error _ => true)
    | _ => true

/-- A wave swapped out finds room again on its quadrant; it has kept its channels. -/
def State.swapFits (s : State) (w : Wave) : Bool := s.quadFits w.unit [{ w.foot with blocks := w.held, chans := 0 }]

/-- WAVE_SWAP_IN (18 R354): the wave is placed again, which gives its age on the quadrant anew (03 R71, R72; log entry 73),
and goes on as if it had never left; a token that came meanwhile is now taken. -/
def execWaveSwapIn (w : Nat) (s : State) : Host.Outcome State Fault Refusal :=
  match s.wave? w with
  | none => s.event
  | some x =>
    if x.stage ≠ .swapped ∨ (x.due.isNone ∧ !s.someHolds x) ∨ !s.swapFits x then s.event
    else
      let y := { x with stage := .running, age := s.nextId, placedAt := s.cycle.toNat }
      let s := (({ s with nextId := s.nextId + 1 }.setWave y).rewake y).select w (.split 0)
      (if y.due.isSome then s.postOnce (.trapTake w) else if y.frame.isNone then s.takeHeld else s).event

end Sys2Proof.Machine
end

