-- ==== Sys2Proof/Machine/Links.lean ====
section
/-! DEFINITION. Links and peers: failing, retraining, losing a peer and resetting its links (20 R383, R388, R391; 17 R339;
03 R76). -/

namespace Sys2Proof.Machine

/-- LINK_FAIL (20 R383): the link retrains, and its traffic moves to the peer's other links. -/
def execLinkFail (link : Nat) (s : State) : Host.Outcome State Fault Refusal :=
  if (NMap.get? s.linksDown link).isSome then s.event
  else ({ s with linksDown := NMap.set s.linksDown link s.time }.count 3 link).event

/-- LINK_RETRAINED (20 R383). -/
def execLinkRetrained (link : Nat) (s : State) : Host.Outcome State Fault Refusal :=
  { s with linksDown := NMap.erase s.linksDown link }.event

/-- The outstanding steps of a group, each once. -/
def Group.outstanding (g : Group) : List Nat :=
  g.ranks.foldl (fun ks (_, x) => x.posts.foldl (fun ks (k, _) => insertRising k ks) ks) []

/-- A token on behalf of a rank of a lost peer to every other member of its group that can be reached (20 R391). -/
def State.sendFor (s : State) (p : Nat) (g : Group) (r : Nat) : State :=
  g.ranks.foldl (fun s (q, x) =>
    if q = r ∨ x.vacant ∨ x.dev = p then s
    else if x.dev ≠ 0 then (if s.lostPeers.contains x.dev then s else s.send (.token x.dev g.gid q 5))
    else match x.wave with
      | none => s
      | some v => match (s.wave? v).bind fun y => y.handleOf g.gid q with
        | none => s
        | some h => s.post (.abortToken v (BitVec.ofNat 4 h) 5 (some r))) s

/-- A group that has ranks on a lost peer: its outstanding steps end with link lost (20 R388), and the device sends the
tokens of those ranks, which become vacant (20 R391, R392). -/
def State.loseRanks (s : State) (p : Nat) (g : Group) : State :=
  let lost := (g.ranks.filter fun x => x.2.dev == p && !x.2.vacant).map (·.1)
  if lost.isEmpty then s
  else
    let s := g.outstanding.foldl (fun s k => s.failAll g.gid k g 2 []) s
    let s := lost.foldl (fun s r => s.sendFor p g r) s
    s.vacate g.gid lost

/-- PEER_LOST (20 R383): none of the peer's links has worked for 2 ms; transfers with it and the collectives end, and its groups
are told. -/
def execPeerLost (p : Nat) (s : State) : Host.Outcome State Fault Refusal :=
  if s.lostPeers.contains p || !s.peerDead p then s.event
  else
    let s := (s.linksOf p).foldl (fun s l => s.count 3 l) { s with lostPeers := insertRising p s.lostPeers }
    let s := (s.kvs.filter fun k => k.peer == p).foldl (fun s k => s.postOnce (.kvxComplete k.id .linkLost)) s
    (s.groups.foldl (fun s (_, g) => s.loseRanks p g) s).event

/-- LINK_RESET (17 R339, 03 R76): the protocol clears the peer's copies of this device's memory, for which a write that waits for
them waits no longer, and the device's copies of the peer's; the peer is served again. -/
def execLinkReset (p : Nat) (s : State) : Host.Outcome State Fault Refusal :=
  let forget (x : Sector) : Sector :=
    { x with sharers := x.sharers &&& ~~~outsideBit (.peer p),
             owner := if x.owner = outsideOwner (.peer p) then 0 else x.owner }
  let mine (key : Nat) : Bool := key % 32 == (Target.peer p).memory
  let s := { s with lostPeers := s.lostPeers.filter (· != p), aborting := s.aborting.filter (· != outsideKey (.peer p)),
                    linksDown := s.linksDown.filter fun x => !(s.linksOf p).contains x.1,
                    lines := s.lines.filter fun (k, _) => !mine k }
  let s := s.sectors.foldl (fun (s : State) (k, _) => s.answered k (2 + p)) s
  { s with sectors := s.sectors.map fun ((k, x) : Nat × Sector) => (k, forget x) }.event

end Sys2Proof.Machine
end

