-- ==== Sys2Proof/Machine/Clock.lean ====
section
/-! DEFINITION. TICK (17 R324): logical times, and everything that falls due with time (03 R65, R75; 12 R235, R236; 17 R339;
18 R353, R354, R360; 19 R376; 20 R383, R397). -/

namespace Sys2Proof.Machine

/-- PTS after a tick: one later, and no more than 8192 behind GT, however far it was (no PTS is ahead of GT). -/
def tickPts (gt pts : BitVec 16) : BitVec 16 :=
  let p := pts + 1
  if 8192 < (gt - p).toNat then gt - 8192 else p

/-- The agents' times of a wave after a tick. -/
def Wave.tickTimes (w : Wave) (gt : BitVec 16) : Wave :=
  { w with sys := { w.sys with pts := tickPts gt w.sys.pts },
           sprigs := w.sprigs.map fun (j, p) => (j, { p with sys := { p.sys with pts := tickPts gt p.sys.pts } }) }

/-- What falls due with time in a wave: a transaction open for 65,536 cycles, an AWAIT.ev at its end,
and a wave that may be swapped out (18 R353, R354, R360). -/
def Wave.dueEvents (w : Wave) (now : Nat) : List Instr :=
  (match w.tx with
    | some x => if x.begun + 65536 ≤ now then [.txTimeout w.id] else []
    | none => []) ++
  (if w.threads.any fun x => x.2.awaiting && decide (x.2.since + 65536 ≤ now) then [.waveSwapOut w.id] else []) ++
  w.threads.filterMap fun (who, t) => match t.park with
    | .await (.ev _ _ until_) => if until_ ≤ now then some (.awaitWake w.id who) else none
    | _ => none

/-- The kicks of a context that read their headers again now (03 R65). -/
def State.dueKicks (s : State) (n : Nat) : List Instr :=
  (List.range 16).filterMap fun p => (s.headKick n p).bind fun k =>
    if k.reads ≠ 0 ∧ k.since + micros k.reads ≤ s.time then some (.kickRetry n p) else none

/-- What a context waits for that is looked at again: a bump, a teardown, and a command of PRECTL under way. -/
def State.dueCtx (s : State) (n : Nat) : List Instr :=
  let c := s.ctx n
  (if c.bump then [.bumpComplete n] else []) ++ (if c.state = .tearing then [.teardownComplete n] else []) ++
    (if c.pre.job = 1 then [.saveComplete n] else if c.pre.job = 2 then [.restoreComplete n] else []) ++ s.dueKicks n

/-- The peers none of whose links has worked for 2 ms (20 R383). -/
def State.deadPeers (s : State) : List Nat :=
  ((List.range 14).drop 1).filter fun p => !s.lostPeers.contains p && s.peerDead p

/-- The sectors whose fan-out or recall has not been answered for 2 ms (17 R339). -/
def State.lateSectors (s : State) : List Nat :=
  (s.sectors.filter fun ((_, x) : Nat × Sector) => match x.busy with
    | some b => decide (b.since + micros 2000 ≤ s.time)
    | none => false).map (·.1)

/-- The drops of an entry in OPENING that must not wait any longer: 4096 cycles have nearly passed (17 R337). -/
def State.lateDrops (s : State) : List Instr :=
  s.sealTable.flatMap fun (e, x) =>
    if x.opening && decide (x.since + 3968 ≤ s.cycle.toNat) then (s.sealHolders e).map (Instr.sealOpeningDrop e) else []

/-- An entry in OPENING whose engine reads may have ended is looked at again (17 R336, R337). -/
def State.openings (s : State) : List Instr :=
  (s.sealTable.filter fun (_, x) => x.opening).map fun (e, _) => Instr.sealOpeningDrop e ((s.sealHolders e).headD 0)

/-- Everything that falls due at a tick. -/
def State.due (s : State) : List Instr :=
  s.lateSectors.map Instr.fanoutTimeout ++ s.openings ++ s.allWaves.flatMap (fun w => w.dueEvents s.cycle.toNat) ++
    s.ctxs.flatMap (fun (n, _) => s.dueCtx n) ++ s.deadPeers.map Instr.peerLost ++
    s.items.map fun i => Instr.placeWork i.die

/-- TICK (17 R324): GT and every PTS advance by one, the stored times of the homes follow, old blocks are dropped, and what has waited long enough falls due. -/
def execTick (s : State) : Host.Outcome State Fault Refusal :=
  let gt := s.gt + 1
  let s := (s.withGt gt).mapWaves fun w => w.tickTimes gt
  let fresh (b : Block) : Bool := b.sealTag.isSome || decide (s.tick - b.stamp ≤ 16384)
  let clusters := s.clusters.map fun ((c, k) : Nat × Cluster) => (c, { k with blocks := k.blocks.filter fresh })
  let s := { s with clusters := clusters }.retryAts
  (s.due.foldl State.postOnce (s.lateDrops.foldl State.soon s)).event

end Sys2Proof.Machine
end

