-- ==== Sys2Proof/Machine/FrontEnd.lean ====
section
/-! DEFINITION. The registers of the front end as the host reaches them through BAR0 (03 R56 to R63, R77; 19 R375; 00 R10,
R11). -/

namespace Sys2Proof.Machine

/-- Bits `hi` to `lo` of a value in place, the others zero. -/
def keepBits (v : W64) (lo n : Nat) : W64 := w64 (bitsOf v.toNat lo n * 2 ^ lo)

/-- A write of CTXCTL (03 R58): each bit by the state before the write. A 0 written to BUMP changes nothing (log entry
69). -/
def State.writeCtl (s : State) (n : Nat) (v : W64) : State :=
  let old := (s.ctx n).state
  let s := s.setEnable n (v.getLsbD 0)
  let s := if v.getLsbD 2 then s.requestBump n else s
  if v.getLsbD 1 && old != .off then s.tearDown n else s

/-- A write of CTXSPACE (03 R59): by the physical function, and only in OFF. -/
def State.writeSpace (s : State) (fn n : Nat) (v : W64) : State :=
  if fn ≠ 0 ∨ (s.ctx n).state ≠ .off then s
  else s.setCtx n { s.ctx n with pasid := v.extractLsb' 20 20, asid := v.extractLsb' 0 12 }

/-- A write of a register of a context window (03 R57); offsets that R57 does not list ignore writes. -/
def State.writeWindow (s : State) (fn n off : Nat) (v : W64) : State :=
  let c := s.ctx n
  if off = 0x00 then s.writeCtl n v
  else if off = 0x08 then s.writeSpace fn n v
  else if off = 0x10 then (if c.state = .off then s.setCtx n { c with root := keepBits v 14 44 } else s)
  else if off = 0x18 then
    s.setCtx n { c with inkrate := v.extractLsb' 8 24, cls := v.extractLsb' 0 2 }
  else if off = 0x40 then s.writeKick n v
  else if off = 0x48 then s.setCtx n { c with kickNew := c.kickNew && !v.getLsbD 4 }
  else if 0x80 ≤ off ∧ off < 0x100 ∧ off % 8 = 0 then
    (if v.getLsbD 0 then s.writeValid1 n ((off - 0x80) / 8) v else s.writeValid0 n ((off - 0x80) / 8) v)
  else s

/-- A command written to PRECTL (19 R375): CMD reads it until it is accepted, and a command that waited is replaced. -/
def State.command (s : State) (n : Nat) (v : W64) : State :=
  let cmd := bitsOf v.toNat 0 3
  let c := s.ctx n
  let s := { s with agenda := s.agenda.filter fun i => i != Instr.save n && i != Instr.restore n }
  let t := s.setCtx n { c with pre := { c.pre with cmd := cmd } }
  if cmd = 1 then t.post (.save n) else t.post (.restore n)

/-- A write of PRECTL (19 R375): SAVE and RESTORE begin; anything else, and any write while one is under way, is ignored. -/
def State.writePrectl (s : State) (n : Nat) (v : W64) : State :=
  let cmd := bitsOf v.toNat 0 3
  if (s.ctx n).pre.state = 1 || (cmd != 1 && cmd != 2) then s else s.command n v

/-- A write of a register of the save and restore block of a slot (19 R375). -/
def State.writePre (s : State) (n off : Nat) (v : W64) : State :=
  let c := s.ctx n
  if off = 0 then s.writePrectl n v
  else if off = 8 then s.setCtx n { c with pre := { c.pre with area := keepBits v 12 46 } }
  else if off = 0x10 then s.setCtx n { c with pre := { c.pre with size := keepBits v 0 40 } }
  else s

/-- A write at an offset of a function's BAR0 (03 R56, R57; 19 R375). -/
def State.writeRegister (s : State) (fn off : Nat) (v : W64) : State :=
  if off < 0x40000 then
    match (s.windowsOf fn)[off / 0x1000]? with
    | some n => s.writeWindow fn n (off % 0x1000) v
    | none => s
  else if fn ≠ 0 then s
  else if 0x100000 ≤ off ∧ off < 0x100200 then s.setOwner (off - 0x100000) (v.extractLsb' 0 8)
  else if 0x200000 ≤ off ∧ off < 0x208000 then s.writePre ((off - 0x200000) / 64) ((off - 0x200000) % 64) v
  else s

/-- REGISTER_WRITE (00 R10; 03 R76). -/
def execRegisterWrite (fn off : Nat) (v : W64) (s : State) : Host.Outcome State Fault Refusal :=
  (s.request fn (s.writeRegister fn off v)).event

/-! What a read of a register returns; the registers change by no read. -/

/-- STATE of CTXSTAT (03 R60). -/
def CtxState.code : CtxState → Nat
  | .off => 0
  | .run => 1
  | .tearing => 2
  | .frozen => 3

/-- A register of a context window as it reads (03 R57 to R63, R77). -/
def State.readWindow (s : State) (n off : Nat) : W64 :=
  let c := s.ctx n
  if off = 0x00 then w64 (c.bump.toNat * 4 + c.tearing.toNat * 2 + c.enable.toNat)
  else if off = 0x08 then w64 (c.pasid.toNat * 2 ^ 20 + (s.gen c.asid).toNat * 2 ^ 12 + c.asid.toNat)
  else if off = 0x10 then c.root
  else if off = 0x18 then w64 (c.inkrate.toNat * 2 ^ 8 + c.cls.toNat)
  else if off = 0x20 then w64 (c.bumpres.toNat * 16 + c.state.code)
  else if off = 0x28 then c.frzinfo
  else if off = 0x30 then c.frzaddr
  else if off = 0x40 then c.kickReg
  else if off = 0x48 then w64 (c.kickTag.toNat * 2 ^ 48 + c.kickSlot.toNat * 2 ^ 8 + c.kickNew.toNat * 16 + c.kickCode.toNat)
  else if 0x80 ≤ off ∧ off < 0x100 ∧ off % 8 = 0 then
    let p := s.plate n ((off - 0x80) / 8)
    p.addr + w64 (p.err.toNat * 2 + p.valid.toNat)
  else 0

/-- A register of the save and restore block as it reads (19 R375). -/
def State.readPre (s : State) (n off : Nat) : W64 :=
  let p := (s.ctx n).pre
  if off = 0 then w64 p.cmd
  else if off = 8 then p.area
  else if off = 0x10 then p.size
  else if off = 0x18 then w64 (p.pages * 2 ^ 32 + p.err * 16 + p.state)
  else 0

/-- A register at an offset of a function's BAR0. -/
def State.registerAt (s : State) (fn off : Nat) : W64 :=
  if off < 0x40000 then
    match (s.windowsOf fn)[off / 0x1000]? with
    | some n => s.readWindow n (off % 0x1000)
    | none => 0
  else if fn ≠ 0 then 0
  else if 0x100000 ≤ off ∧ off < 0x100200 then w64 (s.ctx (off - 0x100000)).owner.toNat
  else if 0x200000 ≤ off ∧ off < 0x208000 then s.readPre ((off - 0x200000) / 64) ((off - 0x200000) % 64)
  else 0

/-- What a read at an offset of a function's BAR0 returns: Completer Abort while the function is frozen (03 R76). -/
def State.readRegister (s : State) (fn off : Nat) : Option W64 :=
  if s.frozenFn fn then none else some (s.registerAt fn off)

/-! What the functions' configuration space reads (00 R1, R2). -/

/-- Vendor ID of every function. -/
def vendorId : BitVec 16 := 0x1F6E

/-- Device ID of the physical function 0 and of the virtual functions. -/
def deviceId (fn : Nat) : BitVec 16 := if fn = 0 then 0x2144 else 0x2145

/-- Class Code of every function. -/
def classCode : BitVec 24 := 0x120000

/-- Revision ID of every function: that of stepping A1, which the manual describes. -/
def revisionId : BitVec 8 := 0x01

end Sys2Proof.Machine
end

