-- ==== Sys2Proof/Machine/IntOps.lean ====
section
/-! DEFINITION. The integer, logic and address instructions (09). -/

namespace Sys2Proof.Machine

/-! Arithmetic (09 R190, R191). -/

/-- An operation on two exact element values, fitted to the format. -/
def State.alu2 (s : State) (f : Alu2) (g : Int → Int → Int) : Except Stop State :=
  s.elementwise f.fmt f.fmt f.sel f.d [f.a, f.b] (intTag f.fmt) fun l k =>
    fit f.fmt f.sat (g (s.numAt f.fmt f.a l k) (s.numAt f.fmt f.b l k))

/-- ADD (09 R190). -/
def execAdd (f : Alu2) (s : State) : Host.Outcome State Fault Refusal := s.finish (s.alu2 f fun x y => x + y)
/-- SUB (09 R190). -/
def execSub (f : Alu2) (s : State) : Host.Outcome State Fault Refusal := s.finish (s.alu2 f fun x y => x - y)
/-- MUL (09 R190). -/
def execMul (f : Alu2) (s : State) : Host.Outcome State Fault Refusal := s.finish (s.alu2 f fun x y => x * y)
/-- MULH: the high half of the exact product (09 R190). -/
def execMulh (f : Alu2) (s : State) : Host.Outcome State Fault Refusal :=
  s.finish (s.alu2 f fun x y => x * y / (2 ^ f.fmt.width : Nat))
/-- MIN (09 R191). -/
def execMin (f : Alu2) (s : State) : Host.Outcome State Fault Refusal :=
  s.finish (s.alu2 f fun x y => if x < y then x else y)
/-- MAX (09 R191). -/
def execMax (f : Alu2) (s : State) : Host.Outcome State Fault Refusal :=
  s.finish (s.alu2 f fun x y => if x < y then y else x)

/-- MAD: one exact sum, fitted once (09 R190). -/
def execMad (f : Alu3) (s : State) : Host.Outcome State Fault Refusal :=
  let c := f.third.operand f.d
  s.finish (s.elementwise f.fmt f.fmt f.sel f.d [f.a, f.b, c] (intTag f.fmt) fun l k =>
    fit f.fmt f.sat (s.numAt f.fmt f.a l k * s.numAt f.fmt f.b l k + s.numAt f.fmt c l k))

/-! Comparison (09 R192). -/

/-- A condition on two elements; `bits` is the AND of their bits. -/
def Cond.holds (c : Cond) (x y : Int) (bits : Nat) : Bool :=
  match c with
  | .eq => x == y
  | .ne => x != y
  | .lt => decide (x < y)
  | .le => decide (x ≤ y)
  | .gt => decide (y < x)
  | .ge => decide (y ≤ x)
  | .test => bits != 0

/-- CMP (09 R192). -/
def execCmp (f : CmpForm) (s : State) : Host.Outcome State Fault Refusal :=
  s.finish do
    need (s.destOk f.d && [f.a, f.b].all s.opOk) illegal
    s.tagsIn (intTag f.fmt) [f.a, f.b]
    s.partialReady (maskSel f.sel f.d) f.d
    .ok (s.putMask f.fmt f.sel f.d fun l k =>
      Cond.holds f.cond (s.numAt f.fmt f.a l k) (s.numAt f.fmt f.b l k)
        (Nat.land (s.elemAt f.fmt f.a l k) (s.elemAt f.fmt f.b l k)))

/-! Logic, shifts and bit fields (09 R193 to R196): no source is tag-checked. -/

/-- An operation on the bits of two elements. -/
def State.bits2 (s : State) (f : Alu2) (g : Nat → Nat → Nat) : Except Stop State :=
  s.elementwise f.fmt f.fmt f.sel f.d [f.a, f.b] (fun _ => true) fun l k =>
    g (s.elemAt f.fmt f.a l k) (s.elemAt f.fmt f.b l k)

/-- AND (09 R193). -/
def execAnd (f : Alu2) (s : State) : Host.Outcome State Fault Refusal := s.finish (s.bits2 f Nat.land)
/-- OR (09 R193). -/
def execOr (f : Alu2) (s : State) : Host.Outcome State Fault Refusal := s.finish (s.bits2 f Nat.lor)
/-- XOR (09 R193). -/
def execXor (f : Alu2) (s : State) : Host.Outcome State Fault Refusal := s.finish (s.bits2 f Nat.xor)

/-- `x` rotated left by `n` in `w` bits. -/
def rotLeft (w x n : Nat) : Nat := x * 2 ^ (n % w) % 2 ^ w + x / 2 ^ (w - n % w)

/-- An element shifted left by a count (09 R194). -/
def shlElem (w : Nat) (rot : Bool) (x n : Nat) : Nat :=
  if rot then rotLeft w x n else if w ≤ n then 0 else x * 2 ^ n % 2 ^ w

/-- An element shifted right by a count, with the sign kept for a signed format (09 R194). -/
def shrElem (f : Fmt) (rot : Bool) (x n : Nat) : Nat :=
  if rot then rotLeft f.width x (f.width - n % f.width)
  else wrapInt f.width (f.num x / (2 ^ Nat.min n f.width : Nat))

/-- SHL (09 R194). -/
def execShl (f : ShiftForm) (s : State) : Host.Outcome State Fault Refusal :=
  s.finish (s.elementwise f.fmt f.fmt f.sel f.d [f.a, f.b] (fun _ => true) fun l k =>
    shlElem f.fmt.width f.rot (s.elemAt f.fmt f.a l k) (s.elemAt f.fmt f.b l k))

/-- SHR (09 R194). -/
def execShr (f : ShiftForm) (s : State) : Host.Outcome State Fault Refusal :=
  s.finish (s.elementwise f.fmt f.fmt f.sel f.d [f.a, f.b] (fun _ => true) fun l k =>
    shrElem f.fmt f.rot (s.elemAt f.fmt f.a l k) (s.elemAt f.fmt f.b l k))

/-- BFX of an element (09 R195). -/
def bfxElem (f : Fmt) (pos len x : Nat) : Nat :=
  let y := bitsOf x pos len
  if f.isSigned then wrapInt f.width (signedOf len y) else y

/-- BFI of an element (09 R195). -/
def bfiElem (pos len x y : Nat) : Nat := x - bitsOf x pos len * 2 ^ pos + y % 2 ^ len * 2 ^ pos

/-- BFX (09 R195). -/
def execBfx (f : BfxForm) (s : State) : Host.Outcome State Fault Refusal :=
  s.finish (s.elementwise f.fmt f.fmt f.sel f.d [f.a] (fun _ => true) fun l k =>
    bfxElem f.fmt f.pos.toNat (f.len1.toNat + 1) (s.elemAt f.fmt f.a l k))

/-- BFI (09 R195). -/
def execBfi (f : BfiForm) (s : State) : Host.Outcome State Fault Refusal :=
  s.finish (s.elementwise f.fmt f.fmt f.sel f.d [f.a, f.b] (fun _ => true) fun l k =>
    bfiElem f.pos.toNat (f.len1.toNat + 1) (s.elemAt f.fmt f.a l k) (s.elemAt f.fmt f.b l k))

/-- The number of 1 bits in `w` bits. -/
def popBits (w x : Nat) : Nat := ((List.range w).filter fun i => x.testBit i).length
/-- The number of 0 bits above the highest 1 bit of `w` bits. -/
def leadingZeros (w x : Nat) : Nat := ((List.range w).reverse.takeWhile fun i => !x.testBit i).length
/-- The number of 0 bits below the lowest 1 bit of `w` bits. -/
def trailingZeros (w x : Nat) : Nat := ((List.range w).takeWhile fun i => !x.testBit i).length
/-- The `w` bits in reverse order. -/
def reverseBits (w x : Nat) : Nat :=
  (List.range w).foldl (fun acc i => if x.testBit i then acc + 2 ^ (w - 1 - i) else acc) 0

/-- BITC of an element (09 R196). -/
def bitcElem (fn : BitFn) (w x : Nat) : Nat :=
  match fn with
  | .pop => popBits w x
  | .clz => leadingZeros w x
  | .ctz => trailingZeros w x
  | .brev => reverseBits w x

/-- BITC (09 R196). -/
def execBitc (f : BitcForm) (s : State) : Host.Outcome State Fault Refusal :=
  s.finish (s.elementwise f.fmt f.fmt f.sel f.d [f.a] (fun _ => true) fun l k =>
    bitcElem f.fn f.fmt.width (s.elemAt f.fmt f.a l k))

/-! Selecting and moving (09 R197, R198). -/

/-- The mask bit of SEL for an element: bit 0 of the element of a vector mask, the lane's bit of a scalar mask in the
vector form, and the element's bit in the scalar form (09 R197). -/
def State.selBit (s : State) (f : Fmt) (d : Dest) (m : Operand) (l k : Nat) : Bool :=
  match m, d with
  | .v _, _ => (s.elemAt f m l k).testBit 0
  | .u x, .v _ => (s.image x).getLsbD l
  | .u x, .s _ => (s.image x).getLsbD k

/-- SEL (09 R197). -/
def execSel (f : Alu3) (s : State) : Host.Outcome State Fault Refusal :=
  let m := f.third.operand f.d
  s.finish (s.elementwise f.fmt f.fmt f.sel f.d [f.a, f.b, m] (fun _ => true) fun l k =>
    if s.selBit f.fmt f.d m l k then s.elemAt f.fmt f.a l k else s.elemAt f.fmt f.b l k)

/-- MOV (09 R198): a whole image, or element KS into element KD. -/
def execMov (f : MovForm) (s : State) : Host.Outcome State Fault Refusal :=
  s.finish do
    need (s.destOk f.d && s.opOk f.a) illegal
    s.partialReady (f.el.map (·.1)) f.d
    match f.el with
    | none => .ok (s.putImages f.fmt f.d (s.laneImage f.a))
    | some (kd, ks) => .ok (s.putElems f.fmt f.fmt (some kd) f.d fun l _ => s.elemAt f.fmt f.a l ks.toNat)

/-! Addresses (09 R199, R200). -/

/-- The format at which LEA reads its index. -/
def IxKind.fmt : IxKind → Fmt
  | .i64 => .i64 | .n64 => .n64 | .i32 => .i32 | .n32 => .n32

/-- The address that LEA forms for a lane from its base and index (09 R199, R200). -/
def leaAddress (f : LeaForm) (lane : Nat) (base ix : Int) : Int :=
  let off := ix * (2 ^ f.shift.toNat : Nat) + f.disp.toInt
  if f.lane then base + (off / 8 * 32 + lane) * 8 + off % 8 else base + off

/-- LEA (09 R199, R200). -/
def execLea (f : LeaForm) (s : State) : Host.Outcome State Fault Refusal :=
  s.finish do
    need (s.destOk f.d && s.opOk f.a && s.opOk f.b) illegal
    s.tagIn addrTag f.a
    s.tagIn (fun t => t == IxKind.fmt f.ix || t == .b64 || (f.ix == .n32 && t == .idx32)) f.b
    s.partialReady none f.d
    .ok (s.putImages .addr f.d fun l =>
      w64 (wrapInt 58 (leaAddress f l (s.numAt .addr f.a l 0) (s.numAt (IxKind.fmt f.ix) f.b l 0))))

end Sys2Proof.Machine
end

