-- ==== Sys2Proof/Machine/Crypto.lean ====
section
/-! DEFINITION. SHAKE256 (FIPS 202) and the verification of Ed448 signatures (RFC 8032), by which the device measures and accepts
firmware (01 R27, 20 R399). -/

namespace Sys2Proof.Machine

/-! SHAKE256 (01 R27; FIPS 202). -/

/-- Lane (x, y) of a state of Keccak-f[1600]. -/
def lane (a : List W64) (x y : Nat) : W64 := a.getD (x % 5 + 5 * (y % 5)) 0

/-- The 25 lanes that a function of their places gives. -/
def lanesBy (f : Nat → Nat → W64) : List W64 := (List.range 25).map fun k => f (k % 5) (k / 5)

/-- θ. -/
def keccakTheta (a : List W64) : List W64 :=
  let c (x : Nat) : W64 := (List.range 5).foldl (fun acc y => acc ^^^ lane a x y) 0
  let cs := (List.range 5).map c
  let d (x : Nat) : W64 := cs.getD ((x + 4) % 5) 0 ^^^ (cs.getD ((x + 1) % 5) 0).rotateLeft 1
  lanesBy fun x y => lane a x y ^^^ d x

/-- The place of a lane after t steps of ρ's walk, from (1, 0) on. -/
def keccakWalk : (t : Nat) → Nat × Nat
  | 0 => (1, 0)
  | t + 1 => ((keccakWalk t).2, (2 * (keccakWalk t).1 + 3 * (keccakWalk t).2) % 5)

/-- The rotation of lane (x, y) in ρ. -/
def keccakRot (x y : Nat) : Nat :=
  match (List.range 24).find? fun t => keccakWalk t == (x, y) with
  | some t => (t + 1) * (t + 2) / 2 % 64
  | none => 0

/-- ρ and π. -/
def keccakRhoPi (a : List W64) : List W64 :=
  lanesBy fun x y => (lane a (x + 3 * y) x).rotateLeft (keccakRot ((x + 3 * y) % 5) x)

/-- χ. -/
def keccakChi (a : List W64) : List W64 := lanesBy fun x y => lane a x y ^^^ (~~~lane a (x + 1) y &&& lane a (x + 2) y)

/-- The register of the round constants after `t` steps. -/
def keccakLfsr : (t : Nat) → BitVec 8
  | 0 => 1
  | t + 1 => let r := keccakLfsr t
    (r <<< 1) ^^^ (if r.getLsbD 7 then 0x71 else 0)

/-- The round constant of ι. -/
def keccakConst (round : Nat) : W64 :=
  (List.range 7).foldl (fun c j => if (keccakLfsr (j + 7 * round)).getLsbD 0 then c ||| (1 <<< (2 ^ j - 1)) else c) 0

/-- A round. -/
def keccakRound (a : List W64) (round : Nat) : List W64 :=
  let b := keccakChi (keccakRhoPi (keccakTheta a))
  b.set 0 (lane b 0 0 ^^^ keccakConst round)

/-- Keccak-f[1600]. -/
def keccakF (a : List W64) : List W64 := (List.range 24).foldl keccakRound a

/-- A message with the padding of SHAKE: blocks of 136 bytes. -/
def shakePad (m : List Byte) : List Byte :=
  let n := 136 - m.length % 136
  m ++ if n = 1 then [0x9F] else [0x1F] ++ List.replicate (n - 2) 0 ++ [0x80]

/-- SHAKE256 of a message: the first `n` bytes of it, at most 136. -/
def shakeBytes (m : List Byte) (n : Nat) : List Byte :=
  let p := shakePad m
  let block (a : List W64) (k : Nat) : List W64 :=
    keccakF (((List.range 25).zip a).map fun (i, x) =>
      if i < 17 then x ^^^ w64 (ofBytes ((p.drop (136 * k + 8 * i)).take 8)) else x)
  let a := (List.range (p.length / 136)).foldl block (List.replicate 25 0)
  (a.flatMap fun x => bytesOf 8 x.toNat).take n

/-- SHAKE256 of a message, 512 bits of it, the first byte in the lowest bits. -/
def shake256 (m : List Byte) : BitVec 512 := BitVec.ofNat 512 (ofBytes (shakeBytes m 64))

/-! Ed448 (01 R27; RFC 8032 5.2). Field elements are numbers below the prime. -/

/-- The prime 2^448 - 2^224 - 1. -/
def ed448P : Nat := 2 ^ 448 - 2 ^ 224 - 1

/-- The curve's d, which is -39081. -/
def ed448D : Nat := ed448P - 39081

/-- The order of the base point. -/
def ed448L : Nat := 2 ^ 446 - 13818066809895115352007386748515426880336692474882178609894547503885

/-- A difference in the field. -/
def fieldSub (a b : Nat) : Nat := (a + ed448P - b % ed448P) % ed448P

/-- A power in the field, by the low `fuel` bits of the exponent. -/
def fieldPow (a e : Nat) : (fuel : Nat) → Nat
  | 0 => 1
  | n + 1 =>
    let r := fieldPow (a * a % ed448P) (e / 2) n
    if e % 2 = 1 then r * a % ed448P else r

/-- A point of the curve as (X, Y, Z) with x = X / Z and y = Y / Z. -/
structure EdPoint where
  x : Nat
  y : Nat
  z : Nat
  deriving DecidableEq, Repr

/-- The base point. -/
def edBase : EdPoint :=
  { x := 224580040295924300187604334099896036246789641632564134246125461686950415467406032909029192869357953282578032075146446173674602635247710,
    y := 298819210078481492676017930443930673437544040154080242095928241372331506189835876003536878655418784733982303233503462500531545062832660,
    z := 1 }

/-- The sum of two points. -/
def EdPoint.add (p q : EdPoint) : EdPoint :=
  let a := p.z * q.z % ed448P
  let b := a * a % ed448P
  let c := p.x * q.x % ed448P
  let d := p.y * q.y % ed448P
  let e := ed448D * c % ed448P * d % ed448P
  let f := fieldSub b e
  let g := b + e
  let h := fieldSub ((p.x + p.y) * (q.x + q.y)) (c + d)
  { x := a * f % ed448P * h % ed448P, y := a * g % ed448P * fieldSub d c % ed448P, z := f * g % ed448P }

/-- A multiple of a point, by the low `fuel` bits of the number. -/
def EdPoint.times (p : EdPoint) (n : Nat) : (fuel : Nat) → EdPoint
  | 0 => ⟨0, 1, 1⟩
  | k + 1 =>
    let r := (p.add p).times (n / 2) k
    if n % 2 = 1 then r.add p else r

/-- The same point of the curve. -/
def EdPoint.same (p q : EdPoint) : Bool :=
  p.x * q.z % ed448P == q.x * p.z % ed448P && p.y * q.z % ed448P == q.y * p.z % ed448P

/-- The point that 57 bytes encode: y, and in the highest bit whether x is odd. -/
def edDecode (bs : List Byte) : Option EdPoint :=
  let v := ofBytes bs
  let odd := v / 2 ^ 455
  let y := v % 2 ^ 455
  let u := fieldSub (y * y) 1
  let w := fieldSub (ed448D * (y * y)) 1
  let root := u * u % ed448P * u % ed448P * w % ed448P *
    fieldPow (u * u % ed448P * u % ed448P * u % ed448P * u % ed448P * w % ed448P * w % ed448P * w % ed448P) ((ed448P - 3) / 4) 448 % ed448P
  if bs.length ≠ 57 ∨ ed448P ≤ y ∨ w * (root * root) % ed448P ≠ u ∨ (root = 0 ∧ odd = 1) then none
  else some ⟨if root % 2 = odd then root else ed448P - root, y, 1⟩

/-- Whether a signature of 114 bytes of a message verifies under a public key of 57 bytes, with the empty context. -/
def ed448Verify (key sig m : List Byte) : Bool :=
  let r := sig.take 57
  let n := ofBytes (sig.drop 57)
  let dom : List Byte := [0x53, 0x69, 0x67, 0x45, 0x64, 0x34, 0x34, 0x38, 0, 0]
  let k := ofBytes (shakeBytes (dom ++ r ++ key ++ m) 114) % ed448L
  match edDecode key, edDecode r with
  | some a, some p => sig.length == 114 && decide (n < ed448L) &&
      (edBase.times (4 * n) 448).same ((p.times 4 3).add (a.times (4 * k) 448))
  | _, _ => false

end Sys2Proof.Machine
end

