-- ==== Sys2Proof/Machine/Mgmt.lean ====
section
/-! DEFINITION. The lifetime record, attestation, firmware, power and the resets of the device (17 R323; 20 R397 to R400). -/

namespace Sys2Proof.Machine

/-! The lifetime record (20 R397, R398). -/

/-- The counts written to flash. -/
def State.flush (s : State) : State :=
  { s with lifetime := { s.lifetime with flash := s.lifetime.counts, flashTime := Config.flashTime s.fresh } }

/-- LIFETIME_FLUSH (20 R397). -/
def execLifetimeFlush (s : State) : Host.Outcome State Fault Refusal := s.flush.event

/-- What outlives a reset: device memory (log entry 25), the memories outside, the lifetime record, the firmware and its
rollback counter, what has been sent out, and the model's own counters. -/
def State.afterReset (s : State) : State :=
  { State.reset with mem := s.mem, hostMem := s.hostMem, peerMem := s.peerMem, lifetime := s.lifetime,
                     firmware := s.firmware, rollback := s.rollback, linkOwners := s.linkOwners, outbox := s.outbox,
                     fresh := s.fresh, nextId := s.nextId }

/-- DEVICE_RESET (17 R323, 12 R236, 01 R17). -/
def execDeviceReset (s : State) : Host.Outcome State Fault Refusal := s.afterReset.event

/-- The device without power: its memory is lost as well (log entry 25). -/
def State.powerOff (s : State) : State :=
  { s.afterReset with mem := [], lifetime := { s.lifetime with counts := s.lifetime.flash } }

/-- ORDERLY_POWER_DOWN (20 R397): the counts are written first. -/
def execOrderlyPowerDown (s : State) : Host.Outcome State Fault Refusal := s.flush.powerOff.event

/-- POWER_LOSS (20 R397): what has been counted since the last flash write is lost. -/
def execPowerLoss (s : State) : Host.Outcome State Fault Refusal := s.powerOff.event

/-- The bins of each histogram, in the order of 20 R397: 128 and 104 for each die, 12 stacks, 24 links. -/
def binsOf (hist : Nat) : Nat := [256, 208, 12, 24, 4, 3, 4].getD hist 0

/-- A bin as the record holds it: seconds spent are not counted here (log entry 14). -/
def State.binValue (s : State) (hist bin : Nat) : W64 :=
  if hist < 2 then Config.secondsSpent s.fresh hist bin else w64 (NMap.getD (s.lifetime.counts.getD hist []) bin 0)

/-- READ_HISTOGRAM (20 R398): up to 64 bins from an offset. -/
def execReadHistogram (hist bin : Nat) (s : State) : Host.Outcome State Fault Refusal :=
  if 7 ≤ hist then (s.send .mctpError).event
  else (s.send (.bins ((List.range (Nat.min 64 (binsOf hist - bin))).map fun k => s.binValue hist (bin + k)))).event

/-- LAST_FLASH_WRITE (20 R398). -/
def execLastFlashWrite (s : State) : Host.Outcome State Fault Refusal := (s.send (.time s.lifetime.flashTime)).event

/-- UNKNOWN_MCTP_COMMAND (20 R398). -/
def execUnknownMctpCommand (_ : Byte) (s : State) : Host.Outcome State Fault Refusal := (s.send .mctpError).event

/-! Attestation and firmware (20 R399). -/

/-- A measurement: the SHAKE256 digest of what it measures (01 R27). -/
def State.measurement (s : State) (index : Nat) : BitVec 512 :=
  shake256 (Config.measured index (if index = 2 then s.firmware else none))

/-- SPDM_REQUEST (20 R399): a measurement of index 1 to 3, or with index 0 the identity certificate chain; there is no
other. -/
def execSpdmRequest (index : Nat) (s : State) : Host.Outcome State Fault Refusal :=
  if index = 0 then (s.send (.certificate Config.certificateChain)).event
  else if index ≤ 3 then (s.send (.measurement index (s.measurement index))).event
  else (s.send .mctpError).event

/-- The Ed448 signature of a firmware image verifies under the key of the boot ROM (01 R27, 20 R399). -/
def imageVerifies (image : Nat) : Bool :=
  ed448Verify Config.bootKey (Config.imageSignature image) (Config.imageBytes image)

/-- FIRMWARE_BOOT (20 R399): an image is accepted only when its signature verifies and its version is not below the
rollback counter. -/
def execFirmwareBoot (image version : Nat) (s : State) : Host.Outcome State Fault Refusal :=
  (if imageVerifies image && decide (s.rollback ≤ version) then { s with firmware := some image } else s).event

/-! Power (20 R400). -/

/-- The bin of a cause of throttling (20 R397). -/
def Throttle.bin : Throttle → Nat
  | .power => 0
  | .temperature => 1
  | .current => 2

/-- THROTTLE_STEP (20 R400): the arithmetic clock goes down or up by 100 MHz, and the step is counted. -/
def execThrottleStep (down : Bool) (why : Throttle) (s : State) : Host.Outcome State Fault Refusal :=
  let n := if down then Nat.min 13 (s.throttle + 1) else s.throttle - 1
  if n = s.throttle then s.event else ({ s with throttle := n }.count 5 (Throttle.bin why)).event

end Sys2Proof.Machine
end

