-- ==== Sys2Proof/Machine/Place.lean ====
section
/-! DEFINITION. A wave placed by hand for `State.withFetchWord` (log entry 3), and a word stored where the thread that
issues next fetches. -/

namespace Sys2Proof.Machine

/-- A page of 16 KiB at virtual address 0 that allows everything, through tables at physical 0x4000 to 0x10000. -/
def demoTables (m : Memory) : Memory :=
  (((m.puts 0x4000 (bytesOf 8 0x8001)).puts 0x8000 (bytesOf 8 0xC001)).puts 0xC000 (bytesOf 8 0x10001)).puts 0x10000
    (bytesOf 8 0x1401F)

/-- A launch whose constants are all zero. -/
def demoLaunch : Launch :=
  { ctx := 0, record := [], exemplar := List.replicate 128 0, consts := List.replicate 512 0, node := none,
    outstanding := 1, unplaced := 0, host := true }

/-- A wave as it starts (02 R38), at packet 0 of context 0, with 8 blocks, 8 tiles, 8 channels and 4 pencil tiles. -/
def demoWave (id : Nat) : Wave :=
  { Wave.blank with
    id := id, stage := .running, launch := 0, held := 8, foot := ⟨8, 8, 8, 4⟩,
    sys := { exec := -1, flags := 0, ftrap := 0, lease := 10, cwin := 0, pts := 0 },
    tiles := List.replicate 8 Tile.blank, pencils := List.replicate 4 ⟨Tile.blank, none⟩,
    chans := List.replicate 8 ⟨0, []⟩, inkwell := 0x7FFFFFFF, live := -1,
    splits := [(0, { Thread.blank with mask := -1 })] }

/-- Context 0 runs with the page above, and a wave of it is placed. -/
def State.placeDemo (s : State) : State :=
  { s with mem := demoTables s.mem, ctxs := NMap.set s.ctxs 0 { s.ctx 0 with state := .run, enable := true, root := 0x4000 },
           launches := NMap.set s.launches 0 demoLaunch, cur := demoWave s.nextId, who := .split 0,
           waves := if s.cur.stage = .none then s.waves else NMap.set s.waves s.cur.id s.cur,
           nextId := s.nextId + 1 }

/-- Stores a word in the slot, of a packet of zeros, that the thread which issues next fetches. -/
def State.storeWord (s : State) (w : Nat) : State :=
  match s.choose with
  | none => s
  | some t =>
    let pc := t.thread.pc
    match s.translate t.die t.cur.ctx pc.pkt.toNat .fetch with
    | .ok (.device, pa) =>
      let s := { s with mem := s.mem.puts pa (bytesOf 16 (w * 2 ^ (32 * pc.slot))) }
      match s.wave? t.cur.id with
      | some x =>
        let y := x.setThread t.who { x.thread t.who with code := none }
        s.setWave { y with fetched := NMap.erase y.fetched (fetchKey t.who pc.pkt.toNat) }
      | none => s
    | _ => s

end Sys2Proof.Machine
end

