-- ==== Sys2Proof/Machine/Image.lean ====
section
/-! DEFINITION. The image of a context as SAVE lays it out (19 R377, R378, R422); what R377 leaves to the device in the
layout is chosen as log entry 26 says. -/

namespace Sys2Proof.Machine

/-! Laying out bytes. -/

/-- Fields at rising offsets of a record, zeros between and after them, from offset `pos` to `size`. -/
def layFrom (pos size : Nat) : List (Nat × List Byte) → List Byte
  | [] => List.replicate (size - pos) 0
  | (o, bs) :: rest => List.replicate (o - pos) 0 ++ bs ++ layFrom (Nat.max pos o + bs.length) size rest

/-- A record of `size` bytes from its fields at rising offsets. -/
def lay (size : Nat) (fields : List (Nat × List Byte)) : List Byte := layFrom 0 size fields

/-- The index of a number in a table, as an n32; 0xFFFF_FFFF where it is not there. -/
def indexIn (xs : List Nat) (x : Nat) : Nat := (xs.findIdx? (· == x)).getD 0xFFFFFFFF

/-- A number as a mask word of `n` bytes. -/
def maskBytes (m : Mask) : List Byte := bytesOf 4 m.toNat

/-! Launches and teams (19 R377). -/

/-- An entry of the launch table. -/
def Launch.image (l : Launch) (r : Roster) : List Byte :=
  lay 5376 [(0, l.record), (0x80, bytesOf 8 l.outstanding),
    (0x88, bytesOf 4 ((l.node.map fun x => indexIn r.impressions x.1).getD 0xFFFFFFFF)),
    (0x8C, bytesOf 2 ((l.node.map (·.2)).getD 0)), (0x100, l.consts.flatMap fun w => bytesOf 8 w.toNat),
    (0x1100, l.exemplar.flatMap fun w => bytesOf 8 w.toNat)]

/-- The WAVEID of a wave of a team by its number: the waves of a team have the numbers after the team's own. -/
def Launch.waveNoOf (l : Launch) (team id : Nat) : Nat := (((recWaves l.record)[id - team - 1]?).map (·.1)).getD 0

/-- Bits 48 to 54 of a barrier word: mode fixed, CNT, n − 1. -/
def modeBits (m : Option (Option Nat)) : Nat :=
  match m with
  | none => 0
  | some none => 2 ^ 48
  | some (some n) => 2 ^ 48 + 2 ^ 49 + (n - 1) % 32 * 2 ^ 50

/-- A mask with the bits of some numbers. -/
def maskOf (xs : List Nat) : Nat := xs.eraseDups.foldl (fun a n => a + 2 ^ n) 0

/-- The two words of a barrier of a team. -/
def State.barImage (s : State) (l : Launch) (team : Nat) (b : Bar) : List Byte :=
  let next := (b.nextArrived.filter fun ((w, m) : Nat × Mask) => match s.wave? w with
    | some x => x.barLanes &&& ~~~m == 0
    | none => true).map fun (w, _) => l.waveNoOf team w
  bytesOf 8 (maskOf (b.full.map (l.waveNoOf team)) + b.phase % 2 ^ 16 * 2 ^ 32 + modeBits b.mode) ++
    bytesOf 8 (maskOf next + modeBits b.nextMode)

/-- An entry of the team table, with its shared memory. -/
def State.teamImage (s : State) (r : Roster) (k : Nat) : List Byte :=
  match NMap.get? s.teams k with
  | none => []
  | some t => match NMap.get? s.launches t.launch with
    | none => []
    | some l =>
      let pages := l.field 0x38 2
      lay (4096 + 4096 * pages) [(0, bytesOf 4 (indexIn r.launches t.launch)), (4, bytesOf 4 t.teamNo),
        (8, bytesOf 1 t.live.length), (9, bytesOf 1 (l.field 0x32 1)), (0xA, bytesOf 1 (l.field 0x33 1)),
        (0xB, bytesOf 1 (l.field 0x34 1)), (0xC, bytesOf 2 pages), (0xE, bytesOf 2 (l.field 0x3A 2)),
        (0x10, bytesOf 1 (l.field 0x3C 1)), (0x20, t.bars.flatMap (s.barImage l k)),
        (0x1000, t.shared.gets 0 (4096 * pages))]

/-! The records of a wave image (19 R422). -/

/-- Entry `e` of a reconvergence table at its offset. -/
def Rec.image (r : Rec) (share pos : Nat) : List Byte :=
  let (pc, m) := r.pend.getD (⟨0, 0⟩, 0)
  lay 32 [(0, bytesOf 8 (r.addr.toNat % 2 ^ 58 / 16 * 16)), (8, maskBytes r.expect), (12, maskBytes r.arrived),
    (16, bytesOf 8 pc.word.toNat), (24, maskBytes m), (28, bytesOf 1 (1 + 2 * r.pend.isSome.toNat)), (29, bytesOf 1 share),
    (30, bytesOf 1 pos)]

/-- A thread with the stacks and lanes that its handler has, where it is the one whose trap is being handled (19 R367). -/
def Wave.withHandler (w : Wave) (who : Who) (t : Thread) : Thread :=
  match w.frame with
  | some f => if f.from_ = who then
      { t with mask := f.handler.mask, preds := f.handler.preds, stale := f.handler.stale, stack := f.handler.stack }
    else t
  | none => t

/-- The wait kind and argument of a split (19 R374, R422). -/
def Park.image : Park → Nat × Nat
  | .bar id next _ => (1, id + 16 * next.toNat)
  | .join e => (12, e)
  | _ => (0, 0)

/-- A split record. -/
def Thread.image (t : Thread) : List Byte :=
  lay 32 [(0, bytesOf 8 t.pc.word.toNat), (8, maskBytes t.mask), (12, bytesOf 1 t.preds.length), (13, bytesOf 1 t.stack.length),
    (14, [1]), (15, bytesOf 1 t.park.image.1), (16, bytesOf 4 t.park.image.2)]

/-- The bits that a thread holds in a predicate stack, the bottom entry first. -/
def Thread.predBits (t : Thread) : List Mask := t.preds.reverse ++ t.stale

/-- The predicate stack of a wave: every lane's bits as its split, its sprig or the entry at which it waits has them (07
R153). -/
def Wave.predImage (w : Wave) : List Mask :=
  let splits := w.splits.map fun (n, t) =>
    let t := w.withHandler (.split n) t
    let pend (e : Nat) : Mask := match (NMap.get? w.recs e).bind Rec.pend with
      | some (_, m) => m
      | none => 0
    (t.stack.foldl (fun (m : Mask) e => m ||| pend e) t.mask, t.predBits)
  let waiting : List (Mask × List Mask) := w.recs.map fun ((e, r) : Nat × Rec) =>
    (w.sprigs.foldl (fun (m : Mask) ((_, p) : Nat × Sprig) => if p.home = e then m ||| p.lanes else m) r.arrived, r.bits)
  let preds := (splits ++ waiting).foldl (fun (acc : List Mask) ((m, bits) : Mask × List Mask) => mixBits m acc (bits ++ List.replicate (16 - bits.length) 0))
    (List.replicate 16 0)
  preds.take 16

/-- The trap frame: of a sprig, the index of its record as well. -/
def Frame.image (f : Frame) : List Byte :=
  let ix := f.sprigSplit % 4 + match f.from_ with
    | .sprig j => 4 + 8 * (j % 8)
    | _ => 0
  lay 64 [(0, bytesOf 8 f.resume.word.toNat), (8, f.saved.flatMap fun r => bytesOf 8 r.val.toNat),
    (0x28, f.saved.map fun r => BitVec.ofNat 8 r.tag.code.toNat), (0x2C, bytesOf 1 f.cwin.toNat),
    (0x2D, bytesOf 1 f.pdepth), (0x2E, bytesOf 1 f.rdepth), (0x2F, bytesOf 1 ix), (0x30, bytesOf 8 f.handler.pc.word.toNat),
    (0x38, maskBytes f.handler.mask)]

/-- A recalled-sprig record: its entries are those of its stack, entry 0 at the bottom. -/
def Wave.sprigImage (w : Wave) (j : Nat) (p : Sprig) : List Byte :=
  let t := w.withHandler (.sprig j) p.th
  let lanes := { p with th := t }.lanes
  let recs := t.stack.reverse.map fun e => NMap.getD p.recs e ⟨0, 0, 0, none, 0, 0, [], none, false, []⟩
  lay 640 [(0, bytesOf 8 t.pc.word.toNat), (8, maskBytes lanes), (12, bytesOf 1 t.preds.length),
    (13, bytesOf 1 t.stack.length), (14, bytesOf 1 (1 + 2 * p.exportDepth)), (15, bytesOf 1 p.lines), (16, bytesOf 1 p.home),
    (17, bytesOf 1 p.exporter), (18, bytesOf 1 p.sys.flags.toNat), (19, bytesOf 1 p.sys.ftrap.toNat),
    (0x14, maskBytes (w.sys.exec &&& lanes)), (0x18, bytesOf 2 p.sys.lease.toNat), (0x1A, bytesOf 1 p.sys.cwin.toNat),
    (64, (t.predBits.take 16).flatMap maskBytes),
    (128, ((List.range recs.length).zip recs).flatMap fun (k, r) => r.image 0 k)]

/-! The wave image (19 R378). -/

/-- A generator slot in the layout of a bind record (15 R300); zeros where it is empty. -/
def bindImage (b : Option Bind) : List Byte :=
  match b with
  | none => List.replicate 128 0
  | some b => lay 128 [(0, bytesOf 4 b.nrows), (4, bytesOf 4 b.ncols), (8, bytesOf 8 b.invptr.toNat),
      (16, bytesOf 8 b.invidx.toNat), (32, b.steps.flatMap fun w => bytesOf 4 w.toNat)]

/-- The header of a wave image. -/
def Wave.headImage (w : Wave) (r : Roster) : List Byte :=
  let stopped := w.halted || w.stage == .stopped
  let flags := w.team.isNone.toNat + 2 * w.frame.isSome.toNat + 4 * w.runAhead.isSome.toNat + 8 * stopped.toNat +
    16 * ((w.runAhead.map (·.hold)).getD false).toNat
  lay 64 [(0, bytesOf 4 w.imageSize), (4, bytesOf 1 w.held), (5, bytesOf 1 w.foot.tiles), (6, bytesOf 1 w.foot.pencils),
    (7, bytesOf 1 w.foot.chans), (8, bytesOf 4 flags), (0xC, bytesOf 4 ((w.team.map (indexIn r.teams)).getD 0xFFFFFFFF)),
    (0x10, bytesOf 1 w.waveNo.toNat), (0x11, bytesOf 1 w.depth), (0x12, bytesOf 1 w.cls), (0x13, bytesOf 1 w.joins),
    (0x14, bytesOf 4 (indexIn r.launches w.launch))]

/-- The 32 words of a wave image. -/
def State.wordsImage (s : State) (r : Roster) (w : Wave) : List W64 :=
  [w.sys.exec.zeroExtend 64, w.sys.flags.zeroExtend 64, w.sys.ftrap.zeroExtend 64, w.sys.lease.zeroExtend 64,
    w.expthr.zeroExtend 64, w.sys.cwin.zeroExtend 64, s.inkwellWord w, w.xbase, w.xgen.zeroExtend 64, w.prog,
    w.step.zeroExtend 64, w.trapinfo, w.trapaddr, w64 w.pbase, w.batch, w64 w.children] ++
    (List.range 8).map (fun n => ((w.chans[n]?).map (·.wp)).getD 0) ++
    [0, ((w.runAhead.map RunAhead.flags).getD 0).zeroExtend 64, w64 ((w.parent.map (indexIn r.waves)).getD 0xFFFFFFFF)]

/-- The exemplar of a wave as the PF's debug access reads it while its context is frozen: 128 templates (04 R94, R103). -/
def State.debugTable (s : State) (w : Wave) : Option (List W64) :=
  if (s.ctx w.ctx).state = .frozen then
    some ((List.range 128).map fun k => if k < 8 then fixedEntry k else NMap.getD w.exemplar k 0)
  else none

/-- The same as bytes, each template with its lowest byte first. -/
def State.debugBytes (s : State) (w : Wave) : Option (List Byte) := (s.debugTable w).map fun ts => ts.flatMap fun t => bytesOf 8 t.toNat

/-- The tag bytes of a wave image, zero where there is no tile. -/
def Wave.tagImage (w : Wave) : List Byte :=
  let byte (f : Fmt) : Byte := BitVec.ofNat 8 f.code.toNat
  w.file.sregs.map (fun r => byte r.tag) ++ w.file.vregs.map (fun r => byte r.tag) ++
    (List.range 8).map (fun k => ((w.tiles[k]?).map fun t => byte t.tag).getD 0) ++
    (List.range 4).map fun k => ((w.pencils[k]?).map fun p => byte p.tile.tag).getD 0

/-- The rows of a tile. -/
def Tile.image (t : Tile) : List Byte := t.rows.flatMap fun r => r.flatMap fun x => bytesOf 4 x.toNat

/-- The lanes of a wave arrived at a barrier: for the next phase where some have, else for this one. -/
def Bar.lanesOf (b : Bar) (w : Nat) : Mask := (NMap.get? b.nextArrived w).getD (NMap.getD b.arrived w 0)

/-- The place of entry `e` on the stacks of a wave, 0 at the bottom. -/
def Wave.posOf (w : Wave) (e : Nat) : Nat :=
  let on := w.splits.map fun (n, t) => (w.withHandler (.split n) t).stack
  match on.find? fun st => st.contains e with
  | some st => st.length - 1 - (st.findIdx? (· == e)).getD 0
  | none => ((NMap.get? w.recs e).map (·.below.length)).getD 0

/-- The splits that hold entry `e`. -/
def Wave.shareOf (w : Wave) (e : Nat) : Nat :=
  maskOf ((w.splits.filter fun ((n, t) : Nat × Thread) => (w.withHandler (.split n) t).stack.contains e).map (·.1))

/-- A wave image (19 R378). -/
def State.waveImage (s : State) (r : Roster) (w : Wave) : List Byte :=
  let at_ (o size : Nat) (xs : NMap (List Byte)) : List (Nat × List Byte) := xs.map fun (k, b) => (o + size * k, b)
  let splits := w.splits.map fun ((n, t) : Nat × Thread) => (n, (w.withHandler (.split n) t).image)
  let recs := w.recs.map fun ((e, x) : Nat × Rec) => (e, x.image (w.shareOf e) (w.posOf e))
  let sprigs := w.sprigs.map fun ((j, p) : Nat × Sprig) => (j, w.sprigImage j p)
  lay w.imageSize ([(0, w.headImage r), (0x40, (s.wordsImage r w).flatMap fun x => bytesOf 8 x.toNat), (0x140, w.tagImage),
      (0x20C, (List.range 4).flatMap fun k => bytesOf 1 (((w.pencils[k]?).bind (·.shadows)).getD 0xFF)),
      (0x210, bytesOf 8 ((w.runAhead.map RunAhead.alt).getD 0).toNat),
      (0x240, (w.frame.map Frame.image).getD [])] ++
    at_ 0x280 32 splits ++ [(0x300, w.predImage.flatMap maskBytes)] ++ at_ 0x340 32 recs ++
    [(0x540, w.file.sregs.flatMap fun x => bytesOf 8 x.val.toNat),
      (0x740, (List.range 120).flatMap fun k => bytesOf 8 (NMap.getD w.exemplar (8 + k) 0).toNat),
      (0xB00, w.binds.flatMap bindImage)] ++ at_ 0xF00 640 sprigs ++
    [(0x2300, (s.bars w).flatMap fun b => maskBytes (b.lanesOf w.id)),
      (0x2400, (w.file.vregs.take (16 * w.held)).flatMap fun v => v.lanes.flatMap fun x => bytesOf 8 x.toNat),
      (0x2400 + 4096 * w.held, w.tiles.flatMap Tile.image ++ w.pencils.flatMap fun p => p.tile.image)])

/-! Pending work and impressions (19 R377). -/

/-- A footprint as the IMM of SPAWN has it (03 R74). -/
def Foot.spawnImm (f : Foot) : Nat := (f.blocks - 1) % 8 + f.tiles * 8 + f.chans * 128 + f.pencils * 2048

/-- An entry of the pending table. -/
def State.pendImage (s : State) (r : Roster) (e : PendEntry) : List Byte :=
  match e with
  | .teams i => lay 1024 [(8, bytesOf 8 (((NMap.get? s.launches i.launch).map (·.field 0x28 8)).getD 0)),
      (0x13, bytesOf 1 i.cls), (0x14, [1]), (0x1C, bytesOf 4 (indexIn r.launches i.launch)),
      (0x20, bytesOf 4 (i.team.getD 0))]
  | .task i => lay 1024 [(0, bytesOf 8 i.pc.toNat), (8, bytesOf 8 i.s0.toNat), (0x10, bytesOf 2 i.foot.spawnImm),
      (0x12, bytesOf 1 i.depth), (0x13, bytesOf 1 i.cls), (0x14, [2]),
      (0x18, bytesOf 4 ((i.parent.map (indexIn r.waves)).getD 0xFFFFFFFF)),
      (0x1C, bytesOf 4 (indexIn r.launches i.launch)), (0x28, bytesOf 8 i.xbase.toNat), (0x30, bytesOf 8 i.expthr.toNat),
      (0x40, (List.range 120).flatMap fun k => bytesOf 8 (NMap.getD i.exemplar (8 + k) 0).toNat)]
  | .ticket t => lay 1024 [(0, bytesOf 8 t.addr.toNat), (8, bytesOf 8 (t.args.getD 0).toNat), (0x14, [3]),
      (0x15, bytesOf 1 t.args.isSome.toNat)]

/-- A bitmap of node numbers, 512 bytes. -/
def nodeBits (xs : List Nat) : List Byte := bytesOf 512 (maskOf xs)

/-- The 16 bytes of a patch entry (02 R49). -/
def Patch.image (p : Patch) : List Byte :=
  bytesOf 2 p.node ++ bytesOf 1 p.where_ ++ bytesOf 1 p.size ++ bytesOf 4 p.offset ++ bytesOf 8 p.value.toNat

/-- The nodes of an impression that an image calls started: a launch node only once its launch is accepted. -/
def State.startedNodes (s : State) (k : Nat) (x : Impression) : List Nat :=
  x.started.filter fun n => !s.tickets.any fun (_, t) => t.node == some (k, n)

/-- An entry of the impression table. -/
def State.impressionImage (s : State) (k : Nat) : List Byte :=
  match NMap.get? s.impressions k with
  | none => []
  | some x => lay (impressionSize x.patches.length) [(0, bytesOf 2 x.slot), (2, bytesOf 2 x.tag.toNat),
      (4, bytesOf 4 x.patches.length), (8, bytesOf 8 x.plate.toNat), (0x40, nodeBits (s.startedNodes k x)),
      (0x240, nodeBits x.done), (0x440, x.patches.flatMap Patch.image)]

/-- The whole area of a context (19 R377). -/
def State.areaImage (s : State) (n : Nat) : List Byte :=
  let r := s.roster n
  let offs := s.offsets r
  let size := offs.getD 5 0
  let counts := [r.launches.length, r.teams.length, r.waves.length, r.pend.length, r.impressions.length]
  let head := lay 256 [(0, bytesOf 4 0x00039D1C), (4, bytesOf 2 1), (8, counts.flatMap (bytesOf 4)),
    (0x20, (offs.take 5).flatMap (bytesOf 8)), (0x48, bytesOf 8 size)]
  let table (k : Nat) (bs : List (List Byte)) : Nat × List Byte := (offs.getD k 0, bs.flatten)
  lay size [(0, head), table 0 (r.launches.map fun k => ((NMap.get? s.launches k).map (·.image r)).getD []),
    table 1 (r.teams.map (s.teamImage r)),
    table 2 (r.waves.map fun k => match s.wave? k with
      | some w => lay (roundUp w.imageSize 4096) [(0, s.waveImage r w)]
      | none => []),
    table 3 (r.pend.map (s.pendImage r)), table 4 (r.impressions.map s.impressionImage)]

end Sys2Proof.Machine
end

