-- ==== Sys2Proof/Machine/Save.lean ====
section
/-! DEFINITION. SAVE (19 R374 to R376; 20 R392). -/

namespace Sys2Proof.Machine

/-- The save and restore registers of a slot changed. -/
def State.setPre (s : State) (n : Nat) (f : PreRegs → PreRegs) : State :=
  s.setCtx n { s.ctx n with pre := f (s.ctx n).pre }

/-- A command of PRECTL ends: PRESTAT reads done, or failed with a code; a command refused at once has been accepted too
(19 R375). -/
def State.endPre (s : State) (n err : Nat) : State :=
  s.setPre n fun p => { p with cmd := 0, err := err, state := if err = 0 then 2 else 3, job := 0 }

/-! Stopping the waves (19 R374). -/

/-- Every membership of a wave ends: its steps are cancelled, its groups are told, and it takes 0x13 with reason 4 (20
R392). -/
def State.endMemberships (s : State) (w : Wave) : State :=
  match w.members with
  | [] => s
  | (h, _) :: _ =>
    let s := w.members.foldl (fun s (_, m) => s.abortRank m.gid m.rank) s
    let s := s.sendTokens w 4
    match s.wave? w.id with
    | none => s
    | some x =>
      let y := { x with members := [] }
      let s := s.setWave y
      if (y.stage == .running || y.stage == .swapped) && y.frame.isNone && y.due.isNone then
        s.tokenTrap y (BitVec.ofNat 4 h) 4
      else s

/-- The rest of a group may end now: no word of it is left, and its split runs on, or waits at a barrier and branches at most as a
whole. -/
def State.restEnds (s : State) (l : Late) : Bool :=
  !s.restLeft l && match s.thread.park, l.transfer with
    | .run, _ => true
    | .bar .., none => true
    | .bar .., some (.goto _) => true
    | _, _ => false

/-- The groups of a wave of which no word is left end (19 R374, log entry 15). -/
def State.endRests (s : State) (w : Wave) : State :=
  w.late.foldl (fun s (who, l) =>
    let t := s.select w.id who
    if t.restEnds l then t.endLate l else s) s

/-- A wave stops at its next pre-emption point (19 R374). -/
def State.stopForSave (s : State) (w : Nat) : State :=
  match s.wave? w with
  | none => s
  | some x =>
    let s := match x.tx with
      | some tx => s.endTx w tx 3
      | none => s
    let s := s.endRests ((s.wave? w).getD x)
    match s.wave? w with
    | none => s
    | some x =>
      let y := x.threads.foldl (fun y (who, t) => y.setThread who t.notIssued) x.leaveRendezvous
      (s.setWave y).endMemberships y

/-- SAVE (19 R376 steps 1 to 3): ignored while a command is under way. -/
def execSave (n : Nat) (s : State) : Host.Outcome State Fault Refusal :=
  let c := s.ctx n
  if c.pre.state = 1 then s.event
  else if c.state ≠ .run then (s.endPre n 5).event
  else if c.pre.size.toNat < (s.offsets (s.roster n)).getD 5 0 then (s.endPre n 2).event
  else
    let s := s.setCtx n { c with held := true, pre := { c.pre with cmd := 0, err := 0, state := 1, job := 1, target := c.pre.area } }
    let s := (s.roster n).waves.foldl State.stopForSave s
    (s.post (.saveComplete n)).event

/-! Completing (19 R374, R376 steps 4 to 6). -/

/-- The BAR at which a sprig or a handler waits, where its group has not branched: it has then not arrived, and the group issues again
from there (log entry 83). -/
def Wave.barBefore (w : Wave) (who : Who) (t : Thread) : Option PC :=
  let p : PC := if t.pc.slot = 0 then ⟨t.pc.pkt - 16, 2⟩ else ⟨t.pc.pkt, t.pc.slot - 1⟩
  if (NMap.get? w.fetched (fetchKey who p.pkt.toNat)).isSome && t.slot == p.slot then some p else none

/-- A thread whose record has no place for a wait at a barrier. -/
def unrecorded : Who → Bool
  | .split _ => false
  | _ => true

/-- A thread of a wave that is stopped may be written. -/
def Wave.mayWrite (w : Wave) (who : Who) (t : Thread) : Bool :=
  match t.park with
  | .join e => !(e == 0 && match who with
      | .sprig _ => true
      | _ => false)
  | .bar _ _ _ => !unrecorded who || (w.barBefore who t).isSome
  | _ => true

/-- A wave has nothing outstanding that a save waits for (19 R374). -/
def State.waveQuiet (s : State) (w : Wave) : Bool :=
  w.stage != .placed && w.stage != .retiring && w.due.isNone && w.pending.isEmpty && w.ops.isEmpty && w.closed.isEmpty &&
    !(w.chans.any fun c => !c.jobs.isEmpty) && s.over w (.split 0) .allAccesses &&
    (w.stage == .stopped || w.threads.all fun (who, t) => w.mayWrite who t)

/-- A context has nothing under way that a save waits for. -/
def State.quiet (s : State) (n : Nat) : Bool :=
  (s.allWaves.all fun w => w.ctx != n || s.waveQuiet w) &&
    (s.launches.all fun (_, l) => l.ctx != n || l.outstanding != 0 || l.unplaced != 0) &&
    s.impressions.all fun (_, x) => x.ctx != n ||
      (let nodes := (s.plate n x.slot).nodes
       x.done.length != nodes.length && x.started.all fun k => x.done.contains k || ((nodes[k]?).map (·.kind)) == some 1)

/-- An arrival of lanes of a wave is taken back. -/
def Bar.without (b : Bar) (w : Nat) (next : Bool) (lanes : Mask) : Bar :=
  let drop (xs : NMap Mask) : NMap Mask :=
    let m := NMap.getD xs w 0 &&& ~~~lanes
    if m = 0 then NMap.erase xs w else NMap.set xs w m
  if next then
    let a := drop b.nextArrived
    { b with nextArrived := a, nextMode := if a.isEmpty then none else b.nextMode }
  else
    let a := drop b.arrived
    let full := b.full.filter (· != w)
    { b with arrived := a, full := full, mode := if a.isEmpty && full.isEmpty then none else b.mode }

/-- The threads whose record has no place for a wait at a barrier go back to their BAR. -/
def State.leaveBars (s : State) : State :=
  s.cur.threads.foldl (fun s (who, t) =>
    match t.park, s.cur.barBefore who t with
    | .bar id next _, some pc =>
      if unrecorded who then
        let b := ((s.bars s.cur).getD id Bar.blank).without s.cur.id next t.mask
        let s := s.setBars ((s.bars s.cur).set id b)
        { s with cur := { s.cur.setThread who { t with pc := pc, park := .run } with late := s.cur.late.filter fun x => x.1 != who } }
      else s
    | _, _ => s) s

/-- A wave is ready to be written: its sprigs are recalled, and its memory is at home. -/
def State.readyImage (s : State) (w : Nat) : State :=
  let s := (s.select w (.split 0)).leaveBars
  let s := s.cur.sprigs.foldl (fun s (j, p) => if p.recalled then s else s.recall j) s
  match s.wave? w with
  | some x => s.settleMemory x
  | none => s

/-- The pages of an area with the bytes for each. -/
def areaPages (va : Nat) (bs : List Byte) : List (Nat × List Byte) :=
  (List.range ((bs.length + 4095) / 4096)).map fun k => (va + 4096 * k, (bs.drop (4096 * k)).take 4096)

/-- A page of an area can be written through the context's translation (19 R375, R376). -/
def State.canStore (s : State) (n va len : Nat) : Bool :=
  !s.sealed (s.ctx n).asid va len && match s.translate 0 n va .wr with
    | .ok _ => true
    | .error _ => false

/-- Bytes stored for a context, nothing where the page refuses them. -/
def State.storePage (s : State) (n va : Nat) (bs : List Byte) : State :=
  match s.globalWrite 0 n va bs 0 .outside with
  | .ok t => t
  | .error _ => s

/-- An area that cannot be written as a whole: which of its bytes are new is free (log entry 12). -/
def State.storeSome (s : State) (n : Nat) (pages : List (Nat × List Byte)) : State :=
  pages.foldl (fun s (va, bs) => (List.range bs.length).foldl (fun t i =>
    if Config.failedNew s.fresh (va + i) then t.storePage n (va + i) ((bs.drop i).take 1) else t) s) s

/-- Everything that a context holds goes; transfers of KVX and updates at the mills run on (19 R374, R376 step 5). -/
def State.freeContext (s : State) (n : Nat) : State :=
  let r := s.roster n
  let s := r.waves.foldl State.removeWave s
  let s := r.teams.foldl State.freeTeam s
  let s := { s with launches := s.launches.filter fun (_, l) => l.ctx != n,
                    tickets := s.tickets.filter fun (_, t) => t.ctx != n,
                    items := s.items.filter fun i => i.ctx != n,
                    impressions := s.impressions.filter fun (_, x) => x.ctx != n,
                    rings := s.rings.filter fun h => h.ctx != n }
  ((List.range 16).foldl (fun s p => s.checkPlate n p) s).roomMade

/-- The area is written, and the context freed; or the save fails, and the work stays stopped in place (19 R376). -/
def State.writeArea (s : State) (n : Nat) : State :=
  let bs := s.areaImage n
  let pages := areaPages (s.ctx n).pre.target.toNat bs
  if pages.all fun (va, b) => s.canStore n va b.length then
    let s := pages.foldl (fun s (va, b) => s.storePage n va b) s
    ((s.freeContext n).setPre n fun p => { p with pages := pages.length }).endPre n 0
  else (s.storeSome n pages).endPre n 1

/-- The sectors of the dirty private words of a context's waves (19 R374). -/
def State.savedWords (s : State) (n : Nat) : List Nat :=
  (s.roster n).waves.flatMap fun k => ((s.wave? k).map Wave.privSectors).getD []

/-- SAVE_COMPLETE (19 R376): every wave stands at a pre-emption point with nothing outstanding. -/
def execSaveComplete (n : Nat) (s : State) : Host.Outcome State Fault Refusal :=
  let c := s.ctx n
  if c.pre.job ≠ 1 then s.event
  else if c.state ≠ .run then (s.endPre n 5).event
  else if !s.quiet n then s.event
  else match s.heldWrite (s.frontSectors n c.pre.target.toNat ((s.offsets (s.roster n)).getD 5 0) .wr ++ s.savedWords n) .outside
      (.saveComplete n) with
    | some t => t.event
    | none => (((s.roster n).waves.foldl State.readyImage s).writeArea n).event

end Sys2Proof.Machine
end

