-- ==== Sys2Proof/Machine/Restore.lean ====
section
/-! DEFINITION. RESTORE (19 R379, R380): the area is checked, what it holds is made anew, and the distributor places it. -/

namespace Sys2Proof.Machine

/-! Reading an area. -/

/-- The bytes of a range of an area. -/
def part (b : List Byte) (o n : Nat) : List Byte := (b.drop o).take n

/-- Reserved bytes of an area are zero. -/
def zeros (b : List Byte) (o n : Nat) : Bool := (part b o n).all (· == 0)

/-- The offsets of `n` entries of a table, the first at `pos`. -/
def walkTable (next : Nat → Nat) : (n pos : Nat) → List Nat
  | 0, _ => []
  | n + 1, pos => pos :: walkTable next n (next pos)

/-- The offsets of the entries of the five tables. -/
structure AreaTables where
  launches : List Nat
  teams : List Nat
  waves : List Nat
  pend : List Nat
  impressions : List Nat
  deriving DecidableEq, Repr

/-- Counter `k` of a header. -/
def headCount (b : List Byte) (k : Nat) : Nat := recField b (8 + 4 * k) 4

/-- Offset `k` of a header. -/
def headOff (b : List Byte) (k : Nat) : Nat := recField b (0x20 + 8 * k) 8

/-- The tables of an area. -/
def tablesOf (b : List Byte) : AreaTables :=
  { launches := walkTable (· + 5376) (headCount b 0) (headOff b 0),
    teams := walkTable (fun o => o + 4096 + 4096 * recField b (o + 0xC) 2) (headCount b 1) (headOff b 1),
    waves := walkTable (fun o => o + roundUp (recField b o 4) 4096) (headCount b 2) (headOff b 2),
    pend := walkTable (· + 1024) (headCount b 3) (headOff b 3),
    impressions := walkTable (fun o => o + impressionSize (recField b (o + 4) 4)) (headCount b 4) (headOff b 4) }

/-- Where the entries of a table end. -/
def tableEnd (next : Nat → Nat) (at_ : List Nat) (off : Nat) : Nat := (at_.getLast?.map next).getD off

/-- Where the last table of an area ends (19 R377). -/
def areaEnd (b : List Byte) : Nat :=
  let t := tablesOf b
  [tableEnd (· + 5376) t.launches (headOff b 0),
    tableEnd (fun o => o + 4096 + 4096 * recField b (o + 0xC) 2) t.teams (headOff b 1),
    tableEnd (fun o => o + roundUp (recField b o 4) 4096) t.waves (headOff b 2), tableEnd (· + 1024) t.pend (headOff b 3),
    tableEnd (fun o => o + impressionSize (recField b (o + 4) 4)) t.impressions (headOff b 4)].foldl Nat.max 256

/-! The checks that end in ERR 3 (19 R379). -/

/-- The header of an area, with the size that PRESIZE allows. -/
def areaHeadOk (h : List Byte) (size : Nat) : Bool :=
  let tot := recField h 0x48 8
  recField h 0 4 == 0x00039D1C && recField h 4 2 == 1 && zeros h 6 2 && zeros h 0x1C 4 && zeros h 0x50 176 &&
    decide (256 ≤ tot) && decide (tot ≤ size) &&
    (List.range 5).all (fun k => headOff h k % 256 == 0 && decide (headOff h k ≤ tot)) &&
    decide (5376 * headCount h 0 + 4096 * headCount h 1 + 4096 * headCount h 2 + 1024 * headCount h 3 +
      1088 * headCount h 4 ≤ tot)

/-- An index of a table, or none where 0xFFFF_FFFF is allowed. -/
def indexOk (i n : Nat) (orNone : Bool) : Bool := decide (i < n) || (orNone && i == 0xFFFFFFFF)

/-- A launch entry. -/
def launchOk (b : List Byte) (t : AreaTables) (o : Nat) : Bool :=
  zeros b (o + 0x8E) 114 && indexOk (recField b (o + 0x88) 4) t.impressions.length true && (badOffset (part b o 128)).isNone

/-- The footprint of a team header is within R39, and its steps make up the SRAM of a cluster (01 R17, 19 R379). -/
def teamFootOk (g : Nat → Nat → Nat) : Bool :=
  decide (1 ≤ g 8 1) && decide (g 8 1 ≤ 32) && decide (8 ≤ g 9 1) && g 9 1 + g 0xA 1 + g 0xB 1 == 32 && decide (g 0xA 1 ≤ 16) &&
    decide (g 0xB 1 ≤ 16) && decide (g 0xC 2 ≤ 256) && decide (g 0xE 2 ≤ 256) && decide (g 0x10 1 ≤ 4)

/-- A team entry. -/
def teamOk (b : List Byte) (t : AreaTables) (o : Nat) : Bool :=
  let barOk (k : Nat) : Bool :=
    let w0 := recField b (o + 0x20 + 16 * k) 8
    let w1 := recField b (o + 0x28 + 16 * k) 8
    decide (w0 < 2 ^ 55) && decide (w1 < 2 ^ 55) && bitsOf w1 32 16 == 0
  let g (k n : Nat) : Nat := recField b (o + k) n
  indexOk (recField b o 4) t.launches.length false && teamFootOk g && zeros b (o + 0x11) 15 && zeros b (o + 0x120) 0xEE0 &&
    (List.range 16).all barOk

/-- A PC of an image has a packet address in bits 57:4 and a slot in bits 1:0, and nothing else (19 R422). -/
def pcOk (pc : Nat) : Bool := decide (pc < 2 ^ 58) && decide (pc % 16 < 4)

/-- A reconvergence entry of a wave's table, or of a sprig's, which has no SHARE. -/
def recOk (b : List Byte) (sprig : Bool) (o : Nat) : Bool :=
  decide (recField b (o + 28) 1 < 4) && decide (recField b (o + 29) 1 < if sprig then 1 else 16) && zeros b (o + 31) 1 &&
    pcOk (recField b o 8) && recField b o 8 % 16 == 0 && pcOk (recField b (o + 16) 8)

/-- The reconvergence entries of a wave that are valid. -/
def validRecs (b : List Byte) (o : Nat) : List Nat := (List.range 16).filter fun i => recField b (o + 0x35C + 32 * i) 1 % 2 == 1

/-- The stack of split `n` in a wave's table: the entries that it shares, the top first (19 R422). -/
def stackOf (b : List Byte) (o n : Nat) : List Nat :=
  let on := (validRecs b o).filter fun i => bitsOf (recField b (o + 0x35D + 32 * i) 1) n 1 == 1
  (List.range 16).flatMap (fun p => on.filter fun i => recField b (o + 0x35E + 32 * i) 1 == 15 - p)

/-- A split record. -/
def splitOk (b : List Byte) (o n : Nat) : Bool :=
  let r := o + 0x280 + 32 * n
  let kind := recField b (r + 15) 1
  let arg := recField b (r + 16) 4
  decide (recField b (r + 14) 1 < 2) && zeros b (r + 20) 12 && pcOk (recField b r 8) && (kind != 0 || arg == 0) &&
    (recField b (r + 14) 1 == 0 || (decide (recField b (r + 12) 1 ≤ 16) && (stackOf b o n).length == recField b (r + 13) 1 &&
      (kind == 0 || (kind == 1 && decide (arg < 32)) || (kind == 12 && (validRecs b o).contains arg))))

/-- A recalled-sprig record: its reserved bytes are zero also where it is not valid. -/
def sprigOk (b : List Byte) (o j : Nat) : Bool :=
  let r := o + 0xF00 + 640 * j
  let g (k n : Nat) : Nat := recField b (r + k) n
  decide (g 14 1 < 4) && decide (g 17 1 < 4) && decide (g 18 1 < 32) && decide (g 19 1 < 32) && zeros b (r + 0x1B) 0x25 &&
    pcOk (g 0 8) && decide (g 0x18 2 < 2 ^ 12) && decide (g 0x1A 1 < 8) &&
    (List.range 16).all (fun k => recOk b true (r + 128 + 32 * k)) &&
    (g 14 1 % 2 == 0 || (decide (g 12 1 ≤ 16) && decide (1 ≤ g 13 1) && decide (g 13 1 ≤ 16) &&
      (validRecs b o).contains (g 16 1)))

/-- The sprigs of a wave image. -/
def validSprigs (b : List Byte) (o : Nat) : List Nat := (List.range 8).filter fun j => recField b (o + 0xF0E + 640 * j) 1 % 2 == 1

/-- The trap frame of a wave image. -/
def frameOk (b : List Byte) (o : Nat) : Bool :=
  let f := o + 0x240
  let ix := recField b (f + 0x2F) 1
  if bitsOf (recField b (o + 8) 4) 1 1 = 0 then zeros b f 64
  else decide (ix < 64) && decide (recField b (f + 0x2C) 1 < 8) && pcOk (recField b f 8) && pcOk (recField b (f + 0x30) 8) &&
    zeros b (f + 0x3C) 4 && (part b (f + 0x28) 4).all (fun x => decide (x.toNat < 0x16)) &&
    if bitsOf ix 2 1 = 1 then (validSprigs b o).contains (ix / 8)
    else recField b (o + 0x28E + 32 * (ix % 4)) 1 == 1

/-- The exemplar entries 8 to 127 at an offset are none of them malformed. -/
def entriesOk (b : List Byte) (o : Nat) : Bool := (List.range 120).all fun k => !malformed (w64 (recField b (o + 8 * k) 8))

/-- The waves of the record of a team entry. -/
def teamWaves (b : List Byte) (t : AreaTables) (team : Nat) : List Nat :=
  match t.teams[team]? with
  | none => []
  | some o => match t.launches[recField b o 4]? with
    | none => []
    | some l => (recWaves (part b l 128)).map (·.1)

/-- A bind record of a wave image: empty, or one that PATBIND accepts. -/
def bindOk (b : List Byte) (o : Nat) : Bool :=
  recField b o 4 == 0 || (bindFault 0 (wordsOf (part b o 128))).isNone

/-- The words of a wave image that hold system registers with the bits that those have, by word and width. -/
def sysBits : List (Nat × Nat) := [(0, 32), (1, 5), (2, 5), (3, 12), (4, 4), (5, 3), (8, 32), (10, 36), (25, 5), (26, 32)]

/-- A wave image, but for what its PROG asks. -/
def waveOk (b : List Byte) (t : AreaTables) (o : Nat) : Bool :=
  let g (k n : Nat) : Nat := recField b (o + k) n
  let flags := g 8 4
  let task := bitsOf flags 0 1 == 1
  o % 4096 == 0 && decide (1 ≤ g 4 1) && decide (g 4 1 ≤ 8) && decide (g 5 1 ≤ 8) && decide (g 6 1 ≤ 4) && decide (g 7 1 ≤ 8) &&
    decide (flags < 32) && g 0 4 == 0x2400 + 4096 * g 4 1 + 16384 * (g 5 1 + g 6 1) && zeros b (o + 0x18) 40 &&
    zeros b (o + 0x118) 40 && zeros b (o + 0x218) 40 && (part b (o + 0x140) 204).all (fun x => decide (x.toNat < 0x16)) &&
    decide (g 0x11 1 ≤ 4) && decide (g 0x12 1 ≤ 3) && g 0x13 1 == (validSprigs b o).length && task == decide (0 < g 0x11 1) &&
    task == (g 0xC 4 == 0xFFFFFFFF) && indexOk (g 0xC 4) t.teams.length true && indexOk (g 0x14 4) t.launches.length false &&
    (task || (teamWaves b t (g 0xC 4)).contains (g 0x10 1)) && indexOk (g 0x110 8) t.waves.length true &&
    (List.range 4).all (fun p => g (0x20C + p) 1 == 0xFF || (decide (p < g 6 1) && decide (g (0x20C + p) 1 < g 5 1))) &&
    sysBits.all (fun (k, n) => decide (g (0x40 + 8 * k) 8 < 2 ^ n)) && frameOk b o && (List.range 4).all (splitOk b o) && (List.range 16).all (fun i => recOk b false (o + 0x340 + 32 * i)) && zeros b (o + 0x2340) 0xC0 &&
    entriesOk b (o + 0x740) && (List.range 8).all (fun k => bindOk b (o + 0xB00 + 128 * k)) && (List.range 8).all (sprigOk b o)

/-- A pending entry. -/
def pendOk (b : List Byte) (t : AreaTables) (o : Nat) : Bool :=
  let g (k n : Nat) : Nat := recField b (o + k) n
  let kind := g 0x14 1
  let imm := g 0x10 2
  decide (1 ≤ kind) && decide (kind ≤ 3) && decide (g 0x15 1 ≤ if kind = 3 then 1 else 0) && zeros b (o + 0x16) 2 &&
    (kind != 3 || g 0x15 1 == 1 || g 8 8 == 0) && decide (g 0x30 8 < 16) &&
    zeros b (o + 0x24) 4 && zeros b (o + 0x38) 8 &&
    (kind == 3 || (indexOk (g 0x1C 4) t.launches.length false && decide (g 0x13 1 ≤ 3))) &&
    (kind != 1 || decide (g 0x20 4 < recField b (t.launches.getD (g 0x1C 4) 0 + 4) 4)) &&
    (kind != 2 || (decide (imm < 2 ^ 14) && decide (bitsOf imm 3 4 ≤ 8) && decide (bitsOf imm 7 4 ≤ 8) && decide (bitsOf imm 11 3 ≤ 4) &&
      decide (1 ≤ g 0x12 1) && decide (g 0x12 1 ≤ 4) && indexOk (g 0x18 4) t.waves.length true && entriesOk b (o + 0x40)))

/-- An impression entry. -/
def impressionOk (b : List Byte) (o : Nat) : Bool :=
  let count := recField b (o + 4) 4
  decide (recField b o 2 < 16) && decide (count ≤ 1024) && zeros b (o + 0x10) 48 &&
    zeros b (o + 1088 + 16 * count) (impressionSize count - 1088 - 16 * count)

/-- Every entry ends within the area. -/
def tablesInside (b : List Byte) (t : AreaTables) (size : Nat) : Bool :=
  t.launches.all (fun o => decide (o + 5376 ≤ size)) &&
    t.teams.all (fun o => decide (o + 4096 + 4096 * recField b (o + 0xC) 2 ≤ size)) &&
    t.waves.all (fun o => decide (o + 0x2400 ≤ size) && decide (o + recField b o 4 ≤ size)) &&
    t.pend.all (fun o => decide (o + 1024 ≤ size)) &&
    t.impressions.all fun o => decide (o + impressionSize (recField b (o + 4) 4) ≤ size)

/-- The whole area, but for plates and PROG. -/
def areaOk (b : List Byte) : Bool :=
  let t := tablesOf b
  let places := t.waves.map fun o => (recField b (o + 0xC) 4, if recField b (o + 0xC) 4 = 0xFFFFFFFF then o else recField b (o + 0x10) 1)
  tablesInside b t b.length && areaEnd b == recField b 0x48 8 && t.launches.all (launchOk b t) && t.teams.all (teamOk b t) && t.waves.all (waveOk b t) &&
    t.pend.all (pendOk b t) && t.impressions.all (impressionOk b) && places.eraseDups.length == places.length

/-! PROG (19 R373, R379). -/

/-- A PROG in the layout of the long instruction that it describes. -/
def progFits (prog : Nat) : Instr → Bool
  | .merge _ => true
  | .topk _ => decide (prog < 2 ^ 7)
  | .mma _ | .mmg _ => decide (prog < 2 ^ 4)
  | .rebal .. | .gather _ | .scatter _ | .mload _ | .mstore _ | .patgen _ => decide (prog < 2 ^ 6)
  | _ => false

/-- The slot at a PC word holds the long instruction that a PROG describes, as the table of a wave image decodes it. -/
def State.longAt (s : State) (n : Nat) (b : List Byte) (o prog pc : Nat) : Bool :=
  match s.frontRead n (pc / 16 * 16) 16 with
  | none => false
  | some p =>
    let w := (BitVec.ofNat 128 (ofBytes p)).extractLsb' (32 * (pc % 4)) 32
    let x := (w.extractLsb' 23 7).toNat
    let t := if x < 8 then fixedEntry x else w64 (recField b (o + 0x740 + 8 * (x - 8)) 8)
    decide (pc % 4 < 3) && templateValid t && match decode (x == 6) t w with
      | some i => progFits prog i
      | none => false

/-- The PROG of a wave image is zero, or a split that waits for nothing or the return of its handler stands at the instruction that
it describes. -/
def State.progOk (s : State) (n : Nat) (b : List Byte) (o : Nat) : Bool :=
  let pcs := ((List.range 4).filter fun k => recField b (o + 0x28E + 32 * k) 2 == 1).map fun k => recField b (o + 0x280 + 32 * k) 8
  let frame := if bitsOf (recField b (o + 8) 4) 1 1 = 1 then [recField b (o + 0x240) 8] else []
  recField b (o + 0x88) 8 == 0 || (pcs ++ frame).any (s.longAt n b o (recField b (o + 0x88) 8))

/-! Plates (19 R379). -/

/-- The plate of an impression entry is valid in the same slot at the same address. -/
def State.plateHere (s : State) (n : Nat) (b : List Byte) (o : Nat) : Bool :=
  let p := s.plate n (recField b o 2)
  p.valid && p.base.toNat == recField b (o + 8) 8

/-- The patches of an impression entry. -/
def patchesAt (b : List Byte) (o : Nat) : List Patch := (List.range (recField b (o + 4) 4)).map (patchAt (part b (o + 0x440) (16 * 1024)))

/-- The node numbers set in a bitmap. -/
def nodesAt (b : List Byte) (o : Nat) : List Nat :=
  let m := recField b o 512
  (List.range 4096).filter fun k => m.testBit k

/-- The patches and nodes of an impression entry are those of its plate. -/
def State.nodesOk (s : State) (n : Nat) (b : List Byte) (o : Nat) : Bool :=
  let nodes := (s.plate n (recField b o 2)).nodes
  (patchesAt b o).all (·.ok nodes) && (nodesAt b (o + 0x40) ++ nodesAt b (o + 0x240)).all fun k => decide (k < nodes.length)

/-- The node of a launch entry is one of its impression's plate. -/
def State.launchNodeOk (s : State) (n : Nat) (b : List Byte) (t : AreaTables) (o : Nat) : Bool :=
  match t.impressions[recField b (o + 0x88) 4]? with
  | none => true
  | some i => decide (recField b (o + 0x8C) 2 < (s.plate n (recField b i 2)).nodes.length)

/-- The code with which an area is refused, if it is (19 R379). -/
def State.areaErr (s : State) (n : Nat) (b : List Byte) : Option Nat :=
  let t := tablesOf b
  if !areaOk b || !t.waves.all (s.progOk n b) then some 3
  else if !t.impressions.all (s.plateHere n b) then some 4
  else if !t.impressions.all (s.nodesOk n b) || !t.launches.all (s.launchNodeOk n b t) then some 3
  else none

/-! The numbers that what an area holds takes: launches, impressions, each team with the waves of its record after it, tasks,
and then the items and tickets. -/

/-- The numbers of the entries of the tables. -/
structure AreaKeys where
  launches : List Nat
  impressions : List Nat
  teams : List Nat
  waves : List Nat
  next : Nat
  deriving DecidableEq, Repr

/-- The numbers from `base` on. -/
def keysOf (b : List Byte) (base : Nat) : AreaKeys :=
  let t := tablesOf b
  let nl := t.launches.length
  let t0 := base + nl + t.impressions.length
  let teams := (List.range t.teams.length).foldl (fun (acc : List Nat × Nat) k =>
    (acc.1 ++ [acc.2], acc.2 + 1 + (teamWaves b t k).length)) ([], t0)
  let waves := t.waves.foldl (fun (acc : List Nat × Nat) o =>
    let team := recField b (o + 0xC) 4
    if team = 0xFFFFFFFF then (acc.1 ++ [acc.2], acc.2 + 1)
    else (acc.1 ++ [teams.1.getD team 0 + 1 + ((teamWaves b t team).findIdx? (· == recField b (o + 0x10) 1)).getD 0], acc.2))
    ([], teams.2)
  { launches := (List.range nl).map (base + ·), impressions := (List.range t.impressions.length).map (base + nl + ·),
    teams := teams.1, waves := waves.1, next := waves.2 }

/-! Making the waves anew (19 R378, R422). -/

/-- A mask at an offset. -/
def maskAt (b : List Byte) (o : Nat) : Mask := BitVec.ofNat 32 (recField b o 4)

/-- A PC at an offset. -/
def pcAt (b : List Byte) (o : Nat) : PC := ⟨w64 (bitsOf (recField b o 8) 4 54 * 16), recField b o 8 % 4⟩

/-- The tag in a byte. -/
def tagAt (b : List Byte) (o : Nat) : Fmt := (Fmt.ofCode (BitVec.ofNat 5 (recField b o 1))).getD .b64

/-- A reconvergence entry. -/
def recAt (b : List Byte) (o : Nat) : Rec :=
  { addr := w64 (bitsOf (recField b o 8) 4 54 * 16), expect := maskAt b (o + 8), arrived := maskAt b (o + 12),
    pend := if bitsOf (recField b (o + 28) 1) 1 1 = 1 then some (pcAt b (o + 16), maskAt b (o + 24)) else none,
    share := BitVec.ofNat 4 (recField b (o + 29) 1), pos := recField b (o + 30) 1, bits := [], depth := none, uneven := false,
    below := [] }

/-- A thread with its lanes and a predicate stack of 16 entries, the bottom first. -/
def threadAt (pc : PC) (mask : Mask) (bits : List Mask) (depth : Nat) (stack : List Nat) : Thread :=
  { Thread.blank with pc := pc, mask := mask, preds := predsOf bits depth, stale := bits.drop depth, stack := stack }

/-- 16 masks from an offset. -/
def masksAt (b : List Byte) (o : Nat) : List Mask := (List.range 16).map fun k => maskAt b (o + 4 * k)

/-- What a split record says that the split waits for. -/
def waitAt (kind arg : Nat) : Park :=
  if kind = 1 then .bar (arg % 16) (bitsOf arg 4 1 == 1) .system else if kind = 12 then .join arg else .run

/-- The splits of a wave image. -/
def splitsAt (b : List Byte) (o : Nat) : NMap Thread :=
  let bits := masksAt b (o + 0x300)
  ((List.range 4).filter fun n => recField b (o + 0x28E + 32 * n) 1 == 1).map fun n =>
    let r := o + 0x280 + 32 * n
    (n, { threadAt (pcAt b r) (maskAt b (r + 8)) bits (recField b (r + 12) 1) (stackOf b o n) with
      park := waitAt (recField b (r + 15) 1) (recField b (r + 16) 4) })

/-- The entries under one on the stacks that hold it, the topmost first. -/
def belowOf (b : List Byte) (o e : Nat) : List Nat :=
  match (List.range 4).find? fun n => (stackOf b o n).contains e with
  | some n => ((stackOf b o n).dropWhile (· != e)).drop 1
  | none =>
    let pos := recField b (o + 0x35E + 32 * e) 1
    (List.range pos).flatMap fun k => ((validRecs b o).filter fun i => recField b (o + 0x35E + 32 * i) 1 == pos - 1 - k).take 1

/-- The reconvergence entries of a wave image: what arrived lanes and those of sprigs have in the predicate stack is in the
wave's own, as deep as a split that waits there, or as it has an entry that is not zero. -/
def recsAt (b : List Byte) (o : Nat) : NMap Rec :=
  let splits := splitsAt b o
  (validRecs b o).map fun e =>
    let r := recAt b (o + 0x340 + 32 * e)
    let depth := (splits.find? fun (_, t) => t.park == .join e).map fun (_, t) => t.preds.length
    let bits := masksAt b (o + 0x300)
    let bits := if depth.isSome then bits else (bits.reverse.dropWhile (· == 0)).reverse
    (e, { r with bits := bits, depth := depth, below := belowOf b o e })

/-- The sprigs of a wave image, recalled (08 R183). -/
def sprigsAt (b : List Byte) (o : Nat) (splits : NMap Thread) : NMap Sprig :=
  (validSprigs b o).map fun j =>
    let r := o + 0xF00 + 640 * j
    let g (k n : Nat) : Nat := recField b (r + k) n
    let recs := (List.range (g 13 1)).map fun k => (k, recAt b (r + 128 + 32 * k))
    let away := recs.foldl (fun (m : Mask) ((_, x) : Nat × Rec) => m ||| x.arrived ||| (match x.pend with
      | some (_, k) => k
      | none => 0)) 0
    let mask := maskAt b (r + 8) &&& ~~~away
    let present := splits.foldl (fun a (n, _) => a + 2 ^ n) 0
    (j, { th := threadAt (pcAt b r) mask (masksAt b (r + 64)) (g 12 1) (List.range (g 13 1)).reverse, file := RegFile.blank,
          sys := { exec := maskAt b (r + 0x14), flags := BitVec.ofNat 5 (g 18 1), ftrap := BitVec.ofNat 5 (g 19 1),
                   lease := BitVec.ofNat 12 (g 0x18 2), cwin := BitVec.ofNat 3 (g 0x1A 1), pts := 0 },
          recs := recs, home := g 16 1, atExport := [], exporter := g 17 1, exportDepth := bitsOf (g 14 1) 1 1,
          splitsAtExport := w64 ((maskAt b (r + 8) ||| away).toNat * 2 ^ 32 + present * 2 ^ 8 + g 17 1 * 2 ^ 4 + splits.length), nib := 0, lines := g 15 1,
          recalled := true, fenced := false, wrote := [], held := [], age := 0, starved := 0 })

/-- The trap frame of a wave image: the handler has the stacks of the record whose trap it handles (19 R367). -/
def frameAt (b : List Byte) (o : Nat) (splits : NMap Thread) (sprigs : NMap Sprig) : Option Frame :=
  let f := o + 0x240
  let ix := recField b (f + 0x2F) 1
  if bitsOf (recField b (o + 8) 4) 1 1 = 0 then none
  else
    let j := ix / 8 % 8
    let sprig := bitsOf ix 2 1 == 1
    let t := if sprig then ((NMap.get? sprigs j).map (·.th)).getD Thread.blank else NMap.getD splits (ix % 4) Thread.blank
    some { resume := pcAt b f,
           saved := (List.range 4).map fun k => ⟨tagAt b (f + 0x28 + k), w64 (recField b (f + 8 + 8 * k) 8)⟩,
           cwin := BitVec.ofNat 3 (recField b (f + 0x2C) 1), pdepth := recField b (f + 0x2D) 1,
           rdepth := recField b (f + 0x2E) 1, from_ := if sprig then .sprig j else .split (ix % 4), sprigSplit := ix % 4,
           handler := { t with pc := pcAt b (f + 0x30), mask := maskAt b (f + 0x38), park := .run } }

/-- A tile. -/
def tileAt (b : List Byte) (o : Nat) (tag : Fmt) : Tile :=
  { tag := tag, rows := (List.range 32).map fun r => (List.range 128).map fun c => BitVec.ofNat 32 (recField b (o + 512 * r + 4 * c) 4) }

/-- The barriers of a task, of which an image keeps the lanes arrived: one at which every lane has arrived waits for a count
that its one wave does not reach (18 R344). -/
def taskBars (b : List Byte) (o id : Nat) (live : Mask) : List Bar :=
  (List.range 16).map fun k =>
    let m := maskAt b (o + 0x2300 + 4 * k)
    if m = 0 then Bar.blank
    else if live &&& ~~~m = 0 then { Bar.blank with mode := some (some 2), arrived := [(id, m)], full := [id] }
    else { Bar.blank with mode := some none, arrived := [(id, m)] }

/-- The lanes that a wave image still has. -/
def lanesAt (splits : NMap Thread) (recs : NMap Rec) (sprigs : NMap Sprig) : Mask :=
  let m := splits.foldl (fun (m : Mask) ((_, t) : Nat × Thread) => m ||| t.mask) 0
  let m := recs.foldl (fun (m : Mask) ((_, r) : Nat × Rec) => m ||| r.arrived ||| (match r.pend with
    | some (_, k) => k
    | none => 0)) m
  sprigs.foldl (fun (m : Mask) ((_, p) : Nat × Sprig) => m ||| p.lanes) m

/-- The registers of a wave image; registers that it does not hold are zero with tag b64. -/
def fileAt (b : List Byte) (o : Nat) : RegFile :=
  let blocks := recField b (o + 4) 1
  { sregs := (List.range 64).map fun k => ⟨tagAt b (o + 0x140 + k), w64 (recField b (o + 0x540 + 8 * k) 8)⟩,
    vregs := (List.range 128).map fun v => ⟨tagAt b (o + 0x180 + v), (List.range 32).map fun l =>
      if v < 16 * blocks then w64 (recField b (o + 0x2400 + 256 * v + 8 * l) 8) else 0⟩ }

/-- The wave of an image, of context `n`, waiting for its placement. -/
def waveAt (b : List Byte) (k : AreaKeys) (n cls id o : Nat) : Wave :=
  let g (k n : Nat) : Nat := recField b (o + k) n
  let word (i : Nat) : W64 := w64 (g (0x40 + 8 * i) 8)
  let flags := g 8 4
  let splits := splitsAt b o
  let recs := recsAt b o
  let sprigs := sprigsAt b o splits
  let live := lanesAt splits recs sprigs
  let exec := sprigs.foldl (fun (m : Mask) ((_, p) : Nat × Sprig) => (m &&& ~~~p.lanes) ||| (p.sys.exec &&& p.lanes)) (maskAt b (o + 0x40))
  let tiles := o + 0x2400 + 4096 * g 4 1
  let team := if g 0xC 4 = 0xFFFFFFFF then none else some (k.teams.getD (g 0xC 4) 0)
  let teamOff := (tablesOf b).teams.getD (g 0xC 4) 0
  { Wave.blank with
    id := id, stage := .saved, ctx := n, launch := k.launches.getD (g 0x14 4) 0, team := team,
    teamNo := if team.isSome then BitVec.ofNat 24 (recField b (teamOff + 4) 4) else 0, waveNo := BitVec.ofNat 5 (g 0x10 1),
    cluster := 72, depth := g 0x11 1, cls := Nat.min (g 0x12 1) cls,
    parent := if g 0x110 8 = 0xFFFFFFFF then none else k.waves[g 0x110 8]?, children := g 0xB8 8, held := g 4 1,
    foot := ⟨g 4 1, g 5 1, g 7 1, g 6 1⟩, pbase := g 0xA8 8, file := fileAt b o,
    sys := { exec := exec, flags := BitVec.ofNat 5 (g 0x48 8), ftrap := BitVec.ofNat 5 (g 0x50 8),
             lease := BitVec.ofNat 12 (g 0x58 8), cwin := BitVec.ofNat 3 (g 0x68 8), pts := 0 },
    tiles := (List.range (g 5 1)).map fun t => tileAt b (tiles + 16384 * t) (tagAt b (o + 0x200 + t)),
    pencils := (List.range (g 6 1)).map fun p => ⟨tileAt b (tiles + 16384 * (g 5 1 + p)) (tagAt b (o + 0x208 + p)),
      if g (0x20C + p) 1 = 0xFF then none else some (g (0x20C + p) 1)⟩,
    exemplar := (List.range 120).map fun e => (8 + e, w64 (g (0x740 + 8 * e) 8)), xbase := word 7,
    xgen := BitVec.ofNat 32 (g 0x80 8), expthr := BitVec.ofNat 4 (g 0x60 8), inkwell := (word 6).toInt, prog := word 9,
    step := BitVec.ofNat 36 (g 0x90 8), trapinfo := word 11, trapaddr := word 12, batch := word 14,
    chans := (List.range (g 7 1)).map fun c => ⟨word (16 + c), []⟩, splits := splits, recs := recs, sprigs := sprigs,
    joins := g 0x13 1, live := live, frame := frameAt b o splits sprigs, halted := bitsOf flags 3 1 == 1,
    runAhead := if bitsOf flags 2 1 = 1 then some ⟨bitsOf flags 4 1 == 1, w64 (g 0x210 8), BitVec.ofNat 5 (g 0x108 8)⟩ else none,
    binds := (List.range 8).map fun i =>
      if g (0xB00 + 128 * i) 4 = 0 then none else some (bindOf (wordsOf (part b (o + 0xB00 + 128 * i) 128))),
    bars := if team.isNone then taskBars b o id live else List.replicate 16 Bar.blank }

/-! Launches, teams, pending work and impressions. -/

/-- The mode in a barrier word. -/
def modeAt (w : Nat) : Option (Option Nat) :=
  if bitsOf w 48 1 = 0 then none else if bitsOf w 49 1 = 0 then some none else some (some (bitsOf w 50 5 + 1))

/-- Barrier `k` of a team entry, with the lanes that the images of its waves give. A wave that has arrived in the phase has
lanes in the next where word 1 has it, or where its lanes are not all it has. -/
def teamBar (b : List Byte) (o team k : Nat) (nos : List Nat) (waves : List (Nat × Wave)) : Bar :=
  let w0 := recField b (o + 0x20 + 16 * k) 8
  let w1 := recField b (o + 0x28 + 16 * k) 8
  let lanes (x : Nat × Wave) : Mask := maskAt b (x.1 + 0x2300 + 4 * k)
  let at0 (x : Nat × Wave) : Bool := w0.testBit x.2.waveNo.toNat
  let next (x : Nat × Wave) : Bool :=
    at0 x && (w1.testBit x.2.waveNo.toNat || (lanes x != 0 && x.2.barLanes &&& ~~~(lanes x) != 0))
  let put (m : NMap Mask) (id : Nat) (v : Mask) : NMap Mask := NMap.set m id v
  { phase := bitsOf w0 32 16, mode := modeAt w0,
    arrived := waves.foldl (fun m x => if at0 x then put m x.2.id x.2.barLanes else if lanes x != 0 then put m x.2.id (lanes x) else m) [],
    full := (List.range nos.length).foldl (fun xs j => if w0.testBit (nos.getD j 0) then insertRising (team + 1 + j) xs else xs) [],
    nextMode := modeAt w1,
    nextArrived := waves.foldl (fun m x => if next x then put m x.2.id (lanes x) else m) [] }

/-- A launch of an area: its unplaced teams are those of its pending entry (19 R377). -/
def launchAt (b : List Byte) (k : AreaKeys) (n i o : Nat) : Launch :=
  let t := tablesOf b
  let r := part b o 128
  let left := (t.pend.find? fun p => recField b (p + 0x14) 1 == 1 && recField b (p + 0x1C) 4 == i).map fun p =>
    recField r 4 4 - recField b (p + 0x20) 4
  let im := recField b (o + 0x88) 4
  { ctx := n, record := r, consts := wordsOf (part b (o + 0x100) 4096), exemplar := wordsOf (part b (o + 0x1100) 1024),
    node := if im = 0xFFFFFFFF then none else some (k.impressions.getD im 0, recField b (o + 0x8C) 2),
    outstanding := recField b (o + 0x80) 8, unplaced := left.getD 0, host := true }

/-- A pending item of an area with nothing yet said of it; its search begins as a host launch's does (19 R379). -/
def State.itemFor (s : State) (n id launch cls : Nat) : Item :=
  { id := id, ctx := n, launch := launch, cls := Nat.min cls (s.ctx n).cls.toNat, die := clusterDie (s.hostStart n), cluster := none,
    team := none, pc := 0, s0 := 0, depth := 0, parent := none, foot := ⟨0, 0, 0, 0⟩, exemplar := [], xbase := 0, expthr := 0,
    pts := s.gt, restored := [] }

/-- A pending entry that is queued. -/
def State.queueEntry (s : State) (n : Nat) (b : List Byte) (k : AreaKeys) (o : Nat) : State :=
  let g (k n : Nat) : Nat := recField b (o + k) n
  let i := s.itemFor n s.nextId (k.launches.getD (g 0x1C 4) 0) (g 0x13 1)
  let t := { s with nextId := s.nextId + 1 }
  match g 0x14 1 with
  | 1 => { t with items := t.items ++ [{ i with team := some (g 0x20 4) }] }
  | 2 =>
    let imm := g 0x10 2
    let j := { i with pc := w64 (g 0 8), s0 := w64 (g 8 8), depth := g 0x12 1, xbase := w64 (g 0x28 8),
                      parent := if g 0x18 4 = 0xFFFFFFFF then none else k.waves[g 0x18 4]?,
                      foot := ⟨imm % 8 + 1, bitsOf imm 3 4, bitsOf imm 7 4, bitsOf imm 11 3⟩,
                      expthr := BitVec.ofNat 4 (g 0x30 8),
                      exemplar := (List.range 120).map fun e => (8 + e, w64 (g (0x40 + 8 * e) 8)) }
    { t with items := t.items ++ [j] }
  | _ =>
    let x : Ticket := ⟨n, none, w64 (g 0 8), if g 0x15 1 = 1 then some (w64 (g 8 8)) else none, none, none, none⟩
    { t with tickets := NMap.set t.tickets s.nextId x }

/-- An impression of an area. -/
def impressionAt (b : List Byte) (n o : Nat) : Impression :=
  { ctx := n, slot := recField b o 2, tag := BitVec.ofNat 16 (recField b (o + 2) 2), plate := w64 (recField b (o + 8) 8),
    patches := patchesAt b o, running := !(nodesAt b (o + 0x40)).isEmpty, started := nodesAt b (o + 0x40),
    done := nodesAt b (o + 0x240) }

/-- The waves of an area with their numbers and their offsets, made anew. -/
def wavesAt (b : List Byte) (k : AreaKeys) (n cls : Nat) : List (Nat × Wave) :=
  (k.waves.zip (tablesOf b).waves).map fun (id, o) => (o, waveAt b k n cls id o)

/-- Everything that an area holds, made anew in a context; the distributor has it to place (19 R379). -/
def State.makeArea (s : State) (n : Nat) (b : List Byte) : State :=
  let t := tablesOf b
  let k := keysOf b s.nextId
  let waves := wavesAt b k n (s.ctx n).cls.toNat
  let teamOf (key i o : Nat) : Team :=
    let nos := teamWaves b t i
    let mine := waves.filter fun x => x.2.team == some key
    let l := launchAt b k n 0 (t.launches.getD (recField b o 4) 0)
    { ctx := n, launch := k.launches.getD (recField b o 4) 0, teamNo := recField b (o + 4) 4, cluster := 72, core := 0,
      nos := nos, live := mine.map (·.2.id),
      shared := Memory.puts [] 0 (part b (o + 0x1000) (4096 * recField b (o + 0xC) 2)),
      bars := (List.range 16).map fun j => teamBar b o key j nos mine, windows := l.windows }
  let s := { s with
    launches := ((List.range k.launches.length).zip (k.launches.zip t.launches)).foldl
      (fun m (i, key, o) => NMap.set m key (launchAt b k n i o)) s.launches,
    impressions := (k.impressions.zip t.impressions).foldl (fun m (key, o) => NMap.set m key (impressionAt b n o)) s.impressions,
    teams := ((List.range k.teams.length).zip (k.teams.zip t.teams)).foldl (fun m (i, key, o) => NMap.set m key (teamOf key i o)) s.teams,
    waves := waves.foldl (fun m x => NMap.set m x.2.id x.2) s.waves, nextId := k.next }
  let place (s : State) (ws : List Wave) : State :=
    match ws with
    | [] => s
    | w :: _ =>
      let i := { s.itemFor n s.nextId w.launch w.cls with restored := ws.map (·.id) }
      { s with items := s.items ++ [i], nextId := s.nextId + 1 }
  let s := k.teams.foldl (fun s key => place s ((waves.filter fun x => x.2.team == some key).map (·.2))) s
  let s := (waves.filter fun x => x.2.team.isNone).foldl (fun s x => place s [x.2]) s
  t.pend.foldl (fun s o => s.queueEntry n b k o) s

/-! The command. -/

/-- A context holds no work (19 R379). -/
def State.holdsNone (s : State) (n : Nat) : Bool :=
  let r := s.roster n
  r.launches.isEmpty && r.teams.isEmpty && r.waves.isEmpty && r.pend.isEmpty && r.impressions.isEmpty &&
    !(s.items.any fun i => i.ctx == n) && !(s.tickets.any fun (_, t) => t.ctx == n)

/-- The area of a context is checked and taken in, or refused. -/
def State.takeArea (s : State) (n : Nat) (b : List Byte) : State :=
  match s.areaErr n b with
  | some e => s.endPre n e
  | none => ((s.makeArea n b).setPre n fun p => { p with cmd := 0, err := 0, state := 1, job := 2 }).post (.restoreComplete n)

/-- RESTORE (19 R379): ignored while a command is under way. -/
def execRestore (n : Nat) (s : State) : Host.Outcome State Fault Refusal :=
  let p := (s.ctx n).pre
  let a := p.area.toNat
  if p.state = 1 then s.event
  else if (s.ctx n).state ≠ .run || !s.holdsNone n then (s.endPre n 5).event
  else match s.heldAny (s.frontSectors n a 256 .rd) (.restore n) with
    | some t => t.event
    | none => match s.frontRead n a 256 with
      | none => (s.endPre n 1).event
      | some h =>
        let size := recField h 0x48 8
        if !areaHeadOk h p.size.toNat then (s.endPre n 3).event
        else match s.heldAny (s.frontSectors n a size .rd) (.restore n) with
          | some t => t.event
          | none => match s.frontRead n a size with
            | none => (s.endPre n 1).event
            | some b => (s.takeArea n b).event

/-- The front end and the distributor go on with a context's work. -/
def State.resumeContext (s : State) (n : Nat) : State :=
  let s := (List.range 16).foldl (fun s p => (s.postOnce (.kickValidate n p)).postOnce (.impressionStart n p)) s
  let s := s.impressions.foldl (fun s (k, x) =>
    if x.ctx = n then (List.range (s.plate n x.slot).nodes.length).foldl (fun s i => s.postOnce (.nodeStart k i)) s else s) s
  let s := s.tickets.foldl (fun s (k, t) => if t.ctx = n then s.postOnce (.launchAccept k) else s) s
  let s := s.launches.foldl (fun s (k, l) => if l.ctx = n then s.postOnce (.launchComplete k) else s) s
  s.roomMade

/-- RESTORE_COMPLETE (19 R379): everything has been placed or queued. -/
def execRestoreComplete (n : Nat) (s : State) : Host.Outcome State Fault Refusal :=
  let c := s.ctx n
  if c.pre.job ≠ 2 then s.event
  else if c.state ≠ .run then (s.endPre n 5).event
  else (((s.setCtx n { c with held := false }).endPre n 0).resumeContext n).event

end Sys2Proof.Machine
end

