-- ==== Sys2Proof/Machine/Work.lean ====
section
/-! DEFINITION. LAUNCH and SPAWN (03 R73, R74). -/

namespace Sys2Proof.Machine

/-- Waits until every access of the wave has been performed: a release on every path class (03 R73, R74). -/
def State.released (s : State) : Except Stop Unit := need (s.over s.cur s.who .allAccesses) (.wait .allAccesses)

/-- The launches handed over by waves of a context and not accepted (03 R73). -/
def State.launchQueue (s : State) (ctx : Nat) : Nat :=
  (s.tickets.filter fun (_, t) => t.ctx == ctx && t.node.isNone).length

/-- Hands a launch record to the dispatcher (03 R73). -/
def State.hand (s : State) (addr : W64) (args : Option W64) : State :=
  let t : Ticket := ⟨s.cur.ctx, some s.cycle, addr, args, none, some s.die, some s.cur.cluster⟩
  { s with tickets := NMap.set s.tickets s.nextId t, nextId := s.nextId + 1 }.post (.launchAccept s.nextId)

/-- LAUNCH (03 R73). -/
def execLaunch (d : BitVec 6) (rec_ : Src) (args : Option Src) (s : State) : Host.Outcome State Fault Refusal :=
  s.finish do
    s.noSprig
    s.srcTag addrTag rec_
    s.noRunAhead
    s.noTx 3
    if s.rsys.exec = 0 then .ok (s.deferS d .n64 2)
    else
      let a := s.image rec_
      need (a.extractLsb' 0 7 == 0) (faultAt 3 a)
      match s.translate s.die s.cur.ctx a.toNat .rd with
      | .error c => .error (faultAt c a)
      | .ok _ =>
        if 256 ≤ s.launchQueue s.cur.ctx then .ok (s.deferS d .n64 1)
        else do
          s.released
          .ok ((s.hand a (args.map s.image)).deferS d .n64 0)

/-- The tasks of a context that wait on a die (03 R74). -/
def State.childQueue (s : State) (ctx die : Nat) : Nat :=
  (s.items.filter fun i => i.ctx == ctx && i.die == die && decide (0 < i.depth)).length

/-- Queues a task of the issuing wave (03 R74). -/
def State.queueTask (s : State) (pc s0 : W64) (foot : Foot) : State :=
  let w := s.cur
  let i : Item := { id := s.nextId, ctx := w.ctx, launch := w.launch, cls := w.cls, die := s.die, cluster := some w.cluster,
                    team := none, pc := pc, s0 := s0, depth := w.depth + 1, parent := some w.id, foot := foot,
                    exemplar := s.table, xbase := w.xbase, expthr := s.view.expthr, pts := w.sys.pts, restored := [] }
  let launches := match NMap.get? s.launches w.launch with
    | some l => NMap.set s.launches w.launch { l with outstanding := l.outstanding + 1 }
    | none => s.launches
  { s with items := s.items ++ [i], nextId := s.nextId + 1, launches := launches,
           cur := { w with children := w.children + 1 } }.postOnce (.placeWork s.die)

/-- SPAWN (03 R74). -/
def execSpawn (f : SpawnForm) (s : State) : Host.Outcome State Fault Refusal :=
  s.finish do
    s.noSprig
    s.srcTag addrTag f.entry
    s.noRunAhead
    s.noTx 3
    if s.rsys.exec = 0 then .ok (s.deferS f.d .n64 2)
    else
      let e := s.image f.entry
      need (e.extractLsb' 0 4 == 0) (faultAt 3 e)
      need (decide (s.cur.depth < 4)) (.trap (Trap.of 0x14))
      if 4096 ≤ s.childQueue s.cur.ctx s.die then .ok (s.deferS f.d .n64 1)
      else do
        s.released
        let foot : Foot := ⟨f.blocks1.toNat + 1, f.tiles.toNat, f.chans.toNat, f.pencils.toNat⟩
        .ok ((s.queueTask e (s.image f.args) foot).deferS f.d .n64 0)

end Sys2Proof.Machine
end

