-- ==== Sys2Proof/Machine/Dispatch.lean ====
section
/-! DEFINITION. The meaning of every instruction: one arm for each constructor of `Instr`. -/

namespace Sys2Proof.Machine

/-- What an instruction does. -/
def exec (i : Instr) (s : State) : Host.Outcome State Fault Refusal :=
  match i with
  | .deviceReset => Sys2Proof.Machine.execDeviceReset s
  | .registerWrite fn off val => Sys2Proof.Machine.execRegisterWrite fn off val s
  | .slotOwnerWrite slot val => Sys2Proof.Machine.execSlotOwnerWrite slot val s
  | .enable slot on => Sys2Proof.Machine.execEnable slot on s
  | .teardown slot => Sys2Proof.Machine.execTeardown slot s
  | .teardownComplete slot => Sys2Proof.Machine.execTeardownComplete slot s
  | .bump slot => Sys2Proof.Machine.execBump slot s
  | .bumpComplete slot => Sys2Proof.Machine.execBumpComplete slot s
  | .scrubPassEnd => Sys2Proof.Machine.execScrubPassEnd s
  | .atsInvalidate pasid => Sys2Proof.Machine.execAtsInvalidate pasid s
  | .plateRegister slot p val => Sys2Proof.Machine.execPlateRegister slot p val s
  | .plateUnregister slot p val => Sys2Proof.Machine.execPlateUnregister slot p val s
  | .plateSealRelease slot p => Sys2Proof.Machine.execPlateSealRelease slot p s
  | .kick slot val => Sys2Proof.Machine.execKick slot val s
  | .kickValidate slot p => Sys2Proof.Machine.execKickValidate slot p s
  | .kickRetry slot p => Sys2Proof.Machine.execKickRetry slot p s
  | .impressionStart slot p => Sys2Proof.Machine.execImpressionStart slot p s
  | .nodeStart imp node => Sys2Proof.Machine.execNodeStart imp node s
  | .writeNodeDone imp node => Sys2Proof.Machine.execWriteNodeDone imp node s
  | .impressionComplete imp => Sys2Proof.Machine.execImpressionComplete imp s
  | .launchAccept ticket => Sys2Proof.Machine.execLaunchAccept ticket s
  | .placeWork die => Sys2Proof.Machine.execPlaceWork die s
  | .waveStart w => Sys2Proof.Machine.execWaveStart w s
  | .waveRetire w => Sys2Proof.Machine.execWaveRetire w s
  | .launchComplete l => Sys2Proof.Machine.execLaunchComplete l s
  | .tick => Sys2Proof.Machine.execTick s
  | .inkwellRefill => Sys2Proof.Machine.execInkwellRefill s
  | .logjamScan => Sys2Proof.Machine.execLogjamScan s
  | .leaseRequest r => Sys2Proof.Machine.execLeaseRequest r s
  | .leaseReply r => Sys2Proof.Machine.execLeaseReply r s
  | .homeStore cluster id => Sys2Proof.Machine.execHomeStore cluster id s
  | .storeAck cluster id wts => Sys2Proof.Machine.execStoreAck cluster id wts s
  | .invalidationAnswer sector sharer => Sys2Proof.Machine.execInvalidationAnswer sector sharer s
  | .fanoutTimeout sector => Sys2Proof.Machine.execFanoutTimeout sector s
  | .recallReturn sector words => Sys2Proof.Machine.execRecallReturn sector words s
  | .stashFill cluster team frame write => Sys2Proof.Machine.execStashFill cluster team frame write s
  | .l2Evict frame => Sys2Proof.Machine.execL2Evict frame s
  | .millUpdate id => Sys2Proof.Machine.execMillUpdate id s
  | .eccError sector uncorrectable => Sys2Proof.Machine.execEccError sector uncorrectable s
  | .hostPeerWrite who pa bytes => Sys2Proof.Machine.execHostPeerWrite who pa bytes s
  | .hostPeerRead who pa n => Sys2Proof.Machine.execHostPeerRead who pa n s
  | .hostPeerOwnRequest who sector => Sys2Proof.Machine.execHostPeerOwnRequest who sector s
  | .hostSnoop line => Sys2Proof.Machine.execHostSnoop line s
  | .hostFunctionViolation fn => Sys2Proof.Machine.execHostFunctionViolation fn s
  | .peerViolation p => Sys2Proof.Machine.execPeerViolation p s
  | .functionLevelReset fn => Sys2Proof.Machine.execFunctionLevelReset fn s
  | .linkFail link => Sys2Proof.Machine.execLinkFail link s
  | .peerLost p => Sys2Proof.Machine.execPeerLost p s
  | .linkReset p => Sys2Proof.Machine.execLinkReset p s
  | .sealOpeningDrop entry cluster => Sys2Proof.Machine.execSealOpeningDrop entry cluster s
  | .variableLatencyResult w id => Sys2Proof.Machine.execVariableLatencyResult w id s
  | .flumePull w j r => Sys2Proof.Machine.execFlumePull w j r s
  | .flumePush w j r => Sys2Proof.Machine.execFlumePush w j r s
  | .sprigReexport w j => Sys2Proof.Machine.execSprigReexport w j s
  | .sprigRejoin w j => Sys2Proof.Machine.execSprigRejoin w j s
  | .joinMerge w entry => Sys2Proof.Machine.execJoinMerge w entry s
  | .trapTake w => Sys2Proof.Machine.execTrapTake w s
  | .abortToken w handle reason sender => Sys2Proof.Machine.execAbortToken w handle reason sender s
  | .mmaRendezvous w => Sys2Proof.Machine.execMmaRendezvous w s
  | .mmaTileDone w => Sys2Proof.Machine.execMmaTileDone w s
  | .batchRetire w => Sys2Proof.Machine.execBatchRetire w s
  | .copyProgress w ch => Sys2Proof.Machine.execCopyProgress w ch s
  | .kvxComplete id e => Sys2Proof.Machine.execKvxComplete id e s
  | .collStepRun gid posts gone e => Sys2Proof.Machine.execCollStepRun gid posts gone e s
  | .barPhaseComplete w id => Sys2Proof.Machine.execBarPhaseComplete w id s
  | .waitvRecheck w who => Sys2Proof.Machine.execWaitvRecheck w who s
  | .ringWake w who => Sys2Proof.Machine.execRingWake w who s
  | .awaitWake w who => Sys2Proof.Machine.execAwaitWake w who s
  | .waveSwapOut w => Sys2Proof.Machine.execWaveSwapOut w s
  | .waveSwapIn w => Sys2Proof.Machine.execWaveSwapIn w s
  | .txConflictAbort w => Sys2Proof.Machine.execTxConflictAbort w s
  | .txCapacityEvict w => Sys2Proof.Machine.execTxCapacityEvict w s
  | .txTimeout w => Sys2Proof.Machine.execTxTimeout w s
  | .save slot => Sys2Proof.Machine.execSave slot s
  | .saveComplete slot => Sys2Proof.Machine.execSaveComplete slot s
  | .restore slot => Sys2Proof.Machine.execRestore slot s
  | .restoreComplete slot => Sys2Proof.Machine.execRestoreComplete slot s
  | .lifetimeFlush => Sys2Proof.Machine.execLifetimeFlush s
  | .orderlyPowerDown => Sys2Proof.Machine.execOrderlyPowerDown s
  | .readHistogram hist bin => Sys2Proof.Machine.execReadHistogram hist bin s
  | .lastFlashWrite => Sys2Proof.Machine.execLastFlashWrite s
  | .unknownMctpCommand cmd => Sys2Proof.Machine.execUnknownMctpCommand cmd s
  | .spdmRequest index => Sys2Proof.Machine.execSpdmRequest index s
  | .firmwareBoot image version => Sys2Proof.Machine.execFirmwareBoot image version s
  | .throttleStep down why => Sys2Proof.Machine.execThrottleStep down why s
  | .nop => Sys2Proof.Machine.execNop s
  | .xload first count addr => Sys2Proof.Machine.execXload first count addr s
  | .xfence => Sys2Proof.Machine.execXfence s
  | .trap code => Sys2Proof.Machine.execTrap code s
  | .trapRet => Sys2Proof.Machine.execTrapRet s
  | .trapRetTo a => Sys2Proof.Machine.execTrapRetTo a s
  | .brk code => Sys2Proof.Machine.execBrk code s
  | .exit => Sys2Proof.Machine.execExit s
  | .sgetFixed d ix => Sys2Proof.Machine.execSgetFixed d ix s
  | .sget fmt d ix pinned => Sys2Proof.Machine.execSget fmt d ix pinned s
  | .sset ix a => Sys2Proof.Machine.execSset ix a s
  | .brAlways off => Sys2Proof.Machine.execBrAlways off s
  | .brP off => Sys2Proof.Machine.execBrP off s
  | .brNp off => Sys2Proof.Machine.execBrNp off s
  | .brS r off => Sys2Proof.Machine.execBrS r off s
  | .brx a => Sys2Proof.Machine.execBrx a s
  | .brxTbl a base => Sys2Proof.Machine.execBrxTbl a base s
  | .call d off => Sys2Proof.Machine.execCall d off s
  | .callR d a => Sys2Proof.Machine.execCallR d a s
  | .ret a => Sys2Proof.Machine.execRet a s
  | .retE a => Sys2Proof.Machine.execRetE a s
  | .reconv off => Sys2Proof.Machine.execReconv off s
  | .vote mode d a => Sys2Proof.Machine.execVote mode d a s
  | .ppush neg a => Sys2Proof.Machine.execPpush neg a s
  | .pinv => Sys2Proof.Machine.execPinv s
  | .ppop n => Sys2Proof.Machine.execPpop n s
  | .spawn f => Sys2Proof.Machine.execSpawn f s
  | .launch d rec_ args => Sys2Proof.Machine.execLaunch d rec_ args s
  | .await f => Sys2Proof.Machine.execAwait f s
  | .bar f => Sys2Proof.Machine.execBar f s
  | .tfence => Sys2Proof.Machine.execTfence s
  | .blkacq d n => Sys2Proof.Machine.execBlkacq d n s
  | .blkrel d n => Sys2Proof.Machine.execBlkrel d n s
  | .pencil hold off => Sys2Proof.Machine.execPencil hold off s
  | .ink a => Sys2Proof.Machine.execInk a s
  | .add f => Sys2Proof.Machine.execAdd f s
  | .sub f => Sys2Proof.Machine.execSub f s
  | .mul f => Sys2Proof.Machine.execMul f s
  | .mulh f => Sys2Proof.Machine.execMulh f s
  | .mad f => Sys2Proof.Machine.execMad f s
  | .and f => Sys2Proof.Machine.execAnd f s
  | .or f => Sys2Proof.Machine.execOr f s
  | .xor f => Sys2Proof.Machine.execXor f s
  | .shl f => Sys2Proof.Machine.execShl f s
  | .shr f => Sys2Proof.Machine.execShr f s
  | .bfx f => Sys2Proof.Machine.execBfx f s
  | .bfi f => Sys2Proof.Machine.execBfi f s
  | .bitc f => Sys2Proof.Machine.execBitc f s
  | .min f => Sys2Proof.Machine.execMin f s
  | .max f => Sys2Proof.Machine.execMax f s
  | .cmp f => Sys2Proof.Machine.execCmp f s
  | .sel f => Sys2Proof.Machine.execSel f s
  | .mov f => Sys2Proof.Machine.execMov f s
  | .lea f => Sys2Proof.Machine.execLea f s
  | .cvt f => Sys2Proof.Machine.execCvt f s
  | .fadd f => Sys2Proof.Machine.execFadd f s
  | .fmul f => Sys2Proof.Machine.execFmul f s
  | .fma f => Sys2Proof.Machine.execFma f s
  | .fmin f => Sys2Proof.Machine.execFmin f s
  | .fmax f => Sys2Proof.Machine.execFmax f s
  | .fcmp f => Sys2Proof.Machine.execFcmp f s
  | .sfn f => Sys2Proof.Machine.execSfn f s
  | .dot f => Sys2Proof.Machine.execDot f s
  | .quant f => Sys2Proof.Machine.execQuant f s
  | .deq f => Sys2Proof.Machine.execDeq f s
  | .shuf f => Sys2Proof.Machine.execShuf f s
  | .scan f => Sys2Proof.Machine.execScan f s
  | .redw f => Sys2Proof.Machine.execRedw f s
  | .rebal d a b => Sys2Proof.Machine.execRebal d a b s
  | .topk f => Sys2Proof.Machine.execTopk f s
  | .merge f => Sys2Proof.Machine.execMerge f s
  | .ld f => Sys2Proof.Machine.execLd f s
  | .st f => Sys2Proof.Machine.execSt f s
  | .gather f => Sys2Proof.Machine.execGather f s
  | .scatter f => Sys2Proof.Machine.execScatter f s
  | .sred f => Sys2Proof.Machine.execSred f s
  | .atom f => Sys2Proof.Machine.execAtom f s
  | .cas f => Sys2Proof.Machine.execCas f s
  | .pref f => Sys2Proof.Machine.execPref f s
  | .fence f => Sys2Proof.Machine.execFence f s
  | .flush f => Sys2Proof.Machine.execFlush f s
  | .sealRange d base len => Sys2Proof.Machine.execSealRange d base len s
  | .sealOpen d entry => Sys2Proof.Machine.execSealOpen d entry s
  | .copy f => Sys2Proof.Machine.execCopy f s
  | .chwait f => Sys2Proof.Machine.execChwait f s
  | .kvx scope d desc => Sys2Proof.Machine.execKvx scope d desc s
  | .mma f => Sys2Proof.Machine.execMma f s
  | .mmg f => Sys2Proof.Machine.execMmg f s
  | .mload f => Sys2Proof.Machine.execMload f s
  | .mstore f => Sys2Proof.Machine.execMstore f s
  | .mmove f => Sys2Proof.Machine.execMmove f s
  | .mbatch d => Sys2Proof.Machine.execMbatch d s
  | .mwait n => Sys2Proof.Machine.execMwait n s
  | .ldprune f => Sys2Proof.Machine.execLdprune f s
  | .patbind slot rec_ => Sys2Proof.Machine.execPatbind slot rec_ s
  | .patbindClear slot => Sys2Proof.Machine.execPatbindClear slot s
  | .patgen f => Sys2Proof.Machine.execPatgen f s
  | .txbegin ro d off => Sys2Proof.Machine.execTxbegin ro d off s
  | .txend => Sys2Proof.Machine.execTxend s
  | .txabort code => Sys2Proof.Machine.execTxabort code s
  | .qput f => Sys2Proof.Machine.execQput f s
  | .qtake f => Sys2Proof.Machine.execQtake f s
  | .signal f => Sys2Proof.Machine.execSignal f s
  | .waitv f => Sys2Proof.Machine.execWaitv f s
  | .pull scalar r n1 => Sys2Proof.Machine.execPull scalar r n1 s
  | .collJoin scope d a => Sys2Proof.Machine.execCollJoin scope d a s
  | .collAred f => Sys2Proof.Machine.execCollAred f s
  | .collAgat fmt scope d a => Sys2Proof.Machine.execCollAgat fmt scope d a s
  | .collRsc f => Sys2Proof.Machine.execCollRsc f s
  | .collBcast fmt scope d a => Sys2Proof.Machine.execCollBcast fmt scope d a s
  | .collBar scope d a => Sys2Proof.Machine.execCollBar scope d a s
  | .stepagr d h x => Sys2Proof.Machine.execStepagr d h x s
  | .stepagrRead d h => Sys2Proof.Machine.execStepagrRead d h s
  | .matrixOpComplete w => Sys2Proof.Machine.execMatrixOpComplete w s
  | .linkRetrained link => Sys2Proof.Machine.execLinkRetrained link s
  | .stepagrAgreed gid peers gone => Sys2Proof.Machine.execStepagrAgreed gid peers gone s
  | .powerLoss => Sys2Proof.Machine.execPowerLoss s

end Sys2Proof.Machine
end

