-- ==== Sys2Proof/Machine/Groups.lean ====
section
/-! DEFINITION. What the chosen thread does with the words of its group (04 R86, R87, R96; log entry 15). -/

namespace Sys2Proof.Machine

/-- The packet as the words after an XFENCE of its group find it: fetched again, or refused as at any fetch (04 R81, R100). -/
def State.afterWord (s : State) (i : Instr) (p : BitVec 128) (more : Bool) : BitVec 128 × State :=
  let next := { s with issue := { s.issue with slot := s.issue.slot + 1 } }
  match i, more with
  | .xfence, true => (match s.fetch s.cur s.thread.pc.pkt.toNat with
    | .ok q => if pktBad q then (p, next.noteStop illegal) else (q, { s with issue := { s.issue with lit := pktLit q } })
    | .error c => (p, next.noteStop (faultAt c s.thread.pc.pkt)))
  | _, _ => (p, s)

/-- The words of a group of several words, each decoded when it is reached and executed against what the group sees (04 R86,
R96); `moved`: the group has transferred control. -/
def runGroup (p : BitVec 128) (slots : List Nat) (moved : Bool) (s : State) : Host.Outcome State Fault Refusal :=
  match slots with
  | [] => .next s
  | k :: rest =>
    let s := { s.chooseTable with issue := { s.issue with slot := k } }
    match s.wordAt p k moved with
    | .error e => .next (s.noteStop e)
    | .ok i => match exec i s with
      | .next t =>
        let (q, t) := t.afterWord i p (!rest.isEmpty)
        if t.issue.stop.isSome then .next t else runGroup q rest (moved || transfersControl i) t
      | r => r

/-- A group with its word at slot `k` still to issue: the words before it have issued. Nothing has happened where a word from
`k` on traps (04 R87). -/
def splitGroup (p : BitVec 128) (slots : List Nat) (k : Nat) (s : State) : Host.Outcome State Fault Refusal :=
  match runGroup p (slots.filter fun j => decide (k ≤ j)) false s with
  | .next d =>
    match d.issue.stop with
    | some (j, .trap tr) => .next (s.stopGroup d j (.trap tr))
    | _ => match runGroup p (slots.filter fun j => decide (j < k)) false s with
      | .next t =>
        let u := (t.leaveRest s.view t.issue.transfer t.issue.marker t.issue.raised (slots.getLastD k))
        .next { u.setThread { u.thread with pc := { u.thread.pc with slot := k } } with fresh := t.fresh + 1 }
      | r => r
  | r => r

/-- The first word of a group, which begins to wait or is a long instruction: it issues alone, and the rest of the group is
left for later. -/
def leadGroup (p : BitVec 128) (slots : List Nat) (k : Nat) (s : State) : Host.Outcome State Fault Refusal :=
  match s.wordAt p k false with
  | .error e => .next (s.stopGroup s k e)
  | .ok i =>
    let alone : Issue := { s.issue with multi := false, slot := k, transfer := none, marker := false }
    match exec i { s with issue := alone } with
    | .next t => .next (t.leaveRest s.view s.issue.transfer s.issue.marker s.issue.raised (slots.getLastD k))
    | r => r

/-- A word of a group that a trap stops part-way as a long instruction (19 R362): nothing else of its group happens. -/
def longGroup (p : BitVec 128) (k : Nat) (s : State) : Host.Outcome State Fault Refusal :=
  match s.wordAt p k false with
  | .error e => .next (s.stopGroup s k e)
  | .ok i => exec i { s with issue := { s.issue with multi := false, slot := k } }

/-- A wait that a word at slot `k` meets only because of the words before it in its group. -/
def State.ownWait (s : State) (slots : List Nat) (k : Nat) (why : Why) : Bool :=
  slots.any (fun j => decide (j < k)) && s.over s.cur s.who why

/-- A group of several words: it completes as a whole, nothing of it happens, or a word of it waits for what the words before
it have begun (04 R86, R87; log entry 15). -/
def runWords (p : BitVec 128) (slots : List Nat) (s : State) : Host.Outcome State Fault Refusal :=
  match runGroup p slots false s with
  | .next t =>
    match t.issue.stop, t.issue.cut with
    | some (k, .long), _ => longGroup p k s
    | some (k, .wait why), _ => if s.ownWait slots k why then splitGroup p slots k s else .next (s.stopGroup t k (.wait why))
    | some (k, e), _ => .next (s.stopGroup t k e)
    | none, some k => if slots.any fun j => decide (j < k) then splitGroup p slots k s else leadGroup p slots k s
    | none, none => .next (t.closeGroup (slots.getLastD 0))
  | r => r

/-- What the chosen thread does. -/
def runPlan (p : Plan) : Host.Outcome State Fault Refusal :=
  match p with
  | .settled s => .next s
  | .one i s => exec i s
  | .group p slots s => runWords p slots s

end Sys2Proof.Machine
end

