-- ==== Sys2Proof/Machine/Step.lean ====
section
/-! DEFINITION. One step of the machine: an event of another agent happens, or the wave that is chosen issues its next
chain group (07 R141 to R144). -/

namespace Sys2Proof.Machine

/-- One step: an event, the issue of a thread, or, where neither is left in this cycle, the next cycle. -/
def step (s : State) : Host.Outcome State Fault Refusal :=
  match s.nextEvent with
  | some (i, t) => exec i t
  | none =>
    match s.choose with
    | none => .next s.endCycle
    | some t => runPlan t.plan

/-- `s` with an instruction stored where `step` fetches its next instruction (log entry 3): in the packet of the thread
that issues next, or, where nothing is ready to issue, in the packet of a wave placed for it. What waits on the agenda
is set aside. -/
def State.withFetchWord (s : State) (nbits w : Nat) : State :=
  let s := { s with urgent := [], agenda := [] }
  let s := if s.candidates.isEmpty then s.placeDemo else s
  s.storeWord (w % 2 ^ nbits)

end Sys2Proof.Machine
end

