-- ==== Sys2Proof/Safety.lean ====
section
/-! DEFINITION. What a safe run is, the invariant that every step keeps, and the terms in which the statements speak. -/

namespace Sys2Proof

/-- The registers that an instruction writes which does nothing but write registers and raise flags, and whether it may
raise flags when it issues; none for any other instruction. QUANT and DEQ write consecutive registers (10 R213, R215). -/
def Instr.registerDests (i : Instr) : Option (List RegName × Bool) :=
  let to_ (d : Dest) : Option (List RegName × Bool) := some ([Machine.RegName.ofDest d], false)
  let float (d : Dest) : Option (List RegName × Bool) := some ([Machine.RegName.ofDest d], true)
  let from_ (r : BitVec 7) (n : Nat) : List RegName := (List.range n).map fun k => .v (r.toNat + k)
  match i with
  | .add f | .sub f | .mul f | .mulh f | .and f | .or f | .xor f | .min f | .max f => to_ f.d
  | .mad f | .sel f => to_ f.d
  | .shl f | .shr f => to_ f.d
  | .bfx f => to_ f.d
  | .bfi f => to_ f.d
  | .bitc f => to_ f.d
  | .cmp f => to_ f.d
  | .mov f => to_ f.d
  | .lea f => to_ f.d
  | .fadd f | .fmul f => float f.d
  | .fma f => float f.d
  | .fmin f | .fmax f => float f.d
  | .fcmp f => float f.d
  | .cvt f => float f.d
  | .dot f => float (.v f.d)
  | .quant f => some (from_ f.d 2, true)
  | .deq f => some (from_ f.d (Machine.wideRegs f.fmt), true)
  | .sfn f => to_ (.v f.d)
  | .shuf f => to_ (.v f.d)
  | .scan f => to_ (.v f.d)
  | .redw f => to_ f.d
  | .vote _ d _ => to_ (.s d)
  | .sget _ d _ _ => to_ d
  | .sgetFixed d _ => to_ (.s d)
  | _ => none

/-- SGET through the fixed entry 6, which `decode` is told of (04 R94). -/
def Instr.pinned (i : Instr) : Bool :=
  match i with
  | .sgetFixed _ _ => true
  | _ => false

namespace Machine

/-- A machine state from which a step goes on. -/
def State.goesOn (s : State) : Prop := ∃ t, step s = .next t

/-- The memories are in canonical form: device memory, host memory, the memory of every peer, and the shared memory of every
team (log entry 1). -/
def State.memoriesOk (s : State) : Prop :=
  s.mem.wf = true ∧ s.hostMem.wf = true ∧ (∀ e ∈ s.peerMem, Memory.wf e.2 = true) ∧ ∀ e ∈ s.teams, e.2.shared.wf = true

/-- The state after the current word when its own effect has led from `s` to `r`: a group of one word is closed, in a group
of several words the next word follows, unless the word has begun to wait (04 R86; log entry 15). -/
def State.closed (s r : State) : State := if s.issue.multi then s.finishWord (.ok r) else r.settle s.slot

/-- The state after the current word when it has not gone on: a group of one word stops at once, in a group of several
words the first stop is kept for the group (04 R86, R87). -/
def State.halted (s : State) (e : Stop) : State := if s.issue.multi then s.finishWord (.error e) else s.halt s.slot e

/-- The state after an event that has led to `r`: the counter of free values has advanced. -/
def State.counted (r : State) : State := { r with fresh := r.fresh + 1 }

/-- An element-wise word finds its registers within the blocks held, their tags accepted by `ok`, and nothing pending in a
destination of which it keeps a part (02 R43, 06 R129, 07 R147). -/
def State.ready (s : State) (d : Dest) (sel : Sel) (ops : List Operand) (ok : Fmt → Bool) : Prop :=
  s.destOk d = true ∧ ops.all s.opOk = true ∧ s.tagsIn ok ops = .ok () ∧ s.partialReady sel d = .ok ()

/-- Everything but the issuing wave, the agenda, what the group carries, and the counters of free values and identities is
unchanged: memory, caches, homes, the other waves, contexts, time. -/
def State.sameOutside (s r : State) : Prop :=
  { r with cur := s.cur, fresh := s.fresh, issue := s.issue, agenda := s.agenda, nextId := s.nextId } = s

/-- A wave is unchanged but for its registers, the results pending for them, its thread registers, its sprigs and the
flags that run-ahead holds apart. -/
def Wave.sameControl (w v : Wave) : Prop :=
  { v with file := w.file, pending := w.pending, sys := w.sys, sprigs := w.sprigs, runAhead := w.runAhead } = w

/-- Beyond the registers `ds` of the issuing thread's file and its FLAGS, an instruction has left everything as it was: the
machine outside the wave, the wave's control state, every other register and what is pending for it, the other threads'
registers and pending results. Flags are only raised. -/
def State.keeps (ds : List RegName) (s r : State) : Prop :=
  s.sameOutside r ∧ s.cur.sameControl r.cur ∧
  (∀ n, .s n ∉ ds → r.file.sregs[n]? = s.file.sregs[n]?) ∧
  (∀ n, .v n ∉ ds → r.file.vregs[n]? = s.file.vregs[n]?) ∧
  (∀ x ∉ ds, ∀ l, pendingFor r.cur.pending r.who x l = pendingFor s.cur.pending s.who x l) ∧
  (∀ p ∈ s.cur.pending, sameFile p.who s.who = false → p ∈ r.cur.pending) ∧
  r.sys = { s.sys with flags := r.sys.flags } ∧ r.sys.flags &&& s.sys.flags = s.sys.flags ∧
  (∀ j, s.who = .sprig j → r.cur.file = s.cur.file ∧ r.cur.sys = s.cur.sys) ∧
  ∀ j, s.who ≠ .sprig j → NMap.get? r.cur.sprigs j = NMap.get? s.cur.sprigs j

/-- The memory in which a piece of an access lies; none for shared memory. -/
def Spot.memory (x : Spot) : Option Nat :=
  match x with
  | .home t => some t.memory
  | .priv t => some t.memory
  | .bare t => some t.memory
  | .stash => some 0
  | .shared => none

/-- A write there is kept by the word: in the stash and in private memory (12 R231, R247). -/
def Spot.byWord (x : Spot) : Bool :=
  match x with
  | .stash => true
  | .priv _ => true
  | _ => false

/-- A piece `q` of an access has no byte in common with a piece `p` that is written; nor a word, where `p` is written by the word
and `q` is read in another way than through `p`'s stash or private memory, or through the L1 (12 R231, R247). -/
def Piece.apart (p q : Piece) : Prop :=
  p.spot.memory ≠ q.spot.memory ∨
    ((p.pa + p.n ≤ q.pa ∨ q.pa + q.n ≤ p.pa) ∧
      (p.spot.byWord = true → q.spot ≠ p.spot → q.spot ≠ .home .device →
        (p.pa + p.n + 7) / 8 * 8 ≤ q.pa ∨ q.pa + q.n ≤ p.pa / 8 * 8))

/-- A piece as accesses have it: some bytes of one of the memories, and in the stash of one frame (12 R233, R238, R246). -/
def Piece.placed (p : Piece) : Prop :=
  0 < p.n ∧ (∀ m, p.spot.memory = some m → m < 31) ∧ (p.spot = .stash → p.pa % 256 + p.n ≤ 256)

/-- The issuing thread exists: a sprig that issues is out, and a handler has its frame. -/
def State.threadExists (s : State) : Prop :=
  match s.who with
  | .sprig j => (NMap.get? s.cur.sprigs j).isSome = true
  | .handler => s.cur.frame.isSome = true
  | .split n => (NMap.get? s.cur.splits n).isSome = true

end Machine

/-- Every state that a run from `s` reaches goes on. -/
def Safe (s : Machine.State) : Prop := ∀ n t, core.run n s = .next t → t.goesOn

end Sys2Proof
end

