-- ==== Sys2Proof/Certificates/Slice0/Obligations.lean ====
section
/-! DEFINITION. The statements for the provers. A statement about a step of a word speaks of `closed` and `halted` states
(Safety.lean): the state after the word itself and the end of its group, or after its stop. -/

open Sys2Proof Sys2Proof.Machine

/-! Reset, steps, decoding. -/

/-- 17 R323, R327, 03 R58, R60, 12 R236, 02 R44: after reset GT and CYCLE are 0, every sector has WTS, RTS, SHARERS and
OWNER 0, every context slot is OFF with ENABLE 0, every generation is 0, no entry of the sealing table and no plate is in
use, no wave runs, and the memories are in canonical form. That a byte which nothing has written reads as 0 is the model's
choice (log entry 1). -/
def Obligations.ResetState : Prop :=
  let s := State.reset
  s.gt = 0 ∧ s.cycle = 0 ∧ s.memoriesOk ∧ s.sealTable = [] ∧ s.allWaves = [] ∧
  (∀ k, (s.sector k).wts = 0 ∧ (s.sector k).rts = 0 ∧ (s.sector k).sharers = 0 ∧ (s.sector k).owner = 0) ∧
  (∀ n, (s.ctx n).state = .off ∧ (s.ctx n).enable = false ∧ (s.ctx n).owner = 0) ∧
  (∀ n p, (s.plate n p).valid = false) ∧ (∀ a, s.gen a = 0) ∧ ∀ a, s.mem.get a = 0

/-- 07 R141, 04 R81, R86, R91, R96: a step runs an event that is due, as `exec` does; else the group at the chosen thread's
slot, where a group of one word that decodes to an instruction is `exec` of it, and a group of several runs `exec` of each
of its words in slot order, each decoded when it is reached, from a packet fetched afresh after an XFENCE (04 R100), and
completes as a whole where none stops or waits; else a cycle passes. -/
def Obligations.StepRunsDecoded : Prop :=
  (∀ (s t : State) (i : Instr), s.nextEvent = some (i, t) → step s = exec i t) ∧
  (∀ s : State, s.nextEvent = none → s.choose = none → step s = .next s.endCycle) ∧
  (∀ (s t : State) (p : BitVec 128) (i : Instr), s.nextEvent = none → s.choose = some t →
    let u := t.setThread (t.thread.resume t.cycle.toNat)
    let v := (u.keepPacket p).chooseTable
    let k := v.thread.pc.slot
    let w := pktWord p k
    let x := (w.extractLsb' 23 7).toNat
    u.rest = none → u.nextPacket = .ok p → pktBad p = false → (u.keepPacket p).joinAt p = none →
    w.getLsbD 31 = false → templateValid (v.template x) = true → decode (x == 6) (v.template x) w = some i →
    (mustBeAlone i = false ∨ k = 0 ∨ (pktWord p (k - 1)).getLsbD 31 = false) →
    step s = exec i { v with issue := ⟨false, k, pktLit p, w.getLsbD 30, none, none, 0, none, none⟩ }) ∧
  (∀ (s t u : State) (p : BitVec 128) (slots : List Nat), s.nextEvent = none → s.choose = some t →
    t.plan = .group p slots u → step s = runWords p slots u) ∧
  (∀ (s t v : State) (p q : BitVec 128) (k : Nat) (rest : List Nat) (moved : Bool) (i : Instr),
    let u := { s.chooseTable with issue := { s.issue with slot := k } }
    u.wordAt p k moved = .ok i → exec i u = .next t → t.afterWord i p (!rest.isEmpty) = (q, v) → v.issue.stop = none →
    runGroup p (k :: rest) moved s = runGroup q rest (moved || transfersControl i) v) ∧
  ∀ (s t : State) (p : BitVec 128) (slots : List Nat), runGroup p slots false s = .next t → t.issue.stop = none →
    t.issue.cut = none → runWords p slots s = .next (t.closeGroup (slots.getLastD 0))

/-- 04 R83, R94: words written out from their fields decode to what the spec's tables say: the fixed entries, and the templates
and words printed in 04, 11, 13, 21, 23 and 25. -/
def Obligations.DecodedWords : Prop :=
  decodeTableWord 32 0x00000000 = some .nop ∧
  decodeTableWord 32 0x00A8C148 = some (.xload 40 (.imm 1) (.s 8)) ∧
  decodeTableWord 32 0x0180C0C0 = some (.trap 0) ∧
  decodeTableWord 32 0x0280C0C0 = some .exit ∧
  decodeTableWord 32 0x03010002 = some (.sgetFixed 1 2) ∧
  decodeTableWord 32 0x0380FFF4 = some (.brAlways 0xFFF4) ∧
  decode false 0x3328000000000000 0x00000000 = none ∧
  decode false 0x3340_0010_FF00_0000 0x09054443 = some (.sub ⟨.n64, false, none, .s 5, .u (.s 4), .u (.s 3)⟩) ∧
  decode false 0x7330_0000_FF00_0000 0x040A0446 = some (.rebal 10 4 6) ∧
  decode false 0x2940_0010_FF00_0000 0x0601C8C0 = some (.blkacq 1 (.imm 8)) ∧
  decode false 0x0D00_0033_FF00_0000 0x07000004 = some (.reconv 4) ∧
  decode false 0xA900_0010_FF00_0000 0x1418C0C0 = some (.mbatch 24)

/-- 04 R83, R84, R88: for every well-formed instruction of a wave, decoding its template and word gives it back, with every
operand; and what decodes is well-formed, and its fields are those of its template and word. -/
def Obligations.DecodingInvertsEncoding : Prop :=
  (∀ (i : Instr) (x : BitVec 7) (p : BitVec 64 × BitVec 32), i.wf = true → encode x i = some p →
    decode i.pinned p.1 p.2 = some i) ∧
  ∀ (fixed : Bool) (t : BitVec 64) (w : BitVec 32) (i : Instr), decode fixed t w = some i →
    i.wf = true ∧ i.fields = some (Fields.unpack t w).norm

/-- 12 R228, R229: every step from a state whose memories are in canonical form leaves them in it (log entry 1): a form of the model's, so
that equal memories are equal data. -/
def Obligations.MemoriesStayCanonical : Prop :=
  ∀ s t : State, s.memoriesOk → step s = .next t → t.memoriesOk

/-- 04 R87: of the words of a group the first that traps is kept; where a word has trapped the group has no effect but the
trap: the machine is as it was when the group began, the trap names that word's slot, and its handler resumes at the first
slot of the group with registers, memory, stacks and INKWELL as they were. -/
def Obligations.GroupsAreExact : Prop :=
  (∀ (s : State) (tr : Trap), s.issue.multi = true →
    (s.halted (.trap tr)).issue.stop = some (s.issue.stop.getD (s.slot, .trap tr))) ∧
  (∀ (s t : State) (p : BitVec 128) (slots : List Nat) (k : Nat) (tr : Trap), runGroup p slots false s = .next t →
    t.issue.stop = some (k, .trap tr) →
    runWords p slots s =
      .next ({ s with fresh := t.fresh, issue := { s.issue with slot := k } }.halt k (.trap tr))) ∧
  ∀ (s : State) (n k : Nat) (tr : Trap), s.who = .split n → s.cur.frame = none → s.cur.tx = none → s.cur.pending = [] →
    s.cur.due = none → s.thread.park ≠ .rendezvous → tr.resume = none → tr.cause ≠ 4 → awaySector tr.cause = none →
    s.const s.cur 7 52 ≠ 0 → s.counted.landing s.cur (s.const s.cur 7 52) = true →
    let u := s.halt k (.trap tr)
    u.cur.file = s.cur.file ∧ u.mem = s.mem ∧ u.cur.inkwell = s.cur.inkwell ∧ u.cur.recs = s.cur.recs ∧
    (u.cur.frame.map (·.resume)) = some s.thread.pc

/-- 04 R90, R91, R102, 06 R129, 09, 13 R251: what an unwritten entry, a word that is no instruction, a register beyond the
blocks held, a tag that is not accepted and a faulting access raise: 0x05, 0x07, 0x07, 0x08 with the tag, and the access's
own fault. -/
def Obligations.FaultsByName : Prop :=
  (∀ (s : State) (w : BitVec 32),
    let x := (w.extractLsb' 23 7).toNat
    (templateValid (s.template x) = false → s.decodeWord w = .error (.trap { Trap.of 5 with code := x })) ∧
    (templateValid (s.template x) = true → decode (x == 6) (s.template x) w = none → s.decodeWord w = .error illegal)) ∧
  (∀ (s : State) (f : Alu2) (i : Instr), i = .add f ∨ i = .sub f ∨ i = .mul f ∨ i = .mulh f ∨ i = .min f ∨ i = .max f →
    ((s.destOk f.d && [f.a, f.b].all s.opOk) = false → exec i s = .next (s.halted illegal)) ∧
    (∀ e, (s.destOk f.d && [f.a, f.b].all s.opOk) = true → s.tagsIn (intTag f.fmt) [f.a, f.b] = .error e →
      exec i s = .next (s.halted e))) ∧
  (∀ (s : State) (r : BitVec 6) (ok : Fmt → Bool), ok (s.sreg r.toNat).tag = false →
    s.tagsIn ok [.u (.s r)] = .error (tagFault (s.sreg r.toNat).tag)) ∧
  (∀ (s : State) (sp : Space) (l a n : Nat) (nd : Need), a % Nat.min n 8 ≠ 0 → s.pieces sp l a n nd = [.error 3]) ∧
  ∀ (s : State) (f : LdForm) (tr : Trap), s.destOk f.d = true → s.opOk f.a = true → s.opOk f.b = true →
    s.pairOk f.sz f.d = true → s.addrTags f.space f.a f.b = .ok () → s.txSpace f.space = .ok () →
    (f.sel = none ∨ s.awaits (RegName.ofDest f.d) = false) → s.ownReady f.sel f.d = .ok () → s.ldLanes f ≠ [] → s.ldAccesses f = .error tr →
    s.cur.tx = none → exec (.ld f) s = .next (s.halted (.trap tr))

/-! Frames. -/

/-- 06 R129, 09 R190 to R200, 10 R203 to R215, 11 R218 to R221, 07 R166, R168: an instruction that writes registers leaves, where
it does not stop, everything but its destinations and the flags it raises as it was. -/
def Obligations.RegisterInstructionsKeepTheRest : Prop :=
  ∀ (i : Instr) (ds : List RegName) (float : Bool) (s t : State), i.registerDests = some (ds, float) →
    exec i s = .next t → (∃ e, t = s.halted e) ∨
      ∃ r, t = s.closed r ∧ s.keeps ds r ∧ (float = false → r.sys.flags = s.sys.flags ∧ r.cur.runAhead = s.cur.runAhead)

/-- 04 R82, 07 R146: where no transfer takes effect, the end of a group moves the thread to the slot after it, and waits for
its results under the switch marker; every register, every other thread, and everything outside the wave is as before. -/
def Obligations.SlotEndKeepsTheRest : Prop :=
  ∀ (s : State) (k : Nat), s.issue.transfer = none → s.threadExists →
    let t := s.settle k
    t.thread.pc = s.thread.pc.after k ∧ t.thread.mask = s.thread.mask ∧ t.thread.preds = s.thread.preds ∧
    t.thread.stack = s.thread.stack ∧
    (t.thread.park = s.thread.park ∨ (s.issue.marker = true ∧ t.thread.park = .marker)) ∧
    t.file = s.file ∧ t.sys = s.sys ∧ t.cur.file = s.cur.file ∧ t.cur.sys = s.cur.sys ∧
    { t with cur := s.cur, fresh := s.fresh, issue := s.issue } = s ∧
    { t.cur with splits := s.cur.splits, sprigs := s.cur.sprigs, frame := s.cur.frame, late := s.cur.late } = s.cur ∧
    t.cur.late = s.cur.late.filter (·.1 != s.who) ∧
    (∀ n, s.who ≠ .split n → NMap.get? t.cur.splits n = NMap.get? s.cur.splits n) ∧
    ∀ j, s.who ≠ .sprig j → NMap.get? t.cur.sprigs j = NMap.get? s.cur.sprigs j

/-- 13 R250 to R256, 12 R229, R231, R247, 17 R326, 18 R358: a plain store outside transactions writes only where its pieces lie:
every other byte reads to the issuing wave as before. A .repair store changes device memory at once only in the sectors of
its pieces, and in the frames that a stash gives up for it (log entry 19); a store in a transaction changes no memory, and
holds bytes at its pieces alone. A piece written to shared or private memory or past the L1 reads back. -/
def Obligations.StoresKeepOtherBytes : Prop :=
  (∀ (s t : State) (f : StForm) (ps : List (Nat × Piece)), s.stAccesses f = .ok ps → s.cur.tx = none → f.repair = false →
    (∀ x ∈ s.stPieces f ps, x.2.1.placed) → exec (.st f) s = .next t →
    (∃ e, t = s.halted e) ∨ ∃ r, t = s.closed r ∧ r.file = s.file ∧ r.sys = s.sys ∧ r.mem = s.mem ∧
      ∀ q : Piece, q.placed → (∀ x ∈ s.stPieces f ps, x.2.1.apart q) → r.pieceBytes q = s.pieceBytes q) ∧
  (∀ (s t : State) (f : StForm) (ps : List (Nat × Piece)), s.stAccesses f = .ok ps → s.cur.tx = none → f.repair = true →
    s.memoriesOk → exec (.st f) s = .next t →
    (∃ e, t = s.halted e) ∨ ∃ r, t = s.closed r ∧ r.file = s.file ∧ r.hostMem = s.hostMem ∧ r.peerMem = s.peerMem ∧
      ∀ a, (∀ x ∈ s.stPieces f ps, a / 32 ≠ x.2.1.pa / 32 ∧ (x.2.1.spot = .stash → a / 256 ≠ x.2.1.pa / 256)) →
        r.mem.get a = s.mem.get a) ∧
  (∀ (s t u : State) (f : StForm) (ps : List (Nat × Piece)) (x : Tx), s.stAccesses f = .ok ps → s.cur.tx = some x →
    s.txTouchAll ps true = .ok u → exec (.st f) s = .next t →
    (∃ e, t = s.halted e) ∨ t = s.closed s ∨ ∃ r y, t = s.closed r ∧ r.file = u.file ∧ r.sys = u.sys ∧ r.mem = s.mem ∧
      r.hostMem = s.hostMem ∧ r.peerMem = s.peerMem ∧ r.teams = s.teams ∧ r.cur.tx = some y ∧
      ∀ a, (∀ z ∈ s.stPieces f ps, a < z.2.1.pa ∨ z.2.1.pa + z.2.1.n ≤ a) → NMap.get? y.held a = NMap.get? x.held a) ∧
  ∀ (s : State) (p : Piece) (bs : List Byte), s.memoriesOk → p.n = bs.length → bs ≠ [] → p.spot ≠ .stash → (∀ t, p.spot ≠ .bare t) →
    ((∃ t, p.spot = .priv t) → p.pa % 8 + p.n ≤ 8) →
    (p.spot = .shared → (s.teamOf s.cur).isSome = true) →
    (p.spot = .home .device → atomQueued (s.cluster s.cur.cluster).queue .device p.pa p.n = false) →
    (s.writePiece p bs).pieceBytes p = some bs

/-! The integer, logic and address instructions (09). -/

/-- 09 R191, R193: MIN and MAX take the smaller or the larger source value unchanged, compared as signed for a signed FMT and as
unsigned otherwise; AND, OR and XOR combine bit by bit; with MOD[7:4] other than 0 none of them is an instruction. -/
def Obligations.MinMaxAndLogicTakeBits : Prop :=
  (∀ (s : State) (f : Alu2), s.ready f.d f.sel [f.a, f.b] (intTag f.fmt) →
    let x (l k : Nat) : Nat := s.elemAt f.fmt f.a l k
    let y (l k : Nat) : Nat := s.elemAt f.fmt f.b l k
    let less (l k : Nat) : Bool := if f.fmt.isSigned then decide (signedOf f.fmt.width (x l k) < signedOf f.fmt.width (y l k))
      else decide (x l k < y l k)
    let t (g : Nat → Nat → Nat) : State := s.closed (s.putElems f.fmt f.fmt f.sel f.d g)
    (exec (.min f) s = .next (t fun l k => if less l k then x l k else y l k)) ∧
    exec (.max f) s = .next (t fun l k => if less l k then y l k else x l k)) ∧
  (∀ (s : State) (f : Alu2), s.ready f.d f.sel [f.a, f.b] (fun _ => true) →
    let x (l k : Nat) : Nat := s.elemAt f.fmt f.a l k
    let y (l k : Nat) : Nat := s.elemAt f.fmt f.b l k
    ∃ a o e : Nat → Nat → Nat,
      (∀ l k n, (a l k).testBit n = ((x l k).testBit n && (y l k).testBit n)) ∧
      (∀ l k n, (o l k).testBit n = ((x l k).testBit n || (y l k).testBit n)) ∧
      (∀ l k n, (e l k).testBit n = ((x l k).testBit n ^^ (y l k).testBit n)) ∧
      exec (.and f) s = .next (s.closed (s.putElems f.fmt f.fmt f.sel f.d a)) ∧
      exec (.or f) s = .next (s.closed (s.putElems f.fmt f.fmt f.sel f.d o)) ∧
      exec (.xor f) s = .next (s.closed (s.putElems f.fmt f.fmt f.sel f.d e))) ∧
  ∀ (fixed : Bool) (t : BitVec 64) (w : BitVec 32) (i : Instr) (f : Alu2), decode fixed t w = some i →
    (i = .min f ∨ i = .max f ∨ i = .and f ∨ i = .or f ∨ i = .xor f) → t.extractLsb' 20 4 = 0

/-- 09 R190, R191: ADD, SUB, MUL, MULH, MIN, MAX and MAD compute exact values of the elements they read and fit each to
the format, at every element that takes part, for every destination and operand form. -/
def Obligations.IntegerArithmeticCompletes : Prop :=
  (∀ (s : State) (f : Alu2), s.ready f.d f.sel [f.a, f.b] (intTag f.fmt) →
    let x (l k : Nat) : Int := s.numAt f.fmt f.a l k
    let y (l k : Nat) : Int := s.numAt f.fmt f.b l k
    let t (g : Nat → Nat → Int) : State := s.closed (s.putElems f.fmt f.fmt f.sel f.d fun l k => fit f.fmt f.sat (g l k))
    exec (.add f) s = .next (t fun l k => x l k + y l k) ∧
    exec (.sub f) s = .next (t fun l k => x l k - y l k) ∧
    exec (.mul f) s = .next (t fun l k => x l k * y l k) ∧
    exec (.mulh f) s = .next (t fun l k => x l k * y l k / (2 ^ f.fmt.width : Nat)) ∧
    exec (.min f) s = .next (t fun l k => if x l k < y l k then x l k else y l k) ∧
    exec (.max f) s = .next (t fun l k => if x l k < y l k then y l k else x l k)) ∧
  ∀ (s : State) (f : Alu3), s.ready f.d f.sel [f.a, f.b, f.third.operand f.d] (intTag f.fmt) →
    exec (.mad f) s = .next (s.closed (s.putElems f.fmt f.fmt f.sel f.d fun l k =>
      fit f.fmt f.sat (s.numAt f.fmt f.a l k * s.numAt f.fmt f.b l k + s.numAt f.fmt (f.third.operand f.d) l k)))

/-- 09 R190: without SAT an exact integer is taken modulo 2^w, with SAT it is clamped to the range of the format. -/
def Obligations.FittingWrapsOrClamps : Prop :=
  ∀ (f : Fmt) (r : Int),
    (fit f false r : Int) = r % (2 ^ f.width : Nat) ∧
    (f.isSigned = false → (fit f true r : Int) = max 0 (min r ((2 ^ f.width : Nat) - 1))) ∧
    (f.isSigned = true → signedOf f.width (fit f true r) = max (-((2 ^ (f.width - 1) : Nat) : Int)) (min r ((2 ^ (f.width - 1) : Nat) - 1)))

/-- 09 R193 to R196: AND, OR, XOR, SHL, SHR, BFX, BFI and BITC work on the bits of the elements they read and check no
tag. -/
def Obligations.BitOperationsComplete : Prop :=
  (∀ (s : State) (f : Alu2), s.ready f.d f.sel [f.a, f.b] (fun _ => true) →
    let t (g : Nat → Nat → Nat) : State :=
      s.closed (s.putElems f.fmt f.fmt f.sel f.d fun l k => g (s.elemAt f.fmt f.a l k) (s.elemAt f.fmt f.b l k))
    exec (.and f) s = .next (t Nat.land) ∧ exec (.or f) s = .next (t Nat.lor) ∧ exec (.xor f) s = .next (t Nat.xor)) ∧
  (∀ (s : State) (f : ShiftForm), s.ready f.d f.sel [f.a, f.b] (fun _ => true) →
    let t (g : Nat → Nat → Nat) : State :=
      s.closed (s.putElems f.fmt f.fmt f.sel f.d fun l k => g (s.elemAt f.fmt f.a l k) (s.elemAt f.fmt f.b l k))
    exec (.shl f) s = .next (t (shlElem f.fmt.width f.rot)) ∧ exec (.shr f) s = .next (t (shrElem f.fmt f.rot))) ∧
  (∀ (s : State) (f : BfxForm), s.ready f.d f.sel [f.a] (fun _ => true) →
    exec (.bfx f) s = .next (s.closed (s.putElems f.fmt f.fmt f.sel f.d fun l k =>
      bfxElem f.fmt f.pos.toNat (f.len1.toNat + 1) (s.elemAt f.fmt f.a l k)))) ∧
  (∀ (s : State) (f : BfiForm), s.ready f.d f.sel [f.a, f.b] (fun _ => true) →
    exec (.bfi f) s = .next (s.closed (s.putElems f.fmt f.fmt f.sel f.d fun l k =>
      bfiElem f.pos.toNat (f.len1.toNat + 1) (s.elemAt f.fmt f.a l k) (s.elemAt f.fmt f.b l k)))) ∧
  ∀ (s : State) (f : BitcForm), s.ready f.d f.sel [f.a] (fun _ => true) →
    exec (.bitc f) s = .next (s.closed (s.putElems f.fmt f.fmt f.sel f.d fun l k =>
      bitcElem f.fn f.fmt.width (s.elemAt f.fmt f.a l k)))

/-- 09 R194, R195: a shift by the width or more gives 0, or for SHR of a signed format the sign in every bit; a rotation by
n to the right undoes one to the left; BFI then BFX of one field gives the field back. -/
def Obligations.ShiftsAndFields : Prop :=
  (∀ (w x n : Nat), w ≤ n → shlElem w false x n = 0) ∧
  (∀ (f : Fmt) (x n : Nat), f.width ≤ n → x < 2 ^ f.width →
    shrElem f false x n = if f.isSigned ∧ 2 ^ (f.width - 1) ≤ x then 2 ^ f.width - 1 else 0) ∧
  (∀ (f : Fmt) (x n : Nat), x < 2 ^ f.width → shrElem f true (shlElem f.width true x n) n = x) ∧
  ∀ (f : Fmt) (pos len x y : Nat), f.isSigned = false → bfxElem f pos len (bfiElem pos len x y) = y % 2 ^ len

/-- 09 R192, R197 to R200: CMP writes a mask or a mask of bits; SEL takes an element of A or of B by its mask bit; MOV moves a
whole image or one element; LEA forms an address of 58 bits with the tag addr. -/
def Obligations.CompareSelectMoveComplete : Prop :=
  (∀ (s : State) (f : CmpForm), s.ready f.d (maskSel f.sel f.d) [f.a, f.b] (intTag f.fmt) →
    exec (.cmp f) s = .next (s.closed (s.putMask f.fmt f.sel f.d fun l k =>
      Cond.holds f.cond (s.numAt f.fmt f.a l k) (s.numAt f.fmt f.b l k)
        (Nat.land (s.elemAt f.fmt f.a l k) (s.elemAt f.fmt f.b l k))))) ∧
  (∀ (s : State) (f : Alu3), s.ready f.d f.sel [f.a, f.b, f.third.operand f.d] (fun _ => true) →
    exec (.sel f) s = .next (s.closed (s.putElems f.fmt f.fmt f.sel f.d fun l k =>
      if s.selBit f.fmt f.d (f.third.operand f.d) l k then s.elemAt f.fmt f.a l k else s.elemAt f.fmt f.b l k))) ∧
  (∀ (s : State) (f : MovForm), s.ready f.d (f.el.map (·.1)) [f.a] (fun _ => true) →
    exec (.mov f) s = .next (s.closed (match f.el with
      | none => s.putImages f.fmt f.d (s.laneImage f.a)
      | some (kd, ks) => s.putElems f.fmt f.fmt (some kd) f.d fun l _ => s.elemAt f.fmt f.a l ks.toNat))) ∧
  ∀ (s : State) (f : LeaForm), s.ready f.d none [f.a] addrTag → s.opOk f.b = true →
    s.tagIn (fun t => t == IxKind.fmt f.ix || t == .b64 || (f.ix == .n32 && t == .idx32)) f.b = .ok () →
    exec (.lea f) s = .next (s.closed (s.putImages .addr f.d fun l =>
      w64 (wrapInt 58 (leaAddress f l (s.numAt .addr f.a l 0) (s.numAt (IxKind.fmt f.ix) f.b l 0)))))

/-! Floating point, conversion and block scales (06, 10). -/

/-- 06 R121, R122: the values of the sixteen e2m1 codes, and of the e8m0 codes, of which 0xFF alone is NaN and none is zero,
infinite or negative. -/
def Obligations.SmallFormatValues : Prop :=
  (∀ c < 8, ∃ m k : Nat, numOf .e2m1 c = .fin false m ((k : Int) - 1) ∧ numOf .e2m1 (c + 8) = .fin true m ((k : Int) - 1) ∧
    m * 2 ^ k = [0, 1, 2, 3, 4, 6, 8, 12].getD c 0) ∧
  (∀ c < 255, numOf .e8m0 c = .fin false 1 ((c : Int) - 127)) ∧ (numOf .e8m0 255).isNan = true ∧
  ∀ (rnd : Rnd) (sat : Bool), roundTo .f32 rnd sat (numOf .e8m0 0) = (0x00400000, 0)

/-- 10 R203, R204, 06 R135: FADD, FMUL, FMA, FMIN and FMAX write each element rounded once and raise the flags of every element
that takes part. -/
def Obligations.FloatArithmeticCompletes : Prop :=
  let done (s : State) (f : Fmt) (sel : Sel) (d : Dest) (g : Nat → Nat → Nat × BitVec 5) : State :=
    s.closed ((s.putElems f f sel d fun l k => (g l k).1).raiseFlags (s.flagsOver f sel d fun l k => (g l k).2))
  (∀ (s : State) (f : FAlu2), s.ready f.d f.sel [f.a, f.b] (· == f.fmt) →
    let x (l k : Nat) : Sys2Proof.Machine.Num := numOf f.fmt (s.elemAt f.fmt f.a l k)
    let y (l k : Nat) : Sys2Proof.Machine.Num := numOf f.fmt (s.elemAt f.fmt f.b l k)
    exec (.fadd f) s = .next (done s f.fmt f.sel f.d fun l k => fadd f.fmt f.rnd f.sat (x l k) (y l k)) ∧
    exec (.fmul f) s = .next (done s f.fmt f.sel f.d fun l k => fmul f.fmt f.rnd f.sat (x l k) (y l k))) ∧
  (∀ (s : State) (f : FAlu3), s.ready f.d f.sel [f.a, f.b, f.third.operand f.d] (· == f.fmt) →
    let x (o : Operand) (l k : Nat) : Sys2Proof.Machine.Num := numOf f.fmt (s.elemAt f.fmt o l k)
    exec (.fma f) s = .next (done s f.fmt f.sel f.d fun l k =>
      ffma f.fmt f.rnd f.sat (x f.a l k) (x f.b l k) (x (f.third.operand f.d) l k))) ∧
  ∀ (s : State) (f : FMinForm), s.ready f.d f.sel [f.a, f.b] (· == f.fmt) →
    let x (l k : Nat) : Nat := s.elemAt f.fmt f.a l k
    let y (l k : Nat) : Nat := s.elemAt f.fmt f.b l k
    exec (.fmin f) s = .next (done s f.fmt f.sel f.d fun l k => fminmax f.fmt false f.nan (x l k) (y l k)) ∧
    exec (.fmax f) s = .next (done s f.fmt f.sel f.d fun l k => fminmax f.fmt true f.nan (x l k) (y l k))

/-- 10 R205 to R209, R211: FCMP writes a mask, CVT converts the elements of one part, and DOT adds the products of a lane to one
element of its accumulator; each raises the flags of its elements.

10 R213 to R215: QUANT writes the codes and the scales of its blocks with their tags; DEQ writes the decoded values. -/
def Obligations.ConversionsComplete : Prop :=
  ((∀ (s : State) (f : FCmpForm), s.ready f.d (maskSel f.sel f.d) [f.a, f.b] (· == f.fmt) →
      let g (l k : Nat) := FCond.holds f.cond (s.fnum f.fmt f.a l k) (s.fnum f.fmt f.b l k)
      exec (.fcmp f) s = .next (s.closed ((s.putMask f.fmt f.sel f.d fun l k => (g l k).1).raiseFlags
        (s.flagsOver f.fmt f.sel f.d fun l k => (g l k).2)))) ∧
    (∀ (s : State) (f : CvtForm),
      let src := s.cvtSource f
      let pairs := cvtPairs src.width f.fmt.width f.part.toNat
      s.ready f.d (if f.fmt.width < src.width then some 0 else none) [f.a]
        (fun t => if f.src == .b64 then t.cvt || t == .b64 else t == f.src) →
      (f.src != .b64 || !src.cvt || cvtPairOk f.fmt src f.part.toNat) = true →
      let g (l ks : Nat) := convElem src f.fmt f.rnd f.sat (s.elemAt src f.a l ks)
      exec (.cvt f) s = .next (s.closed ((s.putParts f.fmt.width f.fmt f.d fun l =>
          pairs.map fun (kd, ks) => (kd, (g l ks).1)).raiseFlags
        ((s.lanesFor f.d).foldl (fun acc l => pairs.foldl (fun acc (_, ks) => acc ||| (g l ks).2) acc) 0)))) ∧
    ∀ (s : State) (f : DotForm), s.ready (.v f.d) (some f.k) [f.a, f.b] (· == f.src) →
      s.opOk (f.third.operand (.v f.d)) = true → s.tagIn (· == f.fmt) (f.third.operand (.v f.d)) = .ok () →
      let g (l : Nat) := s.dotLane f (f.third.operand (.v f.d)) l
      exec (.dot f) s = .next (s.closed ((s.putElems f.fmt f.fmt (some f.k) (.v f.d) fun l _ => (g l).1).raiseFlags
        (s.flagsOver f.fmt (some f.k) (.v f.d) fun l _ => (g l).2)))) ∧
  ((∀ (s : State) (f : QuantForm), s.regsOk f.d.toNat 2 = true → s.regsOk f.a.toNat (wideRegs f.src) = true →
      s.tagsIn (· == f.src) ((List.range (wideRegs f.src)).map fun k => Operand.v (f.a + BitVec.ofNat 7 k)) = .ok () →
      s.superTag f.super = .ok () → s.partialReady none (.v f.d) = .ok () → s.partialReady none (.v (f.d + 1)) = .ok () →
      let blocks := s.quantBlocks f
      let of (l : Nat) := blocks.getD (l / quantLanes f) (0, [], 0)
      exec (.quant f) s = .next (s.closed (((s.writeV f.d.toNat (if f.super.isSome then .nib4 else .mxfp4) s.active fun l =>
          nibbles (((of l).2.1.drop (l % quantLanes f * 16)).take 16)).writeV (f.d.toNat + 1)
            (if f.super.isSome then .n8 else .e8m0) s.active fun l => w64 (of l).1).raiseFlags
        (blocks.foldl (fun acc b => acc ||| b.2.2) 0)))) ∧
    ∀ (s : State) (f : DeqForm), s.regsOk f.d.toNat (wideRegs f.fmt) = true → s.regOk f.a.toNat = true → s.regOk f.b.toNat = true →
      s.tagIn (· == (if f.super.isSome then .nib4 else .mxfp4)) (.v f.a) = .ok () →
      s.tagIn (· == (if f.super.isSome then .n8 else .e8m0)) (.v f.b) = .ok () → s.superTag f.super = .ok () →
      (s.active = 0 ∨ s.active = -1 ∨ ∀ k < wideRegs f.fmt, s.awaits (.v (f.d.toNat + k)) = false) →
      exec (.deq f) s = .next (s.closed (((List.range (wideRegs f.fmt)).foldl (fun t k =>
          t.writeV (f.d.toNat + k) f.fmt s.active fun l =>
            buildElems f.fmt.width fun j => (s.deqValue f l (k * (64 / f.fmt.width) + j)).1) s).raiseFlags
        (s.active.toList.foldl (fun acc l => (List.range 16).foldl (fun acc m => acc ||| (s.deqValue f l m).2) acc) 0))))

/-! Cross-lane operations and irregular work (10, 11, 15). -/

/-- 10 R210: with an active lane the result of SFN is a variable-latency result of its elements and flags; with none nothing
is written.

11 R218, R220, R221: SHUF, SCAN and REDW, with variable latency; with no active lane a vector form writes nothing. -/
def Obligations.VariableLatencyCompletes : Prop :=
  (∀ (s : State) (f : SfnForm), s.ready (.v f.d) f.sel [f.a] (· == f.fmt) → s.ownReady f.sel (.v f.d) = .ok () →
      let g (l k : Nat) := sfn f.fn f.fmt f.rnd (s.elemAt f.fmt f.a l k)
      exec (.sfn f) s = .next (s.closed (if s.active = 0 then s else
        s.defer [(.v f.d.toNat, f.fmt, s.active, fun l =>
            newImage f.fmt.width f.sel (s.oldImage (.v f.d) l) fun k => (g l k).1)]
          (s.flagsOver f.fmt f.sel (.v f.d) fun l k => (g l k).2) [] none))) ∧
  ((∀ (s : State) (f : ShufForm), s.ready (.v f.d) f.sel [.v f.a, f.b] (fun _ => true) → s.ownReady f.sel (.v f.d) = .ok () →
      exec (.shuf f) s = .next (s.closed (if s.active = 0 then s else
        s.defer [(.v f.d.toNat, f.fmt, s.active, fun l =>
          newImage f.fmt.width f.sel (s.oldImage (.v f.d) l) fun k =>
            elem f.fmt.width (s.crossLane f.a.toNat (shufLane f.mode (s.laneImage f.b l).toNat l)) k)] 0 [] none))) ∧
    (∀ (s : State) (f : ScanForm), s.ready (.v f.d) f.sel [.v f.a] (redTag f.fn f.fmt) →
      s.srcTag (fun t => t == .mask || t == .n32 || t == .n64 || t == .b64) f.heads = .ok () → s.ownReady f.sel (.v f.d) = .ok () →
      let g := s.scanElem f (s.image f.heads)
      exec (.scan f) s = .next (s.closed (if s.active = 0 then s else
        s.defer [(.v f.d.toNat, f.fmt, s.active, fun l =>
            newImage f.fmt.width f.sel (s.oldImage (.v f.d) l) fun k => (g l k).1)]
          (s.flagsOver f.fmt f.sel (.v f.d) (fun l k => (g l k).2) ||| s.redSignals f.fn f.fmt f.sel f.a.toNat) [] none))) ∧
    ∀ (s : State) (f : RedwForm), s.ready f.d f.sel [.v f.a] (match f.fn with
        | .red fn => redTag fn f.fmt
        | .pick _ => fun _ => true) → s.ownReady f.sel f.d = .ok () →
      let sig := match f.fn with
        | .red fn => s.redSignals fn f.fmt f.sel f.a.toNat
        | .pick _ => 0
      let fl := (f.fmt.elems f.sel).foldl (fun acc k => acc ||| (s.redwElem f k).2) sig
      let image (l : Nat) := newImage f.fmt.width f.sel (s.oldImage f.d l) fun k => (s.redwElem f k).1
      exec (.redw f) s = .next (s.closed (match f.d with
        | .v r => if s.active = 0 then s else s.defer [(.v r.toNat, f.fmt, s.active, image)] fl [] none
        | .s r => s.defer [(.s r.toNat, f.fmt, -1, fun _ => image 0)] fl [] none)))

/-- 06 R139, 11 R219, R220: a reduction over all lanes is one tree, in which lane 2m meets lane 2m + 1 first, and each level
combines adjacent results of the level below; the prefix of lane 6 is the tree's left-to-right sum of its largest nodes.
Integer and bitwise reductions do not depend on the tree: each is the sum, the least or greatest value, or the combination
of the bits, of its lanes. -/
def Obligations.ReductionTrees : Prop :=
  (∀ (fn : RedFn) (f : Fmt) (leaf : Nat → Nat),
    let op (x y : Nat) : Nat := (redStep fn f x y).1
    let pair (g : Nat → Nat) (m : Nat) : Nat := op (g (2 * m)) (g (2 * m + 1))
    let canon (r : Nat) : Nat := if f.isFloat && (numOf f r).isNan then f.nanCode else r
    (∀ m, (treeNode fn f leaf 1 (2 * m)).1 = pair leaf m) ∧
    (spanValue fn f leaf 0 31).1 = canon (pair (pair (pair (pair (pair leaf)))) 0) ∧
    (spanValue fn f leaf 0 31).2 = (treeNode fn f leaf 5 0).2 ∧
    (spanValue fn f leaf 0 6).1 = canon (op (op (pair (pair leaf) 0) (pair leaf 2)) (leaf 6))) ∧
  ∀ (f : Fmt) (leaf : Nat → Nat), f.isFloat = false → (∀ l, leaf l < 2 ^ f.width) → ∀ b < 32,
    (spanValue .add f leaf 0 b).1 = (List.range (b + 1)).foldl (fun acc l => (acc + leaf l) % 2 ^ f.width) 0 ∧
    (spanValue .or f leaf 0 b).1 = (List.range (b + 1)).foldl (fun acc l => Nat.lor acc (leaf l)) 0 ∧
    (spanValue .xor f leaf 0 b).1 = (List.range (b + 1)).foldl (fun acc l => Nat.xor acc (leaf l)) 0 ∧
    (spanValue .and f leaf 0 b).1 = (List.range b).foldl (fun acc l => Nat.land acc (leaf (l + 1))) (leaf 0) ∧
    (∃ l ≤ b, (spanValue .min f leaf 0 b).1 = leaf l ∧ ∀ k ≤ b, f.num (leaf l) ≤ f.num (leaf k)) ∧
    ∃ l ≤ b, (spanValue .max f leaf 0 b).1 = leaf l ∧ ∀ k ≤ b, f.num (leaf k) ≤ f.num (leaf l)

/-- 11 R222 to R227: REBAL deals the items of its rows to the active lanes, TOPK leaves its candidates in order, and MERGE runs
its loop; where no SAVE stops it each leaves PROG at 0, also with no active lane.

15 R298 to R309: LDPRUNE writes the kept elements and their metadata, PATBIND fills a slot from a record in order, PATBIND.clear
empties it, and PATGEN writes the entries of the line it walks and the position it has come to. -/
def Obligations.IrregularAndSparseWorkCompletes : Prop :=
  ((∀ (s : State) (d a : BitVec 7) (b : BitVec 6), s.regOk d.toNat = true → s.regOk a.toNat = true → s.inSprig = false →
      s.tagIn (fun t => t == .n32 || t == .idx32 || t == .b64) (.v a) = .ok () → s.srcTag countTag (.s b) = .ok () →
      s.partialReady none (.v d) = .ok () →
      (s.shortAt ((Mask.ofFn fun l => s.active.has l && decide (s.cur.prog.toNat ≤ l)) : Mask).toList) = none →
      let m := s.active
      let len (r : Nat) : Nat := if m.has r then elem 32 (s.vval a.toNat r) 0 else 0
      let item (l : Nat) : Nat := (s.sval b.toNat).toNat + (m.toList.filter fun j => decide (j < l)).length
      let given := (m.toList.filter fun l => decide (item l < rowStart len 32)).length
      let t := s.defer [(.v d.toNat, .idx32, Mask.ofFn fun l => m.has l && decide (s.cur.prog.toNat ≤ l),
          fun l => rebalItem len (item l)), (.s b.toNat, .n64, -1, fun _ => w64 ((s.sval b.toNat).toNat + given))] 0 [] none
      exec (.rebal d a b) s = .next (s.closed (if m = 0 then s else t).endLong)) ∧
    (∀ (s : State) (f : TopkForm), s.regsOk f.d.toNat 2 = true → s.regOk f.a.toNat = true → s.inSprig = false →
      s.tagIn (· == f.fmt) (.v f.a) = .ok () → s.srcTag countTag (.s f.b) = .ok () →
      s.awaits (.v f.d.toNat) = false → s.awaits (.v (f.d.toNat + 1)) = false →
      s.awaitsOwn (.v f.d.toNat) = false → s.awaitsOwn (.v (f.d.toNat + 1)) = false →
      s.shortAt ((List.range (f.k1.toNat + 1)).filter fun j => decide (s.cur.prog.toNat ≤ j)) = none →
      let val (c : Nat) : Nat := elem 32 (s.vval f.a.toNat (c / 2)) (c % 2)
      let cand := (List.range (Nat.min 64 (s.sval f.b.toNat).toNat)).filter fun c => s.active.has (c / 2) &&
        (!f.nz || !(if f.fmt == .f32 then (numOf .f32 (val c)).isZero else val c == 0))
      let cnt := Nat.min (f.k1.toNat + 1) cand.length
      let image (r : Nat) (g : Nat × Nat → Nat) (l : Nat) : W64 :=
        [2 * l, 2 * l + 1].foldl (fun x j =>
          if j < f.k1.toNat + 1 ∧ s.cur.prog.toNat ≤ j then setElem 32 x (j % 2) (g (topkSlot f.fmt val cand cnt j)) else x)
          (s.oldImage (.v (BitVec.ofNat 7 r)) l)
      let t := s.defer [(.v f.d.toNat, f.fmt, s.active, image f.d.toNat (·.1)),
        (.v (f.d.toNat + 1), .idx32, s.active, image (f.d.toNat + 1) (·.2)), (.s f.b.toNat, .n64, -1, fun _ => w64 cnt)]
        (flagIf (f.fmt == .f32 && cand.any fun c => (numOf .f32 (val c)).signals) flagIV) [] none
      exec (.topk f) s = .next (s.closed (if s.active = 0 then s else t).endLong)) ∧
    ∀ (s t : State) (f : MergeForm) (ws : List W64), s.noSprig = .ok () → s.srcTag addrTag f.desc = .ok () →
      s.noRunAhead = .ok () → s.noTx 2 = .ok () → (s.image f.desc).extractLsb' 0 6 = 0 →
      s.loadWords (s.image f.desc).toNat 8 = .ok (ws, t) →
      let d := mergeDesc ws
      let p := s.cur.prog.toNat
      let m := t.mergeLoop f d (d.alen + d.blen) true ⟨t, p / 2 ^ 42, p / 2 ^ 21 % 2 ^ 21, p % 2 ^ 21, 0, none, false⟩
      d.alen ≤ 2 ^ 20 → d.blen ≤ 2 ^ 20 → ws.getD 7 0 = 0 → mergeMisaligned d (f.fmt.width / 8) = none → m.stop = none →
      m.short = false →
      exec (.merge f) s = .next (s.closed ((m.s.defer [(.s f.d.toNat, .n64, -1, fun _ => w64 m.o)] m.flags [] none).endLong))) ∧
  ((∀ (s : State) (f : LdpruneForm), s.regsOk f.d.toNat 8 = true → s.regsOk f.m.toNat f.pat.metaRegs = true →
      (f.d.toNat + 8 ≤ f.m.toNat ∨ f.m.toNat + f.pat.metaRegs ≤ f.d.toNat) → s.noSprig = .ok () →
      s.srcTag (baseTag .global) f.rec_ = .ok () → s.orgTag f.org = .ok () → s.noTx 2 = .ok () →
      (s.active = 0 → exec (.ldprune f) s = .next (s.closed s)) ∧
      ∀ ws t sh rows, s.active ≠ 0 → (s.image f.rec_).extractLsb' 0 6 = 0 →
        s.loadWords (s.image f.rec_).toNat 8 = .ok (ws, t) → parseShape (s.image f.rec_) ws (· == f.fmt) = .ok sh →
        s.pruneLanes f sh = .ok rows → s.wAllReady (s.wPieces (rowPlaces sh rows)) = .ok () →
        exec (.ldprune f) s = .next (s.closed ((t.wTouches (s.wPieces (rowPlaces sh rows))).defer (s.pruneRegs f sh rows) 0 []
          none))) ∧
    (∀ (s t : State) (slot : BitVec 3) (rec_ : Src) (ws : List W64), s.noSprig = .ok () → s.srcTag addrTag rec_ = .ok () →
      s.noRunAhead = .ok () → s.noTx 2 = .ok () → (s.image rec_).extractLsb' 0 7 = 0 →
      s.loadWords (s.image rec_).toNat 16 = .ok (ws, t) → bindFault (s.image rec_) ws = none →
      exec (.patbind slot rec_) s = .next (s.closed
        { t with cur := { t.cur with binds := t.cur.binds.set slot.toNat (some (bindOf ws)) } })) ∧
    (∀ (s : State) (slot : BitVec 3), s.noSprig = .ok () → s.noRunAhead = .ok () → s.noTx 2 = .ok () →
      exec (.patbindClear slot) s = .next (s.closed
        { s with cur := { s.cur with binds := s.cur.binds.set slot.toNat none } })) ∧
    ∀ (s : State) (f : PatgenForm) (b : Bind) (p : Pat), s.regOk f.d.toNat = true → s.noSprig = .ok () →
      s.boundPattern f.slot.toNat = some (b, p) → s.srcTag countTag f.a = .ok () → s.srcTag countTag (.s f.b) = .ok () →
      (f.tr = false ∨ b.invptr ≠ 0 ∨ p.invertible = true) →
      (s.active = 0 → exec (.patgen f) s = .next (s.closed s.endLong)) ∧
      (s.active ≠ 0 → (f.tr = false ∨ b.invptr = 0 ∨ s.over s.cur s.who .accesses = true) → s.shortAt s.lanesLeft = none →
        let w := s.patWalk f b p none
        let ps := s.wPieces w.places
        s.wAllReady ps = .ok () → w.fault = none →
        let n := Nat.min 32 (w.length - s.patPos f)
        exec (.patgen f) s = .next (s.closed ((s.wTouches ps).defer [s.patVector f w fun _ => true,
          (.s f.b.toNat, .n64, -1, fun _ => w64 ((s.patPos f + n) % 2 ^ 32 + n * 2 ^ 32))] 0 [] none).endLong)))

/-- 19 R362, R373, R374, 11 R227, 15 R309: a REBAL, TOPK or PATGEN completes and leaves PROG at 0, or, only where a SAVE of its context
waits, stops before a lane or slot, leaves that number in PROG and stays at its packet, and the SAVE is the next event (log
entry 83). -/
def Obligations.LongInstructionsYieldToASave : Prop :=
  let yields (s u : State) (units : List Nat) : Prop := u.cur.prog = 0 ∨
    ∃ k ∈ units.drop 1, u.cur.prog = w64 k ∧ Instr.save s.cur.ctx ∈ s.agenda ∧ Instr.save s.cur.ctx ∈ u.urgent
  (∀ (s t : State) (k : Nat), s.issue.multi = false → t.urgent = [] → t.thread.pc = s.thread.pc →
    ∃ u, s.closeLong t none (some k) = .ok u ∧ u.cur.prog = w64 k ∧ u.urgent = [.save s.cur.ctx] ∧
      (s.closed u).thread.pc = s.thread.pc) ∧
  (∀ (s : State) (d a : BitVec 7) (b : BitVec 6), s.issue.multi = false → s.regOk d.toNat = true → s.regOk a.toNat = true →
    s.inSprig = false → s.tagIn (fun t => t == .n32 || t == .idx32 || t == .b64) (.v a) = .ok () → s.srcTag countTag (.s b) = .ok () →
    s.partialReady none (.v d) = .ok () →
    ∃ u, exec (.rebal d a b) s = .next (s.closed u) ∧
      yields s u ((Mask.ofFn fun l => s.active.has l && decide (s.cur.prog.toNat ≤ l)) : Mask).toList) ∧
  (∀ (s : State) (f : TopkForm), s.issue.multi = false → s.regsOk f.d.toNat 2 = true → s.regOk f.a.toNat = true →
    s.inSprig = false → s.tagIn (· == f.fmt) (.v f.a) = .ok () → s.srcTag countTag (.s f.b) = .ok () →
    s.awaits (.v f.d.toNat) = false → s.awaits (.v (f.d.toNat + 1)) = false →
    s.awaitsOwn (.v f.d.toNat) = false → s.awaitsOwn (.v (f.d.toNat + 1)) = false →
    ∃ u, exec (.topk f) s = .next (s.closed u) ∧
      yields s u ((List.range (f.k1.toNat + 1)).filter fun j => decide (s.cur.prog.toNat ≤ j))) ∧
  ∀ (s : State) (f : PatgenForm) (b : Bind) (p : Pat), s.issue.multi = false → s.regOk f.d.toNat = true → s.noSprig = .ok () →
    s.boundPattern f.slot.toNat = some (b, p) → s.srcTag countTag f.a = .ok () → s.srcTag countTag (.s f.b) = .ok () →
    (f.tr = false ∨ b.invptr ≠ 0 ∨ p.invertible = true) →
    (f.tr = false ∨ b.invptr = 0 ∨ s.over s.cur s.who .accesses = true) →
    s.wAllReady (s.wPieces (s.patWalk f b p (s.shortAt s.lanesLeft)).places) = .ok () →
    (s.patWalk f b p (s.shortAt s.lanesLeft)).fault = none →
    ∃ u, exec (.patgen f) s = .next (s.closed u) ∧ yields s u s.lanesLeft

/-! Memory (12, 13, 16, 17). -/

/-- 13 R250 to R254: a load whose lanes are past their fault point and whose pieces can be served delivers what the cluster
serves at once and asks the homes for the rest; in a transaction it reads what the transaction sees; with no active lane it
does nothing. -/
def Obligations.LoadCompletes : Prop :=
  ∀ (s : State) (f : LdForm), s.destOk f.d = true → s.opOk f.a = true → s.opOk f.b = true → s.pairOk f.sz f.d = true →
    s.addrTags f.space f.a f.b = .ok () → s.txSpace f.space = .ok () →
    (f.sel = none ∨ s.awaits (RegName.ofDest f.d) = false) → s.ownReady f.sel f.d = .ok () →
    (s.ldLanes f = [] → exec (.ld f) s = .next (s.closed s)) ∧
    (∀ ps, s.ldLanes f ≠ [] → s.ldAccesses f = .ok ps → s.cur.tx = none → s.memoryReady .rd ps = .ok () →
      (∀ x ∈ ps, s.behindAtomic x.2 = false ∧ s.behindLoad x.2 = false) →
      exec (.ld f) s = .next (s.closed ((s.holdPieces ps).deliver f ps s.pieceBytes))) ∧
    ∀ ps x t, s.ldLanes f ≠ [] → s.ldAccesses f = .ok ps → s.cur.tx = some x → s.txReady ps = .ok () →
      s.txTouchAll ps false = .ok t →
      exec (.ld f) s = .next (s.closed (((ps.foldl (fun t x => t.sawHome .device x.2.pa x.2.n) t).holdPieces ps).deliver f ps
        fun p => some (s.txBytes x p.pa p.n)))

/-- 13 R250 to R256: a store past its fault point writes the bytes of every lane's piece, in an order of the lanes that R256
leaves open (log entry 10); in a transaction they are held; a .repair store writes whole sectors. -/
def Obligations.StoreCompletes : Prop :=
  ∀ (s : State) (f : StForm), s.opOk f.a = true → s.opOk f.b = true → (stData f).all s.opOk = true →
    s.addrTags f.space f.a f.b = .ok () → s.tagsIn (fun t => t == f.fmt || t == .b64) (stData f) = .ok () →
    s.noRunAhead = .ok () → s.txSpace f.space = .ok () → s.txWrites = .ok () →
    (f.repair = true → repairCovers ((s.stLanes f).flatMap (s.touched f.space f.sz.bytes)) = true) →
    (s.stLanes f = [] → exec (.st f) s = .next (s.closed s)) ∧
    (∀ ps, s.stLanes f ≠ [] → s.stAccesses f = .ok ps → s.cur.tx = none → s.storesReady ps = .ok () →
      (if f.repair then s.repairReady ps else s.memoryReady .wr ps) = .ok () →
      exec (.st f) s = .next (s.closed (if f.repair then (s.holdPieces ps).repairStores (s.stPieces f ps)
        else (s.stPieces f ps).foldl (fun t x => t.writePiece x.2.1 x.2.2) (s.holdPieces ps)))) ∧
    ∀ ps t, s.stLanes f ≠ [] → s.stAccesses f = .ok ps → s.cur.tx.isSome = true → s.txReady ps = .ok () →
      s.txTouchAll ps true = .ok t →
      let u := (s.stPieces f ps).foldl (fun t x => t.txHold x.2.1 x.2.2) (t.holdPieces ps)
      exec (.st f) s = .next (s.closed (if f.repair then u.txRepair (ps.map (·.2)) else u))

/-- 13 R261 to R263: ATOM and CAS complete exactly where their operands are within the footprint and carry their tags and
the accesses of their lanes can be made, with what those accesses leave.

13 R261 to R263, 17 R327: what an atomic leaves outside transactions: accesses to shared memory, the stash and private memory
are performed at once, those to global memory are queued for their homes, in an order of the lanes that R263 leaves open
(log entry 10), and the result is a variable-latency one. -/
def Obligations.AtomicsComplete : Prop :=
  ((∀ (s t : State) (f : AtomForm), f.d.all s.destOk = true → s.opOk f.a = true → s.opOk f.b = true →
      s.tagIn (baseTag f.space) f.a = .ok () → s.tagIn (fun t => t == f.fmt || t == .b64) f.b = .ok () →
      s.atomic f.fmt f.space f.d f.a (fun l => .atom f.fn f.fmt (w64 (s.elemAt f.fmt f.b l 0))) = .ok t →
      exec (.atom f) s = .next (s.closed t)) ∧
    ∀ (s t : State) (f : CasForm), s.destOk f.d = true → [f.a, f.cmp, f.new.operand f.d].all s.opOk = true →
      s.tagIn (baseTag f.space) f.a = .ok () →
      s.tagsIn (· == f.fmt) [f.cmp, f.new.operand f.d] = .ok () →
      s.atomic f.fmt f.space (some f.d) f.a (fun l =>
        .cas f.fmt (w64 (s.elemAt f.fmt f.cmp l 0)) (w64 (s.elemAt f.fmt (f.new.operand f.d) l 0))) = .ok t →
      exec (.cas f) s = .next (s.closed t)) ∧
  (∀ (s : State) (f : Fmt) (space : Space) (d : Option Dest) (a : Operand) (op : Nat → HomeOp) (ps : List (Nat × Piece)),
      s.noRunAhead = .ok () → s.txSpace space = .ok () → s.txWrites = .ok () → s.cur.tx = none → s.atomLanes d a ≠ [] →
      s.atomAccesses f space d a = .ok ps → s.storesReady ps = .ok () → s.memoryReady .rmw ps = .ok () →
      let row (l : Nat) : Nat := if scalarDest d then 0 else l
      let near := runAtoms ((s.ordered ps).filter fun x => !x.2.far) (fun t l p => t.atomNow p (op l)) (s.holdPieces ps)
      let sent := (s.ordered ps).filter fun x => x.2.far
      let olds := near.2.map fun x => (row x.1, x.2)
      let given := match d with
        | none => near.1
        | some d => near.1.defer [(RegName.ofDest d, f, near.1.resultMask d, fun l => w64 (NMap.getD olds l 0))] 0
            (sent.map fun x => ⟨row x.1, 0, 0, x.2.pa, x.2.n, true⟩) none
      s.atomic f space d a op = .ok (sent.foldl (fun t x =>
        t.enqueue x.2.target x.2.pa (some x.2.va) (op x.1) (d.map fun _ => (near.1.nextId, 0, row x.1))) given))

/-- 13 R257 to R260: GATHER, SCATTER and SRED where every row from PROG goes through; with no active lane GATHER and SCATTER
leave PROG at 0 and do nothing else. -/
def Obligations.RowsComplete : Prop :=
  (∀ (s : State) (f : RowsForm), s.regsOk f.d.toNat (f.n1.toNat + 1) = true → s.regOk f.ix.toNat = true → s.noSprig = .ok () →
    s.srcTag (baseTag .global) f.base = .ok () → s.tagIn (fun t => t == .idx32 || t == .n32 || t == .b64) (.v f.ix) = .ok () →
    s.noTx 2 = .ok () →
    (s.active = 0 → exec (.gather f) s = .next (s.closed s.endLong)) ∧
    (s.active ≠ 0 → s.gatherReady = .ok () → (s.rowLanes f .rd).2 = none → s.shortAt (s.rowLanes f .rd).1 = none →
      let lanes := (s.rowLanes f .rd).1
      let rows := lanes.map fun l => (l, s.rowOf f .rd l)
      let ps := rows.flatMap fun x => x.2
      s.piecesFree ps = .ok () →
      exec (.gather f) s = .next (s.closed ((ps.foldl (fun t p => if p.target = .device then t.readTouch p.pa 8 else t)
          (s.holdPieces (ps.map fun p => (0, p)))).defer
        ((List.range (f.n1.toNat + 1)).map fun j => (.v (f.d.toNat + j), f.fmt, Mask.ofFn (fun l => lanes.contains l),
          fun l => s.gatherWord rows l j)) 0 [] none).endLong)) ∧
    (s.tagsIn (fun t => t == f.fmt || t == .b64) ((List.range (f.n1.toNat + 1)).map fun j => .v (f.d + BitVec.ofNat 7 j)) = .ok () →
      s.noRunAhead = .ok () →
      (s.active = 0 → exec (.scatter f) s = .next (s.closed s.endLong)) ∧
      (s.active ≠ 0 → s.gatherReady = .ok () → (s.rowLanes f .wr).2 = none → s.shortAt (s.rowLanes f .wr).1 = none →
        let ps := (s.rowLanes f .wr).1.flatMap fun l => (s.rowOf f .wr l).map fun p => (l, p)
        s.claims (bareSectors (ps.map fun x => x.2)) = .ok () →
        exec (.scatter f) s = .next (s.closed ((s.ordered ps).foldl (fun t x =>
          t.scatterWord x.2 (s.vval (f.d.toNat + x.2.at_ / 8) x.1)) (s.holdPieces ps)).endLong)))) ∧
  ∀ (s : State) (f : SredForm) (ps : List (Nat × Piece)), s.opOk f.a = true → s.opOk f.b = true →
    s.tagIn (baseTag .global) f.a = .ok () → s.tagIn (· == f.fmt) f.b = .ok () → s.noRunAhead = .ok () → s.noTx 2 = .ok () →
    s.sredAccesses f = .ok ps →
    let home (va : Nat) : Nat := ((ps.find? fun x => x.2.va == va).map fun x => x.2.pa).getD 0
    exec (.sred f) s = .next (s.closed ((combine f.fn f.fmt (ps.map fun x => (x.2.va, s.elemAt f.fmt f.b x.1 0))).foldl
      (fun t x => t.sendMill f.fn f.fmt (home x.1) x.1 x.2) (s.holdPieces ps)))

/-- 13 R264, R265, 16 R319, R320: PREF asks for fills, FENCE completes at once or holds the later accesses on its second set of classes until those it
counts have been performed, and FLUSH writes back, drops copies or repairs whole words of its range.

13 R266, 17 R336, R337: SEAL takes the lowest free entry of the table, or answers 0x101 where the range overlaps a sealed
one and 0x100 where the table is full; SEAL.open answers 0x102 for an entry that is not the context's, and else answers 0
once the entry is free. That SEAL first waits for the accesses that its thread has issued, that the stashes' words of the
range go home before it, and that the entry taken is the lowest free one, is the model's choice (log entry 40). -/
def Obligations.MaintenanceAndSealingComplete : Prop :=
  ((∀ (s : State) (f : PrefForm), s.opOk f.a = true → s.opOk f.b = true → s.addrTags .global f.a f.b = .ok () →
      exec (.pref f) s = .next (s.closed ((framesOf (s.prefPieces f)).foldl (fun t fr =>
        t.post (s.fillRequest 0 f.hint.toNat f.l2 false (s.prefPieces f) fr)) s))) ∧
    (∀ (s : State) (f : FenceForm), s.noTx 2 = .ok () →
      let acq := f.ord.getLsbD 0 && wideScope f.scope
      (s.fenceIds f = [] → exec (.fence f) s = .next (s.closed (if acq then s.setSys (s.sys.acquire s.gt) else s))) ∧
      (s.fenceIds f ≠ [] → exec (.fence f) s = .next (s.closed
        (s.setThread { s.thread with holds := ⟨s.fenceIds f, acq, fenceHolds f⟩ :: s.thread.holds })))) ∧
    ∀ (s : State) (f : FlushForm), s.srcTag addrTag f.base = .ok () → s.srcTag countTag f.len = .ok () → s.noRunAhead = .ok () →
      s.noTx 2 = .ok () →
      let base := (s.image f.base).toNat
      let len := (s.image f.len).toNat
      let b := base / 8 * 8
      let n := (base + len + 7) / 8 * 8 - b
      len ≤ 2 ^ 32 → base + len ≤ 2 ^ 58 → s.rangeReady base len = .ok () →
      (len = 0 → exec (.flush f) s = .next (s.closed s)) ∧
      (len ≠ 0 → f.op = .wb → exec (.flush f) s = .next (s.closed (s.writeBack b n))) ∧
      (len ≠ 0 → f.op = .inv → exec (.flush f) s = .next (s.closed ((s.writeBack b n).dropCopies b n))) ∧
      (len ≠ 0 → f.op = .repair → s.repairFault base len = none →
        let secs := s.poisonWithin base len
        (secs = [] ∨ s.over s.cur s.who .accesses = true) → s.claims secs = .ok () →
        exec (.flush f) s = .next (s.closed ((((s.losePriv secs).writeBack b n).dropCopies b n).repairRange secs)))) ∧
  ((∀ (s : State) (d : BitVec 6) (base len : Src), s.noSprig = .ok () → s.srcTag addrTag base = .ok () →
      s.srcTag countTag len = .ok () → s.noRunAhead = .ok () → s.noTx 2 = .ok () →
      let b := (s.image base).toNat
      let n := (s.image len).toNat
      let asid := (s.ctx s.cur.ctx).asid
      let e := firstFree 63 (s.sealTable.map (·.1))
      b % 256 = 0 → n % 256 = 0 → 256 ≤ n → n ≤ 2 ^ 40 →
      (s.sealOverlaps asid b n = true → exec (.sealRange d base len) s = .next (s.closed (s.deferS d .n64 0x101))) ∧
      (s.sealOverlaps asid b n = false → 64 ≤ s.sealTable.length →
        exec (.sealRange d base len) s = .next (s.closed (s.deferS d .n64 0x100))) ∧
      (s.sealOverlaps asid b n = false → s.sealTable.length < 64 → s.over s.cur s.who .allAccesses = true →
        s.rangeReady b n = .ok () →
        let t := s.stashesHome b n
        exec (.sealRange d base len) s = .next (s.closed
          (State.deferS { t with sealTable := NMap.set t.sealTable e ⟨t.nextId, 0, asid, s.cur.ctx, b, n, false, false⟩,
                                 nextId := t.nextId + 1 } d .n64 (w64 e))))) ∧
    ∀ (s : State) (d : BitVec 6) (entry : Src), s.noSprig = .ok () → s.srcTag countTag entry = .ok () → s.noRunAhead = .ok () →
      s.noTx 2 = .ok () →
      let e := (s.image entry).toNat
      (∀ x, NMap.get? s.sealTable e = some x → x.ctx = s.cur.ctx → x.plate = false →
        let t := (State.defer (State.untag
          { s with sealTable := NMap.set s.sealTable e { x with opening := true, since := s.cycle.toNat } } e)
          [(.s d.toNat, .n64, -1, fun _ => 0)] 0 [] (some e))
        exec (.sealOpen d entry) s = .next (s.closed
          (((t.sealHolders e).foldl (fun t c => t.postOnce (.sealOpeningDrop e c)) t).freeSeal e))) ∧
      ((∀ x, NMap.get? s.sealTable e = some x → x.ctx ≠ s.cur.ctx ∨ x.plate = true) →
        exec (.sealOpen d entry) s = .next (s.closed (s.deferS d .n64 0x102))))

/-- 13 R267 to R272: a COPY joins its channel, and its result is the pointer's value once it is done; CHWAIT answers the
pointer of its channel once the channel has come far enough, at once under .try.

13 R268, R269, 03 R76: the next unit of a channel's first COPY is moved, a COPY without units ends, a refusal of one of
its accesses freezes the context, and a held sector delays it. What a unit is, and how far the visible pointer lags behind
it, are the model's choice (log entry 22). -/
def Obligations.CopiesComplete : Prop :=
  ((∀ (s : State) (f : CopyForm) (src dst : Shape),
      let ch := f.ch.toNat
      let bytes := copyBytes f.toRegs dst
      let u := (s.recordTouch (s.image f.srec)).recordTouch (s.copyRecord f)
      ch < s.cur.foot.chans → s.copyRegs f 0 = true → s.noSprig = .ok () → s.srcTag (baseTag .global) f.srec = .ok () →
      s.copyDstTag f = .ok () → s.noRunAhead = .ok () → s.noTx 2 = .ok () → s.over s.cur s.who (.copyFull ch) = true →
      s.readShape (s.image f.srec) (· == f.src) = .ok src → s.copyTarget f src = .ok dst → s.copyRegs f bytes = true →
      exec (.copy f) s = .next (s.closed (State.deferS (State.postOnce (State.copyTags
        (u.queueCopy ch ⟨f, src, dst, 0, s.chanEnd ch, s.chanEnd ch + w64 bytes, u.sys.pts⟩) f bytes) (.copyProgress u.cur.id ch))
        f.d .n64 (s.chanEnd ch + w64 bytes)))) ∧
    ∀ (s : State) (f : ChwaitForm),
      let ch := s.value .n64 f.ch
      ch < 8 → ch < s.cur.foot.chans → s.noSprig = .ok () → s.srcTag countTag f.ch = .ok () → s.srcTag countTag f.v = .ok () →
      (f.try_ = true ∨ s.over s.cur s.who (.chwait ch (s.image f.v)) = true) →
      let t := if wideScope f.scope then s.setSys (s.sys.acquire s.gt) else s
      exec (.chwait f) s = .next (s.closed (t.deferS f.d .n64 (s.cur.chans.getD ch ⟨0, []⟩).wp))) ∧
  (∀ (s : State) (w ch : Nat) (x : Wave) (c : Chan) (j : CopyJob) (rest : List CopyJob), s.wave? w = some x →
      x.chans[ch]? = some c → c.jobs = j :: rest → s.engineRuns x.ctx = true →
      let t := s.select w (.split 0)
      let moved (t : State) : State :=
        State.chanMoved { t with cur := { t.cur with chans := t.cur.chans.modify ch fun c => c.advance s.fresh } } w ch
      (j.units ≤ j.done → exec (.copyProgress w ch) s = .next (moved t).counted) ∧
      (j.done < j.units → ∀ e a wr, t.copyUnit j j.done = .error (e, a, wr) → t.heldAway e (.copyProgress w ch) = none →
        exec (.copyProgress w ch) s = .next (t.freeze x.ctx x.cluster 1 wr a.toNat).counted) ∧
      (j.done < j.units → ∀ u, t.copyUnit j j.done = .ok u →
        t.heldIO (locSectors u.reads) (locSectors (u.writes j)) (.wave w) (.copyProgress w ch) = none →
        exec (.copyProgress w ch) s = .next (moved ((t.engineTouch u.reads (u.writes j)).writeUnit j j.done u)).counted))

/-- 13 R269, R270: the pointer of a channel never passes what its COPYs have moved, and stands at the end of each that is done.
What it moves by, and that it may lag behind what is moved, are the model's choice (log entry 22). -/
def Obligations.ChannelPointer : Prop :=
  ∀ (c : Chan) (j : CopyJob) (rest : List CopyJob) (fresh : Nat), c.jobs = j :: rest →
    (j.units ≤ j.done + 1 → (c.advance fresh).wp = j.until_ ∧ (c.advance fresh).jobs = rest) ∧
    (j.done + 1 < j.units → ((c.advance fresh).wp = c.wp ∨ (c.advance fresh).wp = j.from_ + w64 (j.bytesAt (j.done + 1))) ∧
      (c.advance fresh).jobs = { j with done := j.done + 1 } :: rest)

/-- 13 R273, R274: KVX answers 1 where 64 transfers of its context wait on its die, and else joins the queue and answers 0.

13 R274, 20 R382: a page of a transfer is moved; the transfer ends and its completion word is written once no page is left: with
its DONE value, or with code 1 where the peer refuses, 2 where the peer or its link is lost, and 3 where the peer's source
is poisoned; a violation of its own freezes the context. -/
def Obligations.PageTransfersComplete : Prop :=
  (∀ (s t : State) (scope : Scope) (d : BitVec 6) (desc : Src) (ws : List W64), s.noSprig = .ok () →
      s.srcTag (baseTag .global) desc = .ok () → s.noRunAhead = .ok () → s.noTx 2 = .ok () →
      (s.image desc).extractLsb' 0 6 = 0 → s.loadWords (s.image desc).toNat 8 = .ok (ws, t) → kvxFields ws = true →
      kvxMisaligned ws = none →
      let queued := (s.kvs.filter fun k => k.ctx == s.cur.ctx && k.die == s.die).length
      let j := t.kvxJob ws
      (64 ≤ queued → exec (.kvx scope d desc) s = .next (s.closed (t.deferS d .n64 1))) ∧
      (queued < 64 → exec (.kvx scope d desc) s = .next (s.closed (State.deferS (State.post
        { t with kvs := t.kvs ++ [j], nextId := t.nextId + 1 } (.kvxComplete j.id .done)) d .n64 0)))) ∧
  (∀ (s : State) (id : Nat) (e : FabricEnd) (k : Kv), s.kvs.find? (fun k => k.id == id) = some k → s.engineRuns k.ctx = true →
      let lost := k.dir != 0 && (e == .linkLost || s.lostPeers.contains k.peer)
      let n := k.left.getD (Config.nextPage s.fresh % k.left.length) 0
      (k.left = [] →
        s.heldIO [] (if k.done = 0 then [] else s.rangeSectors k.die k.ctx k.done.toNat 8 .wr) (.die k.die) (.kvxComplete id e) = none →
        exec (.kvxComplete id e) s = .next (s.kvxEnd k k.doneval).counted) ∧
      (k.left ≠ [] → lost = true → exec (.kvxComplete id e) s = .next (s.kvxFail k 2).counted) ∧
      (k.left ≠ [] → lost = false → k.dir ≠ 0 → e = .refused → exec (.kvxComplete id e) s = .next (s.kvxFail k 1).counted) ∧
      (k.left ≠ [] → lost = false → k.dir = 2 → e = .poisoned → exec (.kvxComplete id e) s = .next (s.kvxFail k 3).counted) ∧
      (k.left ≠ [] → lost = false → (k.dir = 0 ∨ e ≠ .refused) → (k.dir ≠ 2 ∨ e ≠ .poisoned) →
        let io := s.kvxSectors k n
        s.heldIO io.1 io.2 (.die k.die) (.kvxComplete id e) = none →
        let r := ((s.touchSectors io.1 false).touchSectors io.2 true).kvxPage k false n
        (∀ c a wr, r = .error (c, a, wr) → s.heldAway c (.kvxComplete id e) = none →
          exec (.kvxComplete id e) s = .next (s.freeze k.ctx 0xFF 4 wr a).counted) ∧
        (∀ t, r = .ok (t, 0) → exec (.kvxComplete id e) s = .next (State.counted (State.post
          { t with kvs := t.kvs.map fun x => if x.id = id then { x with left := x.left.filter (· != n) } else x }
          (.kvxComplete id e)))) ∧
        ∀ t c, r = .ok (t, c) → c ≠ 0 → exec (.kvxComplete id e) s = .next (t.kvxFail k c).counted)) ∧
  ∀ (s : State) (k : Kv) (code : Nat), ∃ t : State, s.kvxFail k code = t.post (.kvxComplete k.id .done) ∧
    ∀ x ∈ t.kvs, x.id = k.id → x.left = [] ∧ x.doneval = w64 (2 ^ 63 + code)

/-! The matrix engine (14). -/

/-- 14 R281, R284: an MMA or MMG whose operands are in order brings its wave to the rendezvous with what it has read: A from
registers or from memory rows, B and the scales from registers. The operation itself is the events' (`MmaRuns`).

14 R281 to R283: once the waves of a rendezvous have arrived alike their operation begins in each and those on their last
tile go on; unlike words raise 0x09 in each; a tile that nothing holds up is written in every wave of its operation. -/
def Obligations.MatrixMultiplyCompletes : Prop :=
  ((∀ (s : State) (f : MmaForm), s.mmaReady f = .ok () →
      exec (.mma f) s = .next (s.halted (.park .rendezvous (some (s.mmaArrival f)))) ∧
      (s.issue.multi = false → s.threadExists → ∃ t, exec (.mma f) s = .next t ∧ t.cur.arrival = some (s.mmaArrival f) ∧
        t.thread.park = .rendezvous ∧ Instr.mmaRendezvous s.cur.id ∈ t.agenda)) ∧
    ∀ (s : State) (f : MmgForm) (sh : Shape) (rows : List (Option (List (Option ElemAt)))),
      s.mmaChecks f.asMma (s.regOk f.a.toNat) (s.tagIn (fun t => t == .idx32 || t == .b64) (.v f.a)) = .ok () →
      s.noTx 2 = .ok () → s.over s.cur s.who .stores = true → s.readShape (s.image (.c f.ent)) (· == f.src) = .ok sh →
      s.mmgRows sh (mmaK f.src false) f.a = .ok rows →
      s.locsFree (mmgPlaces sh rows) = .ok () →
      let codes := rows.map (s.mmgLane f sh)
      let a := { s.arrival f.asMma (codes.map (·.1)) (codes.map (·.2)) with read := s.mmgReads f sh rows }
      exec (.mmg f) s = .next (s.halted (.park .rendezvous (some a))) ∧
      (s.issue.multi = false → s.threadExists → ∃ t, exec (.mmg f) s = .next t ∧ t.cur.arrival = some a ∧
        t.thread.park = .rendezvous ∧ Instr.mmaRendezvous s.cur.id ∈ t.agenda)) ∧
  ((∀ (s : State) (w : Nat) (x : Wave) (ws : List Wave), s.wave? w = some x → s.rendezvous x = some ws →
      (∀ y ∈ ws, s.spent y = false ∧ s.engineRuns y.ctx = true) →
      let as := ws.filterMap (·.arrival)
      let alike := as.all fun a => a.template == (x.arrival.map (·.template)).getD 0 && a.prog == (x.arrival.map (·.prog)).getD 0
      (alike = true →
        let t := ws.foldl (fun t y => t.beginMma as s.nextId y.id) { s with nextId := s.nextId + 1 }
        let t := if as.all fun a => decide (a.span ≤ a.prog + 1) then ws.foldl (fun t y => t.leaveMma y.id) t else t
        exec (.mmaRendezvous w) s = .next (ws.foldl (fun t y => t.opsChanged y.id) t).counted) ∧
      (alike = false → exec (.mmaRendezvous w) s = .next (ws.foldl (fun s y => s.mmaMismatch y.id) s).counted)) ∧
    ∀ (s : State) (w m j : Nat) (x : Wave), s.wave? w = some x → x.accOp = some (m, j) → s.engineRuns x.ctx = true →
      let ws := s.allWaves.filter fun y => y.owesTile m j
      (∀ y ∈ ws, (y.accReady m j).isSome = true) →
      let t := ws.foldl (fun t y => match y.accReady m j with
        | some o => t.setWave (y.writeAcc o)
        | none => t) s
      let t := ws.foldl (fun t y => t.nextTile y.id j) t
      exec (.mmaTileDone w) s = .next (ws.foldl (fun t y => t.opsChanged y.id) t).counted)

/-- 14 R285 to R288, 07 R148: MLOAD, MSTORE and MMOVE issue their operation for the active rows and debit the wave, MLOAD and MSTORE
not where they resume; where no row is active the destination of MLOAD and MMOVE takes its tag, and MLOAD and MSTORE leave
PROG at 0.

14 R289: MBATCH closes the open batch and answers its number; MWAIT goes on once few enough closed batches are left;
an operation of a wave that nothing holds up is carried out; a closed batch without operations retires.

14 R292 to R294: PENCIL opens run-ahead with its other path; INK with a value other than 0 commits the shadows and
releases the flags held apart, and with 0 drops them and goes to the other path. -/
def Obligations.TilesBatchesAndRunAheadComplete : Prop :=
  ((∀ (s : State) (f : MloadForm), s.tileChecks f.d.toNat (s.shadowsOk [f.d.toNat]) f.rec_ f.org = .ok () →
      s.noTx 2 = .ok () → s.inkFree = true →
      let u := s.recordTouch (s.image f.rec_)
      let paid (r t : State) : State := ((t.debit r.cur.resumesLong f.ecls.toNat).opsChanged r.cur.id).endLong
      (s.active = 0 → exec (.mload f) s = .next (s.closed (paid s (s.issueLoad f f.fmt false [] true)))) ∧
      ∀ sh rows, s.active ≠ 0 → s.readShape (s.image f.rec_) (mloadFmt f.fmt) = .ok sh → s.shortAt s.lanesLeft = none →
        s.tileRows sh f.shared f.t .rd (s.origin f.org).1 (s.origin f.org).2 none = (rows, none) →
        s.locsFree (rowPlaces sh rows) = .ok () →
        exec (.mload f) s = .next (s.closed (paid u (u.issueLoad f sh.fmt sh.nanOob rows true)))) ∧
    (∀ (s : State) (f : MstoreForm), s.tileChecks f.m.toNat true f.rec_ f.org = .ok () →
      s.cur.tagAt (s.placeOf f.m.toNat) = f.src → s.noRunAhead = .ok () → s.noTx 2 = .ok () →
      s.inkFree = true →
      let u := s.recordTouch (s.image f.rec_)
      let paid (r t : State) : State := ((t.debit r.cur.resumesLong f.ecls.toNat).opsChanged r.cur.id).endLong
      (s.active = 0 → exec (.mstore f) s = .next (s.closed (paid s s))) ∧
      ∀ sh rows, s.active ≠ 0 → s.readShape (s.image f.rec_) (· == f.fmt) = .ok sh →
        (f.fmt = .mxfp4 → (s.origin f.org).1 % 32 = 0) → s.shortAt s.lanesLeft = none →
        s.tileRows sh f.shared f.t .wr (s.origin f.org).1 (s.origin f.org).2 none = (rows, none) →
        s.locsFree (rowPlaces sh rows) = .ok () →
        exec (.mstore f) s = .next (s.closed (paid u (if rows = [] then u
          else u.addOp (.store f.m.toNat f.src f.fmt f.rnd f.sat u.sys.pts rows) u.cur.openBatch)))) ∧
    ∀ (s : State) (f : MmoveForm), s.tilesOk f.d.toNat 1 = true → f.op.tiles.all (fun t => s.tilesOk t 1) = true →
      s.shadowsOk [f.d.toNat] = true → s.noSprig = .ok () → s.fillTag f = .ok () →
      s.tileTags f.fmt f.op.tiles = .ok () → s.inkFree = true →
      exec (.mmove f) s = .next (s.closed (((s.issueMove f).debit false f.ecls.toNat).opsChanged s.cur.id))) ∧
  ((∀ (s : State) (d : BitVec 6), s.noSprig = .ok () → s.over s.cur s.who .mbatch = true →
      let n := s.cur.openBatch
      exec (.mbatch d) s = .next (s.closed (State.deferS (State.opsChanged
        { s with cur := { s.cur with batch := n, closed := s.cur.closed ++ [n] } } s.cur.id) d .n64 n))) ∧
    (∀ (s : State) (n : Src), s.noSprig = .ok () → s.srcTag countTag n = .ok () → s.value .n64 n ≤ 15 →
      s.over s.cur s.who (.mwait (s.value .n64 n)) = true → exec (.mwait n) s = .next (s.closed s)) ∧
    (∀ (s : State) (w : Nat) (x : Wave) (o : Outstanding), s.wave? w = some x → x.nextOp s.fresh = some o →
      s.engineRuns x.ctx = true →
      s.heldIO (locSectors o.op.io.1) (locSectors o.op.io.2) (.wave w) (.matrixOpComplete w) = none →
      let t := s.engineTouch o.op.io.1 o.op.io.2
      exec (.matrixOpComplete w) s = .next ((t.performOp ((t.wave? w).getD x) o).opsChanged w).counted) ∧
    ∀ (s : State) (w : Nat) (x : Wave) (b : W64) (rest : List W64), s.wave? w = some x → x.closed = b :: rest →
      x.ops.any (fun o => o.batch == b) = false →
      exec (.batchRetire w) s = .next ((s.setWave { x with closed := rest }).opsChanged w).counted) ∧
  ((∀ (s : State) (hold : Bool) (off : BitVec 16), s.cur.runAhead = none → s.inHandler = false → 0 < s.cur.foot.pencils →
      s.alone = .ok () → s.noTx 2 = .ok () →
      exec (.pencil hold off) s =
        .next (s.closed { s with cur := { s.cur with runAhead := some ⟨hold, s.offsetTarget off, 0⟩ } })) ∧
    ∀ (s : State) (a : Src) (r : RunAhead), s.cur.runAhead = some r → s.inHandler = false → s.alone = .ok () →
      s.srcTag (fun t => countTag t || t == .mask || t == .addr) a = .ok () →
      (s.image a ≠ 0 →
        let t := s.commitShadows
        exec (.ink a) s = .next (s.closed
          ((State.raiseFlags { t with cur := t.cur.closeAhead .wave } r.flags).opsChanged s.cur.id))) ∧
      (s.image a = 0 → exec (.ink a) s = .next (s.closed (State.go { s with cur := s.cur.closeAhead .drop } r.alt))))

/-! Control flow and system registers (04, 07, 03, 08). -/

/-- 07 R162 to R164: the unconditional branches, calls and returns set the transfer that takes effect after the group, BR.s only
where its register is not zero; a call writes the address of the next packet with the tag addr.

07 R160, R162: BR.p and BR.np pop the entry on which they vote; no lane for the branch goes on, all lanes go, and a divided
vote divides the thread: a sprig, a new split, or one path after the other.

07 R163: BRX goes where its active lanes point: nowhere without a lane, to the one target, to each target by a split of
its own, or to one target before the others. -/
def Obligations.BranchesComplete : Prop :=
  ((∀ (s : State) (off : BitVec 16), exec (.brAlways off) s = .next (s.closed (s.go (s.offsetTarget off)))) ∧
    (∀ (s : State) (r : BitVec 6) (off : BitVec 16), s.srcTag (fun t => countTag t || t == .mask || t == .addr) (.s r) = .ok () →
      exec (.brS r off) s = .next (s.closed (if s.sval r.toNat = 0 then s else s.go (s.offsetTarget off)))) ∧
    (∀ (s : State) (d : BitVec 6) (off : BitVec 16), s.landing s.cur (s.offsetTarget off) = true →
      exec (.call d off) s = .next (s.closed ((s.writeS d.toNat .addr (s.packet + 16)).go (s.offsetTarget off)))) ∧
    (∀ (s : State) (d : BitVec 6) (a : Src), s.srcTag addrTag a = .ok () → s.landing s.cur (s.image a) = true →
      exec (.callR d a) s = .next (s.closed ((s.writeS d.toNat .addr (s.packet + 16)).go (s.image a)))) ∧
    (∀ (s : State) (a : Src), s.srcTag addrTag a = .ok () → (s.image a).extractLsb' 0 4 = 0 →
      exec (.ret a) s = .next (s.closed (s.go (s.image a)))) ∧
    ∀ (s : State) (a : Src), s.srcTag addrTag a = .ok () → s.landing s.cur (s.image a) = true →
      exec (.retE a) s = .next (s.closed (s.go (s.image a)))) ∧
  (∀ (s : State) (off : BitVec 16) (want : Bool), s.canPop 1 = true →
      let i : Instr := if want then .brP off else .brNp off
      let act := s.rsys.exec &&& s.seenThread.mask &&& predBase s.seenThread.preds
      let taken := act &&& (if want then s.pred else ~~~s.pred)
      let rest := s.thread.mask &&& ~~~taken
      let popped := s.setThread (s.thread.popPreds 1)
      let nib := popped.exports (if taken.count ≤ rest.count then taken else rest)
      (taken = 0 → exec i s = .next (s.closed popped)) ∧
      (taken ≠ 0 → taken = act → exec i s = .next (s.closed (popped.go (s.offsetTarget off)))) ∧
      (taken ≠ 0 → taken ≠ act → s.cur.tx = none → (nib.isSome = true ∨ s.canSplit 1 = true ∨ s.canPend = true) →
        exec i s = .next (s.closed (popped.withTransfer (.divide taken ⟨s.offsetTarget off, 0⟩ nib))))) ∧
  ((∀ (s t : State) (a : BitVec 7), s.regOk a.toNat = true → s.tagIn (· == .addr) (.v a) = .ok () →
      s.branchEach (fun l => s.vval a.toNat l) = .ok t → exec (.brx a) s = .next (s.closed t)) ∧
    (∀ (s t : State) (a : BitVec 7) (base : Src), s.regOk a.toNat = true → s.tagIn (· == .idx32) (.v a) = .ok () →
      s.srcTag addrTag base = .ok () →
      s.branchEach (fun l => w64 ((s.image base).toNat + 16 * elem 32 (s.vval a.toNat l) 0)) = .ok t →
      exec (.brxTbl a base) s = .next (s.closed t)) ∧
    ∀ (s : State) (target : Nat → W64),
      let act := s.active
      let lanesTo (t : Nat) : Mask := Mask.ofFn fun l => act.has l && (target l).toNat == t
      let targets := act.toList.foldl (fun acc l => insertRising (target l).toNat acc) []
      (act = 0 → s.branchEach target = .ok s) ∧
      (act ≠ 0 → Mask.ofFn (fun l => act.has l && !s.landing s.cur (target l)) = 0 →
        (∀ t, targets = [t] → s.branchEach target = .ok (s.go (w64 t))) ∧
        ∀ t u rest, targets = t :: u :: rest → s.cur.tx = none →
          (s.canSplit (rest.length + 1) = true → s.branchEach target =
            .ok (s.withTransfer (.fan ⟨w64 t, 0⟩ ((u :: rest).map fun x => (⟨w64 x, 0⟩, lanesTo x))))) ∧
          (s.canSplit (rest.length + 1) = false → s.canPend = true → s.branchEach target =
            .ok (s.withTransfer (.serial ⟨w64 t, 0⟩ ⟨s.packet, s.slot⟩ (act &&& ~~~lanesTo t))))))

/-- 07 R153, R154, R158, R166, R167, 08 R180: the predicate stack, RECONV, VOTE and EXIT. That EXIT in a sprig looks at EXEC
at the sprig's own lanes only is the model's choice (log entry 37). -/
def Obligations.StacksAndVotesComplete : Prop :=
  (∀ (s : State) (neg : Bool) (a : Operand), s.opOk a = true → s.tagIn (conditionTag a) a = .ok () →
    s.thread.preds.length < 16 →
    exec (.ppush neg a) s = .next (s.closed (s.setThread (s.thread.pushPred
      (s.pred &&& (if neg then ~~~s.condition a else s.condition a)))))) ∧
  (∀ s : State, s.canPop 1 = true →
    exec .pinv s = .next (s.closed (s.setThread { s.thread with
      preds := s.thread.ownBits (predBase s.seenThread.preds &&& ~~~s.pred) s.thread.top :: s.thread.preds.tail }))) ∧
  (∀ (s : State) (n : BitVec 8), s.canPop n.toNat = true →
    exec (.ppop n) s = .next (s.closed (s.setThread (s.thread.popPreds n.toNat)))) ∧
  (∀ (s : State) (off : BitVec 16), s.recs.length < 16 →
    let e := firstFree 15 (s.recs.map (·.1))
    let r : Rec := { addr := s.offsetTarget off, expect := s.thread.mask, arrived := 0, pend := none, share := 0,
                     pos := s.thread.stack.length, bits := [], depth := none, uneven := false, below := s.thread.stack }
    let t := (s.setRecs (NMap.set s.recs e r)).setThread { s.thread with stack := e :: s.thread.stack }
    exec (.reconv off) s = .next (s.closed { t with cur := t.cur.tidy })) ∧
  (∀ (s : State) (mode : VoteMode) (d : BitVec 6) (a : Option (BitVec 7)), s.voteReady a = .ok () →
    exec (.vote mode d a) s = .next (s.closed (s.writeS d.toNat (voteResult mode s.active (s.voteBits a)).1
      (voteResult mode s.active (s.voteBits a)).2))) ∧
  (∀ s : State, s.noRunAhead = .ok () → s.sprig? = none →
    exec .exit s = .next (s.closed (s.withTransfer (if s.rsys.exec = 0 then .exitAll else .exit s.active)))) ∧
  ∀ (s : State) (p : Sprig), s.noRunAhead = .ok () → s.sprig? = some p →
    exec .exit s = .next (s.closed (s.withTransfer (if s.rsys.exec &&& p.lanes = 0 then .exitAll else .exit s.active)))

/-- 07 R154, R166: what the votes and the predicate stack compute: VOTE.any, .all, .ballot and .count over the bits of the
active lanes, a pushed entry in the thread's own lanes, and a pop after a push that gives the stack back. -/
def Obligations.VoteAndPredicateValues : Prop :=
  (∀ act bits : Mask, (voteResult .any act bits).2 = (if bits = 0 then 0 else 1) ∧
    (voteResult .all act bits).2 = (if bits = act then 1 else 0) ∧
    (voteResult .ballot act bits).2.toNat = bits.toNat ∧ (voteResult .ballot act bits).1 = .mask ∧
    (voteResult .count act bits).2.toNat = ((List.range 32).filter fun l => bits.getLsbD l).length) ∧
  (∀ (t : Thread) (m : Mask) (l : Nat), l < 32 → t.mask.getLsbD l = true → (t.pushPred m).top.getLsbD l = m.getLsbD l) ∧
  ∀ (t : Thread) (m : Mask), ((t.pushPred m).popPreds 1).preds = t.preds

/-- 04 R98 to R100: NOP does nothing; XLOAD writes the templates that it reads to the wave's table and advances XGEN; XFENCE
drops the old tables and the packets fetched.

19 R368, R369, 04 R101: TRAP and BRK end in their trap, which resumes at the slot after; TRAP.ret and TRAP.ret.to leave
handler mode; TFENCE goes on where no flag that FTRAP names is raised, and else ends in trap 0x10 with those flags. -/
def Obligations.ExemplarAndTrapInstructionsComplete : Prop :=
  ((∀ s : State, exec .nop s = .next (s.closed s)) ∧
    (∀ (s t : State) (first : BitVec 7) (count addr : Src) (ts : List W64), s.inSprig = false → s.cur.shownSplits.length ≤ 1 →
      s.cur.joins = 0 → s.srcTag countTag count = .ok () → s.srcTag addrTag addr = .ok () →
      let n := s.value .n64 count
      8 ≤ first.toNat → 1 ≤ n → first.toNat + n ≤ 128 → (s.image addr).extractLsb' 0 3 = 0 → s.noRunAhead = .ok () →
      s.entryWords (s.image addr).toNat n = .ok (ts, t) → firstMalformed ts first.toNat = none →
      let u : State := { t with cur := t.cur.loadEntries first.toNat ts }
      exec (.xload first count addr) s = .next (s.closed (u.setThread { u.thread with choice := none }))) ∧
    ∀ s : State,
      let t : State := { s with cur := s.cur.refetch s.who }
      exec .xfence s = .next (s.closed (t.setThread { t.thread with choice := none }))) ∧
  ((∀ (s : State) (c : BitVec 7),
      let resume : PC := (⟨s.packet, s.slot⟩ : PC).after s.slot
      exec (.trap c) s = .next (s.halted (.trap { Trap.of 0x11 with code := c.toNat, resume := some resume })) ∧
      exec (.brk c) s = .next (s.halted (.trap { Trap.of 0x12 with code := c.toNat, resume := some resume }))) ∧
    (∀ (s : State) (f : Frame), s.cur.frame = some f → s.who = .handler → s.thread.preds.length = f.pdepth →
      s.thread.stack.length = f.rdepth →
      exec .trapRet s = .next (s.closed (s.returnTo f f.resume true)) ∧
      ∀ a : Src, s.srcTag addrTag a = .ok () → s.landing s.cur (s.image a) = true →
        exec (.trapRetTo a) s =
          .next (s.closed ({ s with cur := { s.cur with prog := 0 } }.returnTo f ⟨s.image a, 0⟩ false))) ∧
    ∀ s : State, s.over s.cur s.who .flags = true →
      (s.fencedFlags &&& s.sys.ftrap = 0 → exec .tfence s = .next (s.closed s)) ∧
      (s.fencedFlags &&& s.sys.ftrap ≠ 0 →
        exec .tfence s = .next (s.halted (s.requested 0x10 (s.fencedFlags &&& s.sys.ftrap).toNat))))

/-- 07 R168 to R170, 08 R175: SGET answers the register's value, the engine registers with variable latency, the others at
once; SSET writes a register within its range.

03 R71, R72, 08 R184: BLKACQ answers the blocks that the wave then holds, BLKREL gives the blocks above its count back, and
PULL asks for the registers that a sprig lacks. -/
def Obligations.SystemRegistersAndBlocksComplete : Prop :=
  ((∀ (s : State) (fmt : Fmt) (r : BitVec 6) (ix : BitVec 12) (pinned : Bool), s.sgetIndex ix.toNat = true → ix ≠ 1 →
      let t (f : Fmt) : State := if sgetVariable ix.toNat then s.deferS r f (s.sysValue ix.toNat)
        else s.writeS r.toNat f (s.sysValue ix.toNat)
      exec (.sget fmt (.s r) ix pinned) s = .next (s.closed (t fmt)) ∧ exec (.sgetFixed r ix) s = .next (s.closed (t .b64))) ∧
    (∀ (s : State) (fmt : Fmt) (r : BitVec 7) (ix : BitVec 12) (pinned : Bool), s.regOk r.toNat = true →
      s.sgetIndex ix.toNat = true → s.partialReady none (.v r) = .ok () →
      let g (l : Nat) : W64 := if ix = 1 then w64 l else s.sysValue ix.toNat
      exec (.sget fmt (.v r) ix pinned) s = .next (s.closed
        (if sgetVariable ix.toNat then s.defer [(.v r.toNat, fmt, s.active, g)] 0 [] none
          else s.writeV r.toNat fmt s.active g))) ∧
    ∀ (s : State) (ix : BitVec 12) (a : Src), ssetIndex ix.toNat = true → ssetInRange ix.toNat (s.image a) = true →
      exec (.sset ix a) s = .next (s.closed (s.sysWrite ix.toNat (s.image a)))) ∧
  ((∀ (s : State) (d : BitVec 6) (n : Src), s.noSprig = .ok () → s.srcTag countTag n = .ok () → 1 ≤ s.value .n64 n →
      s.value .n64 n ≤ 8 →
      exec (.blkacq d n) s = .next (s.closed (State.writeS { s with cur := s.granted (s.value .n64 n) } d.toNat .n64
        (w64 (s.granted (s.value .n64 n)).held)))) ∧
    (∀ (s : State) (d : BitVec 6) (n : Src), s.noSprig = .ok () → s.srcTag countTag n = .ok () →
      let k := s.value .n64 n
      1 ≤ k → k ≤ 8 →
      (s.cur.held ≤ k → exec (.blkrel d n) s = .next (s.closed (s.writeS d.toNat .n64 (w64 s.cur.held)))) ∧
      (k < s.cur.held → s.over s.cur s.who (.blocks k) = true →
        let t := s.pushFrom k
        exec (.blkrel d n) s = .next (s.closed
          (State.writeS { t with cur := { t.cur with held := k, lent := false } } d.toNat .n64 (w64 k))))) ∧
    ∀ (s : State) (scalar : Bool) (r : BitVec 7) (n1 : BitVec 5),
      (if scalar then r.toNat + (n1.toNat + 1) ≤ 64 else s.regsOk r.toNat (n1.toNat + 1) = true) →
      exec (.pull scalar r n1) s = .next (s.closed (s.pullRegs
        ((List.range (n1.toNat + 1)).map fun k => if scalar then .s (r.toNat + k) else .v (r.toNat + k)))))

/-- 03 R73, R74: LAUNCH hands its record over and SPAWN queues its task, each with the result 0; the result is 1 where the queue
is full and 2 where no lane is set in EXEC.

18 R357 to R360: TXBEGIN opens a transaction, TXEND commits its stores in one step, TXABORT and the events that end a
transaction from outside abort it with their status. -/
def Obligations.WorkAndTransactionsComplete : Prop :=
  ((∀ (s : State) (d : BitVec 6) (rec_ : Src) (args : Option Src), s.noSprig = .ok () → s.srcTag addrTag rec_ = .ok () →
      s.noRunAhead = .ok () → s.noTx 3 = .ok () →
      let a := s.image rec_
      (s.rsys.exec = 0 → exec (.launch d rec_ args) s = .next (s.closed (s.deferS d .n64 2))) ∧
      ∀ x, s.rsys.exec ≠ 0 → a.extractLsb' 0 7 = 0 → s.translate s.die s.cur.ctx a.toNat .rd = .ok x →
        (256 ≤ s.launchQueue s.cur.ctx → exec (.launch d rec_ args) s = .next (s.closed (s.deferS d .n64 1))) ∧
        (s.launchQueue s.cur.ctx < 256 → s.released = .ok () →
          exec (.launch d rec_ args) s = .next (s.closed ((s.hand a (args.map s.image)).deferS d .n64 0)))) ∧
    ∀ (s : State) (f : SpawnForm), s.noSprig = .ok () → s.srcTag addrTag f.entry = .ok () → s.noRunAhead = .ok () →
      s.noTx 3 = .ok () →
      let e := s.image f.entry
      (s.rsys.exec = 0 → exec (.spawn f) s = .next (s.closed (s.deferS f.d .n64 2))) ∧
      (s.rsys.exec ≠ 0 → e.extractLsb' 0 4 = 0 → s.cur.depth < 4 →
        (4096 ≤ s.childQueue s.cur.ctx s.die → exec (.spawn f) s = .next (s.closed (s.deferS f.d .n64 1))) ∧
        (s.childQueue s.cur.ctx s.die < 4096 → s.released = .ok () →
          exec (.spawn f) s = .next (s.closed (State.deferS (s.queueTask e (s.image f.args)
            ⟨f.blocks1.toNat + 1, f.tiles.toNat, f.chans.toNat, f.pencils.toNat⟩) f.d .n64 0))))) ∧
  ((∀ (s : State) (ro : Bool) (d : BitVec 6) (off : BitVec 16), s.inSprig = false → s.cur.splits.length ≤ 1 →
      s.cur.sprigs = [] → s.cur.joins = 0 → s.ahead = false → s.cur.tx = none →
      let x : Tx := { who := s.who, handler := s.offsetTarget off, d := d, ro := ro, reads := [], writes := [], held := [],
                      vas := [], repairs := [], begun := s.cycle.toNat, gt := s.gt, doomed := none }
      exec (.txbegin ro d off) s = .next (s.closed (State.deferS { s with cur := { s.cur with tx := some x } } d .n64 0))) ∧
    (∀ (s : State) (x : Tx), s.noSprig = .ok () → s.cur.tx = some x → x.doomed = none → s.over s.cur s.who .accesses = true →
      ((∀ r ∈ heldRuns x.held, s.sealedPa r.1 r.2.length = false) →
        s.claims ((heldRuns x.held).map fun r => r.1 / 32) = .ok () → exec .txend s = .next (s.closed (s.commit x))) ∧
      ∀ r, (heldRuns x.held).find? (fun r => s.sealedPa r.1 r.2.length) = some r →
        exec .txend s = .next (s.halted
          (.abort 7 (some { Trap.of 2 with addr := some (w64 (x.globalOf r.1)), write := true })))) ∧
    (∀ (s : State) (x : Tx) (code : BitVec 8), s.noSprig = .ok () → s.cur.tx = some x →
      exec (.txabort code) s = .next (s.halted (.abort (5 + 256 * code.toNat) none))) ∧
    ∀ (s : State) (w : Nat) (y : Wave) (x : Tx), s.wave? w = some y → y.tx = some x →
      (∀ st, x.doomed = some st → exec (.txConflictAbort w) s = .next (s.endTx w x st).counted) ∧
      exec (.txCapacityEvict w) s = .next (s.endTx w x 2).counted ∧
      (x.begun + 65536 ≤ s.cycle.toNat → exec (.txTimeout w) s = .next (s.endTx w x 3).counted))

/-! Synchronisation and queues (18). -/

/-- 18 R343, R344: the lanes that issue BAR arrive, and without .arrive their thread waits; a phase whose waves have arrived
completes, those that wait in it go on, and the next phase begins with the arrivals recorded for it.

18 R345 to R347: SIGNAL makes its one atomic; WAITV answers the word where its condition holds, and else the thread waits
and is answered by the recheck, which translates its address afresh, or traps with it. -/
def Obligations.BarriersAndSignalsComplete : Prop :=
  ((∀ (s : State) (f : BarForm) (next : Bool) (b : Bar), s.barTag f = .ok () →
      let n := f.cnt.map fun n => (s.image n).toNat
      (∀ k, n = some k → 1 ≤ k ∧ k ≤ 32) → s.noTx 2 = .ok () →
      ((s.bars s.cur).getD f.id.toNat Bar.blank).arrive s.cur n s.active = some (next, b) →
      s.over s.cur s.who .accesses = true →
      let t := (s.setBars ((s.bars s.cur).set f.id.toNat b)).postOnce (.barPhaseComplete s.cur.id f.id.toNat)
      exec (.bar f) s = .next (s.closed (if f.arrive then t else t.block (.bar f.id.toNat next f.scope)))) ∧
    ∀ (s : State) (w id : Nat) (x : Wave), s.wave? w = some x →
      let ids := s.barWaves x
      let waves := ids.filterMap s.wave?
      let b := waves.foldl (fun (b : Bar) w => b.mark w) ((s.bars x).getD id Bar.blank)
      let c := waves.foldl (fun (b : Bar) w => b.mark w) (b.advance ids)
      let t := s.select w (.split 0)
      let u := t.setBars ((t.bars t.cur).set id c)
      b.complete ids = true →
      exec (.barPhaseComplete w id) s = .next (State.counted (State.post
        (u.mapWaves fun v => if ids.contains v.id then v.passBar id s.gt s.cycle.toNat else v) (.barPhaseComplete w id)))) ∧
  ((∀ (s : State) (f : SignalForm) (ps : List (Nat × Piece)), s.srcTag (baseTag (syncSpace f.shared)) f.a = .ok () →
      s.noRunAhead = .ok () → s.noTx 2 = .ok () → s.wordAccesses (syncSpace f.shared) f.a .rmw = .ok ps →
      (ps = [] ∨ s.over s.cur s.who .accesses = true) → s.memoryReady .rmw ps = .ok () →
      exec (.signal f) s = .next (s.closed (ps.foldl (fun t x =>
        t.signal x.2 (.atom (if f.add then .red .add else .exch) .n64 (s.image f.v))) s))) ∧
    (∀ (s : State) (f : WaitvForm), s.noSprig = .ok () → s.srcTag (baseTag (syncSpace f.shared)) f.a = .ok () →
      s.srcTag countTag f.v = .ok () → s.noTx 2 = .ok () →
      (s.wordAccesses (syncSpace f.shared) f.a .rd = .ok [] → exec (.waitv f) s = .next (s.closed s)) ∧
      ∀ k p rest, s.wordAccesses (syncSpace f.shared) f.a .rd = .ok ((k, p) :: rest) →
        let l := s.waitLoc f p
        let word := w64 (s.locNum s.cur.team l 8)
        s.over s.cur s.who .accesses = true → s.locsFree [(l, 8)] = .ok () → s.locPoison l 8 = false →
        (waitHolds f.cond word (s.image f.v) = true → exec (.waitv f) s = .next (s.closed (s.waitDone f.d l word f.scope))) ∧
        (waitHolds f.cond word (s.image f.v) = false → exec (.waitv f) s =
          .next (s.halted (.park (.waitv f.d f.cond (s.locKey l) (s.wordAddr f.a) (s.image f.v) f.scope) none)))) ∧
    ∀ (s : State) (w key : Nat) (addr : W64) (who : Who) (x : Wave) (d : BitVec 6) (c : WaitCond) (v : W64) (sc : Scope),
      s.wave? w = some x → (x.thread who).park = .waitv d c key addr v sc → x.hears who = true →
      let t := s.select w who
      (∀ l, t.locate (keyShared key) .rd addr 8 = .ok l → s.heldAny (locSectors [(l, 8)]) (.waitvRecheck w who) = none →
        let word := w64 (t.locNum t.cur.team l 8)
        (waitHolds c word v = true →
          exec (.waitvRecheck w who) s = .next ((t.wake (t.waitDone d l word sc)).counted)) ∧
        (waitHolds c word v = false → exec (.waitvRecheck w who) s = .next (t.sawLoc l 8).counted)) ∧
      ∀ e a, t.locate (keyShared key) .rd addr 8 = .error (e, a) → s.heldAway e (.waitvRecheck w who) = none →
        exec (.waitvRecheck w who) s = .next (t.wordTrap e a).counted)

/-- 18 R344: a phase without .cnt completes exactly once as many waves have arrived as the team has that have not retired, a
phase of .cnt n exactly once n waves have arrived, and no phase in which no wave has arrived does. The next phase begins with the arrivals
recorded for it; of the waves that retired after such an arrival every lane has arrived. -/
def Obligations.BarrierPhases : Prop :=
  ∀ (b : Bar) (waves live : List Nat),
    (b.mode = some none → (b.complete waves = true ↔ b.full ≠ [] ∧ waves.length ≤ b.full.length)) ∧
    (∀ n, b.mode = some (some n) → (b.complete waves = true ↔ b.full ≠ [] ∧ n ≤ b.full.length)) ∧
    (b.mode = none → b.complete waves = false) ∧
    (b.advance live).phase = b.phase + 1 ∧ (b.advance live).arrived = b.nextArrived ∧
    ∀ w, w ∈ (b.advance live).full ↔ w ∉ live ∧ ∃ m, (w, m) ∈ b.nextArrived

/-- 18 R348 to R352: QPUT and QTAKE move elements at once where the ring has room or holds one, at issue or when the ring
unit looks again at a thread that waits.

18 R353, R354, R356: AWAIT returns at once where its condition holds and else parks; a parked thread whose condition holds goes
on, or its swapped wave asks to come back; LOGJAM_SCAN notes the waits for rings and traps those that stood jammed at two scans. -/
def Obligations.RingsAndAwaitsComplete : Prop :=
  ((∀ (s : State) (f : QputForm), s.opOk f.v = true → s.noSprig = .ok () → s.srcTag countTag f.k = .ok () →
      s.noRunAhead = .ok () → s.noTx 2 = .ok () →
      let step := s.put f.d f.glob f.try_ (s.image f.k).toNat (s.putValues f)
      (s.putValues f = [] → exec (.qput f) s = .next (s.closed (s.deferS f.d .n64 0))) ∧
      (s.putValues f ≠ [] → s.over s.cur s.who .accesses = true →
        ∀ reads writes t, step = .ok (some ((reads, writes), t)) → s.locsFree reads = .ok () →
          s.claims (locSectors writes) = .ok () → exec (.qput f) s = .next (s.closed t))) ∧
    (∀ (s : State) (f : QtakeForm), s.destOk f.d = true → s.noSprig = .ok () → s.srcTag countTag f.k = .ok () →
      s.noRunAhead = .ok () → s.noTx 2 = .ok () →
      let step := s.take f.d f.glob f.try_ (s.image f.k).toNat s.active f.scope
      (s.active = 0 → exec (.qtake f) s = .next (s.closed s)) ∧
      (s.active ≠ 0 → s.over s.cur s.who .accesses = true →
        ∀ reads writes t, step = .ok (some ((reads, writes), t)) → s.locsFree reads = .ok () →
          s.claims (locSectors writes) = .ok () → exec (.qtake f) s = .next (s.closed t))) ∧
    ∀ (s : State) (w : Nat) (who : Who) (x : Wave) (reads writes : List (Loc × Nat)) (u : State), s.wave? w = some x →
      x.hears who = true →
      let t := s.select w who
      t.ringStep t.thread.park = some (.ok (some ((reads, writes), u))) →
      s.heldIO (locSectors reads) (locSectors writes) (.wave w) (.ringWake w who) = none →
      exec (.ringWake w who) s = .next (t.wake u).counted) ∧
  ((∀ (s : State) (f : AwaitForm) (c : AwaitCond), s.awaitNames f = true → s.noSprig = .ok () → s.awaitCond f = .ok c →
      (s.awaitHolds c = .ok true → exec (.await f) s = .next (s.closed s)) ∧
      (s.awaitHolds c = .ok false → s.heardNow c = true → exec (.await f) s = .next (s.closed s)) ∧
      (s.awaitHolds c = .ok false → s.heardNow c = false →
        exec (.await f) s = .next (s.halted (.park (.await c) none)))) ∧
    (∀ (s : State) (w : Nat) (who : Who) (x : Wave) (c : AwaitCond), s.wave? w = some x → (x.thread who).park = .await c →
      (s.select w who).awaitHolds c = .ok true →
      (x.stage = .swapped → exec (.awaitWake w who) s = .next (s.postOnce (.waveSwapIn w)).counted) ∧
      (x.stage ≠ .swapped → x.hears who = true →
        exec (.awaitWake w who) s = .next ((s.select w who).hear.wake (s.select w who)).counted)) ∧
    ∀ s : State, exec .logjamScan s = .next (((s.jammed (s.waitsFor.filter s.scan.contains)).foldl
      (fun (t : State) w => t.jam (s.waitsFor.filter s.scan.contains) w) { s with scan := s.waitsFor }).counted))

/-- 18 R349, R351, R352: what the ring unit does: a put without .try needs room for all its values, with .try it puts as many
as there is room for; a take needs an element unless it is a .try, which on an empty ring gives the empty value and changes
no count; a take moves HEAD past the elements that it gives; values and elements keep their order. -/
def Obligations.RingUnit : Prop :=
  (∀ (s : State) (d : BitVec 6) (glob try_ : Bool) (k : Nat) (vals : List W64) (r : Ring) (ls : List Loc),
    s.ring glob k .rmw = .ok r → vals.contains emptyValue = false → (try_ = true ∨ vals.length ≤ r.cap - r.held) →
    let vs := vals.take (r.cap - r.held)
    s.ringElems glob r .wr r.tail vs.length = .ok ls →
    let t := (ls.zip vs).foldl (fun t x => t.ringWrite x.1 x.2) (s.sawLoc r.hdr 16)
    s.put d glob try_ k vals = .ok (some (([(r.hdr, 16)], r.written vs.length ++ ls.map (·, 8)),
      ((t.ringCounts r vs.length r.head (r.tail + vs.length)).ringDone glob k true).deferS d .n64 (w64 vs.length)))) ∧
  (∀ (s : State) (d : BitVec 6) (glob : Bool) (k : Nat) (vals : List W64) (r : Ring), s.ring glob k .rmw = .ok r →
    vals.contains emptyValue = false → vals.length ≤ r.cap → r.cap - r.held < vals.length →
    s.put d glob false k vals = .ok none) ∧
  (∀ (s : State) (d : Dest) (glob : Bool) (k : Nat) (lanes : Mask) (sc : Scope) (r : Ring), s.ring glob k .rmw = .ok r →
    r.held = 0 → s.take d glob false k lanes sc = .ok none) ∧
  (∀ (s : State) (d : Dest) (glob try_ : Bool) (k : Nat) (lanes : Mask) (sc : Scope) (r : Ring), s.ring glob k .rmw = .ok r →
    let give (t : State) (vs : List W64) : State := match d with
      | .s x => t.deferS x .b64 (vs.headD emptyValue)
      | .v x => t.defer [(.v x.toNat, .b64, lanes, takenAt lanes vs)] 0 [] none
    let acquire (t : State) : State := if wideScope sc && glob then t.setSys (t.sys.acquire t.gt) else t
    (r.held = 0 → s.take d glob true k lanes sc =
      .ok (some (([(r.hdr, 16)], []), acquire (give ((s.sawLoc r.hdr 16).ringDone glob k false) [])))) ∧
    ∀ ls, r.held ≠ 0 → s.ringElems glob r .rd r.head (Nat.min (match d with
          | .s _ => 1
          | .v _ => lanes.count) r.held) = .ok ls →
      let vs := ls.map fun l => w64 (s.locNum s.cur.team l 8)
      let t := ls.foldl (fun t l => t.sawLoc l 8) (s.sawLoc r.hdr 16)
      s.take d glob try_ k lanes sc = .ok (some (((r.hdr, 16) :: ls.map (·, 8), r.written vs.length),
        acquire (give ((t.ringCounts r vs.length (r.head + vs.length) r.tail).ringDone glob k false) vs)))) ∧
  (∀ (lanes : Mask) (l : Nat), takenAt lanes [] l = emptyValue) ∧
  ∀ (lanes : Mask) (vs : List W64) (l : Nat), lanes.has l = true → l < 32 → lanes.count ≤ vs.length →
    takenAt lanes vs l = vs.getD ((List.range l).filter lanes.has).length 0

/-! Collectives (20). -/

/-- 20 R384 to R387, R390: COLL.join answers the handle, a collective is posted and answers its step, and STEPAGR waits for the
others or answers that its handle is not held; STEPAGR.read answers the step agreed.

20 R388, R390 to R392: a step that every member has posted runs, and with a rank vacant fails with 6; what has failed ends
first, one part after the other, and at a poisoned source the completion word is written before the context freezes: the
model's choice (log entry 95). An agreement that every member has proposed for is reached, later steps are cancelled and the
members go on with the least proposal. -/
def Obligations.CollectivesComplete : Prop :=
  ((∀ (s t : State) (sc : Scope) (d : BitVec 6) (a : Src) (ws : List W64), s.collRecord a 16 = .ok (ws, t) →
      groupOk ws = true →
      exec (.collJoin sc d a) s = .next (s.closed ((t.join ws).2.deferS d .n64 (t.join ws).1))) ∧
    (∀ (s t u : State) (fmt : Fmt) (fn : RedFn) (sc : Scope) (d : BitVec 6) (a : Src) (op : CollOp) (ws : List W64) (v : W64),
      s.collRecord a 8 = .ok (ws, t) → collFields op (fmt.width / 8) ws = true →
      t.postStep (wordsField ws 0 1) (s.stepOf op fn fmt sc ws) = .ok (v, u) →
      let r : State := s.closed (u.deferS d .n64 v)
      (op = .ared → exec (.collAred ⟨fmt, fn, sc, d, a⟩) s = .next r) ∧
      (op = .rsc → exec (.collRsc ⟨fmt, fn, sc, d, a⟩) s = .next r) ∧
      (op = .agat → fn = .add → exec (.collAgat fmt sc d a) s = .next r) ∧
      (op = .bcast → fn = .add → exec (.collBcast fmt sc d a) s = .next r) ∧
      (op = .bar → fn = .add → fmt = .b64 → exec (.collBar sc d a) s = .next r)) ∧
    ∀ (s : State) (d : BitVec 6) (h x : Src) (m : Option Member),
      let gives (v : Nat) : State := s.closed ((s.setSys (s.sys.acquire s.gt)).deferS d .n64 (w64 v))
      (s.stepagrHead h none = .ok m → exec (.stepagrRead d h) s = .next (gives (match m with
        | none => 2 ^ 63 + 2
        | some m => ((NMap.get? s.groups m.gid).map fun g => g.agreed.toNat).getD 0))) ∧
      (s.stepagrHead h (some x) = .ok m → exec (.stepagr d h x) s = .next (match m with
        | none => gives (2 ^ 63 + 2)
        | some _ => s.halted (.park (.stepagr d (s.image h).toNat ((s.image x).truncate 32)) none)))) ∧
  ((∀ (s : State) (gid k : Nat) (peers : List PeerPost) (gone : List Nat) (e : FabricEnd) (g : Group),
      let t := ((s.vacate gid gone).peersJoined gid (peers.map (·.rank))).dropStopped gid
      NMap.get? t.groups gid = some g →
      (g.failing = [] → g.step = some k → exec (.collStepRun gid peers gone e) s = .next (t.runStep gid k g peers e).counted) ∧
      ∀ x rest, g.failing = x :: rest → exec (.collStepRun gid peers gone e) s =
        .next (t.runFailing gid g x rest (.collStepRun gid peers [] e)).counted) ∧
    (∀ (s : State) (gid k : Nat) (g : Group) (peers : List PeerPost) (e : FabricEnd),
      let here (r : Nat) : Prop := (NMap.get? (g.posted k) r).isSome = true ∨ (peers.any fun p => p.rank == r) = true
      (∀ r x, (r, x) ∈ g.ranks → x.vacant = true ∨ here r) → (∀ x ∈ g.posted k, s.engineRuns x.2.2.ctx = true) →
      s.heldStep g.size (g.posted k) (.collStepRun gid peers [] e) = none →
      ((∃ r x, (r, x) ∈ g.ranks ∧ x.vacant = true) → s.runStep gid k g peers e = s.failAll gid k g 6 []) ∧
      let shapes := (g.posted k).map (fun x => x.2.2.shape) ++ peers.map peerShape
      let reads := (s.rangesSectors (stepRanges g.size (g.posted k))).filter fun x => !x.2.1
      let u := s.touchSectors (reads.map (·.2.2)) false
      ∀ srcs, (∀ r x, (r, x) ∈ g.ranks → x.vacant = false) → (∀ x ∈ shapes, shapes.head? = some x) → e = .done →
        (∀ x ∈ g.ranks, s.lostPeers.contains x.2.dev = false) → u.sources g (g.posted k) peers = .ok srcs →
        s.runStep gid k g peers e = u.deliverStep gid k g (g.posted k) srcs) ∧
    ∀ (s : State) (gid : Nat) (peers : List (Nat × W32)) (gone : List Nat) (g : Group) (a : W32),
      let t := (s.vacate gid gone).peersJoined gid (peers.map (·.1))
      let h := g.propose peers
      let u : State := { t with groups := NMap.set t.groups gid h }
      NMap.get? t.groups gid = some g → u.agreement gid h = some a →
      exec (.stepagrAgreed gid peers gone) s = .next (State.counted (State.postOnce
        ((h.ranks.filterMap fun x => x.2.wave.bind u.wave?).foldl (fun t w => t.agreeWave gid a w) (u.unwind gid h a))
        (.stepagrAgreed gid [] []))))

/-- 20 R393: the collective instructions and STEPAGR execute under an EXEC of zero, raise 0x09 in a sprig, wait for INK during
run-ahead, and abort an open transaction with status 2. -/
def Obligations.CollectivesInSpecialSituations : Prop :=
  (∀ (s r : State) (op : CollOp) (fn : RedFn) (fmt : Fmt) (sc : Scope) (d : BitVec 6) (a : Src) (i : Instr), s.rsys.exec = 0 →
    (op = .ared ∧ i = .collAred ⟨fmt, fn, sc, d, a⟩ ∨ op = .rsc ∧ i = .collRsc ⟨fmt, fn, sc, d, a⟩ ∨
      fn = .add ∧ (op = .agat ∧ i = .collAgat fmt sc d a ∨ op = .bcast ∧ i = .collBcast fmt sc d a ∨
        op = .bar ∧ fmt = .b64 ∧ i = .collBar sc d a)) →
    s.coll op fn fmt sc d a = .ok r → exec i s = .next (s.closed r)) ∧
  (∀ (s t : State) (sc : Scope) (d : BitVec 6) (a : Src) (ws : List W64), s.rsys.exec = 0 → s.collRecord a 16 = .ok (ws, t) →
    groupOk ws = true → exec (.collJoin sc d a) s = .next (s.closed ((t.join ws).2.deferS d .n64 (t.join ws).1))) ∧
  (∀ (s : State) (d : BitVec 6) (h x : Src) (m : Member), s.rsys.exec = 0 →
    (s.stepagrHead h none = .ok (some m) → exec (.stepagrRead d h) s = .next (s.closed (s.stepagrGives d
      (w64 (((NMap.get? s.groups m.gid).map fun g => g.agreed.toNat).getD 0))))) ∧
    (s.stepagrHead h (some x) = .ok (some m) → exec (.stepagr d h x) s =
      .next (s.halted (.park (.stepagr d (s.image h).toNat ((s.image x).truncate 32)) none)))) ∧
  ∀ (s : State) (i : Instr) (a : Src) (tag : Fmt → Bool),
    (tag = addrTag ∧ ((∃ sc d, i = .collJoin sc d a) ∨ (∃ f, f.a = a ∧ (i = .collAred f ∨ i = .collRsc f)) ∨
      (∃ f sc d, i = .collAgat f sc d a ∨ i = .collBcast f sc d a) ∨ ∃ sc d, i = .collBar sc d a)) ∨
    (tag = countTag ∧ ((∃ d x, i = .stepagr d a x) ∨ ∃ d, i = .stepagrRead d a)) →
    (s.inSprig = true → exec i s = .next (s.halted convergence)) ∧
    (s.inSprig = false → s.srcTag tag a = .ok () → (∀ d x, i = .stepagr d a x → s.srcTag countTag x = .ok ()) →
      (s.ahead = true → exec i s = .next (s.halted (.wait .runAhead))) ∧
      (s.ahead = false → s.cur.tx.isSome = true → exec i s = .next (s.halted (.abort 2 none))))

/-! Traps (19). -/

/-- 19 R363, R364, R366, R367: a split that takes a trap outside a transaction, with nothing outstanding and a handler that may
be entered: TRAPINFO and TRAPADDR describe the trap; the frame keeps the resume point, the depths, CWIN and s60 to s63; the
handler has the split's lanes at slot 0 of HANDLER, with CWIN 7; registers, FLAGS and memory keep their values, and the split
stands at its resume point. -/
def Obligations.TrapEntry : Prop :=
  ∀ (s : State) (n slot : Nat) (tr : Trap), s.who = .split n → s.cur.frame = none → s.cur.tx = none →
    s.cur.pending = [] → s.cur.due = none → tr.tx = false → tr.cause ≠ 4 → awaySector tr.cause = none →
    s.thread.park ≠ .rendezvous → s.const s.cur 7 52 ≠ 0 → s.counted.landing s.cur (s.const s.cur 7 52) = true →
    let t := s.halt slot (.trap tr)
    t.who = .handler ∧
    (∃ f : Frame, t.cur.frame = some f ∧ f.resume = tr.resume.getD s.thread.pc ∧ f.pdepth = s.thread.preds.length ∧
      f.rdepth = s.thread.stack.length ∧ f.cwin = s.cur.sys.cwin ∧ f.from_ = .split n ∧
      f.saved = [60, 61, 62, 63].map (fun r => s.cur.file.sregs.getD r ⟨.b64, 0⟩) ∧
      f.handler.pc = ⟨s.const s.cur 7 52, 0⟩ ∧ f.handler.mask = s.thread.mask ∧ f.handler.park = .run) ∧
    t.cur.sys = { s.cur.sys with cwin := 7 } ∧ t.cur.file = s.cur.file ∧
    (∀ k, k ≠ n → NMap.get? t.cur.splits k = NMap.get? s.cur.splits k) ∧
    (∃ u : Thread, NMap.get? t.cur.splits n = some u ∧ u.pc = tr.resume.getD s.thread.pc ∧ u.mask = s.thread.mask ∧
      u.preds = s.thread.preds ∧ u.stack = s.thread.stack) ∧
    t.cur.trapinfo = trapInfo tr (tr.lanes.getD s.thread.mask) slot n false false false ∧
    t.cur.trapaddr = tr.addr.getD s.packet ∧ t.cur.stage = s.cur.stage ∧
    t.mem = s.mem ∧ t.hostMem = s.hostMem ∧ t.peerMem = s.peerMem

/-- 19 R370, R371: a trap is fatal in handler mode, with HANDLER 0, and where HANDLER cannot be entered: the wave stops in place and
no handler starts. Where STOPREC asks for a record, the wave first waits for what it has issued, and the trap is taken by
TRAP_TAKE (log entry 85). -/
def Obligations.FatalTraps : Prop :=
  ∀ (s : State) (slot : Nat) (tr : Trap), s.cur.tx = none → s.cur.pending = [] → s.cur.due = none → awaySector tr.cause = none →
    s.thread.park ≠ .rendezvous → (s.cur.frame.isSome = true → s.who = .handler) →
    (s.cur.frame.isSome = true ∨ s.const s.cur 7 52 = 0 ∨
      (s.counted.fetchAway s.cur (s.const s.cur 7 52) = none ∧ s.counted.landing s.cur (s.const s.cur 7 52) = false)) →
    let t := s.halt slot (.trap tr)
    (s.stopBase = none → t.cur.stage = .stopped ∧ (t.cur.frame.isSome = true ↔ s.cur.frame.isSome = true) ∧ t.who = s.who ∧
      (t.cur.trapinfo &&& 0x400 = 0x400)) ∧
    (s.stopBase.isSome = true → t.cur.due = some (s.who, ⟨s.packet, slot⟩, tr) ∧ Instr.trapTake s.cur.id ∈ t.agenda ∧
      t.cur.stage = s.cur.stage ∧ t.cur.frame = s.cur.frame ∧ t.file = s.file ∧ t.mem = s.mem)

/-- 19 R366, R368: TRAP.ret right after a trap's entry gives s60 to s63 with their tags, CWIN and the other registers back, and
the split goes on at the resume point with its lanes. -/
def Obligations.TrapReturnRestores : Prop :=
  ∀ (s : State) (f : Frame) (n : Nat), s.cur.frame = some f → s.who = .handler → f.from_ = .split n →
    f.saved.length = 4 → 64 ≤ s.cur.file.sregs.length →
    let t := s.returnTo f f.resume true
    t.cur.frame = none ∧ t.who = .split n ∧ t.cur.sys = { s.cur.sys with cwin := f.cwin } ∧
    (∀ k < 4, t.cur.file.sregs[60 + k]? = f.saved[k]?) ∧
    (∀ r < 60, t.cur.file.sregs[r]? = s.cur.file.sregs[r]?) ∧ t.cur.file.vregs = s.cur.file.vregs ∧
    (∃ u : Thread, NMap.get? t.cur.splits n = some u ∧ u.pc = f.resume ∧ u.mask = s.thread.mask) ∧
    t.mem = s.mem

/-! Events of the front end, homes, waves and the device. -/

/-- 03 R56 to R61, R75, R76, 12 R235, R236: the events of context slots, each where what it needs holds.

03 R76: while a function is frozen by a violation, its requests have no effect and complete with Completer Abort; its
registers cannot be read. -/
def Obligations.SlotEventsComplete : Prop :=
  (∀ (s : State) (fn off : Nat) (v : W64), s.frozenFn fn = false →
    exec (.registerWrite fn off v) s = .next (s.writeRegister fn off v).counted) ∧
  (∀ (s : State) (fn off : Nat) (v : W64), s.frozenFn fn = true →
    exec (.registerWrite fn off v) s = .next (s.send (.completerAbort fn)).counted ∧ s.readRegister fn off = none) ∧
  (∀ (s : State) (n p : Nat) (v : W64) (on : Bool), s.frozenFn (s.ownerOf n) = true →
    let r := Host.Outcome.next (s.send (.completerAbort (s.ownerOf n))).counted
    exec (.kick n v) s = r ∧ exec (.enable n on) s = r ∧ exec (.teardown n) s = r ∧ exec (.bump n) s = r ∧
      exec (.plateRegister n p v) s = r ∧ exec (.plateUnregister n p v) s = r) ∧
  (∀ (s : State) (n : Nat) (v : Byte), s.frozenFn 0 = false → n < 512 → (v.extractLsb' 0 5).toNat ≤ 16 →
    (s.ctx n).state = .off →
    (v.extractLsb' 0 5 = 0 ∨
      ((List.range 512).filter fun k => (s.ctx k).owner == v.extractLsb' 0 5 && k != n).length < 64) →
    exec (.slotOwnerWrite n v) s = .next (s.setCtx n { s.ctx n with owner := v.extractLsb' 0 5 }).counted) ∧
  (∀ (s : State) (n : Nat) (on : Bool), s.frozenFn (s.ownerOf n) = false →
    exec (.enable n on) s = .next (s.setEnable n on).counted) ∧
  (∀ (s : State) (n : Nat), s.frozenFn (s.ownerOf n) = false →
    ((s.ctx n).state = .run ∨ (s.ctx n).state = .frozen → exec (.teardown n) s = .next (s.tearDown n).counted) ∧
    ((s.ctx n).state = .off ∨ (s.ctx n).state = .tearing → exec (.teardown n) s = .next s.counted) ∧
    ((s.ctx n).state ≠ .tearing → (s.ctx n).bump = false →
      exec (.bump n) s = .next ((s.setCtx n { s.ctx n with bump := true, bumpres := 0 }).postOnce (.bumpComplete n)).counted) ∧
    ((s.ctx n).state = .tearing ∨ (s.ctx n).bump = true → exec (.bump n) s = .next s.counted)) ∧
  (∀ (s t : State) (n : Nat), s.asidBusy (s.ctx n).asid = false → s.tryBump (s.ctx n).asid = some t →
    ((s.ctx n).state = .tearing → exec (.teardownComplete n) s = .next (State.counted (State.followGen
      (t.setCtx n { s.ctx n with state := .off, enable := false, tearing := false, held := false }) (s.ctx n).asid))) ∧
    ((s.ctx n).bump = true → exec (.bumpComplete n) s = .next (State.counted (State.followGen
      (t.setCtx n { s.ctx n with bump := false, bumpres := 1 }) (s.ctx n).asid)))) ∧
  (∀ (s : State) (n : Nat), s.asidBusy (s.ctx n).asid = false → s.tryBump (s.ctx n).asid = none → (s.ctx n).bump = true →
    exec (.bumpComplete n) s = .next (s.setCtx n { s.ctx n with bump := false, bumpres := 2 }).counted) ∧
  (∀ s : State, ∃ t : State, exec .scrubPassEnd s = .next t ∧ t.scrubs = s.scrubs + 1 ∧ t.mem = s.mem ∧
    (∀ e ∈ t.clusters, ∀ x ∈ e.2.tlb, x.gen = t.gen x.asid) ∧ ∀ e ∈ t.tlbs, ∀ x ∈ e.2, x.gen = t.gen x.asid) ∧
  (∀ (s : State) (p : BitVec 20), exec (.atsInvalidate p) s =
    .next ({ s with atsPending := s.atsPending ++ [(p, s.asidsOf p)] }.retryAts).counted) ∧
  (∀ (s : State) (fn : Nat), exec (.hostFunctionViolation fn) s =
      .next ({ s with aborting := insertRising (outsideKey (.host fn)) s.aborting }.send (.completerAbort fn)).counted ∧
    exec (.functionLevelReset fn) s = .next ((((List.range 512).filter fun n => (s.ctx n).owner.toNat == fn).foldl
      (fun (t : State) n => t.tearDown n) { s with aborting := s.aborting.filter (· != outsideKey (.host fn)) })).counted) ∧
  ∀ (s : State) (p : Nat), exec (.peerViolation p) s =
    .next ({ s with aborting := insertRising (outsideKey (.peer p)) s.aborting }.send (.protectionError p)).counted

/-- 03 R58: ENABLE moves a context from OFF to RUN; in RUN and FROZEN it is stored and changes no state; in TEARING a write is
ignored. -/
def Obligations.EnableMovesContexts : Prop :=
  ∀ (s : State) (n : Nat),
    ((s.ctx n).state = .off →
      (((s.setEnable n true).ctx n).state = .run ∧ ((s.setEnable n true).ctx n).enable = true) ∧
      ((s.setEnable n false).ctx n).state = .off ∧ ((s.setEnable n false).ctx n).enable = false) ∧
    ((s.ctx n).state = .run ∨ (s.ctx n).state = .frozen → ∀ on,
      ((s.setEnable n on).ctx n).state = (s.ctx n).state ∧ ((s.setEnable n on).ctx n).enable = on) ∧
    ((s.ctx n).state = .tearing → ∀ on, s.setEnable n on = s)

/-- 02 R44 to R51, 03 R62 to R66, 20 R396: plates, kicks and impressions, each event where what it needs holds. -/
def Obligations.PlateAndKickEventsComplete : Prop :=
  (∀ (s : State) (n p : Nat) (v : W64), s.frozenFn (s.ownerOf n) = false → (s.plate n p).valid = false →
    ((s.plate n p).releasing = false ∨ s.slotBusy n p = false) → p < 16 → p < (s.ctx n).plates.length →
    let t := s.openPlate n p (plateAddr v)
    let ks := t.plateSectors n (plateAddr v).toNat
    t.heldAny ks (.plateRegister n p v) = none →
    exec (.plateRegister n p v) s = .next ((t.touchSectors ks false).registerPlate n p (plateAddr v)).counted) ∧
  (∀ (s : State) (n p : Nat) (v : W64), s.frozenFn (s.ownerOf n) = false →
    exec (.plateUnregister n p v) s = .next (s.writeValid0 n p v).counted) ∧
  (∀ (s : State) (n p e : Nat), (s.plate n p).releasing = true → s.slotBusy n p = false → (s.plate n p).entry = some e →
    ∃ t : State, exec (.plateSealRelease n p) s = .next t ∧ t.mem = s.mem ∧
      (∀ y, NMap.get? t.sealTable e = some y → y.opening = true) ∧
      ∀ c ∈ t.clusters, ∀ b ∈ c.2.blocks, b.sealTag ≠ some e) ∧
  (∀ (s : State) (n : Nat) (v : W64), s.frozenFn (s.ownerOf n) = false → (s.ctx n).enable = true → (s.ctx n).state = .run →
    (s.plate n (kickSlot v)).valid = true → (s.ctx n).kicks.length < 64 → ∃ t : State, exec (.kick n v) s = .next t ∧
      (t.ctx n).kicks = (s.ctx n).kicks ++ [⟨v, 0, 0, false⟩] ∧ (t.ctx n).kickReg = v ∧
      (t.ctx n).kickNew = (s.ctx n).kickNew ∧ (t.ctx n).kickCode = (s.ctx n).kickCode) ∧
  (∀ (s : State) (n p : Nat) (k : Kick), s.headKick n p = some k → s.serves n = true → k.dead = false →
    (s.plate n p).valid = true → (s.plate n p).entry.isSome = true →
    let t := (s.touchSectors (s.kickSectors n k) false).tryKick n p k
    (k.reads = 0 → s.heldAny (s.kickSectors n k) (.kickValidate n p) = none →
      exec (.kickValidate n p) s = .next t.counted) ∧
    (k.reads ≠ 0 → s.heldAny (s.kickSectors n k) (.kickRetry n p) = none →
      exec (.kickRetry n p) s = .next t.counted)) ∧
  (∀ (s : State) (n p imp : Nat) (x : Impression), s.impressions.find? (fun e => e.2.ctx = n ∧ e.2.slot = p) = some (imp, x) →
    x.running = false → s.serves n = true → ∃ t : State, exec (.impressionStart n p) s = .next t ∧
      NMap.get? t.impressions imp = some { x with running := true } ∧ t.mem = s.mem) ∧
  (∀ (s : State) (imp k : Nat) (x : Impression) (nd : PlateNode), NMap.get? s.impressions imp = some x →
    (s.plate x.ctx x.slot).nodes[k]? = some nd → x.running = true → s.serves x.ctx = true → x.started.contains k = false →
    (predsIn (s.plate x.ctx x.slot).nodes k).all (fun i => x.done.contains i) = true →
    exec (.nodeStart imp k) s = .next (s.startNode imp k x nd).counted) ∧
  (∀ (s : State) (imp k : Nat) (x : Impression) (nd : PlateNode), NMap.get? s.impressions imp = some x →
    (s.plate x.ctx x.slot).nodes[k]? = some nd → nd.kind = 3 → x.started.contains k = true → x.done.contains k = false →
    (s.ctx x.ctx).state = .run → exec (.writeNodeDone imp k) s = .next (s.nodeDone imp k).counted) ∧
  ∀ (s : State) (imp : Nat) (x : Impression), NMap.get? s.impressions imp = some x →
    x.done.length = (s.plate x.ctx x.slot).nodes.length → (s.ctx x.ctx).state = .run →
    ∃ t : State, exec (.impressionComplete imp) s = .next t ∧ NMap.get? t.impressions imp = none ∧
      t.mem = s.mem ∧ t.msixMasked = s.msixMasked ∧
      let v := ((s.ctx x.ctx).owner.toNat, s.vector x.ctx x.slot)
      (s.msixMasked.contains v = false → t.outbox = s.outbox ++ [.msix v.1 v.2] ∧ t.msixPending = s.msixPending) ∧
      (s.msixMasked.contains v = true → t.outbox = s.outbox ∧ v ∈ t.msixPending)

/-- 03 R64, R66: a kick that is not queued is dropped with code 6 where the context does not run, 3 where its plate is not
valid, and 5 where 64 wait; KICKSTAT records its TAG, SLOT and code, and the queue is as before. -/
def Obligations.DroppedKicksAreRecorded : Prop :=
  ∀ (s : State) (n : Nat) (v : W64) (code : Nat), s.frozenFn (s.ownerOf n) = false →
    (code = 6 ∧ ((s.ctx n).enable = false ∨ (s.ctx n).state ≠ .run)) ∨
    (code = 3 ∧ (s.ctx n).enable = true ∧ (s.ctx n).state = .run ∧ (s.plate n (kickSlot v)).valid = false) ∨
    (code = 5 ∧ (s.ctx n).enable = true ∧ (s.ctx n).state = .run ∧ (s.plate n (kickSlot v)).valid = true ∧
      64 ≤ (s.ctx n).kicks.length) →
    ∃ t : State, exec (.kick n v) s = .next t ∧ (t.ctx n).kicks = (s.ctx n).kicks ∧ (t.ctx n).kickNew = true ∧
      (t.ctx n).kickCode = BitVec.ofNat 4 code ∧ (t.ctx n).kickTag = v.extractLsb' 48 16 ∧
      (t.ctx n).kickSlot = v.extractLsb' 0 4 ∧ t.mem = s.mem

/-- 03 R67 to R70, 02 R38, R420, 18 R354, 20 R394, R395, 07 R148: accepting, placing, starting, retiring and completing
work, swapping waves, and the refill of INKWELL. That a task keeps the PTS of its SPAWN (log entry 76), and that a wave
swapped in is placed anew and counts as young (log entry 73), is how the model settles what the rules leave open. -/
def Obligations.LaunchEventsComplete : Prop :=
  (∀ (s : State) (k : Nat) (t : Ticket), NMap.get? s.tickets k = some t → s.serves t.ctx = true →
    s.heldIO (s.ticketSectors t).1 (s.ticketSectors t).2 .outside (.launchAccept k) = none →
    exec (.launchAccept k) s =
      .next ({ s.touchSectors (s.ticketSectors t).1 false with tickets := NMap.erase s.tickets k }.accept t).counted) ∧
  (∀ (s t : State) (die : Nat) (i : Item), s.headItem die = some i → s.placeItem i = some t →
    exec (.placeWork die) s = .next (t.postOnce (.placeWork die)).counted) ∧
  (∀ (s : State) (w : Nat) (x : Wave), s.wave? w = some x → x.stage = .placed →
    let pts := if x.team.isSome then s.gt else x.sys.pts
    let t := (s.setWave { x with stage := .running, sys := { x.sys with pts := pts } }).select w (.split 0)
    (t.startFault t.cur = none → exec (.waveStart w) s = .next t.counted) ∧
    ∀ tr, t.startFault t.cur = some tr → s.heldAway tr.cause (.waveStart w) = none →
      exec (.waveStart w) s = .next (t.raise t.thread.pc tr).counted) ∧
  (∀ (s : State) (w : Nat) (x : Wave), s.wave? w = some x → x.stage = .retiring → s.retirable x = true →
    exec (.waveRetire w) s = .next (s.retire x).counted) ∧
  (∀ (s : State) (l : Nat) (x : Launch), NMap.get? s.launches l = some x → x.outstanding = 0 → x.unplaced = 0 →
    (s.ctx x.ctx).state = .run →
    let done := w64 (x.field 0x20 8)
    s.heldWrite (s.frontSectors x.ctx done.toNat (if done = 0 then 0 else 8) .wr) .outside (.launchComplete l) = none →
    exec (.launchComplete l) s = .next ((({ s with launches := NMap.erase s.launches l }).writeDone x.ctx done 0
      (x.field 4 4)).launchOver x.ctx x.node).counted) ∧
  (∀ (s : State) (w : Nat) (x y : Wave), s.wave? w = some x → s.maySwap x = true →
    s.heldWrite x.privSectors (.wave w) (.waveSwapOut w) = none → (s.settleMemory x).wave? w = some y →
    exec (.waveSwapOut w) s = .next (((s.settleMemory x).setWave { y with stage := .swapped, lent := false }).postOnce
      (.placeWork (clusterDie y.cluster))).counted) ∧
  (∀ (s : State) (w : Nat) (x : Wave), s.wave? w = some x → x.stage = .swapped → (x.due.isSome = true ∨ s.someHolds x = true) →
    s.swapFits x = true →
    let y := { x with stage := .running, age := s.nextId, placedAt := s.cycle.toNat }
    let t := ((State.setWave { s with nextId := s.nextId + 1 } y).rewake y).select w (.split 0)
    exec (.waveSwapIn w) s = .next (if x.due.isSome then t.postOnce (.trapTake w)
      else if x.frame.isNone then t.takeHeld else t).counted) ∧
  ∀ s : State, ∃ t : State, exec .inkwellRefill s = .next t ∧ t.mem = s.mem ∧
    (∀ n, (t.ctx n).inkrateInForce = (s.ctx n).inkrate) ∧
    (s.cur.stage ≠ .none → t.cur.inkwell =
      refillInk (s.ctx s.cur.ctx).inkrateInForce.toNat (s.ctx s.cur.ctx).inkrate.toNat s.cur.inkwell)

/-- 12 R240, R242, R246, 13 R260, 17 R326, R327, R329, R332, R335, R337, R339: the events of caches, homes and mills, each where
no sector that it names is busy or owned outside. -/
def Obligations.CacheEventsComplete : Prop :=
  (∀ (s : State) (r : LeaseReq), (r.want = 0 → exec (.leaseRequest r) s = .next (s.freeRange r).counted) ∧
    (r.want ≠ 0 → atomQueued ((s.cluster r.cluster).queue.filter fun q => !q.sent) .device
        (r.frame * 256 + 8 * r.first) (8 * (r.last + 1 - r.first)) = false →
      let got := s.wanted r
      s.heldAny (wordSectors r.frame got) (.leaseRequest r) = none →
      let t := (wordSectors r.frame got).foldl (fun (t : State) k => t.grant r got k) s
      exec (.leaseRequest r) s = .next (if r.l2only then t else t.post (.leaseReply (t.leaseReplyOf r got))).counted)) ∧
  (∀ (s : State) (r : LeaseRep), ∃ t : State, exec (.leaseReply r) s = .next t ∧ t.mem = s.mem ∧ t.sectors = s.sectors) ∧
  (∀ (s : State) (c id : Nat) (q : QEntry), s.unsent c id = some q →
    (s.sealRefuses q.wave q.va q.target q.pa q.bytes = true → exec (.homeStore c id) s = .next (s.refuseEntry c q).counted) ∧
    (s.sealRefuses q.wave q.va q.target q.pa q.bytes = false →
      (q.target ≠ .device ∨ s.heldWrite [q.pa / 32] (.wave q.wave) (.homeStore c id) = none) →
      exec (.homeStore c id) s = .next (s.performEntry c q).wakeFences.counted)) ∧
  (∀ (s : State) (c id : Nat) (wts : BitVec 16) (q : QEntry), (s.cluster c).queue.find? (fun q => q.id == id) = some q →
    ∃ t : State, exec (.storeAck c id wts) s = .next t ∧ t.mem = s.mem ∧
      (∀ e ∈ (t.cluster c).queue, e.id ≠ id)) ∧
  (∀ (s : State) (sec b : Nat), exec (.invalidationAnswer sec b) s = .next (s.answered sec b).counted) ∧
  (∀ (s : State) (sec : Nat) (b : Busy), (s.sector sec).busy = some b → b.since + micros 2000 ≤ s.time →
    exec (.fanoutTimeout sec) s = .next (s.timedOut sec b).counted) ∧
  (∀ (s : State) (sec : Nat) (ws : List (Nat × W64)), 0x80 ≤ (s.sector sec).owner.toNat →
    exec (.recallReturn sec ws) s = .next (s.returned sec ws).counted) ∧
  (∀ (s : State) (c team : Nat) (f : FrameName) (wr : Bool) (x : Team), NMap.get? s.teams team = some x →
    let here := (s.cluster c).stash.any fun k => k.team == team && k.va == f.va && k.frame == f.pa
    (here = true → exec (.stashFill c team f wr) s = .next (s.refillStash c f.pa).counted) ∧
    (here = false → s.heldTell (sectorsOf (f.pa * 256) 256) (fun k => (s.sector k).sharers) (.stashFill c team f wr) = none →
      exec (.stashFill c team f wr) s = .next (s.fillStash c team f.va f.pa).counted)) ∧
  (∀ (s : State) (frame : Nat),
    s.heldTell (sectorsOf (frame * 256) 256) (fun k => (s.sector k).sharers) (.l2Evict frame) = none →
    ∃ t : State, exec (.l2Evict frame) s = .next t ∧ ∀ e ∈ t.sectors, e.1 / 8 ≠ frame) ∧
  (∀ (s : State) (id : Nat) (u : MillUpdate), s.mills.find? (fun u => u.id == id) = some u → s.millFirst u = u →
    s.sealRefuses u.wave (some u.va) .device u.pa 1 = false → s.heldWrite [u.pa / 32] .outside (.millUpdate u.id) = none →
    exec (.millUpdate id) s = .next (s.performMill u).wakeFences.counted) ∧
  ∀ (s : State) (e c : Nat) (x : SealEntry), NMap.get? s.sealTable e = some x → x.opening = true →
    exec (.sealOpeningDrop e c) s = .next ((s.setCluster c { s.cluster c with
      blocks := (s.cluster c).blocks.filter fun b => b.sealTag != some e }).freeSeal e).counted

/-- 12 R234, R239, 17 R331, R333, R334, R338, R340, 03 R76: accesses of the host and the peers inside device memory, by an
agent that is not frozen, to bytes that no seal holds and sectors that are not held; a frozen agent is refused, one that
writes a sealed byte freezes, and poison is answered as poison. That an agent which names an address beyond 576 GiB freezes,
and that no memory error comes from there, is the model's choice (log entry 67). -/
def Obligations.OutsideEventsComplete : Prop :=
  (∀ (s : State) (w : Outside) (pa : Nat) (bs : List Byte), inDevice pa bs.length = true →
    (s.aborting.contains (outsideKey w) = true → exec (.hostPeerWrite w pa bs) s = .next (s.refuseOutside w).counted) ∧
    (s.aborting.contains (outsideKey w) = false → s.sealedPa pa bs.length = true →
      exec (.hostPeerWrite w pa bs) s = .next (s.freezeOutside w).counted) ∧
    (s.aborting.contains (outsideKey w) = false → s.sealedPa pa bs.length = false →
      s.heldWrite (sectorsOf pa bs.length) .outside (.hostPeerWrite w pa bs) = none →
      exec (.hostPeerWrite w pa bs) s = .next ((s.homeWrites pa bs 0 .outside).send (.writeDone w pa)).counted)) ∧
  (∀ (s : State) (w : Outside) (pa n : Nat), inDevice pa n = true → s.aborting.contains (outsideKey w) = false →
    s.heldAny (sectorsOf pa n) (.hostPeerRead w pa n) = none →
    (s.poisonedIn pa n = true →
      exec (.hostPeerRead w pa n) s = .next ((s.count 6 1).send (.readPoison w pa)).counted) ∧
    (s.poisonedIn pa n = false →
      exec (.hostPeerRead w pa n) s =
        .next (((s.share w pa n).send (.readData w pa ((s.share w pa n).seenBytes pa n)))).counted)) ∧
  (∀ (s : State) (w : Outside) (sec : Nat), inDevice (32 * sec) 32 = true → s.aborting.contains (outsideKey w) = false →
    s.sealedPa (32 * sec) 32 = false →
    s.heldTell [sec] (fun k => (s.sector k).sharers &&& ~~~outsideBit w) (.hostPeerOwnRequest w sec) = none →
    exec (.hostPeerOwnRequest w sec) s = .next (s.performOwn w sec).counted) ∧
  (∀ (s : State) (sec : Nat), inDevice (32 * sec) 32 = true →
    exec (.eccError sec false) s = .next (s.count 2 (homeStack (32 * sec))).counted ∧
    (s.poison.contains sec = false → exec (.eccError sec true) s =
      .next ({ s with poison := insertRising sec s.poison }.count 6 0).counted)) ∧
  (∀ (s : State) (line : Nat), exec (.hostSnoop line) s =
    .next ({ s with lines := NMap.erase s.lines (lineKey (.host true) (64 * line)) }).counted) ∧
  (∀ (s : State) (w : Outside) (pa n sec : Nat) (bs : List Byte), s.aborting.contains (outsideKey w) = false →
    (inDevice pa bs.length = false → exec (.hostPeerWrite w pa bs) s = .next (s.freezeOutside w).counted) ∧
    (inDevice pa n = false → exec (.hostPeerRead w pa n) s = .next (s.freezeOutside w).counted) ∧
    (inDevice (32 * sec) 32 = false → exec (.hostPeerOwnRequest w sec) s = .next (s.freezeOutside w).counted)) ∧
  ∀ (s : State) (sec : Nat) (u : Bool), inDevice (32 * sec) 32 = false → exec (.eccError sec u) s = .next s.counted

/-- 17 R327, R332, R340: a write to a sector that is not poisoned, held by no stash: its bytes read back at home and every
other byte is as before; WTS is the later of the writer's time and RTS + 1, RTS is WTS, GT is at least WTS, OWNER is 0, and
only the writer's die stays a sharer. A write to a poisoned sector, unless a repair, changes no byte. -/
def Obligations.HomeWritesAreVisible : Prop :=
  ∀ (s : State) (pa : Nat) (bs : List Byte) (time : BitVec 16) (rep : Bool) (by_ : Writer), s.memoriesOk →
    s.stashOf (pa / 256) = none → pa % 32 + bs.length ≤ 32 → bs ≠ [] →
    let t := s.homeWrite pa bs time rep by_
    t.memoriesOk ∧
    (s.poison.contains (pa / 32) = false ∨ rep = true →
      (∀ k < bs.length, some (t.mem.get (pa + k)) = bs[k]?) ∧
      (∀ a, a < pa ∨ pa + bs.length ≤ a → t.mem.get a = s.mem.get a) ∧
      (∃ x : Sector, NMap.get? t.sectors (pa / 32) = some x ∧ x.wts = timeMax time ((s.sector (pa / 32)).rts + 1) ∧
        x.rts = x.wts ∧ x.owner = 0 ∧ x.sharers = (s.sector (pa / 32)).sharers &&& s.ownDie by_) ∧
      t.gt = timeMax s.gt (timeMax time ((s.sector (pa / 32)).rts + 1)) ∧
      (rep = true → t.poison.contains (pa / 32) = false)) ∧
    (s.poison.contains (pa / 32) = true → rep = false → t.mem = s.mem ∧ t.poison = s.poison)

/-- 07 R145, R159, 08 R173, R174, R179, R183, 19 R366, 20 R391: the events of one wave, each where what it needs holds. -/
def Obligations.WaveEventsComplete : Prop :=
  (∀ (s : State) (w id : Nat) (x : Wave) (p : Pending), s.wave? w = some x → x.readyResult id = some p →
    exec (.variableLatencyResult w id) s = .next ((s.setWave (x.writeResult p)).resultsChanged w).counted) ∧
  (∀ (s : State) (w j : Nat) (r : RegName) (x : Wave) (p : Sprig), s.wave? w = some x → NMap.get? x.sprigs j = some p →
    p.recalled = false → p.held.contains r = false →
    let t := s.setWave { x with sprigs := NMap.set x.sprigs j { p with held := r :: p.held } }
    exec (.flumePull w j r) s = .next t.counted ∧ exec (.flumePush w j r) s = .next t.counted) ∧
  (∀ (s : State) (w j n : Nat) (x : Wave) (p : Sprig), s.wave? w = some x → NMap.get? x.sprigs j = some p →
    p.recalled = true → s.mayReexport x j = true → p.th.park ≠ .join 0 →
    s.nibFor x.cluster p.lines = some n →
    exec (.sprigReexport w j) s = .next ((s.select w (.split p.exporter)).reexport j n p).counted) ∧
  (∀ (s : State) (w j : Nat) (x : Wave) (p : Sprig), s.wave? w = some x → NMap.get? x.sprigs j = some p →
    p.th.park = .join 0 → x.stage = .running → x.pending.any (fun q => q.who == .sprig j) = false →
    exec (.sprigRejoin w j) s = .next ((s.select w (.split p.exporter)).rejoin j p).counted) ∧
  (∀ (s : State) (w e n : Nat) (x y : Wave) (r : Rec), s.wave? w = some x → NMap.get? x.recs e = some r →
    x.mergeReady e r = true → x.frame = none → x.due = none → x.stage = .running →
    x.merge e r s.cycle.toNat = some (n, y) → r.uneven = false →
    exec (.joinMerge w e) s = .next ((s.setWave y).select w (.split n)).orderMerge.recheck.counted) ∧
  (∀ (s : State) (w : Nat) (x : Wave) (who : Who) (at_ : PC) (tr : Trap), s.wave? w = some x → x.due = some (who, at_, tr) →
    x.stage = .running → s.trapReady x = true → (s.select w who).trapHeld = none →
    exec (.trapTake w) s = .next ((s.select w who).takeTrap who at_ tr).counted) ∧
  ∀ (s : State) (w : Nat) (h : BitVec 4) (reason : Byte) (sender : Option Nat) (x : Wave), s.wave? w = some x →
    (x.stage = .running ∨ x.stage = .swapped ∨ x.stage = .retiring) →
    let t := s.vacate (x.gidOf h.toNat) sender.toList
    (x.frame.isSome = true ∨ x.due.isSome = true → exec (.abortToken w h reason sender) s =
      .next (t.setWave { x with tokens := x.tokens ++ [(h, reason)] }).counted) ∧
    (x.frame = none → x.due = none → (∀ y, (t.takeToken x h reason).wave? w = some y → y.tokens = []) →
      exec (.abortToken w h reason sender) s = .next (t.takeToken x h reason).counted)

/-- 07 R159: a merge takes place once EXPECT has arrived, no PEND is left and no sprig of its lanes is out, and not before; the
merged split has the lanes that arrived, at the address of the entry, which is gone, and the other splits are as before.

07 R145, R147, 08 R174, 14 R293: a result that arrives writes its lanes of its registers, keeps the other lanes and
registers, and adds its flags, under run-ahead to those held apart; that of a sprig is written in the sprig's file, and a
sprig that left while a result of the wave was pending takes what it then still lacks; the entry is gone. -/
def Obligations.MergesAndResults : Prop :=
  (∀ (s : State) (w e m : Nat) (x : Wave) (r : Rec) (t : Thread) (rest : List (Nat × Thread)), s.wave? w = some x →
    NMap.get? x.recs e = some r →
    (x.waitingAt e = (m, t) :: rest → x.frame = none → x.due = none → x.stage = .running → r.uneven = false → r.pend = none →
      r.arrived ≠ 0 → r.expect &&& ~~~r.arrived = 0 → (∀ p ∈ x.sprigs, p.2.home ≠ e ∧ p.2.lanes &&& r.expect = 0) →
      ∃ y, x.merge e r s.cycle.toNat = some (m, y) ∧
        exec (.joinMerge w e) s = .next ((s.setWave y).select w (.split m)).orderMerge.recheck.counted) ∧
    (r.pend.isSome = true ∨ r.expect &&& ~~~r.arrived ≠ 0 ∨ (∃ p ∈ x.sprigs, p.2.home = e ∨ p.2.lanes &&& r.expect ≠ 0) →
      exec (.joinMerge w e) s = .next s.counted)) ∧
  (∀ (w v : Wave) (e n m now : Nat) (r : Rec) (t : Thread), (w.waitingAt e).head? = some (m, t) →
      w.merge e r now = some (n, v) → n = m ∧ NMap.get? v.recs e = none ∧
      (∃ u : Thread, NMap.get? v.splits n = some u ∧ u.mask = r.arrived ∧ u.pc = ⟨r.addr, 0⟩ ∧ u.stack = t.stack.tail) ∧
      ∀ k, k ≠ n → ((w.waitingAt e).any fun x => x.1 == k) = false → NMap.get? v.splits k = NMap.get? w.splits k) ∧
  (∀ (f : RegFile) (q : PendReg) (v : Nat) (scalar : Bool), q.reg = .v v → v < f.vregs.length →
      let g := q.write scalar f
      let lane (f : RegFile) (l : Nat) : W64 := (f.vregs.getD v ⟨.b64, []⟩).lanes.getD l 0
      (∀ l < 32, lane g l = if q.lanes.has l then q.image (lane f l) l else lane f l) ∧
      (g.vregs.getD v ⟨.b64, []⟩).tag = (f.vregs.getD v ⟨.b64, []⟩).tag ∧
      (∀ k, k ≠ v → g.vregs[k]? = f.vregs[k]?) ∧ g.sregs = f.sregs) ∧
  (∀ (f : RegFile) (q : PendReg) (n : Nat), q.reg = .s n → n < f.sregs.length →
      let old := f.sregs.getD n ⟨.b64, 0⟩
      (q.write true f).sregs = f.sregs.set n { old with val := q.image old.val 0 } ∧ (q.write true f).vregs = f.vregs ∧
      q.write false f = f) ∧
  ∀ (w : Wave) (p : Pending),
      let x := w.writeResult p
      x.pending = w.pending.filter (·.id != p.id) ∧
      ((∀ j, p.who ≠ .sprig j) → x.file = p.regs.foldl (fun f q => q.write (q.lanes != 0) f) w.file ∧
        x.sprigs = w.sprigs.map (fun y => (y.1, if p.id < y.2.age then { y.2 with file := p.writeOut y.2.age y.2.file } else y.2)) ∧
        (p.ahead = false ∨ w.runAhead = none → x.sys = { w.sys with flags := w.sys.flags ||| p.flags } ∧ x.runAhead = w.runAhead) ∧
        ∀ r, p.ahead = true → w.runAhead = some r → x.sys = w.sys ∧ x.runAhead = some { r with flags := r.flags ||| p.flags }) ∧
      ∀ j y, p.who = .sprig j → NMap.get? w.sprigs j = some y → x.file = w.file ∧ x.sys = w.sys ∧
        NMap.get? x.sprigs j = some { y with file := p.regs.foldl (fun f q => q.write (q.lanes != 0) f) y.file,
                                             sys := { y.sys with flags := y.sys.flags ||| p.flags } } ∧
        ∀ k, k ≠ j → NMap.get? x.sprigs k = NMap.get? w.sprigs k

/-- 17 R323, R324, R339, 20 R383, R388, R391, R397 to R400, 12 R236, 01 R17: time, links, the resets of the device, the lifetime
record, attestation, firmware and power. The order of the bins, the answers to MCTP and SPDM requests, and what makes an image
verify are the model's choice (log entry 14), and so are what memory and the lifetime record hold after a reset or a loss of
power (log entry 25), that a link's retraining is counted when it fails, and the number of steps of the clock (log entry 59). -/
def Obligations.DeviceEventsComplete : Prop :=
  (∀ s : State, ∃ t : State, exec .tick s = .next t ∧ t.gt = s.gt + 1 ∧ t.cycle = s.cycle ∧ t.mem = s.mem ∧
    (s.cur.stage ≠ .none → t.cur.sys = { s.cur.sys with pts := tickPts (s.gt + 1) s.cur.sys.pts }) ∧
    ∀ e ∈ t.clusters, ∀ b ∈ e.2.blocks, b.sealTag.isSome = true ∨ t.tick - b.stamp ≤ 16384) ∧
  (∀ (s : State) (l : Nat), NMap.get? s.linksDown l = none →
    exec (.linkFail l) s = .next ({ s with linksDown := NMap.set s.linksDown l s.time }.count 3 l).counted) ∧
  (∀ (s : State) (l : Nat), exec (.linkRetrained l) s = .next ({ s with linksDown := NMap.erase s.linksDown l }).counted) ∧
  (∀ (s : State) (p : Nat), s.lostPeers.contains p = false → s.peerDead p = true → ∃ t : State, exec (.peerLost p) s = .next t ∧
    t.lostPeers = insertRising p s.lostPeers) ∧
  (∀ (s : State) (p : Nat), p ≤ 13 → ∃ t : State, exec (.linkReset p) s = .next t ∧ t.lostPeers = s.lostPeers.filter (· != p) ∧
    ((∀ e ∈ s.sectors, e.2.busy = none) → t.mem = s.mem) ∧
    ∀ e ∈ t.sectors, e.2.sharers &&& outsideBit (.peer p) = 0 ∧ e.2.owner ≠ outsideOwner (.peer p)) ∧
  (∀ s : State, exec .deviceReset s = .next s.afterReset.counted ∧
    exec .lifetimeFlush s = .next s.flush.counted ∧ exec .orderlyPowerDown s = .next s.flush.powerOff.counted ∧
    exec .powerLoss s = .next s.powerOff.counted ∧
    exec .lastFlashWrite s = .next (s.send (.time s.lifetime.flashTime)).counted) ∧
  (∀ (s : State) (h b : Nat), (7 ≤ h → exec (.readHistogram h b) s = .next (s.send .mctpError).counted) ∧
    (h < 7 → exec (.readHistogram h b) s = .next (s.send (.bins ((List.range (Nat.min 64 (binsOf h - b))).map
      fun k => s.binValue h (b + k)))).counted)) ∧
  (∀ (s : State) (c : Byte), exec (.unknownMctpCommand c) s = .next (s.send .mctpError).counted) ∧
  (∀ (s : State) (n : Nat), (1 ≤ n → n ≤ 3 →
      exec (.spdmRequest n) s = .next (s.send (.measurement n (s.measurement n))).counted) ∧
    (3 < n → exec (.spdmRequest n) s = .next (s.send .mctpError).counted) ∧
    (n = 0 → exec (.spdmRequest n) s = .next (s.send (.certificate Config.certificateChain)).counted)) ∧
  (∀ (s : State) (image version : Nat), exec (.firmwareBoot image version) s =
    .next (if imageVerifies image && decide (s.rollback ≤ version) then { s with firmware := some image } else s).counted) ∧
  ∀ (s : State) (why : Throttle), (s.throttle < 13 →
      exec (.throttleStep true why) s = .next ({ s with throttle := s.throttle + 1 }.count 5 (Throttle.bin why)).counted) ∧
    (0 < s.throttle →
      exec (.throttleStep false why) s = .next ({ s with throttle := s.throttle - 1 }.count 5 (Throttle.bin why)).counted)

/-- 19 R374 to R376, R379: SAVE and RESTORE are ignored while a command is under way, fail with code 5 where the context does not
run, with code 2 for an area too small and code 3 for a header that is not one; else SAVE stops the waves, and is complete once they are
quiet; RESTORE takes the area in, and is complete once its work is queued. -/
def Obligations.SaveAndRestoreComplete : Prop :=
  (∀ (s : State) (n : Nat), (s.ctx n).pre.state = 1 → exec (.save n) s = .next s.counted ∧ exec (.restore n) s = .next s.counted) ∧
  (∀ (s : State) (n : Nat), (s.ctx n).pre.state ≠ 1 → (s.ctx n).state ≠ .run →
    exec (.save n) s = .next (s.endPre n 5).counted ∧ exec (.restore n) s = .next (s.endPre n 5).counted) ∧
  (∀ (s : State) (n : Nat), (s.ctx n).pre.state ≠ 1 → (s.ctx n).state = .run →
    ((s.ctx n).pre.size.toNat < (s.offsets (s.roster n)).getD 5 0 → exec (.save n) s = .next (s.endPre n 2).counted) ∧
    ((s.offsets (s.roster n)).getD 5 0 ≤ (s.ctx n).pre.size.toNat →
      let t := s.setCtx n { s.ctx n with held := true, pre :=
        { (s.ctx n).pre with cmd := 0, err := 0, state := 1, job := 1, target := (s.ctx n).pre.area } }
      exec (.save n) s = .next (((t.roster n).waves.foldl State.stopForSave t).post (.saveComplete n)).counted)) ∧
  (∀ (s : State) (n : Nat), (s.ctx n).pre.job = 1 → (s.ctx n).state = .run → s.quiet n = true →
    s.heldWrite (s.frontSectors n (s.ctx n).pre.target.toNat ((s.offsets (s.roster n)).getD 5 0) .wr ++ s.savedWords n) .outside
      (.saveComplete n) = none →
    exec (.saveComplete n) s = .next (((s.roster n).waves.foldl State.readyImage s).writeArea n).counted) ∧
  (∀ (s : State) (n : Nat) (h b : List Byte), (s.ctx n).pre.state ≠ 1 → (s.ctx n).state = .run → s.holdsNone n = true →
    s.heldAny (s.frontSectors n (s.ctx n).pre.area.toNat 256 .rd) (.restore n) = none →
    s.frontRead n (s.ctx n).pre.area.toNat 256 = some h →
    (areaHeadOk h (s.ctx n).pre.size.toNat = false → exec (.restore n) s = .next (s.endPre n 3).counted) ∧
    (areaHeadOk h (s.ctx n).pre.size.toNat = true →
      s.heldAny (s.frontSectors n (s.ctx n).pre.area.toNat (recField h 0x48 8) .rd) (.restore n) = none →
      s.frontRead n (s.ctx n).pre.area.toNat (recField h 0x48 8) = some b →
      exec (.restore n) s = .next (s.takeArea n b).counted)) ∧
  ∀ (s : State) (n : Nat), (s.ctx n).pre.job = 2 → (s.ctx n).state = .run →
    exec (.restoreComplete n) s =
      .next (((s.setCtx n { s.ctx n with held := false }).endPre n 0).resumeContext n).counted
end

