-- ==== Sys2Proof/Laws/Encoding.lean ====
section
/-! SUPPORT. Fields of templates and words: unpacking what was packed, every field of a concatenation, and every code read
back. Provers of the round trip of decoding cite these instead of unfolding the packing. -/

namespace Sys2Proof

theorem field_up {n m : Nat} (x : BitVec n) (y : BitVec m) (s k t : Nat) (h : s = m + t) :
    (x ++ y).extractLsb' s k = x.extractLsb' t k := by
  subst h; ext i hi; simp [BitVec.getLsbD_append, Nat.add_assoc]

theorem field_lo {n m : Nat} (x : BitVec n) (y : BitVec m) : (x ++ y).extractLsb' 0 m = y := by
  ext i hi; simp [BitVec.getLsbD_append, hi]

theorem field_all {n : Nat} (x : BitVec n) : x.extractLsb' 0 n = x := by
  ext i hi; simp [BitVec.getElem_extractLsb']

theorem bit_of_field {w : Nat} (x : BitVec w) (i : Nat) (b : Bool) (h : x.extractLsb' i 1 = bit b) : x.getLsbD i = b := by
  have := congrArg (fun y => BitVec.getLsbD y 0) h
  cases b <;> simpa [bit] using this

theorem bit_at {w : Nat} (x : BitVec w) (pos n j i : Nat) (y : BitVec n) (b : Bool) (hj : j < n) (hi : i = pos + j)
    (hb : y.getLsbD j = b) (h : x.extractLsb' pos n = y) : x.getLsbD i = b := by
  have e : (x.extractLsb' pos n).getLsbD j = x.getLsbD (pos + j) := by simp [hj]
  rw [hi, ← hb, ← h, e]

theorem selOf_of_field (m : BitVec 8) (s : Sel) (h : m.extractLsb' 0 4 = s.code) : selOf m = s := by
  have h3 : m.getLsbD 3 = s.code.getLsbD 3 := by rw [← h]; simp
  have hk : m.extractLsb' 0 3 = s.code.extractLsb' 0 3 := by
    rw [← h]; ext i hi; have : i < 4 := by omega
    simp [this]
  unfold selOf
  rw [h3, hk]
  cases s with
  | none => rfl
  | some k => clear h h3 hk; revert k; decide

/-- The template and the word of an instruction's fields give the fields back. -/
theorem Fields.unpack_pack (f : Fields) (x : BitVec 7) : Fields.unpack f.template (f.word x) = f := by
  obtain ⟨op, fmt, fmtb, rnd, sat, ecls, scope, dkind, abank, bbank, holes, cspec, mod, imm, d, a, b⟩ := f
  simp only [Fields.unpack, Fields.template, Fields.word, Fields.mk.injEq]
  exact ⟨(field_up _ _ 57 _ 41 rfl).trans <| (field_up _ _ 41 _ 33 rfl).trans <| (field_up _ _ 33 _ 25 rfl).trans <| (field_up _ _ 25 _ 23 rfl).trans <| (field_up _ _ 23 _ 22 rfl).trans <| (field_up _ _ 22 _ 21 rfl).trans <| (field_up _ _ 21 _ 19 rfl).trans <| (field_up _ _ 19 _ 16 rfl).trans <| (field_up _ _ 16 _ 14 rfl).trans <| (field_up _ _ 14 _ 13 rfl).trans <| (field_up _ _ 13 _ 11 rfl).trans <| (field_up _ _ 11 _ 6 rfl).trans <| (field_up _ _ 6 _ 1 rfl).trans <| (field_up _ _ 1 _ 0 rfl).trans <| field_all _,
    (field_up _ _ 51 _ 35 rfl).trans <| (field_up _ _ 35 _ 27 rfl).trans <| (field_up _ _ 27 _ 19 rfl).trans <| (field_up _ _ 19 _ 17 rfl).trans <| (field_up _ _ 17 _ 16 rfl).trans <| (field_up _ _ 16 _ 15 rfl).trans <| (field_up _ _ 15 _ 13 rfl).trans <| (field_up _ _ 13 _ 10 rfl).trans <| (field_up _ _ 10 _ 8 rfl).trans <| (field_up _ _ 8 _ 7 rfl).trans <| (field_up _ _ 7 _ 5 rfl).trans <| (field_up _ _ 5 _ 0 rfl).trans <| field_lo _ _,
    (field_up _ _ 46 _ 30 rfl).trans <| (field_up _ _ 30 _ 22 rfl).trans <| (field_up _ _ 22 _ 14 rfl).trans <| (field_up _ _ 14 _ 12 rfl).trans <| (field_up _ _ 12 _ 11 rfl).trans <| (field_up _ _ 11 _ 10 rfl).trans <| (field_up _ _ 10 _ 8 rfl).trans <| (field_up _ _ 8 _ 5 rfl).trans <| (field_up _ _ 5 _ 3 rfl).trans <| (field_up _ _ 3 _ 2 rfl).trans <| (field_up _ _ 2 _ 0 rfl).trans <| field_lo _ _,
    (field_up _ _ 44 _ 28 rfl).trans <| (field_up _ _ 28 _ 20 rfl).trans <| (field_up _ _ 20 _ 12 rfl).trans <| (field_up _ _ 12 _ 10 rfl).trans <| (field_up _ _ 10 _ 9 rfl).trans <| (field_up _ _ 9 _ 8 rfl).trans <| (field_up _ _ 8 _ 6 rfl).trans <| (field_up _ _ 6 _ 3 rfl).trans <| (field_up _ _ 3 _ 1 rfl).trans <| (field_up _ _ 1 _ 0 rfl).trans <| field_lo _ _,
    (field_up _ _ 43 _ 27 rfl).trans <| (field_up _ _ 27 _ 19 rfl).trans <| (field_up _ _ 19 _ 11 rfl).trans <| (field_up _ _ 11 _ 9 rfl).trans <| (field_up _ _ 9 _ 8 rfl).trans <| (field_up _ _ 8 _ 7 rfl).trans <| (field_up _ _ 7 _ 5 rfl).trans <| (field_up _ _ 5 _ 2 rfl).trans <| (field_up _ _ 2 _ 0 rfl).trans <| field_lo _ _,
    (field_up _ _ 41 _ 25 rfl).trans <| (field_up _ _ 25 _ 17 rfl).trans <| (field_up _ _ 17 _ 9 rfl).trans <| (field_up _ _ 9 _ 7 rfl).trans <| (field_up _ _ 7 _ 6 rfl).trans <| (field_up _ _ 6 _ 5 rfl).trans <| (field_up _ _ 5 _ 3 rfl).trans <| (field_up _ _ 3 _ 0 rfl).trans <| field_lo _ _,
    (field_up _ _ 38 _ 22 rfl).trans <| (field_up _ _ 22 _ 14 rfl).trans <| (field_up _ _ 14 _ 6 rfl).trans <| (field_up _ _ 6 _ 4 rfl).trans <| (field_up _ _ 4 _ 3 rfl).trans <| (field_up _ _ 3 _ 2 rfl).trans <| (field_up _ _ 2 _ 0 rfl).trans <| field_lo _ _,
    (field_up _ _ 36 _ 20 rfl).trans <| (field_up _ _ 20 _ 12 rfl).trans <| (field_up _ _ 12 _ 4 rfl).trans <| (field_up _ _ 4 _ 2 rfl).trans <| (field_up _ _ 2 _ 1 rfl).trans <| (field_up _ _ 1 _ 0 rfl).trans <| field_lo _ _,
    (field_up _ _ 35 _ 19 rfl).trans <| (field_up _ _ 19 _ 11 rfl).trans <| (field_up _ _ 11 _ 3 rfl).trans <| (field_up _ _ 3 _ 1 rfl).trans <| (field_up _ _ 1 _ 0 rfl).trans <| field_lo _ _,
    (field_up _ _ 34 _ 18 rfl).trans <| (field_up _ _ 18 _ 10 rfl).trans <| (field_up _ _ 10 _ 2 rfl).trans <| (field_up _ _ 2 _ 0 rfl).trans <| field_lo _ _,
    (field_up _ _ 32 _ 16 rfl).trans <| (field_up _ _ 16 _ 8 rfl).trans <| (field_up _ _ 8 _ 0 rfl).trans <| field_lo _ _,
    (field_up _ _ 24 _ 8 rfl).trans <| (field_up _ _ 8 _ 0 rfl).trans <| field_lo _ _,
    (field_up _ _ 16 _ 0 rfl).trans <| field_lo _ _,
    field_lo _ _,
    (field_up _ _ 16 _ 8 rfl).trans <| (field_up _ _ 8 _ 0 rfl).trans <| field_lo _ _,
    (field_up _ _ 8 _ 0 rfl).trans <| field_lo _ _,
    field_lo _ _⟩

/-! Fields of concatenations. -/

@[simp] theorem field_k10_b1_v6_bit6 (x : Bool) (y : BitVec 6) : (0#1 ++ bit x ++ y : BitVec 8)[6] = x :=
  bit_of_field _ _ _ <| (field_up _ _ 6 _ 0 rfl).trans <| field_lo _ _
@[simp] theorem field_k10_b1_v6_at0 (x : Bool) (y : BitVec 6) : (0#1 ++ bit x ++ y : BitVec 8).extractLsb' 0 6 = y :=
  field_lo _ _
@[simp] theorem field_k10_b1_v2_k40_bit6 (x : Bool) (y : BitVec 2) : (0#1 ++ bit x ++ y ++ 0#4 : BitVec 8)[6] = x :=
  bit_of_field _ _ _ <| (field_up _ _ 6 _ 2 rfl).trans <| (field_up _ _ 2 _ 0 rfl).trans <| field_lo _ _
@[simp] theorem field_k10_b1_v2_k40_at4 (x : Bool) (y : BitVec 2) : (0#1 ++ bit x ++ y ++ 0#4 : BitVec 8).extractLsb' 4 2 = y :=
  (field_up _ _ 4 _ 0 rfl).trans <| field_lo _ _
@[simp] theorem field_k10_b1_b1_k50_bit6 (x : Bool) (y : Bool) : (0#1 ++ bit x ++ bit y ++ 0#5 : BitVec 8)[6] = x :=
  bit_of_field _ _ _ <| (field_up _ _ 6 _ 1 rfl).trans <| (field_up _ _ 1 _ 0 rfl).trans <| field_lo _ _
@[simp] theorem field_k10_b1_b1_k50_bit5 (x : Bool) (y : Bool) : (0#1 ++ bit x ++ bit y ++ 0#5 : BitVec 8)[5] = y :=
  bit_of_field _ _ _ <| (field_up _ _ 5 _ 0 rfl).trans <| field_lo _ _
@[simp] theorem field_k10_b1_v2_b1_k30_bit6 (x : Bool) (y : BitVec 2) (z : Bool) : (0#1 ++ bit x ++ y ++ bit z ++ 0#3 : BitVec 8)[6] = x :=
  bit_of_field _ _ _ <| (field_up _ _ 6 _ 3 rfl).trans <| (field_up _ _ 3 _ 2 rfl).trans <| (field_up _ _ 2 _ 0 rfl).trans <| field_lo _ _
@[simp] theorem field_k10_b1_v2_b1_k30_at4 (x : Bool) (y : BitVec 2) (z : Bool) : (0#1 ++ bit x ++ y ++ bit z ++ 0#3 : BitVec 8).extractLsb' 4 2 = y :=
  (field_up _ _ 4 _ 1 rfl).trans <| (field_up _ _ 1 _ 0 rfl).trans <| field_lo _ _
@[simp] theorem field_k10_b1_v2_b1_k30_bit3 (x : Bool) (y : BitVec 2) (z : Bool) : (0#1 ++ bit x ++ y ++ bit z ++ 0#3 : BitVec 8)[3] = z :=
  bit_of_field _ _ _ <| (field_up _ _ 3 _ 0 rfl).trans <| field_lo _ _
@[simp] theorem field_k10_v3_v4_at4 (x : BitVec 3) (y : BitVec 4) : (0#1 ++ x ++ y : BitVec 8).extractLsb' 4 3 = x :=
  (field_up _ _ 4 _ 0 rfl).trans <| field_lo _ _
@[simp] theorem field_k10_v3_v4_at0 (x : BitVec 3) (y : BitVec 4) : (0#1 ++ x ++ y : BitVec 8).extractLsb' 0 4 = y :=
  field_lo _ _
@[simp] theorem field_k10_v3_v4_sel (x : BitVec 3) (s : Sel) : selOf (0#1 ++ x ++ Sel.code s : BitVec 8) = s :=
  selOf_of_field _ _ <| field_lo _ _
@[simp] theorem field_k10_v3_k40_at4 (x : BitVec 3) : (0#1 ++ x ++ 0#4 : BitVec 8).extractLsb' 4 3 = x :=
  (field_up _ _ 4 _ 0 rfl).trans <| field_lo _ _
@[simp] theorem field_k10_v3_k11_v3_at4 (x : BitVec 3) (y : BitVec 3) : (0#1 ++ x ++ 1#1 ++ y : BitVec 8).extractLsb' 4 3 = x :=
  (field_up _ _ 4 _ 1 rfl).trans <| (field_up _ _ 1 _ 0 rfl).trans <| field_lo _ _
@[simp] theorem field_k10_v3_k11_v3_bit3 (x : BitVec 3) (y : BitVec 3) : (0#1 ++ x ++ 1#1 ++ y : BitVec 8)[3] = true :=
  bit_at _ 3 1 0 3 1#1 true (by decide) rfl rfl <| (field_up _ _ 3 _ 0 rfl).trans <| field_lo _ _
@[simp] theorem field_k10_v3_k11_v3_at0 (x : BitVec 3) (y : BitVec 3) : (0#1 ++ x ++ 1#1 ++ y : BitVec 8).extractLsb' 0 3 = y :=
  field_lo _ _
@[simp] theorem field_k20_b1_k20_v3_bit5 (x : Bool) (y : BitVec 3) : (0#2 ++ bit x ++ 0#2 ++ y : BitVec 8)[5] = x :=
  bit_of_field _ _ _ <| (field_up _ _ 5 _ 2 rfl).trans <| (field_up _ _ 2 _ 0 rfl).trans <| field_lo _ _
@[simp] theorem field_k20_b1_k20_v3_at3 (x : Bool) (y : BitVec 3) : (0#2 ++ bit x ++ 0#2 ++ y : BitVec 8).extractLsb' 3 2 = 0#2 :=
  (field_up _ _ 3 _ 0 rfl).trans <| field_lo _ _
@[simp] theorem field_k20_b1_k20_v3_at0 (x : Bool) (y : BitVec 3) : (0#2 ++ bit x ++ 0#2 ++ y : BitVec 8).extractLsb' 0 3 = y :=
  field_lo _ _
@[simp] theorem field_k20_b1_k21_v3_bit5 (x : Bool) (y : BitVec 3) : (0#2 ++ bit x ++ 1#2 ++ y : BitVec 8)[5] = x :=
  bit_of_field _ _ _ <| (field_up _ _ 5 _ 2 rfl).trans <| (field_up _ _ 2 _ 0 rfl).trans <| field_lo _ _
@[simp] theorem field_k20_b1_k21_v3_at3 (x : Bool) (y : BitVec 3) : (0#2 ++ bit x ++ 1#2 ++ y : BitVec 8).extractLsb' 3 2 = 1#2 :=
  (field_up _ _ 3 _ 0 rfl).trans <| field_lo _ _
@[simp] theorem field_k20_b1_k21_v3_at0 (x : Bool) (y : BitVec 3) : (0#2 ++ bit x ++ 1#2 ++ y : BitVec 8).extractLsb' 0 3 = y :=
  field_lo _ _
@[simp] theorem field_k20_b1_k22_v3_bit5 (x : Bool) (y : BitVec 3) : (0#2 ++ bit x ++ 2#2 ++ y : BitVec 8)[5] = x :=
  bit_of_field _ _ _ <| (field_up _ _ 5 _ 2 rfl).trans <| (field_up _ _ 2 _ 0 rfl).trans <| field_lo _ _
@[simp] theorem field_k20_b1_k22_v3_at3 (x : Bool) (y : BitVec 3) : (0#2 ++ bit x ++ 2#2 ++ y : BitVec 8).extractLsb' 3 2 = 2#2 :=
  (field_up _ _ 3 _ 0 rfl).trans <| field_lo _ _
@[simp] theorem field_k20_b1_k22_v3_at0 (x : Bool) (y : BitVec 3) : (0#2 ++ bit x ++ 2#2 ++ y : BitVec 8).extractLsb' 0 3 = y :=
  field_lo _ _
@[simp] theorem field_k20_v2_v4_at4 (x : BitVec 2) (y : BitVec 4) : (0#2 ++ x ++ y : BitVec 8).extractLsb' 4 2 = x :=
  (field_up _ _ 4 _ 0 rfl).trans <| field_lo _ _
@[simp] theorem field_k20_v2_v4_at0 (x : BitVec 2) (y : BitVec 4) : (0#2 ++ x ++ y : BitVec 8).extractLsb' 0 4 = y :=
  field_lo _ _
@[simp] theorem field_k20_v2_v4_sel (x : BitVec 2) (s : Sel) : selOf (0#2 ++ x ++ Sel.code s : BitVec 8) = s :=
  selOf_of_field _ _ <| field_lo _ _
@[simp] theorem field_k30_b1_v4_bit5 (x : Bool) (y : BitVec 4) : (0#3 ++ bit x ++ y : BitVec 8)[5] = false :=
  bit_at _ 5 3 0 5 0#3 false (by decide) rfl rfl <| (field_up _ _ 5 _ 1 rfl).trans <| (field_up _ _ 1 _ 0 rfl).trans <| field_all _
@[simp] theorem field_k30_b1_v4_bit4 (x : Bool) (y : BitVec 4) : (0#3 ++ bit x ++ y : BitVec 8)[4] = x :=
  bit_of_field _ _ _ <| (field_up _ _ 4 _ 0 rfl).trans <| field_lo _ _
@[simp] theorem field_k30_b1_v4_at0 (x : Bool) (y : BitVec 4) : (0#3 ++ bit x ++ y : BitVec 8).extractLsb' 0 4 = y :=
  field_lo _ _
@[simp] theorem field_k30_b1_v4_sel (x : Bool) (s : Sel) : selOf (0#3 ++ bit x ++ Sel.code s : BitVec 8) = s :=
  selOf_of_field _ _ <| field_lo _ _
@[simp] theorem field_k30_b1_k40_bit4 (x : Bool) : (0#3 ++ bit x ++ 0#4 : BitVec 8)[4] = x :=
  bit_of_field _ _ _ <| (field_up _ _ 4 _ 0 rfl).trans <| field_lo _ _
@[simp] theorem field_k30_v2_k30_at3 (x : BitVec 2) : (0#3 ++ x ++ 0#3 : BitVec 8).extractLsb' 3 2 = x :=
  (field_up _ _ 3 _ 0 rfl).trans <| field_lo _ _
@[simp] theorem field_k30_v5_bit7 (x : BitVec 5) : (0#3 ++ x : BitVec 8)[7] = false :=
  bit_at _ 5 3 2 7 0#3 false (by decide) rfl rfl <| (field_up _ _ 5 _ 0 rfl).trans <| field_all _
@[simp] theorem field_k30_v5_at0 (x : BitVec 5) : (0#3 ++ x : BitVec 8).extractLsb' 0 5 = x :=
  field_lo _ _
@[simp] theorem field_k40_b1_v3_bit3 (x : Bool) (y : BitVec 3) : (0#4 ++ bit x ++ y : BitVec 8)[3] = x :=
  bit_of_field _ _ _ <| (field_up _ _ 3 _ 0 rfl).trans <| field_lo _ _
@[simp] theorem field_k40_b1_v3_at0 (x : Bool) (y : BitVec 3) : (0#4 ++ bit x ++ y : BitVec 8).extractLsb' 0 3 = y :=
  field_lo _ _
@[simp] theorem field_k40_b1_k30_bit3 (x : Bool) : (0#4 ++ bit x ++ 0#3 : BitVec 8)[3] = x :=
  bit_of_field _ _ _ <| (field_up _ _ 3 _ 0 rfl).trans <| field_lo _ _
@[simp] theorem field_k40_b1_k30_at0 (x : Bool) : (0#4 ++ bit x ++ 0#3 : BitVec 8).extractLsb' 0 3 = 0#3 :=
  field_lo _ _
@[simp] theorem field_k40_b1_k31_bit3 (x : Bool) : (0#4 ++ bit x ++ 1#3 : BitVec 8)[3] = x :=
  bit_of_field _ _ _ <| (field_up _ _ 3 _ 0 rfl).trans <| field_lo _ _
@[simp] theorem field_k40_b1_k31_at0 (x : Bool) : (0#4 ++ bit x ++ 1#3 : BitVec 8).extractLsb' 0 3 = 1#3 :=
  field_lo _ _
@[simp] theorem field_k40_b1_k34_bit3 (x : Bool) : (0#4 ++ bit x ++ 4#3 : BitVec 8)[3] = x :=
  bit_of_field _ _ _ <| (field_up _ _ 3 _ 0 rfl).trans <| field_lo _ _
@[simp] theorem field_k40_b1_k34_at0 (x : Bool) : (0#4 ++ bit x ++ 4#3 : BitVec 8).extractLsb' 0 3 = 4#3 :=
  field_lo _ _
@[simp] theorem field_k40_v4_at0 (x : BitVec 4) : (0#4 ++ x : BitVec 8).extractLsb' 0 4 = x :=
  field_lo _ _
@[simp] theorem field_k40_v4_sel (s : Sel) : selOf (0#4 ++ Sel.code s : BitVec 8) = s :=
  selOf_of_field _ _ <| field_lo _ _
@[simp] theorem field_k50_b1_v2_bit2 (x : Bool) (y : BitVec 2) : (0#5 ++ bit x ++ y : BitVec 8)[2] = x :=
  bit_of_field _ _ _ <| (field_up _ _ 2 _ 0 rfl).trans <| field_lo _ _
@[simp] theorem field_k50_b1_v2_at0 (x : Bool) (y : BitVec 2) : (0#5 ++ bit x ++ y : BitVec 8).extractLsb' 0 2 = y :=
  field_lo _ _
@[simp] theorem field_k50_v3_at0 (x : BitVec 3) : (0#5 ++ x : BitVec 8).extractLsb' 0 3 = x :=
  field_lo _ _
@[simp] theorem field_k60_b1_b1_bit1 (x : Bool) (y : Bool) : (0#6 ++ bit x ++ bit y : BitVec 8)[1] = x :=
  bit_of_field _ _ _ <| (field_up _ _ 1 _ 0 rfl).trans <| field_lo _ _
@[simp] theorem field_k60_b1_b1_bit0 (x : Bool) (y : Bool) : (0#6 ++ bit x ++ bit y : BitVec 8)[0] = y :=
  bit_of_field _ _ _ <| field_lo _ _
@[simp] theorem field_k60_v2_bit2 (x : BitVec 2) : (0#6 ++ x : BitVec 8)[2] = false :=
  bit_at _ 2 6 0 2 0#6 false (by decide) rfl rfl <| (field_up _ _ 2 _ 0 rfl).trans <| field_all _
@[simp] theorem field_k60_v2_at0 (x : BitVec 2) : (0#6 ++ x : BitVec 8).extractLsb' 0 2 = x :=
  field_lo _ _
@[simp] theorem field_k70_b1_bit0 (x : Bool) : (0#7 ++ bit x : BitVec 8)[0] = x :=
  bit_of_field _ _ _ <| field_lo _ _
@[simp] theorem field_k31_b1_v4_bit5 (x : Bool) (y : BitVec 4) : (1#3 ++ bit x ++ y : BitVec 8)[5] = true :=
  bit_at _ 5 3 0 5 1#3 true (by decide) rfl rfl <| (field_up _ _ 5 _ 1 rfl).trans <| (field_up _ _ 1 _ 0 rfl).trans <| field_all _
@[simp] theorem field_k31_b1_v4_bit4 (x : Bool) (y : BitVec 4) : (1#3 ++ bit x ++ y : BitVec 8)[4] = x :=
  bit_of_field _ _ _ <| (field_up _ _ 4 _ 0 rfl).trans <| field_lo _ _
@[simp] theorem field_k31_b1_v4_at0 (x : Bool) (y : BitVec 4) : (1#3 ++ bit x ++ y : BitVec 8).extractLsb' 0 4 = y :=
  field_lo _ _
@[simp] theorem field_k31_b1_v4_sel (x : Bool) (s : Sel) : selOf (1#3 ++ bit x ++ Sel.code s : BitVec 8) = s :=
  selOf_of_field _ _ <| field_lo _ _
@[simp] theorem field_k61_v2_bit2 (x : BitVec 2) : (1#6 ++ x : BitVec 8)[2] = true :=
  bit_at _ 2 6 0 2 1#6 true (by decide) rfl rfl <| (field_up _ _ 2 _ 0 rfl).trans <| field_all _
@[simp] theorem field_k61_v2_at0 (x : BitVec 2) : (1#6 ++ x : BitVec 8).extractLsb' 0 2 = x :=
  field_lo _ _
@[simp] theorem field_k34_v5_bit7 (x : BitVec 5) : (4#3 ++ x : BitVec 8)[7] = true :=
  bit_at _ 5 3 2 7 4#3 true (by decide) rfl rfl <| (field_up _ _ 5 _ 0 rfl).trans <| field_all _
@[simp] theorem field_k34_v5_at0 (x : BitVec 5) : (4#3 ++ x : BitVec 8).extractLsb' 0 5 = x :=
  field_lo _ _
@[simp] theorem field_k46_v4_at0 (x : BitVec 4) : (6#4 ++ x : BitVec 8).extractLsb' 0 4 = x :=
  field_lo _ _
@[simp] theorem field_k46_v4_sel (s : Sel) : selOf (6#4 ++ Sel.code s : BitVec 8) = s :=
  selOf_of_field _ _ <| field_lo _ _
@[simp] theorem field_b1_v3_v4_bit7 (x : Bool) (y : BitVec 3) (z : BitVec 4) : (bit x ++ y ++ z : BitVec 8)[7] = x :=
  bit_of_field _ _ _ <| (field_up _ _ 7 _ 3 rfl).trans <| (field_up _ _ 3 _ 0 rfl).trans <| field_all _
@[simp] theorem field_b1_v3_v4_at4 (x : Bool) (y : BitVec 3) (z : BitVec 4) : (bit x ++ y ++ z : BitVec 8).extractLsb' 4 3 = y :=
  (field_up _ _ 4 _ 0 rfl).trans <| field_lo _ _
@[simp] theorem field_b1_v3_v4_at0 (x : Bool) (y : BitVec 3) (z : BitVec 4) : (bit x ++ y ++ z : BitVec 8).extractLsb' 0 4 = z :=
  field_lo _ _
@[simp] theorem field_b1_v3_v4_sel (x : Bool) (y : BitVec 3) (s : Sel) : selOf (bit x ++ y ++ Sel.code s : BitVec 8) = s :=
  selOf_of_field _ _ <| field_lo _ _
@[simp] theorem field_v3_k50_at5 (x : BitVec 3) : (x ++ 0#5 : BitVec 8).extractLsb' 5 3 = x :=
  (field_up _ _ 5 _ 0 rfl).trans <| field_all _
@[simp] theorem field_v5_v3_at3 (x : BitVec 5) (y : BitVec 3) : (x ++ y : BitVec 8).extractLsb' 3 5 = x :=
  (field_up _ _ 3 _ 0 rfl).trans <| field_all _
@[simp] theorem field_v5_v3_at0 (x : BitVec 5) (y : BitVec 3) : (x ++ y : BitVec 8).extractLsb' 0 3 = y :=
  field_lo _ _
@[simp] theorem field_v2_b1_k50_at6 (x : BitVec 2) (y : Bool) : (x ++ bit y ++ 0#5 : BitVec 8).extractLsb' 6 2 = x :=
  (field_up _ _ 6 _ 1 rfl).trans <| (field_up _ _ 1 _ 0 rfl).trans <| field_all _
@[simp] theorem field_v2_b1_k50_bit5 (x : BitVec 2) (y : Bool) : (x ++ bit y ++ 0#5 : BitVec 8)[5] = y :=
  bit_of_field _ _ _ <| (field_up _ _ 5 _ 0 rfl).trans <| field_lo _ _
@[simp] theorem field_v2_b1_k50_bit4 (x : BitVec 2) (y : Bool) : (x ++ bit y ++ 0#5 : BitVec 8)[4] = false :=
  bit_at _ 0 5 4 4 0#5 false (by decide) rfl rfl <| field_lo _ _
@[simp] theorem field_v2_b1_k11_k40_at6 (x : BitVec 2) (y : Bool) : (x ++ bit y ++ 1#1 ++ 0#4 : BitVec 8).extractLsb' 6 2 = x :=
  (field_up _ _ 6 _ 2 rfl).trans <| (field_up _ _ 2 _ 1 rfl).trans <| (field_up _ _ 1 _ 0 rfl).trans <| field_all _
@[simp] theorem field_v2_b1_k11_k40_bit5 (x : BitVec 2) (y : Bool) : (x ++ bit y ++ 1#1 ++ 0#4 : BitVec 8)[5] = y :=
  bit_of_field _ _ _ <| (field_up _ _ 5 _ 1 rfl).trans <| (field_up _ _ 1 _ 0 rfl).trans <| field_lo _ _
@[simp] theorem field_v2_b1_k11_k40_bit4 (x : BitVec 2) (y : Bool) : (x ++ bit y ++ 1#1 ++ 0#4 : BitVec 8)[4] = true :=
  bit_at _ 4 1 0 4 1#1 true (by decide) rfl rfl <| (field_up _ _ 4 _ 0 rfl).trans <| field_lo _ _
@[simp] theorem field_v2_v6_at6 (x : BitVec 2) (y : BitVec 6) : (x ++ y : BitVec 8).extractLsb' 6 2 = x :=
  (field_up _ _ 6 _ 0 rfl).trans <| field_all _
@[simp] theorem field_v2_v6_at0 (x : BitVec 2) (y : BitVec 6) : (x ++ y : BitVec 8).extractLsb' 0 6 = y :=
  field_lo _ _
@[simp] theorem field_v2_k20_b1_k30_at6 (x : BitVec 2) (y : Bool) : (x ++ 0#2 ++ bit y ++ 0#3 : BitVec 8).extractLsb' 6 2 = x :=
  (field_up _ _ 6 _ 3 rfl).trans <| (field_up _ _ 3 _ 2 rfl).trans <| (field_up _ _ 2 _ 0 rfl).trans <| field_all _
@[simp] theorem field_v2_k20_b1_k30_bit3 (x : BitVec 2) (y : Bool) : (x ++ 0#2 ++ bit y ++ 0#3 : BitVec 8)[3] = y :=
  bit_of_field _ _ _ <| (field_up _ _ 3 _ 0 rfl).trans <| field_lo _ _
@[simp] theorem field_v2_b1_b1_b1_k30_at6 (x : BitVec 2) (y : Bool) (z : Bool) (u : Bool) : (x ++ bit y ++ bit z ++ bit u ++ 0#3 : BitVec 8).extractLsb' 6 2 = x :=
  (field_up _ _ 6 _ 3 rfl).trans <| (field_up _ _ 3 _ 2 rfl).trans <| (field_up _ _ 2 _ 1 rfl).trans <| (field_up _ _ 1 _ 0 rfl).trans <| field_all _
@[simp] theorem field_v2_b1_b1_b1_k30_bit5 (x : BitVec 2) (y : Bool) (z : Bool) (u : Bool) : (x ++ bit y ++ bit z ++ bit u ++ 0#3 : BitVec 8)[5] = y :=
  bit_of_field _ _ _ <| (field_up _ _ 5 _ 2 rfl).trans <| (field_up _ _ 2 _ 1 rfl).trans <| (field_up _ _ 1 _ 0 rfl).trans <| field_lo _ _
@[simp] theorem field_v2_b1_b1_b1_k30_bit4 (x : BitVec 2) (y : Bool) (z : Bool) (u : Bool) : (x ++ bit y ++ bit z ++ bit u ++ 0#3 : BitVec 8)[4] = z :=
  bit_of_field _ _ _ <| (field_up _ _ 4 _ 1 rfl).trans <| (field_up _ _ 1 _ 0 rfl).trans <| field_lo _ _
@[simp] theorem field_v2_b1_b1_b1_k30_bit3 (x : BitVec 2) (y : Bool) (z : Bool) (u : Bool) : (x ++ bit y ++ bit z ++ bit u ++ 0#3 : BitVec 8)[3] = u :=
  bit_of_field _ _ _ <| (field_up _ _ 3 _ 0 rfl).trans <| field_lo _ _
@[simp] theorem field_v3_v2_k30_at5 (x : BitVec 3) (y : BitVec 2) : (x ++ y ++ 0#3 : BitVec 8).extractLsb' 5 3 = x :=
  (field_up _ _ 5 _ 2 rfl).trans <| (field_up _ _ 2 _ 0 rfl).trans <| field_all _
@[simp] theorem field_v3_v2_k30_at3 (x : BitVec 3) (y : BitVec 2) : (x ++ y ++ 0#3 : BitVec 8).extractLsb' 3 2 = y :=
  (field_up _ _ 3 _ 0 rfl).trans <| field_lo _ _
@[simp] theorem field_v3_v3_k20_at5 (x : BitVec 3) (y : BitVec 3) : (x ++ y ++ 0#2 : BitVec 8).extractLsb' 5 3 = x :=
  (field_up _ _ 5 _ 3 rfl).trans <| (field_up _ _ 3 _ 0 rfl).trans <| field_all _
@[simp] theorem field_v3_v3_k20_at2 (x : BitVec 3) (y : BitVec 3) : (x ++ y ++ 0#2 : BitVec 8).extractLsb' 2 3 = y :=
  (field_up _ _ 2 _ 0 rfl).trans <| field_lo _ _
@[simp] theorem field_k10_v7_k10_v7_at8 (x : BitVec 7) (y : BitVec 7) : (0#1 ++ x ++ 0#1 ++ y : BitVec 16).extractLsb' 8 7 = x :=
  (field_up _ _ 8 _ 1 rfl).trans <| (field_up _ _ 1 _ 0 rfl).trans <| field_lo _ _
@[simp] theorem field_k10_v7_k10_v7_at0 (x : BitVec 7) (y : BitVec 7) : (0#1 ++ x ++ 0#1 ++ y : BitVec 16).extractLsb' 0 7 = y :=
  field_lo _ _
@[simp] theorem field_k10_v7_k20_v6_at8 (x : BitVec 7) (y : BitVec 6) : (0#1 ++ x ++ 0#2 ++ y : BitVec 16).extractLsb' 8 7 = x :=
  (field_up _ _ 8 _ 2 rfl).trans <| (field_up _ _ 2 _ 0 rfl).trans <| field_lo _ _
@[simp] theorem field_k10_v7_k20_v6_at0 (x : BitVec 7) (y : BitVec 6) : (0#1 ++ x ++ 0#2 ++ y : BitVec 16).extractLsb' 0 6 = y :=
  field_lo _ _
@[simp] theorem field_k100_v6_at0 (x : BitVec 6) : (0#10 ++ x : BitVec 16).extractLsb' 0 6 = x :=
  field_lo _ _
@[simp] theorem field_k20_v3_v4_v4_v3_at11 (x : BitVec 3) (y : BitVec 4) (z : BitVec 4) (u : BitVec 3) : (0#2 ++ x ++ y ++ z ++ u : BitVec 16).extractLsb' 11 3 = x :=
  (field_up _ _ 11 _ 8 rfl).trans <| (field_up _ _ 8 _ 4 rfl).trans <| (field_up _ _ 4 _ 0 rfl).trans <| field_lo _ _
@[simp] theorem field_k20_v3_v4_v4_v3_at7 (x : BitVec 3) (y : BitVec 4) (z : BitVec 4) (u : BitVec 3) : (0#2 ++ x ++ y ++ z ++ u : BitVec 16).extractLsb' 7 4 = y :=
  (field_up _ _ 7 _ 4 rfl).trans <| (field_up _ _ 4 _ 0 rfl).trans <| field_lo _ _
@[simp] theorem field_k20_v3_v4_v4_v3_at3 (x : BitVec 3) (y : BitVec 4) (z : BitVec 4) (u : BitVec 3) : (0#2 ++ x ++ y ++ z ++ u : BitVec 16).extractLsb' 3 4 = z :=
  (field_up _ _ 3 _ 0 rfl).trans <| field_lo _ _
@[simp] theorem field_k20_v3_v4_v4_v3_at0 (x : BitVec 3) (y : BitVec 4) (z : BitVec 4) (u : BitVec 3) : (0#2 ++ x ++ y ++ z ++ u : BitVec 16).extractLsb' 0 3 = u :=
  field_lo _ _
@[simp] theorem field_k20_v3_v4_k70_at11 (x : BitVec 3) (y : BitVec 4) : (0#2 ++ x ++ y ++ 0#7 : BitVec 16).extractLsb' 11 3 = x :=
  (field_up _ _ 11 _ 4 rfl).trans <| (field_up _ _ 4 _ 0 rfl).trans <| field_lo _ _
@[simp] theorem field_k20_v3_v4_k70_at7 (x : BitVec 3) (y : BitVec 4) : (0#2 ++ x ++ y ++ 0#7 : BitVec 16).extractLsb' 7 4 = y :=
  (field_up _ _ 7 _ 0 rfl).trans <| field_lo _ _
@[simp] theorem field_k40_v6_v6_at6 (x : BitVec 6) (y : BitVec 6) : (0#4 ++ x ++ y : BitVec 16).extractLsb' 6 6 = x :=
  (field_up _ _ 6 _ 0 rfl).trans <| field_lo _ _
@[simp] theorem field_k40_v6_v6_at0 (x : BitVec 6) (y : BitVec 6) : (0#4 ++ x ++ y : BitVec 16).extractLsb' 0 6 = y :=
  field_lo _ _
@[simp] theorem field_k40_v12_at0 (x : BitVec 12) : (0#4 ++ x : BitVec 16).extractLsb' 0 12 = x :=
  field_lo _ _
@[simp] theorem field_k80_v8_at0 (x : BitVec 8) : (0#8 ++ x : BitVec 16).extractLsb' 0 8 = x :=
  field_lo _ _
@[simp] theorem field_v12_k10_v3_at4 (x : BitVec 12) (y : BitVec 3) : (x ++ 0#1 ++ y : BitVec 16).extractLsb' 4 12 = x :=
  (field_up _ _ 4 _ 1 rfl).trans <| (field_up _ _ 1 _ 0 rfl).trans <| field_all _
@[simp] theorem field_v12_k10_v3_at0 (x : BitVec 12) (y : BitVec 3) : (x ++ 0#1 ++ y : BitVec 16).extractLsb' 0 3 = y :=
  field_lo _ _
@[simp] theorem field_k10_v6_at0 (x : BitVec 6) : (0#1 ++ x : BitVec 7).extractLsb' 0 6 = x :=
  field_lo _ _
@[simp] theorem field_k40_v3_at0 (x : BitVec 3) : (0#4 ++ x : BitVec 7).extractLsb' 0 3 = x :=
  field_lo _ _

/-! Codes. -/

@[simp] theorem Fmt.ofCode_code (f : Fmt) : Fmt.ofCode f.code = some f := by cases f <;> rfl
@[simp] theorem Scope.ofCode_code (s : Scope) : Scope.ofCode s.code = some s := by cases s <;> rfl
@[simp] theorem rndOf_code (r : Rnd) : rndOf r.code = r := by cases r <;> rfl
@[simp] theorem spaceOf_code (s : Space) : spaceOf s.code = s := by cases s <;> rfl
@[simp] theorem condOf_code (c : Cond) : condOf c.code = some c := by cases c <;> rfl
@[simp] theorem fcondOf_code (c : FCond) : fcondOf c.code = some c := by cases c <;> rfl
@[simp] theorem bitFnOf_code (c : BitFn) : bitFnOf c.code = c := by cases c <;> rfl
@[simp] theorem ixOf_code (c : IxKind) : ixOf c.code = c := by cases c <;> rfl
@[simp] theorem sfnOf_code (c : SfnFn) : sfnOf c.code = some c := by cases c <;> rfl
@[simp] theorem shufOf_code (c : ShufMode) : shufOf c.code = some c := by cases c <;> rfl
@[simp] theorem redOf_code (c : RedFn) : redOf c.code = some c := by cases c <;> rfl
@[simp] theorem mergeOf_code (c : MergeFn) : mergeOf c.code = c := by cases c <;> rfl
@[simp] theorem szOf_code (c : Sz) : szOf c.code = some c := by cases c <;> rfl
@[simp] theorem voteOf_code (c : VoteMode) : voteOf c.code = c := by cases c <;> rfl
@[simp] theorem waitOf_code (c : WaitCond) : waitOf c.code = c := by cases c <;> rfl
@[simp] theorem isSet_bit (b : Bool) : isSet (bit b) = b := by cases b <;> rfl

@[simp] theorem operandOf_vector (r : BitVec 7) :
    operandOf (Operand.v r).code (Operand.v r).bank = some (.v r) := by revert r; decide
@[simp] theorem operandOf_src (x : Src) (b : BitVec 1) : operandOf x.code b = some (.u x) := by
  revert b
  cases x with
  | s r => revert r; decide
  | c e => revert e; decide
  | imm i => revert i; decide
  | lit m => revert m; decide
@[simp] theorem operandOf_code (o : Operand) : operandOf o.code o.bank = some o := by
  cases o with
  | v r => exact operandOf_vector r
  | u x => exact operandOf_src x 0
@[simp] theorem srcOf_code (x : Src) : srcOf x.code = some x := by simp [srcOf]
@[simp] theorem sregOf_code (r : BitVec 6) : sregOf (Src.s r).code = some r := by simp [sregOf]
@[simp] theorem vecOf_code (r : BitVec 7) : vecOf (Operand.v r).code (Operand.v r).bank = some r := by simp [vecOf]
@[simp] theorem Src.code_ne_none (x : Src) : x.code ≠ 255#8 := by
  cases x with
  | s r => revert r; decide
  | c e => revert e; decide
  | imm i => revert i; decide
  | lit m => revert m; decide
@[simp] theorem Src.code_kind (x : Src) : x.code.extractLsb' 6 2 ≠ 0#2 := by
  cases x with
  | s r => revert r; decide
  | c e => revert e; decide
  | imm i => revert i; decide
  | lit m => revert m; decide
@[simp] theorem Operand.vector_kind (r : BitVec 7) : (Operand.v r).code.extractLsb' 6 2 = 0#2 := by revert r; decide
/-- The bank bit of an operand that is no vector register is 0. -/
theorem Operand.bank_eq (o : Operand) (h : o.code.extractLsb' 6 2 ≠ 0) : o.bank = 0 := by
  cases o with
  | v r => exact absurd (Operand.vector_kind r) h
  | u x => rfl
@[simp] theorem operandOf_unused (b : BitVec 1) : operandOf 192#8 b = some (.u (.imm 0)) := by revert b; decide
/-- A third source that names v0 to v63 reads back without a bank bit. -/
theorem operandOf_low (r : BitVec 7) (h : r.toNat < 64) : operandOf (Operand.v r).code 0#1 = some (.v r) := by
  revert r; decide
@[simp] theorem Operand.vector_ne_none (r : BitVec 7) : (Operand.v r).code ≠ 255#8 := by revert r; decide
@[simp] theorem nib4_code_ne : Fmt.mxfp4.code ≠ Fmt.nib4.code := by decide
@[simp] theorem RedFn.code_ne (f : RedFn) : f.code ≠ 6#3 := by cases f <;> decide
/-- The element selection of LD and ST (13 R253). -/
@[simp] theorem access_sel (z : BitVec 3) (s : Sel) :
    (if (0#2 ++ z ++ s.code ++ 0#7 : BitVec 16)[10] = true then
      some ((0#2 ++ z ++ s.code ++ 0#7 : BitVec 16).extractLsb' 7 3) else none) = s := by
  revert z
  cases s with
  | none => decide
  | some k => revert k; decide
/-- The two halves of an immediate in A:B (04 R89). -/
@[simp] theorem imm_halves (i : BitVec 16) : (i.extractLsb' 8 8 ++ i.extractLsb' 0 8 : BitVec 16) = i := by
  ext j hj
  rw [BitVec.getElem_append]
  split <;> simp <;> rw [BitVec.getLsbD_eq_getElem] <;> congr 1 <;> omega
@[simp] theorem scalar_bank (d : BitVec 6) : (0#1 ++ d : BitVec 7).extractLsb' 6 1 = 0#1 := by revert d; decide
@[simp] theorem tileCode_at (c : BitVec 3) : (tileCode c).extractLsb' 0 3 = c := field_lo _ _
@[simp] theorem acc_ne_none (c : BitVec 3) : (0#5 ++ c : BitVec 8) ≠ 255#8 := by revert c; decide
@[simp] theorem pick_at (c : BitVec 4) : (6#4 ++ c : BitVec 8).extractLsb' 4 3 = 6#3 := by revert c; decide
@[simp] theorem destOf_set (f : Fields) (d : Dest) : destOf (f.setDest d).dkind (f.setDest d).d = some d := by
  cases d with
  | v r => rfl
  | s r => simp only [Fields.setDest]; revert r; decide

end Sys2Proof
end

