-- ==== Sys2Proof/Laws/Memory.lean ====
section
/-! SUPPORT. The laws of memory as a list of cells in canonical form (log entry 1), and of lists by number. -/

namespace Sys2Proof.Machine

/-! The canonical form. -/

theorem memory_wf_nil : Memory.wf [] = true := rfl

/-- The keys of a canonical memory lie above the bound. -/
theorem wfFrom_weaken (m : Memory) : ∀ {i j : Nat}, i ≤ j → Memory.wfFrom (some j) m = true → Memory.wfFrom (some i) m = true := by
  cases m with
  | nil => intros; rfl
  | cons x rest =>
    obtain ⟨k, b⟩ := x
    intro i j hij h
    simp only [Memory.wfFrom, Bool.and_eq_true, decide_eq_true_eq] at h ⊢
    exact ⟨⟨by omega, h.1.2⟩, h.2⟩

theorem wfFrom_none (m : Memory) {j : Nat} (h : Memory.wfFrom (some j) m = true) : Memory.wfFrom none m = true := by
  cases m with
  | nil => rfl
  | cons x rest =>
    obtain ⟨k, b⟩ := x
    simp only [Memory.wfFrom, Bool.and_eq_true, decide_eq_true_eq] at h ⊢
    exact ⟨⟨trivial, h.1.2⟩, h.2⟩

/-- Below its bound a canonical memory lists nothing. -/
theorem get_below (m : Memory) : ∀ {lo a : Nat}, Memory.wfFrom (some lo) m = true → a ≤ lo → Memory.get m a = 0 := by
  induction m with
  | nil => intros; rfl
  | cons x rest ih =>
    obtain ⟨k, b⟩ := x
    intro lo a h ha
    simp only [Memory.wfFrom, Bool.and_eq_true, decide_eq_true_eq] at h
    have hk : k ≠ a := by omega
    simp only [Memory.get, hk, ↓reduceIte]
    exact ih h.2 (by omega)

/-- A write keeps the canonical form above a bound that lies below the address. -/
theorem put_wfFrom (m : Memory) (a : Nat) (b : Byte) : ∀ {lo : Option Nat}, (∀ j, lo = some j → j < a) →
    Memory.wfFrom lo m = true → Memory.wfFrom lo (Memory.put m a b) = true := by
  induction m with
  | nil =>
    intro lo hlo _
    by_cases hb : b = 0#8
    · simp [Memory.put, hb, Memory.wfFrom]
    · cases lo with
      | none => simp [Memory.put, hb, Memory.wfFrom]
      | some j => simp [Memory.put, hb, Memory.wfFrom, hlo j rfl]
  | cons x rest ih =>
    obtain ⟨k, c⟩ := x
    intro lo hlo h
    have hrest : Memory.wfFrom (some k) rest = true := by
      simp only [Memory.wfFrom, Bool.and_eq_true] at h; exact h.2
    have hc : ¬ c = 0#8 := by
      simp [Memory.wfFrom] at h; exact h.1.2
    unfold Memory.put
    by_cases h1 : a < k
    · by_cases hb : b = 0#8
      · simp only [h1, hb, ↓reduceIte]; exact h
      · have hb' : (b != 0#8) = true := by simpa using hb
        simp only [h1, hb, ↓reduceIte]
        cases lo with
        | none => simp [Memory.wfFrom, hb, hc, h1, hrest]
        | some j => simp [Memory.wfFrom, hb, hc, h1, hrest, hlo j rfl]
    · by_cases h2 : a = k
      · subst h2
        by_cases hb : b = 0#8
        · simp only [h1, hb, ↓reduceIte]
          cases lo with
          | none => exact wfFrom_none rest hrest
          | some j => exact wfFrom_weaken rest (Nat.le_of_lt (hlo j rfl)) hrest
        · have hb' : (b != 0#8) = true := by simpa using hb
          simp only [h1, hb, ↓reduceIte]
          cases lo with
          | none => simp [Memory.wfFrom, hb, hrest]
          | some j => simp [Memory.wfFrom, hb, hrest, hlo j rfl]
      · have h3 : k < a := by omega
        simp only [h1, h2, ↓reduceIte]
        have := ih (lo := some k) (by intro j hj; cases hj; exact h3) hrest
        cases lo with
        | none => simp [Memory.wfFrom, hc, this]
        | some j =>
          have hj : j < k := by
            simp only [Memory.wfFrom, Bool.and_eq_true, decide_eq_true_eq] at h; exact h.1.1
          simp [Memory.wfFrom, hc, this, hj]

theorem put_wf (m : Memory) (a : Nat) (b : Byte) (h : m.wf = true) : (m.put a b).wf = true :=
  put_wfFrom m a b (lo := none) (by intro j hj; cases hj) h

theorem puts_wf (bs : List Byte) : ∀ (m : Memory) (a : Nat), m.wf = true → (m.puts a bs).wf = true := by
  induction bs with
  | nil => intro m a h; exact h
  | cons b rest ih => intro m a h; exact ih _ _ (put_wf m a b h)

/-! Reads after writes. -/

/-- A write leaves every other byte. -/
theorem get_put_other (m : Memory) (a c : Nat) (b : Byte) (h : c ≠ a) : (m.put a b).get c = m.get c := by
  induction m with
  | nil =>
    by_cases hb : b = 0#8
    · simp [Memory.put, hb]
    · simp [Memory.put, hb, Memory.get, Ne.symm h]
  | cons x rest ih =>
    obtain ⟨k, d⟩ := x
    unfold Memory.put
    by_cases h1 : a < k
    · by_cases hb : b = 0#8 <;> simp [h1, hb, Memory.get, Ne.symm h]
    · by_cases h2 : a = k
      · subst h2
        by_cases hb : b = 0#8 <;> simp [hb, Memory.get, Ne.symm h]
      · simp only [h1, h2, ↓reduceIte, Memory.get, ih]

/-- A byte written reads back. -/
theorem get_put_same_from (m : Memory) (a : Nat) (b : Byte) : ∀ {lo : Option Nat}, Memory.wfFrom lo m = true →
    (m.put a b).get a = b := by
  induction m with
  | nil =>
    intro lo _
    by_cases hb : b = 0#8
    · simp [Memory.put, hb, Memory.get]
    · simp [Memory.put, hb, Memory.get]
  | cons x rest ih =>
    obtain ⟨k, d⟩ := x
    intro lo h
    have hrest : Memory.wfFrom (some k) rest = true := by
      simp only [Memory.wfFrom, Bool.and_eq_true] at h; exact h.2
    unfold Memory.put
    by_cases h1 : a < k
    · by_cases hb : b = 0#8
      · have hk : k ≠ a := by omega
        have := get_below rest hrest (Nat.le_of_lt h1)
        simp [h1, hb, Memory.get, hk, this]
      · simp [h1, hb, Memory.get]
    · by_cases h2 : a = k
      · subst h2
        by_cases hb : b = 0#8
        · simp only [h1, hb, ↓reduceIte]
          simpa using get_below rest hrest (Nat.le_refl _)
        · simp [hb, Memory.get]
      · have hk : k ≠ a := fun hh => h2 hh.symm
        simp only [h1, h2, ↓reduceIte, Memory.get, hk]
        exact ih hrest

theorem get_put_same (m : Memory) (a : Nat) (b : Byte) (h : m.wf = true) : (m.put a b).get a = b :=
  get_put_same_from m a b (lo := none) h

/-- Bytes written outside a range leave a byte. -/
theorem get_puts_outside (bs : List Byte) : ∀ (m : Memory) (a c : Nat), (c < a ∨ a + bs.length ≤ c) →
    (m.puts a bs).get c = m.get c := by
  induction bs with
  | nil => intros; rfl
  | cons b rest ih =>
    intro m a c h
    simp only [List.length_cons] at h
    simp only [Memory.puts]
    rw [ih (m.put a b) (a + 1) c (by omega), get_put_other m a c b (by omega)]

/-- Bytes written read back. -/
theorem get_puts_inside (bs : List Byte) : ∀ (m : Memory) (a k : Nat), m.wf = true → k < bs.length →
    (m.puts a bs).get (a + k) = bs.getD k 0 := by
  induction bs with
  | nil => intro m a k _ h; exact absurd h (Nat.not_lt_zero k)
  | cons b rest ih =>
    intro m a k hm h
    simp only [Memory.puts]
    cases k with
    | zero =>
      rw [get_puts_outside rest (m.put a b) (a + 1) (a + 0) (by omega)]
      simp [get_put_same m a b hm]
    | succ k =>
      have := ih (m.put a b) (a + 1) k (put_wf m a b hm) (by simpa using h)
      rw [show a + (k + 1) = a + 1 + k by omega, this]
      simp

/-! Little-endian bytes (00 R5). -/

@[simp] theorem bytesOf_length (n x : Nat) : (bytesOf n x).length = n := by
  induction n generalizing x with
  | zero => rfl
  | succ m ih => simp [bytesOf, ih]

theorem ofBytes_bytesOf (n x : Nat) : ofBytes (bytesOf n x) = x % 256 ^ n := by
  induction n generalizing x with
  | zero => simp [bytesOf, ofBytes, Nat.mod_one]
  | succ m ih =>
    simp only [bytesOf, ofBytes, ih, BitVec.toNat_ofNat]
    rw [show 256 ^ (m + 1) = 256 * 256 ^ m by rw [Nat.pow_succ, Nat.mul_comm], Nat.mod_mul]

/-! Lists by number. -/

theorem nmap_get_insert (m : NMap α) (k : Nat) (v : α) (h : NMap.get? m k = none) :
    NMap.get? (NMap.insert m k v) k = some v := by
  induction m with
  | nil => simp [NMap.insert, NMap.get?]
  | cons x rest ih =>
    by_cases hj : x.1 = k
    · simp [NMap.get?, hj] at h
    · simp only [NMap.get?, hj, if_false] at h
      unfold NMap.insert
      split
      · simp [NMap.get?]
      · simp [NMap.get?, hj, ih h]

theorem nmap_get_replace (m : NMap α) (k : Nat) (v : α) (h : (NMap.get? m k).isSome = true) :
    NMap.get? (NMap.replace m k v) k = some v := by
  induction m with
  | nil => simp [NMap.get?] at h
  | cons x rest ih =>
    unfold NMap.replace
    split
    · simp [NMap.get?]
    · rename_i hj
      simp only [NMap.get?, hj, if_false] at h ⊢
      exact ih h

@[simp] theorem nmap_get_set (m : NMap α) (k : Nat) (v : α) : NMap.get? (NMap.set m k v) k = some v := by
  unfold NMap.set
  split
  · exact nmap_get_replace m k v ‹_›
  · exact nmap_get_insert m k v (Option.not_isSome_iff_eq_none.1 ‹_›)

theorem nmap_get_set_other (m : NMap α) (k j : Nat) (v : α) (h : j ≠ k) :
    NMap.get? (NMap.set m k v) j = NMap.get? m j := by
  have h1 : NMap.get? (NMap.insert m k v) j = NMap.get? m j := by
    induction m with
    | nil => simp [NMap.insert, NMap.get?, Ne.symm h]
    | cons x rest ih => unfold NMap.insert; split <;> simp [NMap.get?, Ne.symm h, ih]
  have h2 : NMap.get? (NMap.replace m k v) j = NMap.get? m j := by
    clear h1
    induction m with
    | nil => rfl
    | cons x rest ih =>
      unfold NMap.replace
      split
      · rename_i hj; simp [NMap.get?, Ne.symm h, hj]
      · simp only [NMap.get?, ih]
  unfold NMap.set
  split <;> assumption

@[simp] theorem nmap_get_erase (m : NMap α) (k : Nat) : NMap.get? (NMap.erase m k) k = none := by
  induction m with
  | nil => rfl
  | cons x rest ih =>
    unfold NMap.erase at ih ⊢
    by_cases h : x.1 = k <;> simp [h, ih, NMap.get?]

@[simp] theorem nmap_getD_set (m : NMap α) (k : Nat) (v d : α) : NMap.getD (NMap.set m k v) k d = v := by
  simp [NMap.getD]

end Sys2Proof.Machine
end

