-- ==== Sys2Proof/Laws/State.lean ====
section
/-! SUPPORT. What each update of the state leaves and what it writes, field by field. -/

namespace Sys2Proof.Machine

/-! `post`. -/

@[simp] theorem State.post_cycle (s : State) (i : Instr) : (s.post i).cycle = s.cycle := rfl
@[simp] theorem State.post_gt (s : State) (i : Instr) : (s.post i).gt = s.gt := rfl
@[simp] theorem State.post_mem (s : State) (i : Instr) : (s.post i).mem = s.mem := rfl
@[simp] theorem State.post_hostMem (s : State) (i : Instr) : (s.post i).hostMem = s.hostMem := rfl
@[simp] theorem State.post_peerMem (s : State) (i : Instr) : (s.post i).peerMem = s.peerMem := rfl
@[simp] theorem State.post_sectors (s : State) (i : Instr) : (s.post i).sectors = s.sectors := rfl
@[simp] theorem State.post_floors (s : State) (i : Instr) : (s.post i).floors = s.floors := rfl
@[simp] theorem State.post_poison (s : State) (i : Instr) : (s.post i).poison = s.poison := rfl
@[simp] theorem State.post_lines (s : State) (i : Instr) : (s.post i).lines = s.lines := rfl
@[simp] theorem State.post_asids (s : State) (i : Instr) : (s.post i).asids = s.asids := rfl
@[simp] theorem State.post_scrubs (s : State) (i : Instr) : (s.post i).scrubs = s.scrubs := rfl
@[simp] theorem State.post_atsPending (s : State) (i : Instr) : (s.post i).atsPending = s.atsPending := rfl
@[simp] theorem State.post_copies (s : State) (i : Instr) : (s.post i).copies = s.copies := rfl
@[simp] theorem State.post_tlbs (s : State) (i : Instr) : (s.post i).tlbs = s.tlbs := rfl
@[simp] theorem State.post_urgent (s : State) (i : Instr) : (s.post i).urgent = s.urgent := rfl
@[simp] theorem State.post_sealTable (s : State) (i : Instr) : (s.post i).sealTable = s.sealTable := rfl
@[simp] theorem State.post_ctxs (s : State) (i : Instr) : (s.post i).ctxs = s.ctxs := rfl
@[simp] theorem State.post_aborting (s : State) (i : Instr) : (s.post i).aborting = s.aborting := rfl
@[simp] theorem State.post_linksDown (s : State) (i : Instr) : (s.post i).linksDown = s.linksDown := rfl
@[simp] theorem State.post_linkOwners (s : State) (i : Instr) : (s.post i).linkOwners = s.linkOwners := rfl
@[simp] theorem State.post_lostPeers (s : State) (i : Instr) : (s.post i).lostPeers = s.lostPeers := rfl
@[simp] theorem State.post_clusters (s : State) (i : Instr) : (s.post i).clusters = s.clusters := rfl
@[simp] theorem State.post_launches (s : State) (i : Instr) : (s.post i).launches = s.launches := rfl
@[simp] theorem State.post_impressions (s : State) (i : Instr) : (s.post i).impressions = s.impressions := rfl
@[simp] theorem State.post_tickets (s : State) (i : Instr) : (s.post i).tickets = s.tickets := rfl
@[simp] theorem State.post_items (s : State) (i : Instr) : (s.post i).items = s.items := rfl
@[simp] theorem State.post_teams (s : State) (i : Instr) : (s.post i).teams = s.teams := rfl
@[simp] theorem State.post_waves (s : State) (i : Instr) : (s.post i).waves = s.waves := rfl
@[simp] theorem State.post_cur (s : State) (i : Instr) : (s.post i).cur = s.cur := rfl
@[simp] theorem State.post_who (s : State) (i : Instr) : (s.post i).who = s.who := rfl
@[simp] theorem State.post_rings (s : State) (i : Instr) : (s.post i).rings = s.rings := rfl
@[simp] theorem State.post_scan (s : State) (i : Instr) : (s.post i).scan = s.scan := rfl
@[simp] theorem State.post_groups (s : State) (i : Instr) : (s.post i).groups = s.groups := rfl
@[simp] theorem State.post_kvs (s : State) (i : Instr) : (s.post i).kvs = s.kvs := rfl
@[simp] theorem State.post_mills (s : State) (i : Instr) : (s.post i).mills = s.mills := rfl
@[simp] theorem State.post_lifetime (s : State) (i : Instr) : (s.post i).lifetime = s.lifetime := rfl
@[simp] theorem State.post_throttle (s : State) (i : Instr) : (s.post i).throttle = s.throttle := rfl
@[simp] theorem State.post_firmware (s : State) (i : Instr) : (s.post i).firmware = s.firmware := rfl
@[simp] theorem State.post_rollback (s : State) (i : Instr) : (s.post i).rollback = s.rollback := rfl
@[simp] theorem State.post_outbox (s : State) (i : Instr) : (s.post i).outbox = s.outbox := rfl
@[simp] theorem State.post_agenda (s : State) (i : Instr) : (s.post i).agenda = s.agenda ++ [i] := rfl
@[simp] theorem State.post_focus (s : State) (i : Instr) : (s.post i).focus = s.focus := rfl
@[simp] theorem State.post_issue (s : State) (i : Instr) : (s.post i).issue = s.issue := rfl
@[simp] theorem State.post_fresh (s : State) (i : Instr) : (s.post i).fresh = s.fresh := rfl
@[simp] theorem State.post_nextId (s : State) (i : Instr) : (s.post i).nextId = s.nextId := rfl
@[simp] theorem State.post_time (s : State) (i : Instr) : (s.post i).time = s.time := rfl
@[simp] theorem State.post_msixMasked (s : State) (i : Instr) : (s.post i).msixMasked = s.msixMasked := rfl
@[simp] theorem State.post_msixPending (s : State) (i : Instr) : (s.post i).msixPending = s.msixPending := rfl

/-! `send`. -/

@[simp] theorem State.send_cycle (s : State) (o : Out) : (s.send o).cycle = s.cycle := rfl
@[simp] theorem State.send_gt (s : State) (o : Out) : (s.send o).gt = s.gt := rfl
@[simp] theorem State.send_mem (s : State) (o : Out) : (s.send o).mem = s.mem := rfl
@[simp] theorem State.send_hostMem (s : State) (o : Out) : (s.send o).hostMem = s.hostMem := rfl
@[simp] theorem State.send_peerMem (s : State) (o : Out) : (s.send o).peerMem = s.peerMem := rfl
@[simp] theorem State.send_sectors (s : State) (o : Out) : (s.send o).sectors = s.sectors := rfl
@[simp] theorem State.send_floors (s : State) (o : Out) : (s.send o).floors = s.floors := rfl
@[simp] theorem State.send_poison (s : State) (o : Out) : (s.send o).poison = s.poison := rfl
@[simp] theorem State.send_lines (s : State) (o : Out) : (s.send o).lines = s.lines := rfl
@[simp] theorem State.send_asids (s : State) (o : Out) : (s.send o).asids = s.asids := rfl
@[simp] theorem State.send_scrubs (s : State) (o : Out) : (s.send o).scrubs = s.scrubs := rfl
@[simp] theorem State.send_atsPending (s : State) (o : Out) : (s.send o).atsPending = s.atsPending := rfl
@[simp] theorem State.send_copies (s : State) (o : Out) : (s.send o).copies = s.copies := rfl
@[simp] theorem State.send_tlbs (s : State) (o : Out) : (s.send o).tlbs = s.tlbs := rfl
@[simp] theorem State.send_urgent (s : State) (o : Out) : (s.send o).urgent = s.urgent := rfl
@[simp] theorem State.send_sealTable (s : State) (o : Out) : (s.send o).sealTable = s.sealTable := rfl
@[simp] theorem State.send_ctxs (s : State) (o : Out) : (s.send o).ctxs = s.ctxs := rfl
@[simp] theorem State.send_aborting (s : State) (o : Out) : (s.send o).aborting = s.aborting := rfl
@[simp] theorem State.send_linksDown (s : State) (o : Out) : (s.send o).linksDown = s.linksDown := rfl
@[simp] theorem State.send_linkOwners (s : State) (o : Out) : (s.send o).linkOwners = s.linkOwners := rfl
@[simp] theorem State.send_lostPeers (s : State) (o : Out) : (s.send o).lostPeers = s.lostPeers := rfl
@[simp] theorem State.send_clusters (s : State) (o : Out) : (s.send o).clusters = s.clusters := rfl
@[simp] theorem State.send_launches (s : State) (o : Out) : (s.send o).launches = s.launches := rfl
@[simp] theorem State.send_impressions (s : State) (o : Out) : (s.send o).impressions = s.impressions := rfl
@[simp] theorem State.send_tickets (s : State) (o : Out) : (s.send o).tickets = s.tickets := rfl
@[simp] theorem State.send_items (s : State) (o : Out) : (s.send o).items = s.items := rfl
@[simp] theorem State.send_teams (s : State) (o : Out) : (s.send o).teams = s.teams := rfl
@[simp] theorem State.send_waves (s : State) (o : Out) : (s.send o).waves = s.waves := rfl
@[simp] theorem State.send_cur (s : State) (o : Out) : (s.send o).cur = s.cur := rfl
@[simp] theorem State.send_who (s : State) (o : Out) : (s.send o).who = s.who := rfl
@[simp] theorem State.send_rings (s : State) (o : Out) : (s.send o).rings = s.rings := rfl
@[simp] theorem State.send_scan (s : State) (o : Out) : (s.send o).scan = s.scan := rfl
@[simp] theorem State.send_groups (s : State) (o : Out) : (s.send o).groups = s.groups := rfl
@[simp] theorem State.send_kvs (s : State) (o : Out) : (s.send o).kvs = s.kvs := rfl
@[simp] theorem State.send_mills (s : State) (o : Out) : (s.send o).mills = s.mills := rfl
@[simp] theorem State.send_lifetime (s : State) (o : Out) : (s.send o).lifetime = s.lifetime := rfl
@[simp] theorem State.send_throttle (s : State) (o : Out) : (s.send o).throttle = s.throttle := rfl
@[simp] theorem State.send_firmware (s : State) (o : Out) : (s.send o).firmware = s.firmware := rfl
@[simp] theorem State.send_rollback (s : State) (o : Out) : (s.send o).rollback = s.rollback := rfl
@[simp] theorem State.send_outbox (s : State) (o : Out) : (s.send o).outbox = s.outbox ++ [o] := rfl
@[simp] theorem State.send_agenda (s : State) (o : Out) : (s.send o).agenda = s.agenda := rfl
@[simp] theorem State.send_focus (s : State) (o : Out) : (s.send o).focus = s.focus := rfl
@[simp] theorem State.send_issue (s : State) (o : Out) : (s.send o).issue = s.issue := rfl
@[simp] theorem State.send_fresh (s : State) (o : Out) : (s.send o).fresh = s.fresh := rfl
@[simp] theorem State.send_nextId (s : State) (o : Out) : (s.send o).nextId = s.nextId := rfl
@[simp] theorem State.send_time (s : State) (o : Out) : (s.send o).time = s.time := rfl
@[simp] theorem State.send_msixMasked (s : State) (o : Out) : (s.send o).msixMasked = s.msixMasked := rfl
@[simp] theorem State.send_msixPending (s : State) (o : Out) : (s.send o).msixPending = s.msixPending := rfl

/-! `setCtx`. -/

@[simp] theorem State.setCtx_cycle (s : State) (n : Nat) (c : Ctx) : (s.setCtx n c).cycle = s.cycle := rfl
@[simp] theorem State.setCtx_gt (s : State) (n : Nat) (c : Ctx) : (s.setCtx n c).gt = s.gt := rfl
@[simp] theorem State.setCtx_mem (s : State) (n : Nat) (c : Ctx) : (s.setCtx n c).mem = s.mem := rfl
@[simp] theorem State.setCtx_hostMem (s : State) (n : Nat) (c : Ctx) : (s.setCtx n c).hostMem = s.hostMem := rfl
@[simp] theorem State.setCtx_peerMem (s : State) (n : Nat) (c : Ctx) : (s.setCtx n c).peerMem = s.peerMem := rfl
@[simp] theorem State.setCtx_sectors (s : State) (n : Nat) (c : Ctx) : (s.setCtx n c).sectors = s.sectors := rfl
@[simp] theorem State.setCtx_floors (s : State) (n : Nat) (c : Ctx) : (s.setCtx n c).floors = s.floors := rfl
@[simp] theorem State.setCtx_poison (s : State) (n : Nat) (c : Ctx) : (s.setCtx n c).poison = s.poison := rfl
@[simp] theorem State.setCtx_lines (s : State) (n : Nat) (c : Ctx) : (s.setCtx n c).lines = s.lines := rfl
@[simp] theorem State.setCtx_asids (s : State) (n : Nat) (c : Ctx) : (s.setCtx n c).asids = s.asids := rfl
@[simp] theorem State.setCtx_scrubs (s : State) (n : Nat) (c : Ctx) : (s.setCtx n c).scrubs = s.scrubs := rfl
@[simp] theorem State.setCtx_atsPending (s : State) (n : Nat) (c : Ctx) : (s.setCtx n c).atsPending = s.atsPending := rfl
@[simp] theorem State.setCtx_copies (s : State) (n : Nat) (c : Ctx) : (s.setCtx n c).copies = s.copies := rfl
@[simp] theorem State.setCtx_tlbs (s : State) (n : Nat) (c : Ctx) : (s.setCtx n c).tlbs = s.tlbs := rfl
@[simp] theorem State.setCtx_urgent (s : State) (n : Nat) (c : Ctx) : (s.setCtx n c).urgent = s.urgent := rfl
@[simp] theorem State.setCtx_sealTable (s : State) (n : Nat) (c : Ctx) : (s.setCtx n c).sealTable = s.sealTable := rfl
@[simp] theorem State.setCtx_ctxs (s : State) (n : Nat) (c : Ctx) : (s.setCtx n c).ctxs = NMap.set s.ctxs n c := rfl
@[simp] theorem State.setCtx_aborting (s : State) (n : Nat) (c : Ctx) : (s.setCtx n c).aborting = s.aborting := rfl
@[simp] theorem State.setCtx_linksDown (s : State) (n : Nat) (c : Ctx) : (s.setCtx n c).linksDown = s.linksDown := rfl
@[simp] theorem State.setCtx_linkOwners (s : State) (n : Nat) (c : Ctx) : (s.setCtx n c).linkOwners = s.linkOwners := rfl
@[simp] theorem State.setCtx_lostPeers (s : State) (n : Nat) (c : Ctx) : (s.setCtx n c).lostPeers = s.lostPeers := rfl
@[simp] theorem State.setCtx_clusters (s : State) (n : Nat) (c : Ctx) : (s.setCtx n c).clusters = s.clusters := rfl
@[simp] theorem State.setCtx_launches (s : State) (n : Nat) (c : Ctx) : (s.setCtx n c).launches = s.launches := rfl
@[simp] theorem State.setCtx_impressions (s : State) (n : Nat) (c : Ctx) : (s.setCtx n c).impressions = s.impressions := rfl
@[simp] theorem State.setCtx_tickets (s : State) (n : Nat) (c : Ctx) : (s.setCtx n c).tickets = s.tickets := rfl
@[simp] theorem State.setCtx_items (s : State) (n : Nat) (c : Ctx) : (s.setCtx n c).items = s.items := rfl
@[simp] theorem State.setCtx_teams (s : State) (n : Nat) (c : Ctx) : (s.setCtx n c).teams = s.teams := rfl
@[simp] theorem State.setCtx_waves (s : State) (n : Nat) (c : Ctx) : (s.setCtx n c).waves = s.waves := rfl
@[simp] theorem State.setCtx_cur (s : State) (n : Nat) (c : Ctx) : (s.setCtx n c).cur = s.cur := rfl
@[simp] theorem State.setCtx_who (s : State) (n : Nat) (c : Ctx) : (s.setCtx n c).who = s.who := rfl
@[simp] theorem State.setCtx_rings (s : State) (n : Nat) (c : Ctx) : (s.setCtx n c).rings = s.rings := rfl
@[simp] theorem State.setCtx_scan (s : State) (n : Nat) (c : Ctx) : (s.setCtx n c).scan = s.scan := rfl
@[simp] theorem State.setCtx_groups (s : State) (n : Nat) (c : Ctx) : (s.setCtx n c).groups = s.groups := rfl
@[simp] theorem State.setCtx_kvs (s : State) (n : Nat) (c : Ctx) : (s.setCtx n c).kvs = s.kvs := rfl
@[simp] theorem State.setCtx_mills (s : State) (n : Nat) (c : Ctx) : (s.setCtx n c).mills = s.mills := rfl
@[simp] theorem State.setCtx_lifetime (s : State) (n : Nat) (c : Ctx) : (s.setCtx n c).lifetime = s.lifetime := rfl
@[simp] theorem State.setCtx_throttle (s : State) (n : Nat) (c : Ctx) : (s.setCtx n c).throttle = s.throttle := rfl
@[simp] theorem State.setCtx_firmware (s : State) (n : Nat) (c : Ctx) : (s.setCtx n c).firmware = s.firmware := rfl
@[simp] theorem State.setCtx_rollback (s : State) (n : Nat) (c : Ctx) : (s.setCtx n c).rollback = s.rollback := rfl
@[simp] theorem State.setCtx_outbox (s : State) (n : Nat) (c : Ctx) : (s.setCtx n c).outbox = s.outbox := rfl
@[simp] theorem State.setCtx_agenda (s : State) (n : Nat) (c : Ctx) : (s.setCtx n c).agenda = s.agenda := rfl
@[simp] theorem State.setCtx_focus (s : State) (n : Nat) (c : Ctx) : (s.setCtx n c).focus = s.focus := rfl
@[simp] theorem State.setCtx_issue (s : State) (n : Nat) (c : Ctx) : (s.setCtx n c).issue = s.issue := rfl
@[simp] theorem State.setCtx_fresh (s : State) (n : Nat) (c : Ctx) : (s.setCtx n c).fresh = s.fresh := rfl
@[simp] theorem State.setCtx_nextId (s : State) (n : Nat) (c : Ctx) : (s.setCtx n c).nextId = s.nextId := rfl
@[simp] theorem State.setCtx_time (s : State) (n : Nat) (c : Ctx) : (s.setCtx n c).time = s.time := rfl
@[simp] theorem State.setCtx_msixMasked (s : State) (n : Nat) (c : Ctx) : (s.setCtx n c).msixMasked = s.msixMasked := rfl
@[simp] theorem State.setCtx_msixPending (s : State) (n : Nat) (c : Ctx) : (s.setCtx n c).msixPending = s.msixPending := rfl

/-! `setCluster`. -/

@[simp] theorem State.setCluster_cycle (s : State) (n : Nat) (c : Cluster) : (s.setCluster n c).cycle = s.cycle := rfl
@[simp] theorem State.setCluster_gt (s : State) (n : Nat) (c : Cluster) : (s.setCluster n c).gt = s.gt := rfl
@[simp] theorem State.setCluster_mem (s : State) (n : Nat) (c : Cluster) : (s.setCluster n c).mem = s.mem := rfl
@[simp] theorem State.setCluster_hostMem (s : State) (n : Nat) (c : Cluster) : (s.setCluster n c).hostMem = s.hostMem := rfl
@[simp] theorem State.setCluster_peerMem (s : State) (n : Nat) (c : Cluster) : (s.setCluster n c).peerMem = s.peerMem := rfl
@[simp] theorem State.setCluster_sectors (s : State) (n : Nat) (c : Cluster) : (s.setCluster n c).sectors = s.sectors := rfl
@[simp] theorem State.setCluster_floors (s : State) (n : Nat) (c : Cluster) : (s.setCluster n c).floors = s.floors := rfl
@[simp] theorem State.setCluster_poison (s : State) (n : Nat) (c : Cluster) : (s.setCluster n c).poison = s.poison := rfl
@[simp] theorem State.setCluster_lines (s : State) (n : Nat) (c : Cluster) : (s.setCluster n c).lines = s.lines := rfl
@[simp] theorem State.setCluster_asids (s : State) (n : Nat) (c : Cluster) : (s.setCluster n c).asids = s.asids := rfl
@[simp] theorem State.setCluster_scrubs (s : State) (n : Nat) (c : Cluster) : (s.setCluster n c).scrubs = s.scrubs := rfl
@[simp] theorem State.setCluster_atsPending (s : State) (n : Nat) (c : Cluster) : (s.setCluster n c).atsPending = s.atsPending := rfl
@[simp] theorem State.setCluster_copies (s : State) (n : Nat) (c : Cluster) : (s.setCluster n c).copies = s.copies := rfl
@[simp] theorem State.setCluster_tlbs (s : State) (n : Nat) (c : Cluster) : (s.setCluster n c).tlbs = s.tlbs := rfl
@[simp] theorem State.setCluster_urgent (s : State) (n : Nat) (c : Cluster) : (s.setCluster n c).urgent = s.urgent := rfl
@[simp] theorem State.setCluster_sealTable (s : State) (n : Nat) (c : Cluster) : (s.setCluster n c).sealTable = s.sealTable := rfl
@[simp] theorem State.setCluster_ctxs (s : State) (n : Nat) (c : Cluster) : (s.setCluster n c).ctxs = s.ctxs := rfl
@[simp] theorem State.setCluster_aborting (s : State) (n : Nat) (c : Cluster) : (s.setCluster n c).aborting = s.aborting := rfl
@[simp] theorem State.setCluster_linksDown (s : State) (n : Nat) (c : Cluster) : (s.setCluster n c).linksDown = s.linksDown := rfl
@[simp] theorem State.setCluster_linkOwners (s : State) (n : Nat) (c : Cluster) : (s.setCluster n c).linkOwners = s.linkOwners := rfl
@[simp] theorem State.setCluster_lostPeers (s : State) (n : Nat) (c : Cluster) : (s.setCluster n c).lostPeers = s.lostPeers := rfl
@[simp] theorem State.setCluster_clusters (s : State) (n : Nat) (c : Cluster) : (s.setCluster n c).clusters = NMap.set s.clusters n c := rfl
@[simp] theorem State.setCluster_launches (s : State) (n : Nat) (c : Cluster) : (s.setCluster n c).launches = s.launches := rfl
@[simp] theorem State.setCluster_impressions (s : State) (n : Nat) (c : Cluster) : (s.setCluster n c).impressions = s.impressions := rfl
@[simp] theorem State.setCluster_tickets (s : State) (n : Nat) (c : Cluster) : (s.setCluster n c).tickets = s.tickets := rfl
@[simp] theorem State.setCluster_items (s : State) (n : Nat) (c : Cluster) : (s.setCluster n c).items = s.items := rfl
@[simp] theorem State.setCluster_teams (s : State) (n : Nat) (c : Cluster) : (s.setCluster n c).teams = s.teams := rfl
@[simp] theorem State.setCluster_waves (s : State) (n : Nat) (c : Cluster) : (s.setCluster n c).waves = s.waves := rfl
@[simp] theorem State.setCluster_cur (s : State) (n : Nat) (c : Cluster) : (s.setCluster n c).cur = s.cur := rfl
@[simp] theorem State.setCluster_who (s : State) (n : Nat) (c : Cluster) : (s.setCluster n c).who = s.who := rfl
@[simp] theorem State.setCluster_rings (s : State) (n : Nat) (c : Cluster) : (s.setCluster n c).rings = s.rings := rfl
@[simp] theorem State.setCluster_scan (s : State) (n : Nat) (c : Cluster) : (s.setCluster n c).scan = s.scan := rfl
@[simp] theorem State.setCluster_groups (s : State) (n : Nat) (c : Cluster) : (s.setCluster n c).groups = s.groups := rfl
@[simp] theorem State.setCluster_kvs (s : State) (n : Nat) (c : Cluster) : (s.setCluster n c).kvs = s.kvs := rfl
@[simp] theorem State.setCluster_mills (s : State) (n : Nat) (c : Cluster) : (s.setCluster n c).mills = s.mills := rfl
@[simp] theorem State.setCluster_lifetime (s : State) (n : Nat) (c : Cluster) : (s.setCluster n c).lifetime = s.lifetime := rfl
@[simp] theorem State.setCluster_throttle (s : State) (n : Nat) (c : Cluster) : (s.setCluster n c).throttle = s.throttle := rfl
@[simp] theorem State.setCluster_firmware (s : State) (n : Nat) (c : Cluster) : (s.setCluster n c).firmware = s.firmware := rfl
@[simp] theorem State.setCluster_rollback (s : State) (n : Nat) (c : Cluster) : (s.setCluster n c).rollback = s.rollback := rfl
@[simp] theorem State.setCluster_outbox (s : State) (n : Nat) (c : Cluster) : (s.setCluster n c).outbox = s.outbox := rfl
@[simp] theorem State.setCluster_agenda (s : State) (n : Nat) (c : Cluster) : (s.setCluster n c).agenda = s.agenda := rfl
@[simp] theorem State.setCluster_focus (s : State) (n : Nat) (c : Cluster) : (s.setCluster n c).focus = s.focus := rfl
@[simp] theorem State.setCluster_issue (s : State) (n : Nat) (c : Cluster) : (s.setCluster n c).issue = s.issue := rfl
@[simp] theorem State.setCluster_fresh (s : State) (n : Nat) (c : Cluster) : (s.setCluster n c).fresh = s.fresh := rfl
@[simp] theorem State.setCluster_nextId (s : State) (n : Nat) (c : Cluster) : (s.setCluster n c).nextId = s.nextId := rfl
@[simp] theorem State.setCluster_time (s : State) (n : Nat) (c : Cluster) : (s.setCluster n c).time = s.time := rfl
@[simp] theorem State.setCluster_msixMasked (s : State) (n : Nat) (c : Cluster) : (s.setCluster n c).msixMasked = s.msixMasked := rfl
@[simp] theorem State.setCluster_msixPending (s : State) (n : Nat) (c : Cluster) : (s.setCluster n c).msixPending = s.msixPending := rfl

/-! `setSector`. -/

@[simp] theorem State.setSector_cycle (s : State) (n : Nat) (x : Sector) : (s.setSector n x).cycle = s.cycle := rfl
@[simp] theorem State.setSector_gt (s : State) (n : Nat) (x : Sector) : (s.setSector n x).gt = s.gt := rfl
@[simp] theorem State.setSector_mem (s : State) (n : Nat) (x : Sector) : (s.setSector n x).mem = s.mem := rfl
@[simp] theorem State.setSector_hostMem (s : State) (n : Nat) (x : Sector) : (s.setSector n x).hostMem = s.hostMem := rfl
@[simp] theorem State.setSector_peerMem (s : State) (n : Nat) (x : Sector) : (s.setSector n x).peerMem = s.peerMem := rfl
@[simp] theorem State.setSector_floors (s : State) (n : Nat) (x : Sector) : (s.setSector n x).floors = s.floors := rfl
@[simp] theorem State.setSector_poison (s : State) (n : Nat) (x : Sector) : (s.setSector n x).poison = s.poison := rfl
@[simp] theorem State.setSector_lines (s : State) (n : Nat) (x : Sector) : (s.setSector n x).lines = s.lines := rfl
@[simp] theorem State.setSector_asids (s : State) (n : Nat) (x : Sector) : (s.setSector n x).asids = s.asids := rfl
@[simp] theorem State.setSector_scrubs (s : State) (n : Nat) (x : Sector) : (s.setSector n x).scrubs = s.scrubs := rfl
@[simp] theorem State.setSector_atsPending (s : State) (n : Nat) (x : Sector) : (s.setSector n x).atsPending = s.atsPending := rfl
@[simp] theorem State.setSector_copies (s : State) (n : Nat) (x : Sector) : (s.setSector n x).copies = s.copies := rfl
@[simp] theorem State.setSector_tlbs (s : State) (n : Nat) (x : Sector) : (s.setSector n x).tlbs = s.tlbs := rfl
@[simp] theorem State.setSector_urgent (s : State) (n : Nat) (x : Sector) : (s.setSector n x).urgent = s.urgent := rfl
@[simp] theorem State.setSector_sealTable (s : State) (n : Nat) (x : Sector) : (s.setSector n x).sealTable = s.sealTable := rfl
@[simp] theorem State.setSector_ctxs (s : State) (n : Nat) (x : Sector) : (s.setSector n x).ctxs = s.ctxs := rfl
@[simp] theorem State.setSector_aborting (s : State) (n : Nat) (x : Sector) : (s.setSector n x).aborting = s.aborting := rfl
@[simp] theorem State.setSector_linksDown (s : State) (n : Nat) (x : Sector) : (s.setSector n x).linksDown = s.linksDown := rfl
@[simp] theorem State.setSector_linkOwners (s : State) (n : Nat) (x : Sector) : (s.setSector n x).linkOwners = s.linkOwners := rfl
@[simp] theorem State.setSector_lostPeers (s : State) (n : Nat) (x : Sector) : (s.setSector n x).lostPeers = s.lostPeers := rfl
@[simp] theorem State.setSector_clusters (s : State) (n : Nat) (x : Sector) : (s.setSector n x).clusters = s.clusters := rfl
@[simp] theorem State.setSector_launches (s : State) (n : Nat) (x : Sector) : (s.setSector n x).launches = s.launches := rfl
@[simp] theorem State.setSector_impressions (s : State) (n : Nat) (x : Sector) : (s.setSector n x).impressions = s.impressions := rfl
@[simp] theorem State.setSector_tickets (s : State) (n : Nat) (x : Sector) : (s.setSector n x).tickets = s.tickets := rfl
@[simp] theorem State.setSector_items (s : State) (n : Nat) (x : Sector) : (s.setSector n x).items = s.items := rfl
@[simp] theorem State.setSector_teams (s : State) (n : Nat) (x : Sector) : (s.setSector n x).teams = s.teams := rfl
@[simp] theorem State.setSector_waves (s : State) (n : Nat) (x : Sector) : (s.setSector n x).waves = s.waves := rfl
@[simp] theorem State.setSector_cur (s : State) (n : Nat) (x : Sector) : (s.setSector n x).cur = s.cur := rfl
@[simp] theorem State.setSector_who (s : State) (n : Nat) (x : Sector) : (s.setSector n x).who = s.who := rfl
@[simp] theorem State.setSector_rings (s : State) (n : Nat) (x : Sector) : (s.setSector n x).rings = s.rings := rfl
@[simp] theorem State.setSector_scan (s : State) (n : Nat) (x : Sector) : (s.setSector n x).scan = s.scan := rfl
@[simp] theorem State.setSector_groups (s : State) (n : Nat) (x : Sector) : (s.setSector n x).groups = s.groups := rfl
@[simp] theorem State.setSector_kvs (s : State) (n : Nat) (x : Sector) : (s.setSector n x).kvs = s.kvs := rfl
@[simp] theorem State.setSector_mills (s : State) (n : Nat) (x : Sector) : (s.setSector n x).mills = s.mills := rfl
@[simp] theorem State.setSector_lifetime (s : State) (n : Nat) (x : Sector) : (s.setSector n x).lifetime = s.lifetime := rfl
@[simp] theorem State.setSector_throttle (s : State) (n : Nat) (x : Sector) : (s.setSector n x).throttle = s.throttle := rfl
@[simp] theorem State.setSector_firmware (s : State) (n : Nat) (x : Sector) : (s.setSector n x).firmware = s.firmware := rfl
@[simp] theorem State.setSector_rollback (s : State) (n : Nat) (x : Sector) : (s.setSector n x).rollback = s.rollback := rfl
@[simp] theorem State.setSector_outbox (s : State) (n : Nat) (x : Sector) : (s.setSector n x).outbox = s.outbox := rfl
@[simp] theorem State.setSector_agenda (s : State) (n : Nat) (x : Sector) : (s.setSector n x).agenda = s.agenda := rfl
@[simp] theorem State.setSector_focus (s : State) (n : Nat) (x : Sector) : (s.setSector n x).focus = s.focus := rfl
@[simp] theorem State.setSector_issue (s : State) (n : Nat) (x : Sector) : (s.setSector n x).issue = s.issue := rfl
@[simp] theorem State.setSector_fresh (s : State) (n : Nat) (x : Sector) : (s.setSector n x).fresh = s.fresh := rfl
@[simp] theorem State.setSector_nextId (s : State) (n : Nat) (x : Sector) : (s.setSector n x).nextId = s.nextId := rfl
@[simp] theorem State.setSector_time (s : State) (n : Nat) (x : Sector) : (s.setSector n x).time = s.time := rfl
@[simp] theorem State.setSector_msixMasked (s : State) (n : Nat) (x : Sector) : (s.setSector n x).msixMasked = s.msixMasked := rfl
@[simp] theorem State.setSector_msixPending (s : State) (n : Nat) (x : Sector) : (s.setSector n x).msixPending = s.msixPending := rfl

/-! `setThread`. -/

@[simp] theorem State.setThread_cycle (s : State) (t : Thread) : (s.setThread t).cycle = s.cycle := rfl
@[simp] theorem State.setThread_gt (s : State) (t : Thread) : (s.setThread t).gt = s.gt := rfl
@[simp] theorem State.setThread_mem (s : State) (t : Thread) : (s.setThread t).mem = s.mem := rfl
@[simp] theorem State.setThread_hostMem (s : State) (t : Thread) : (s.setThread t).hostMem = s.hostMem := rfl
@[simp] theorem State.setThread_peerMem (s : State) (t : Thread) : (s.setThread t).peerMem = s.peerMem := rfl
@[simp] theorem State.setThread_sectors (s : State) (t : Thread) : (s.setThread t).sectors = s.sectors := rfl
@[simp] theorem State.setThread_floors (s : State) (t : Thread) : (s.setThread t).floors = s.floors := rfl
@[simp] theorem State.setThread_poison (s : State) (t : Thread) : (s.setThread t).poison = s.poison := rfl
@[simp] theorem State.setThread_lines (s : State) (t : Thread) : (s.setThread t).lines = s.lines := rfl
@[simp] theorem State.setThread_asids (s : State) (t : Thread) : (s.setThread t).asids = s.asids := rfl
@[simp] theorem State.setThread_scrubs (s : State) (t : Thread) : (s.setThread t).scrubs = s.scrubs := rfl
@[simp] theorem State.setThread_atsPending (s : State) (t : Thread) : (s.setThread t).atsPending = s.atsPending := rfl
@[simp] theorem State.setThread_copies (s : State) (t : Thread) : (s.setThread t).copies = s.copies := rfl
@[simp] theorem State.setThread_tlbs (s : State) (t : Thread) : (s.setThread t).tlbs = s.tlbs := rfl
@[simp] theorem State.setThread_urgent (s : State) (t : Thread) : (s.setThread t).urgent = s.urgent := rfl
@[simp] theorem State.setThread_sealTable (s : State) (t : Thread) : (s.setThread t).sealTable = s.sealTable := rfl
@[simp] theorem State.setThread_ctxs (s : State) (t : Thread) : (s.setThread t).ctxs = s.ctxs := rfl
@[simp] theorem State.setThread_aborting (s : State) (t : Thread) : (s.setThread t).aborting = s.aborting := rfl
@[simp] theorem State.setThread_linksDown (s : State) (t : Thread) : (s.setThread t).linksDown = s.linksDown := rfl
@[simp] theorem State.setThread_linkOwners (s : State) (t : Thread) : (s.setThread t).linkOwners = s.linkOwners := rfl
@[simp] theorem State.setThread_lostPeers (s : State) (t : Thread) : (s.setThread t).lostPeers = s.lostPeers := rfl
@[simp] theorem State.setThread_clusters (s : State) (t : Thread) : (s.setThread t).clusters = s.clusters := rfl
@[simp] theorem State.setThread_launches (s : State) (t : Thread) : (s.setThread t).launches = s.launches := rfl
@[simp] theorem State.setThread_impressions (s : State) (t : Thread) : (s.setThread t).impressions = s.impressions := rfl
@[simp] theorem State.setThread_tickets (s : State) (t : Thread) : (s.setThread t).tickets = s.tickets := rfl
@[simp] theorem State.setThread_items (s : State) (t : Thread) : (s.setThread t).items = s.items := rfl
@[simp] theorem State.setThread_teams (s : State) (t : Thread) : (s.setThread t).teams = s.teams := rfl
@[simp] theorem State.setThread_waves (s : State) (t : Thread) : (s.setThread t).waves = s.waves := rfl
@[simp] theorem State.setThread_cur (s : State) (t : Thread) : (s.setThread t).cur = s.cur.setThread s.who t := rfl
@[simp] theorem State.setThread_who (s : State) (t : Thread) : (s.setThread t).who = s.who := rfl
@[simp] theorem State.setThread_rings (s : State) (t : Thread) : (s.setThread t).rings = s.rings := rfl
@[simp] theorem State.setThread_scan (s : State) (t : Thread) : (s.setThread t).scan = s.scan := rfl
@[simp] theorem State.setThread_groups (s : State) (t : Thread) : (s.setThread t).groups = s.groups := rfl
@[simp] theorem State.setThread_kvs (s : State) (t : Thread) : (s.setThread t).kvs = s.kvs := rfl
@[simp] theorem State.setThread_mills (s : State) (t : Thread) : (s.setThread t).mills = s.mills := rfl
@[simp] theorem State.setThread_lifetime (s : State) (t : Thread) : (s.setThread t).lifetime = s.lifetime := rfl
@[simp] theorem State.setThread_throttle (s : State) (t : Thread) : (s.setThread t).throttle = s.throttle := rfl
@[simp] theorem State.setThread_firmware (s : State) (t : Thread) : (s.setThread t).firmware = s.firmware := rfl
@[simp] theorem State.setThread_rollback (s : State) (t : Thread) : (s.setThread t).rollback = s.rollback := rfl
@[simp] theorem State.setThread_outbox (s : State) (t : Thread) : (s.setThread t).outbox = s.outbox := rfl
@[simp] theorem State.setThread_agenda (s : State) (t : Thread) : (s.setThread t).agenda = s.agenda := rfl
@[simp] theorem State.setThread_focus (s : State) (t : Thread) : (s.setThread t).focus = s.focus := rfl
@[simp] theorem State.setThread_issue (s : State) (t : Thread) : (s.setThread t).issue = s.issue := rfl
@[simp] theorem State.setThread_fresh (s : State) (t : Thread) : (s.setThread t).fresh = s.fresh := rfl
@[simp] theorem State.setThread_nextId (s : State) (t : Thread) : (s.setThread t).nextId = s.nextId := rfl
@[simp] theorem State.setThread_time (s : State) (t : Thread) : (s.setThread t).time = s.time := rfl
@[simp] theorem State.setThread_msixMasked (s : State) (t : Thread) : (s.setThread t).msixMasked = s.msixMasked := rfl
@[simp] theorem State.setThread_msixPending (s : State) (t : Thread) : (s.setThread t).msixPending = s.msixPending := rfl

/-! `postOnce`. -/

@[simp] theorem State.postOnce_cycle (s : State) (i : Instr) : (s.postOnce i).cycle = s.cycle := by unfold State.postOnce; split <;> rfl
@[simp] theorem State.postOnce_gt (s : State) (i : Instr) : (s.postOnce i).gt = s.gt := by unfold State.postOnce; split <;> rfl
@[simp] theorem State.postOnce_mem (s : State) (i : Instr) : (s.postOnce i).mem = s.mem := by unfold State.postOnce; split <;> rfl
@[simp] theorem State.postOnce_hostMem (s : State) (i : Instr) : (s.postOnce i).hostMem = s.hostMem := by unfold State.postOnce; split <;> rfl
@[simp] theorem State.postOnce_peerMem (s : State) (i : Instr) : (s.postOnce i).peerMem = s.peerMem := by unfold State.postOnce; split <;> rfl
@[simp] theorem State.postOnce_sectors (s : State) (i : Instr) : (s.postOnce i).sectors = s.sectors := by unfold State.postOnce; split <;> rfl
@[simp] theorem State.postOnce_floors (s : State) (i : Instr) : (s.postOnce i).floors = s.floors := by unfold State.postOnce; split <;> rfl
@[simp] theorem State.postOnce_poison (s : State) (i : Instr) : (s.postOnce i).poison = s.poison := by unfold State.postOnce; split <;> rfl
@[simp] theorem State.postOnce_lines (s : State) (i : Instr) : (s.postOnce i).lines = s.lines := by unfold State.postOnce; split <;> rfl
@[simp] theorem State.postOnce_asids (s : State) (i : Instr) : (s.postOnce i).asids = s.asids := by unfold State.postOnce; split <;> rfl
@[simp] theorem State.postOnce_scrubs (s : State) (i : Instr) : (s.postOnce i).scrubs = s.scrubs := by unfold State.postOnce; split <;> rfl
@[simp] theorem State.postOnce_atsPending (s : State) (i : Instr) : (s.postOnce i).atsPending = s.atsPending := by unfold State.postOnce; split <;> rfl
@[simp] theorem State.postOnce_sealTable (s : State) (i : Instr) : (s.postOnce i).sealTable = s.sealTable := by unfold State.postOnce; split <;> rfl
@[simp] theorem State.postOnce_ctxs (s : State) (i : Instr) : (s.postOnce i).ctxs = s.ctxs := by unfold State.postOnce; split <;> rfl
@[simp] theorem State.postOnce_aborting (s : State) (i : Instr) : (s.postOnce i).aborting = s.aborting := by unfold State.postOnce; split <;> rfl
@[simp] theorem State.postOnce_linksDown (s : State) (i : Instr) : (s.postOnce i).linksDown = s.linksDown := by unfold State.postOnce; split <;> rfl
@[simp] theorem State.postOnce_linkOwners (s : State) (i : Instr) : (s.postOnce i).linkOwners = s.linkOwners := by unfold State.postOnce; split <;> rfl
@[simp] theorem State.postOnce_lostPeers (s : State) (i : Instr) : (s.postOnce i).lostPeers = s.lostPeers := by unfold State.postOnce; split <;> rfl
@[simp] theorem State.postOnce_clusters (s : State) (i : Instr) : (s.postOnce i).clusters = s.clusters := by unfold State.postOnce; split <;> rfl
@[simp] theorem State.postOnce_launches (s : State) (i : Instr) : (s.postOnce i).launches = s.launches := by unfold State.postOnce; split <;> rfl
@[simp] theorem State.postOnce_impressions (s : State) (i : Instr) : (s.postOnce i).impressions = s.impressions := by unfold State.postOnce; split <;> rfl
@[simp] theorem State.postOnce_tickets (s : State) (i : Instr) : (s.postOnce i).tickets = s.tickets := by unfold State.postOnce; split <;> rfl
@[simp] theorem State.postOnce_items (s : State) (i : Instr) : (s.postOnce i).items = s.items := by unfold State.postOnce; split <;> rfl
@[simp] theorem State.postOnce_teams (s : State) (i : Instr) : (s.postOnce i).teams = s.teams := by unfold State.postOnce; split <;> rfl
@[simp] theorem State.postOnce_waves (s : State) (i : Instr) : (s.postOnce i).waves = s.waves := by unfold State.postOnce; split <;> rfl
@[simp] theorem State.postOnce_cur (s : State) (i : Instr) : (s.postOnce i).cur = s.cur := by unfold State.postOnce; split <;> rfl
@[simp] theorem State.postOnce_who (s : State) (i : Instr) : (s.postOnce i).who = s.who := by unfold State.postOnce; split <;> rfl
@[simp] theorem State.postOnce_rings (s : State) (i : Instr) : (s.postOnce i).rings = s.rings := by unfold State.postOnce; split <;> rfl
@[simp] theorem State.postOnce_scan (s : State) (i : Instr) : (s.postOnce i).scan = s.scan := by unfold State.postOnce; split <;> rfl
@[simp] theorem State.postOnce_groups (s : State) (i : Instr) : (s.postOnce i).groups = s.groups := by unfold State.postOnce; split <;> rfl
@[simp] theorem State.postOnce_kvs (s : State) (i : Instr) : (s.postOnce i).kvs = s.kvs := by unfold State.postOnce; split <;> rfl
@[simp] theorem State.postOnce_mills (s : State) (i : Instr) : (s.postOnce i).mills = s.mills := by unfold State.postOnce; split <;> rfl
@[simp] theorem State.postOnce_lifetime (s : State) (i : Instr) : (s.postOnce i).lifetime = s.lifetime := by unfold State.postOnce; split <;> rfl
@[simp] theorem State.postOnce_throttle (s : State) (i : Instr) : (s.postOnce i).throttle = s.throttle := by unfold State.postOnce; split <;> rfl
@[simp] theorem State.postOnce_firmware (s : State) (i : Instr) : (s.postOnce i).firmware = s.firmware := by unfold State.postOnce; split <;> rfl
@[simp] theorem State.postOnce_rollback (s : State) (i : Instr) : (s.postOnce i).rollback = s.rollback := by unfold State.postOnce; split <;> rfl
@[simp] theorem State.postOnce_outbox (s : State) (i : Instr) : (s.postOnce i).outbox = s.outbox := by unfold State.postOnce; split <;> rfl
@[simp] theorem State.postOnce_focus (s : State) (i : Instr) : (s.postOnce i).focus = s.focus := by unfold State.postOnce; split <;> rfl
@[simp] theorem State.postOnce_issue (s : State) (i : Instr) : (s.postOnce i).issue = s.issue := by unfold State.postOnce; split <;> rfl
@[simp] theorem State.postOnce_fresh (s : State) (i : Instr) : (s.postOnce i).fresh = s.fresh := by unfold State.postOnce; split <;> rfl
@[simp] theorem State.postOnce_nextId (s : State) (i : Instr) : (s.postOnce i).nextId = s.nextId := by unfold State.postOnce; split <;> rfl
@[simp] theorem State.postOnce_time (s : State) (i : Instr) : (s.postOnce i).time = s.time := by unfold State.postOnce; split <;> rfl
@[simp] theorem State.postOnce_copies (s : State) (i : Instr) : (s.postOnce i).copies = s.copies := by unfold State.postOnce; split <;> rfl
@[simp] theorem State.postOnce_tlbs (s : State) (i : Instr) : (s.postOnce i).tlbs = s.tlbs := by unfold State.postOnce; split <;> rfl
@[simp] theorem State.postOnce_msixMasked (s : State) (i : Instr) : (s.postOnce i).msixMasked = s.msixMasked := by unfold State.postOnce; split <;> rfl
@[simp] theorem State.postOnce_msixPending (s : State) (i : Instr) : (s.postOnce i).msixPending = s.msixPending := by unfold State.postOnce; split <;> rfl
@[simp] theorem State.postOnce_urgent (s : State) (i : Instr) : (s.postOnce i).urgent = s.urgent := by unfold State.postOnce; split <;> rfl

/-! `setWave`. -/

@[simp] theorem State.setWave_cycle (s : State) (w : Wave) : (s.setWave w).cycle = s.cycle := by unfold State.setWave; split <;> rfl
@[simp] theorem State.setWave_gt (s : State) (w : Wave) : (s.setWave w).gt = s.gt := by unfold State.setWave; split <;> rfl
@[simp] theorem State.setWave_mem (s : State) (w : Wave) : (s.setWave w).mem = s.mem := by unfold State.setWave; split <;> rfl
@[simp] theorem State.setWave_hostMem (s : State) (w : Wave) : (s.setWave w).hostMem = s.hostMem := by unfold State.setWave; split <;> rfl
@[simp] theorem State.setWave_peerMem (s : State) (w : Wave) : (s.setWave w).peerMem = s.peerMem := by unfold State.setWave; split <;> rfl
@[simp] theorem State.setWave_sectors (s : State) (w : Wave) : (s.setWave w).sectors = s.sectors := by unfold State.setWave; split <;> rfl
@[simp] theorem State.setWave_floors (s : State) (w : Wave) : (s.setWave w).floors = s.floors := by unfold State.setWave; split <;> rfl
@[simp] theorem State.setWave_poison (s : State) (w : Wave) : (s.setWave w).poison = s.poison := by unfold State.setWave; split <;> rfl
@[simp] theorem State.setWave_lines (s : State) (w : Wave) : (s.setWave w).lines = s.lines := by unfold State.setWave; split <;> rfl
@[simp] theorem State.setWave_asids (s : State) (w : Wave) : (s.setWave w).asids = s.asids := by unfold State.setWave; split <;> rfl
@[simp] theorem State.setWave_scrubs (s : State) (w : Wave) : (s.setWave w).scrubs = s.scrubs := by unfold State.setWave; split <;> rfl
@[simp] theorem State.setWave_atsPending (s : State) (w : Wave) : (s.setWave w).atsPending = s.atsPending := by unfold State.setWave; split <;> rfl
@[simp] theorem State.setWave_sealTable (s : State) (w : Wave) : (s.setWave w).sealTable = s.sealTable := by unfold State.setWave; split <;> rfl
@[simp] theorem State.setWave_ctxs (s : State) (w : Wave) : (s.setWave w).ctxs = s.ctxs := by unfold State.setWave; split <;> rfl
@[simp] theorem State.setWave_aborting (s : State) (w : Wave) : (s.setWave w).aborting = s.aborting := by unfold State.setWave; split <;> rfl
@[simp] theorem State.setWave_linksDown (s : State) (w : Wave) : (s.setWave w).linksDown = s.linksDown := by unfold State.setWave; split <;> rfl
@[simp] theorem State.setWave_linkOwners (s : State) (w : Wave) : (s.setWave w).linkOwners = s.linkOwners := by unfold State.setWave; split <;> rfl
@[simp] theorem State.setWave_lostPeers (s : State) (w : Wave) : (s.setWave w).lostPeers = s.lostPeers := by unfold State.setWave; split <;> rfl
@[simp] theorem State.setWave_clusters (s : State) (w : Wave) : (s.setWave w).clusters = s.clusters := by unfold State.setWave; split <;> rfl
@[simp] theorem State.setWave_launches (s : State) (w : Wave) : (s.setWave w).launches = s.launches := by unfold State.setWave; split <;> rfl
@[simp] theorem State.setWave_impressions (s : State) (w : Wave) : (s.setWave w).impressions = s.impressions := by unfold State.setWave; split <;> rfl
@[simp] theorem State.setWave_tickets (s : State) (w : Wave) : (s.setWave w).tickets = s.tickets := by unfold State.setWave; split <;> rfl
@[simp] theorem State.setWave_items (s : State) (w : Wave) : (s.setWave w).items = s.items := by unfold State.setWave; split <;> rfl
@[simp] theorem State.setWave_teams (s : State) (w : Wave) : (s.setWave w).teams = s.teams := by unfold State.setWave; split <;> rfl
@[simp] theorem State.setWave_who (s : State) (w : Wave) : (s.setWave w).who = s.who := by unfold State.setWave; split <;> rfl
@[simp] theorem State.setWave_rings (s : State) (w : Wave) : (s.setWave w).rings = s.rings := by unfold State.setWave; split <;> rfl
@[simp] theorem State.setWave_scan (s : State) (w : Wave) : (s.setWave w).scan = s.scan := by unfold State.setWave; split <;> rfl
@[simp] theorem State.setWave_groups (s : State) (w : Wave) : (s.setWave w).groups = s.groups := by unfold State.setWave; split <;> rfl
@[simp] theorem State.setWave_kvs (s : State) (w : Wave) : (s.setWave w).kvs = s.kvs := by unfold State.setWave; split <;> rfl
@[simp] theorem State.setWave_mills (s : State) (w : Wave) : (s.setWave w).mills = s.mills := by unfold State.setWave; split <;> rfl
@[simp] theorem State.setWave_lifetime (s : State) (w : Wave) : (s.setWave w).lifetime = s.lifetime := by unfold State.setWave; split <;> rfl
@[simp] theorem State.setWave_throttle (s : State) (w : Wave) : (s.setWave w).throttle = s.throttle := by unfold State.setWave; split <;> rfl
@[simp] theorem State.setWave_firmware (s : State) (w : Wave) : (s.setWave w).firmware = s.firmware := by unfold State.setWave; split <;> rfl
@[simp] theorem State.setWave_rollback (s : State) (w : Wave) : (s.setWave w).rollback = s.rollback := by unfold State.setWave; split <;> rfl
@[simp] theorem State.setWave_outbox (s : State) (w : Wave) : (s.setWave w).outbox = s.outbox := by unfold State.setWave; split <;> rfl
@[simp] theorem State.setWave_agenda (s : State) (w : Wave) : (s.setWave w).agenda = s.agenda := by unfold State.setWave; split <;> rfl
@[simp] theorem State.setWave_focus (s : State) (w : Wave) : (s.setWave w).focus = s.focus := by unfold State.setWave; split <;> rfl
@[simp] theorem State.setWave_issue (s : State) (w : Wave) : (s.setWave w).issue = s.issue := by unfold State.setWave; split <;> rfl
@[simp] theorem State.setWave_fresh (s : State) (w : Wave) : (s.setWave w).fresh = s.fresh := by unfold State.setWave; split <;> rfl
@[simp] theorem State.setWave_nextId (s : State) (w : Wave) : (s.setWave w).nextId = s.nextId := by unfold State.setWave; split <;> rfl
@[simp] theorem State.setWave_time (s : State) (w : Wave) : (s.setWave w).time = s.time := by unfold State.setWave; split <;> rfl
@[simp] theorem State.setWave_copies (s : State) (w : Wave) : (s.setWave w).copies = s.copies := by unfold State.setWave; split <;> rfl
@[simp] theorem State.setWave_tlbs (s : State) (w : Wave) : (s.setWave w).tlbs = s.tlbs := by unfold State.setWave; split <;> rfl
@[simp] theorem State.setWave_msixMasked (s : State) (w : Wave) : (s.setWave w).msixMasked = s.msixMasked := by unfold State.setWave; split <;> rfl
@[simp] theorem State.setWave_msixPending (s : State) (w : Wave) : (s.setWave w).msixPending = s.msixPending := by unfold State.setWave; split <;> rfl
@[simp] theorem State.setWave_urgent (s : State) (w : Wave) : (s.setWave w).urgent = s.urgent := by unfold State.setWave; split <;> rfl

/-! `setSys`. -/

@[simp] theorem State.setSys_cycle (s : State) (x : ThreadSys) : (s.setSys x).cycle = s.cycle := by unfold State.setSys; repeat' first | rfl | split
@[simp] theorem State.setSys_gt (s : State) (x : ThreadSys) : (s.setSys x).gt = s.gt := by unfold State.setSys; repeat' first | rfl | split
@[simp] theorem State.setSys_mem (s : State) (x : ThreadSys) : (s.setSys x).mem = s.mem := by unfold State.setSys; repeat' first | rfl | split
@[simp] theorem State.setSys_hostMem (s : State) (x : ThreadSys) : (s.setSys x).hostMem = s.hostMem := by unfold State.setSys; repeat' first | rfl | split
@[simp] theorem State.setSys_peerMem (s : State) (x : ThreadSys) : (s.setSys x).peerMem = s.peerMem := by unfold State.setSys; repeat' first | rfl | split
@[simp] theorem State.setSys_sectors (s : State) (x : ThreadSys) : (s.setSys x).sectors = s.sectors := by unfold State.setSys; repeat' first | rfl | split
@[simp] theorem State.setSys_floors (s : State) (x : ThreadSys) : (s.setSys x).floors = s.floors := by unfold State.setSys; repeat' first | rfl | split
@[simp] theorem State.setSys_poison (s : State) (x : ThreadSys) : (s.setSys x).poison = s.poison := by unfold State.setSys; repeat' first | rfl | split
@[simp] theorem State.setSys_lines (s : State) (x : ThreadSys) : (s.setSys x).lines = s.lines := by unfold State.setSys; repeat' first | rfl | split
@[simp] theorem State.setSys_asids (s : State) (x : ThreadSys) : (s.setSys x).asids = s.asids := by unfold State.setSys; repeat' first | rfl | split
@[simp] theorem State.setSys_scrubs (s : State) (x : ThreadSys) : (s.setSys x).scrubs = s.scrubs := by unfold State.setSys; repeat' first | rfl | split
@[simp] theorem State.setSys_atsPending (s : State) (x : ThreadSys) : (s.setSys x).atsPending = s.atsPending := by unfold State.setSys; repeat' first | rfl | split
@[simp] theorem State.setSys_sealTable (s : State) (x : ThreadSys) : (s.setSys x).sealTable = s.sealTable := by unfold State.setSys; repeat' first | rfl | split
@[simp] theorem State.setSys_ctxs (s : State) (x : ThreadSys) : (s.setSys x).ctxs = s.ctxs := by unfold State.setSys; repeat' first | rfl | split
@[simp] theorem State.setSys_aborting (s : State) (x : ThreadSys) : (s.setSys x).aborting = s.aborting := by unfold State.setSys; repeat' first | rfl | split
@[simp] theorem State.setSys_linksDown (s : State) (x : ThreadSys) : (s.setSys x).linksDown = s.linksDown := by unfold State.setSys; repeat' first | rfl | split
@[simp] theorem State.setSys_linkOwners (s : State) (x : ThreadSys) : (s.setSys x).linkOwners = s.linkOwners := by unfold State.setSys; repeat' first | rfl | split
@[simp] theorem State.setSys_lostPeers (s : State) (x : ThreadSys) : (s.setSys x).lostPeers = s.lostPeers := by unfold State.setSys; repeat' first | rfl | split
@[simp] theorem State.setSys_clusters (s : State) (x : ThreadSys) : (s.setSys x).clusters = s.clusters := by unfold State.setSys; repeat' first | rfl | split
@[simp] theorem State.setSys_launches (s : State) (x : ThreadSys) : (s.setSys x).launches = s.launches := by unfold State.setSys; repeat' first | rfl | split
@[simp] theorem State.setSys_impressions (s : State) (x : ThreadSys) : (s.setSys x).impressions = s.impressions := by unfold State.setSys; repeat' first | rfl | split
@[simp] theorem State.setSys_tickets (s : State) (x : ThreadSys) : (s.setSys x).tickets = s.tickets := by unfold State.setSys; repeat' first | rfl | split
@[simp] theorem State.setSys_items (s : State) (x : ThreadSys) : (s.setSys x).items = s.items := by unfold State.setSys; repeat' first | rfl | split
@[simp] theorem State.setSys_teams (s : State) (x : ThreadSys) : (s.setSys x).teams = s.teams := by unfold State.setSys; repeat' first | rfl | split
@[simp] theorem State.setSys_waves (s : State) (x : ThreadSys) : (s.setSys x).waves = s.waves := by unfold State.setSys; repeat' first | rfl | split
@[simp] theorem State.setSys_who (s : State) (x : ThreadSys) : (s.setSys x).who = s.who := by unfold State.setSys; repeat' first | rfl | split
@[simp] theorem State.setSys_rings (s : State) (x : ThreadSys) : (s.setSys x).rings = s.rings := by unfold State.setSys; repeat' first | rfl | split
@[simp] theorem State.setSys_scan (s : State) (x : ThreadSys) : (s.setSys x).scan = s.scan := by unfold State.setSys; repeat' first | rfl | split
@[simp] theorem State.setSys_groups (s : State) (x : ThreadSys) : (s.setSys x).groups = s.groups := by unfold State.setSys; repeat' first | rfl | split
@[simp] theorem State.setSys_kvs (s : State) (x : ThreadSys) : (s.setSys x).kvs = s.kvs := by unfold State.setSys; repeat' first | rfl | split
@[simp] theorem State.setSys_mills (s : State) (x : ThreadSys) : (s.setSys x).mills = s.mills := by unfold State.setSys; repeat' first | rfl | split
@[simp] theorem State.setSys_lifetime (s : State) (x : ThreadSys) : (s.setSys x).lifetime = s.lifetime := by unfold State.setSys; repeat' first | rfl | split
@[simp] theorem State.setSys_throttle (s : State) (x : ThreadSys) : (s.setSys x).throttle = s.throttle := by unfold State.setSys; repeat' first | rfl | split
@[simp] theorem State.setSys_firmware (s : State) (x : ThreadSys) : (s.setSys x).firmware = s.firmware := by unfold State.setSys; repeat' first | rfl | split
@[simp] theorem State.setSys_rollback (s : State) (x : ThreadSys) : (s.setSys x).rollback = s.rollback := by unfold State.setSys; repeat' first | rfl | split
@[simp] theorem State.setSys_outbox (s : State) (x : ThreadSys) : (s.setSys x).outbox = s.outbox := by unfold State.setSys; repeat' first | rfl | split
@[simp] theorem State.setSys_agenda (s : State) (x : ThreadSys) : (s.setSys x).agenda = s.agenda := by unfold State.setSys; repeat' first | rfl | split
@[simp] theorem State.setSys_focus (s : State) (x : ThreadSys) : (s.setSys x).focus = s.focus := by unfold State.setSys; repeat' first | rfl | split
@[simp] theorem State.setSys_issue (s : State) (x : ThreadSys) : (s.setSys x).issue = s.issue := by unfold State.setSys; repeat' first | rfl | split
@[simp] theorem State.setSys_fresh (s : State) (x : ThreadSys) : (s.setSys x).fresh = s.fresh := by unfold State.setSys; repeat' first | rfl | split
@[simp] theorem State.setSys_nextId (s : State) (x : ThreadSys) : (s.setSys x).nextId = s.nextId := by unfold State.setSys; repeat' first | rfl | split
@[simp] theorem State.setSys_time (s : State) (x : ThreadSys) : (s.setSys x).time = s.time := by unfold State.setSys; repeat' first | rfl | split
@[simp] theorem State.setSys_copies (s : State) (x : ThreadSys) : (s.setSys x).copies = s.copies := by unfold State.setSys; repeat' first | rfl | split
@[simp] theorem State.setSys_tlbs (s : State) (x : ThreadSys) : (s.setSys x).tlbs = s.tlbs := by unfold State.setSys; repeat' first | rfl | split
@[simp] theorem State.setSys_msixMasked (s : State) (x : ThreadSys) : (s.setSys x).msixMasked = s.msixMasked := by unfold State.setSys; repeat' first | rfl | split
@[simp] theorem State.setSys_msixPending (s : State) (x : ThreadSys) : (s.setSys x).msixPending = s.msixPending := by unfold State.setSys; repeat' first | rfl | split
@[simp] theorem State.setSys_urgent (s : State) (x : ThreadSys) : (s.setSys x).urgent = s.urgent := by unfold State.setSys; repeat' first | rfl | split

/-! `setFile`. -/

@[simp] theorem State.setFile_cycle (s : State) (f : RegFile) : (s.setFile f).cycle = s.cycle := by unfold State.setFile; repeat' first | rfl | split
@[simp] theorem State.setFile_gt (s : State) (f : RegFile) : (s.setFile f).gt = s.gt := by unfold State.setFile; repeat' first | rfl | split
@[simp] theorem State.setFile_mem (s : State) (f : RegFile) : (s.setFile f).mem = s.mem := by unfold State.setFile; repeat' first | rfl | split
@[simp] theorem State.setFile_hostMem (s : State) (f : RegFile) : (s.setFile f).hostMem = s.hostMem := by unfold State.setFile; repeat' first | rfl | split
@[simp] theorem State.setFile_peerMem (s : State) (f : RegFile) : (s.setFile f).peerMem = s.peerMem := by unfold State.setFile; repeat' first | rfl | split
@[simp] theorem State.setFile_sectors (s : State) (f : RegFile) : (s.setFile f).sectors = s.sectors := by unfold State.setFile; repeat' first | rfl | split
@[simp] theorem State.setFile_floors (s : State) (f : RegFile) : (s.setFile f).floors = s.floors := by unfold State.setFile; repeat' first | rfl | split
@[simp] theorem State.setFile_poison (s : State) (f : RegFile) : (s.setFile f).poison = s.poison := by unfold State.setFile; repeat' first | rfl | split
@[simp] theorem State.setFile_lines (s : State) (f : RegFile) : (s.setFile f).lines = s.lines := by unfold State.setFile; repeat' first | rfl | split
@[simp] theorem State.setFile_asids (s : State) (f : RegFile) : (s.setFile f).asids = s.asids := by unfold State.setFile; repeat' first | rfl | split
@[simp] theorem State.setFile_scrubs (s : State) (f : RegFile) : (s.setFile f).scrubs = s.scrubs := by unfold State.setFile; repeat' first | rfl | split
@[simp] theorem State.setFile_atsPending (s : State) (f : RegFile) : (s.setFile f).atsPending = s.atsPending := by unfold State.setFile; repeat' first | rfl | split
@[simp] theorem State.setFile_sealTable (s : State) (f : RegFile) : (s.setFile f).sealTable = s.sealTable := by unfold State.setFile; repeat' first | rfl | split
@[simp] theorem State.setFile_ctxs (s : State) (f : RegFile) : (s.setFile f).ctxs = s.ctxs := by unfold State.setFile; repeat' first | rfl | split
@[simp] theorem State.setFile_aborting (s : State) (f : RegFile) : (s.setFile f).aborting = s.aborting := by unfold State.setFile; repeat' first | rfl | split
@[simp] theorem State.setFile_linksDown (s : State) (f : RegFile) : (s.setFile f).linksDown = s.linksDown := by unfold State.setFile; repeat' first | rfl | split
@[simp] theorem State.setFile_linkOwners (s : State) (f : RegFile) : (s.setFile f).linkOwners = s.linkOwners := by unfold State.setFile; repeat' first | rfl | split
@[simp] theorem State.setFile_lostPeers (s : State) (f : RegFile) : (s.setFile f).lostPeers = s.lostPeers := by unfold State.setFile; repeat' first | rfl | split
@[simp] theorem State.setFile_clusters (s : State) (f : RegFile) : (s.setFile f).clusters = s.clusters := by unfold State.setFile; repeat' first | rfl | split
@[simp] theorem State.setFile_launches (s : State) (f : RegFile) : (s.setFile f).launches = s.launches := by unfold State.setFile; repeat' first | rfl | split
@[simp] theorem State.setFile_impressions (s : State) (f : RegFile) : (s.setFile f).impressions = s.impressions := by unfold State.setFile; repeat' first | rfl | split
@[simp] theorem State.setFile_tickets (s : State) (f : RegFile) : (s.setFile f).tickets = s.tickets := by unfold State.setFile; repeat' first | rfl | split
@[simp] theorem State.setFile_items (s : State) (f : RegFile) : (s.setFile f).items = s.items := by unfold State.setFile; repeat' first | rfl | split
@[simp] theorem State.setFile_teams (s : State) (f : RegFile) : (s.setFile f).teams = s.teams := by unfold State.setFile; repeat' first | rfl | split
@[simp] theorem State.setFile_waves (s : State) (f : RegFile) : (s.setFile f).waves = s.waves := by unfold State.setFile; repeat' first | rfl | split
@[simp] theorem State.setFile_who (s : State) (f : RegFile) : (s.setFile f).who = s.who := by unfold State.setFile; repeat' first | rfl | split
@[simp] theorem State.setFile_rings (s : State) (f : RegFile) : (s.setFile f).rings = s.rings := by unfold State.setFile; repeat' first | rfl | split
@[simp] theorem State.setFile_scan (s : State) (f : RegFile) : (s.setFile f).scan = s.scan := by unfold State.setFile; repeat' first | rfl | split
@[simp] theorem State.setFile_groups (s : State) (f : RegFile) : (s.setFile f).groups = s.groups := by unfold State.setFile; repeat' first | rfl | split
@[simp] theorem State.setFile_kvs (s : State) (f : RegFile) : (s.setFile f).kvs = s.kvs := by unfold State.setFile; repeat' first | rfl | split
@[simp] theorem State.setFile_mills (s : State) (f : RegFile) : (s.setFile f).mills = s.mills := by unfold State.setFile; repeat' first | rfl | split
@[simp] theorem State.setFile_lifetime (s : State) (f : RegFile) : (s.setFile f).lifetime = s.lifetime := by unfold State.setFile; repeat' first | rfl | split
@[simp] theorem State.setFile_throttle (s : State) (f : RegFile) : (s.setFile f).throttle = s.throttle := by unfold State.setFile; repeat' first | rfl | split
@[simp] theorem State.setFile_firmware (s : State) (f : RegFile) : (s.setFile f).firmware = s.firmware := by unfold State.setFile; repeat' first | rfl | split
@[simp] theorem State.setFile_rollback (s : State) (f : RegFile) : (s.setFile f).rollback = s.rollback := by unfold State.setFile; repeat' first | rfl | split
@[simp] theorem State.setFile_outbox (s : State) (f : RegFile) : (s.setFile f).outbox = s.outbox := by unfold State.setFile; repeat' first | rfl | split
@[simp] theorem State.setFile_agenda (s : State) (f : RegFile) : (s.setFile f).agenda = s.agenda := by unfold State.setFile; repeat' first | rfl | split
@[simp] theorem State.setFile_focus (s : State) (f : RegFile) : (s.setFile f).focus = s.focus := by unfold State.setFile; repeat' first | rfl | split
@[simp] theorem State.setFile_issue (s : State) (f : RegFile) : (s.setFile f).issue = s.issue := by unfold State.setFile; repeat' first | rfl | split
@[simp] theorem State.setFile_fresh (s : State) (f : RegFile) : (s.setFile f).fresh = s.fresh := by unfold State.setFile; repeat' first | rfl | split
@[simp] theorem State.setFile_nextId (s : State) (f : RegFile) : (s.setFile f).nextId = s.nextId := by unfold State.setFile; repeat' first | rfl | split
@[simp] theorem State.setFile_time (s : State) (f : RegFile) : (s.setFile f).time = s.time := by unfold State.setFile; repeat' first | rfl | split
@[simp] theorem State.setFile_copies (s : State) (f : RegFile) : (s.setFile f).copies = s.copies := by unfold State.setFile; repeat' first | rfl | split
@[simp] theorem State.setFile_tlbs (s : State) (f : RegFile) : (s.setFile f).tlbs = s.tlbs := by unfold State.setFile; repeat' first | rfl | split
@[simp] theorem State.setFile_msixMasked (s : State) (f : RegFile) : (s.setFile f).msixMasked = s.msixMasked := by unfold State.setFile; repeat' first | rfl | split
@[simp] theorem State.setFile_msixPending (s : State) (f : RegFile) : (s.setFile f).msixPending = s.msixPending := by unfold State.setFile; repeat' first | rfl | split
@[simp] theorem State.setFile_urgent (s : State) (f : RegFile) : (s.setFile f).urgent = s.urgent := by unfold State.setFile; repeat' first | rfl | split

/-! `setRecs`. -/

@[simp] theorem State.setRecs_cycle (s : State) (r : NMap Rec) : (s.setRecs r).cycle = s.cycle := by unfold State.setRecs; repeat' first | rfl | split
@[simp] theorem State.setRecs_gt (s : State) (r : NMap Rec) : (s.setRecs r).gt = s.gt := by unfold State.setRecs; repeat' first | rfl | split
@[simp] theorem State.setRecs_mem (s : State) (r : NMap Rec) : (s.setRecs r).mem = s.mem := by unfold State.setRecs; repeat' first | rfl | split
@[simp] theorem State.setRecs_hostMem (s : State) (r : NMap Rec) : (s.setRecs r).hostMem = s.hostMem := by unfold State.setRecs; repeat' first | rfl | split
@[simp] theorem State.setRecs_peerMem (s : State) (r : NMap Rec) : (s.setRecs r).peerMem = s.peerMem := by unfold State.setRecs; repeat' first | rfl | split
@[simp] theorem State.setRecs_sectors (s : State) (r : NMap Rec) : (s.setRecs r).sectors = s.sectors := by unfold State.setRecs; repeat' first | rfl | split
@[simp] theorem State.setRecs_floors (s : State) (r : NMap Rec) : (s.setRecs r).floors = s.floors := by unfold State.setRecs; repeat' first | rfl | split
@[simp] theorem State.setRecs_poison (s : State) (r : NMap Rec) : (s.setRecs r).poison = s.poison := by unfold State.setRecs; repeat' first | rfl | split
@[simp] theorem State.setRecs_lines (s : State) (r : NMap Rec) : (s.setRecs r).lines = s.lines := by unfold State.setRecs; repeat' first | rfl | split
@[simp] theorem State.setRecs_asids (s : State) (r : NMap Rec) : (s.setRecs r).asids = s.asids := by unfold State.setRecs; repeat' first | rfl | split
@[simp] theorem State.setRecs_scrubs (s : State) (r : NMap Rec) : (s.setRecs r).scrubs = s.scrubs := by unfold State.setRecs; repeat' first | rfl | split
@[simp] theorem State.setRecs_atsPending (s : State) (r : NMap Rec) : (s.setRecs r).atsPending = s.atsPending := by unfold State.setRecs; repeat' first | rfl | split
@[simp] theorem State.setRecs_sealTable (s : State) (r : NMap Rec) : (s.setRecs r).sealTable = s.sealTable := by unfold State.setRecs; repeat' first | rfl | split
@[simp] theorem State.setRecs_ctxs (s : State) (r : NMap Rec) : (s.setRecs r).ctxs = s.ctxs := by unfold State.setRecs; repeat' first | rfl | split
@[simp] theorem State.setRecs_aborting (s : State) (r : NMap Rec) : (s.setRecs r).aborting = s.aborting := by unfold State.setRecs; repeat' first | rfl | split
@[simp] theorem State.setRecs_linksDown (s : State) (r : NMap Rec) : (s.setRecs r).linksDown = s.linksDown := by unfold State.setRecs; repeat' first | rfl | split
@[simp] theorem State.setRecs_linkOwners (s : State) (r : NMap Rec) : (s.setRecs r).linkOwners = s.linkOwners := by unfold State.setRecs; repeat' first | rfl | split
@[simp] theorem State.setRecs_lostPeers (s : State) (r : NMap Rec) : (s.setRecs r).lostPeers = s.lostPeers := by unfold State.setRecs; repeat' first | rfl | split
@[simp] theorem State.setRecs_clusters (s : State) (r : NMap Rec) : (s.setRecs r).clusters = s.clusters := by unfold State.setRecs; repeat' first | rfl | split
@[simp] theorem State.setRecs_launches (s : State) (r : NMap Rec) : (s.setRecs r).launches = s.launches := by unfold State.setRecs; repeat' first | rfl | split
@[simp] theorem State.setRecs_impressions (s : State) (r : NMap Rec) : (s.setRecs r).impressions = s.impressions := by unfold State.setRecs; repeat' first | rfl | split
@[simp] theorem State.setRecs_tickets (s : State) (r : NMap Rec) : (s.setRecs r).tickets = s.tickets := by unfold State.setRecs; repeat' first | rfl | split
@[simp] theorem State.setRecs_items (s : State) (r : NMap Rec) : (s.setRecs r).items = s.items := by unfold State.setRecs; repeat' first | rfl | split
@[simp] theorem State.setRecs_teams (s : State) (r : NMap Rec) : (s.setRecs r).teams = s.teams := by unfold State.setRecs; repeat' first | rfl | split
@[simp] theorem State.setRecs_waves (s : State) (r : NMap Rec) : (s.setRecs r).waves = s.waves := by unfold State.setRecs; repeat' first | rfl | split
@[simp] theorem State.setRecs_who (s : State) (r : NMap Rec) : (s.setRecs r).who = s.who := by unfold State.setRecs; repeat' first | rfl | split
@[simp] theorem State.setRecs_rings (s : State) (r : NMap Rec) : (s.setRecs r).rings = s.rings := by unfold State.setRecs; repeat' first | rfl | split
@[simp] theorem State.setRecs_scan (s : State) (r : NMap Rec) : (s.setRecs r).scan = s.scan := by unfold State.setRecs; repeat' first | rfl | split
@[simp] theorem State.setRecs_groups (s : State) (r : NMap Rec) : (s.setRecs r).groups = s.groups := by unfold State.setRecs; repeat' first | rfl | split
@[simp] theorem State.setRecs_kvs (s : State) (r : NMap Rec) : (s.setRecs r).kvs = s.kvs := by unfold State.setRecs; repeat' first | rfl | split
@[simp] theorem State.setRecs_mills (s : State) (r : NMap Rec) : (s.setRecs r).mills = s.mills := by unfold State.setRecs; repeat' first | rfl | split
@[simp] theorem State.setRecs_lifetime (s : State) (r : NMap Rec) : (s.setRecs r).lifetime = s.lifetime := by unfold State.setRecs; repeat' first | rfl | split
@[simp] theorem State.setRecs_throttle (s : State) (r : NMap Rec) : (s.setRecs r).throttle = s.throttle := by unfold State.setRecs; repeat' first | rfl | split
@[simp] theorem State.setRecs_firmware (s : State) (r : NMap Rec) : (s.setRecs r).firmware = s.firmware := by unfold State.setRecs; repeat' first | rfl | split
@[simp] theorem State.setRecs_rollback (s : State) (r : NMap Rec) : (s.setRecs r).rollback = s.rollback := by unfold State.setRecs; repeat' first | rfl | split
@[simp] theorem State.setRecs_outbox (s : State) (r : NMap Rec) : (s.setRecs r).outbox = s.outbox := by unfold State.setRecs; repeat' first | rfl | split
@[simp] theorem State.setRecs_agenda (s : State) (r : NMap Rec) : (s.setRecs r).agenda = s.agenda := by unfold State.setRecs; repeat' first | rfl | split
@[simp] theorem State.setRecs_focus (s : State) (r : NMap Rec) : (s.setRecs r).focus = s.focus := by unfold State.setRecs; repeat' first | rfl | split
@[simp] theorem State.setRecs_issue (s : State) (r : NMap Rec) : (s.setRecs r).issue = s.issue := by unfold State.setRecs; repeat' first | rfl | split
@[simp] theorem State.setRecs_fresh (s : State) (r : NMap Rec) : (s.setRecs r).fresh = s.fresh := by unfold State.setRecs; repeat' first | rfl | split
@[simp] theorem State.setRecs_nextId (s : State) (r : NMap Rec) : (s.setRecs r).nextId = s.nextId := by unfold State.setRecs; repeat' first | rfl | split
@[simp] theorem State.setRecs_time (s : State) (r : NMap Rec) : (s.setRecs r).time = s.time := by unfold State.setRecs; repeat' first | rfl | split
@[simp] theorem State.setRecs_copies (s : State) (r : NMap Rec) : (s.setRecs r).copies = s.copies := by unfold State.setRecs; repeat' first | rfl | split
@[simp] theorem State.setRecs_tlbs (s : State) (r : NMap Rec) : (s.setRecs r).tlbs = s.tlbs := by unfold State.setRecs; repeat' first | rfl | split
@[simp] theorem State.setRecs_msixMasked (s : State) (r : NMap Rec) : (s.setRecs r).msixMasked = s.msixMasked := by unfold State.setRecs; repeat' first | rfl | split
@[simp] theorem State.setRecs_msixPending (s : State) (r : NMap Rec) : (s.setRecs r).msixPending = s.msixPending := by unfold State.setRecs; repeat' first | rfl | split
@[simp] theorem State.setRecs_urgent (s : State) (r : NMap Rec) : (s.setRecs r).urgent = s.urgent := by unfold State.setRecs; repeat' first | rfl | split

/-! `noteWrote`. -/

@[simp] theorem State.noteWrote_cycle (s : State) (r : RegName) : (s.noteWrote r).cycle = s.cycle := by unfold State.noteWrote; repeat' first | rfl | split
@[simp] theorem State.noteWrote_gt (s : State) (r : RegName) : (s.noteWrote r).gt = s.gt := by unfold State.noteWrote; repeat' first | rfl | split
@[simp] theorem State.noteWrote_mem (s : State) (r : RegName) : (s.noteWrote r).mem = s.mem := by unfold State.noteWrote; repeat' first | rfl | split
@[simp] theorem State.noteWrote_hostMem (s : State) (r : RegName) : (s.noteWrote r).hostMem = s.hostMem := by unfold State.noteWrote; repeat' first | rfl | split
@[simp] theorem State.noteWrote_peerMem (s : State) (r : RegName) : (s.noteWrote r).peerMem = s.peerMem := by unfold State.noteWrote; repeat' first | rfl | split
@[simp] theorem State.noteWrote_sectors (s : State) (r : RegName) : (s.noteWrote r).sectors = s.sectors := by unfold State.noteWrote; repeat' first | rfl | split
@[simp] theorem State.noteWrote_floors (s : State) (r : RegName) : (s.noteWrote r).floors = s.floors := by unfold State.noteWrote; repeat' first | rfl | split
@[simp] theorem State.noteWrote_poison (s : State) (r : RegName) : (s.noteWrote r).poison = s.poison := by unfold State.noteWrote; repeat' first | rfl | split
@[simp] theorem State.noteWrote_lines (s : State) (r : RegName) : (s.noteWrote r).lines = s.lines := by unfold State.noteWrote; repeat' first | rfl | split
@[simp] theorem State.noteWrote_asids (s : State) (r : RegName) : (s.noteWrote r).asids = s.asids := by unfold State.noteWrote; repeat' first | rfl | split
@[simp] theorem State.noteWrote_scrubs (s : State) (r : RegName) : (s.noteWrote r).scrubs = s.scrubs := by unfold State.noteWrote; repeat' first | rfl | split
@[simp] theorem State.noteWrote_atsPending (s : State) (r : RegName) : (s.noteWrote r).atsPending = s.atsPending := by unfold State.noteWrote; repeat' first | rfl | split
@[simp] theorem State.noteWrote_sealTable (s : State) (r : RegName) : (s.noteWrote r).sealTable = s.sealTable := by unfold State.noteWrote; repeat' first | rfl | split
@[simp] theorem State.noteWrote_ctxs (s : State) (r : RegName) : (s.noteWrote r).ctxs = s.ctxs := by unfold State.noteWrote; repeat' first | rfl | split
@[simp] theorem State.noteWrote_aborting (s : State) (r : RegName) : (s.noteWrote r).aborting = s.aborting := by unfold State.noteWrote; repeat' first | rfl | split
@[simp] theorem State.noteWrote_linksDown (s : State) (r : RegName) : (s.noteWrote r).linksDown = s.linksDown := by unfold State.noteWrote; repeat' first | rfl | split
@[simp] theorem State.noteWrote_linkOwners (s : State) (r : RegName) : (s.noteWrote r).linkOwners = s.linkOwners := by unfold State.noteWrote; repeat' first | rfl | split
@[simp] theorem State.noteWrote_lostPeers (s : State) (r : RegName) : (s.noteWrote r).lostPeers = s.lostPeers := by unfold State.noteWrote; repeat' first | rfl | split
@[simp] theorem State.noteWrote_clusters (s : State) (r : RegName) : (s.noteWrote r).clusters = s.clusters := by unfold State.noteWrote; repeat' first | rfl | split
@[simp] theorem State.noteWrote_launches (s : State) (r : RegName) : (s.noteWrote r).launches = s.launches := by unfold State.noteWrote; repeat' first | rfl | split
@[simp] theorem State.noteWrote_impressions (s : State) (r : RegName) : (s.noteWrote r).impressions = s.impressions := by unfold State.noteWrote; repeat' first | rfl | split
@[simp] theorem State.noteWrote_tickets (s : State) (r : RegName) : (s.noteWrote r).tickets = s.tickets := by unfold State.noteWrote; repeat' first | rfl | split
@[simp] theorem State.noteWrote_items (s : State) (r : RegName) : (s.noteWrote r).items = s.items := by unfold State.noteWrote; repeat' first | rfl | split
@[simp] theorem State.noteWrote_teams (s : State) (r : RegName) : (s.noteWrote r).teams = s.teams := by unfold State.noteWrote; repeat' first | rfl | split
@[simp] theorem State.noteWrote_waves (s : State) (r : RegName) : (s.noteWrote r).waves = s.waves := by unfold State.noteWrote; repeat' first | rfl | split
@[simp] theorem State.noteWrote_who (s : State) (r : RegName) : (s.noteWrote r).who = s.who := by unfold State.noteWrote; repeat' first | rfl | split
@[simp] theorem State.noteWrote_rings (s : State) (r : RegName) : (s.noteWrote r).rings = s.rings := by unfold State.noteWrote; repeat' first | rfl | split
@[simp] theorem State.noteWrote_scan (s : State) (r : RegName) : (s.noteWrote r).scan = s.scan := by unfold State.noteWrote; repeat' first | rfl | split
@[simp] theorem State.noteWrote_groups (s : State) (r : RegName) : (s.noteWrote r).groups = s.groups := by unfold State.noteWrote; repeat' first | rfl | split
@[simp] theorem State.noteWrote_kvs (s : State) (r : RegName) : (s.noteWrote r).kvs = s.kvs := by unfold State.noteWrote; repeat' first | rfl | split
@[simp] theorem State.noteWrote_mills (s : State) (r : RegName) : (s.noteWrote r).mills = s.mills := by unfold State.noteWrote; repeat' first | rfl | split
@[simp] theorem State.noteWrote_lifetime (s : State) (r : RegName) : (s.noteWrote r).lifetime = s.lifetime := by unfold State.noteWrote; repeat' first | rfl | split
@[simp] theorem State.noteWrote_throttle (s : State) (r : RegName) : (s.noteWrote r).throttle = s.throttle := by unfold State.noteWrote; repeat' first | rfl | split
@[simp] theorem State.noteWrote_firmware (s : State) (r : RegName) : (s.noteWrote r).firmware = s.firmware := by unfold State.noteWrote; repeat' first | rfl | split
@[simp] theorem State.noteWrote_rollback (s : State) (r : RegName) : (s.noteWrote r).rollback = s.rollback := by unfold State.noteWrote; repeat' first | rfl | split
@[simp] theorem State.noteWrote_outbox (s : State) (r : RegName) : (s.noteWrote r).outbox = s.outbox := by unfold State.noteWrote; repeat' first | rfl | split
@[simp] theorem State.noteWrote_agenda (s : State) (r : RegName) : (s.noteWrote r).agenda = s.agenda := by unfold State.noteWrote; repeat' first | rfl | split
@[simp] theorem State.noteWrote_focus (s : State) (r : RegName) : (s.noteWrote r).focus = s.focus := by unfold State.noteWrote; repeat' first | rfl | split
@[simp] theorem State.noteWrote_issue (s : State) (r : RegName) : (s.noteWrote r).issue = s.issue := by unfold State.noteWrote; repeat' first | rfl | split
@[simp] theorem State.noteWrote_fresh (s : State) (r : RegName) : (s.noteWrote r).fresh = s.fresh := by unfold State.noteWrote; repeat' first | rfl | split
@[simp] theorem State.noteWrote_nextId (s : State) (r : RegName) : (s.noteWrote r).nextId = s.nextId := by unfold State.noteWrote; repeat' first | rfl | split
@[simp] theorem State.noteWrote_time (s : State) (r : RegName) : (s.noteWrote r).time = s.time := by unfold State.noteWrote; repeat' first | rfl | split
@[simp] theorem State.noteWrote_copies (s : State) (r : RegName) : (s.noteWrote r).copies = s.copies := by unfold State.noteWrote; repeat' first | rfl | split
@[simp] theorem State.noteWrote_tlbs (s : State) (r : RegName) : (s.noteWrote r).tlbs = s.tlbs := by unfold State.noteWrote; repeat' first | rfl | split
@[simp] theorem State.noteWrote_msixMasked (s : State) (r : RegName) : (s.noteWrote r).msixMasked = s.msixMasked := by unfold State.noteWrote; repeat' first | rfl | split
@[simp] theorem State.noteWrote_msixPending (s : State) (r : RegName) : (s.noteWrote r).msixPending = s.msixPending := by unfold State.noteWrote; repeat' first | rfl | split
@[simp] theorem State.noteWrote_urgent (s : State) (r : RegName) : (s.noteWrote r).urgent = s.urgent := by unfold State.noteWrote; repeat' first | rfl | split

/-! `mapWaves`. -/

@[simp] theorem State.mapWaves_cycle (s : State) (f : Wave → Wave) : (s.mapWaves f).cycle = s.cycle := rfl
@[simp] theorem State.mapWaves_gt (s : State) (f : Wave → Wave) : (s.mapWaves f).gt = s.gt := rfl
@[simp] theorem State.mapWaves_mem (s : State) (f : Wave → Wave) : (s.mapWaves f).mem = s.mem := rfl
@[simp] theorem State.mapWaves_hostMem (s : State) (f : Wave → Wave) : (s.mapWaves f).hostMem = s.hostMem := rfl
@[simp] theorem State.mapWaves_peerMem (s : State) (f : Wave → Wave) : (s.mapWaves f).peerMem = s.peerMem := rfl
@[simp] theorem State.mapWaves_sectors (s : State) (f : Wave → Wave) : (s.mapWaves f).sectors = s.sectors := rfl
@[simp] theorem State.mapWaves_floors (s : State) (f : Wave → Wave) : (s.mapWaves f).floors = s.floors := rfl
@[simp] theorem State.mapWaves_poison (s : State) (f : Wave → Wave) : (s.mapWaves f).poison = s.poison := rfl
@[simp] theorem State.mapWaves_lines (s : State) (f : Wave → Wave) : (s.mapWaves f).lines = s.lines := rfl
@[simp] theorem State.mapWaves_asids (s : State) (f : Wave → Wave) : (s.mapWaves f).asids = s.asids := rfl
@[simp] theorem State.mapWaves_scrubs (s : State) (f : Wave → Wave) : (s.mapWaves f).scrubs = s.scrubs := rfl
@[simp] theorem State.mapWaves_atsPending (s : State) (f : Wave → Wave) : (s.mapWaves f).atsPending = s.atsPending := rfl
@[simp] theorem State.mapWaves_copies (s : State) (f : Wave → Wave) : (s.mapWaves f).copies = s.copies := rfl
@[simp] theorem State.mapWaves_tlbs (s : State) (f : Wave → Wave) : (s.mapWaves f).tlbs = s.tlbs := rfl
@[simp] theorem State.mapWaves_urgent (s : State) (f : Wave → Wave) : (s.mapWaves f).urgent = s.urgent := rfl
@[simp] theorem State.mapWaves_sealTable (s : State) (f : Wave → Wave) : (s.mapWaves f).sealTable = s.sealTable := rfl
@[simp] theorem State.mapWaves_ctxs (s : State) (f : Wave → Wave) : (s.mapWaves f).ctxs = s.ctxs := rfl
@[simp] theorem State.mapWaves_aborting (s : State) (f : Wave → Wave) : (s.mapWaves f).aborting = s.aborting := rfl
@[simp] theorem State.mapWaves_linksDown (s : State) (f : Wave → Wave) : (s.mapWaves f).linksDown = s.linksDown := rfl
@[simp] theorem State.mapWaves_linkOwners (s : State) (f : Wave → Wave) : (s.mapWaves f).linkOwners = s.linkOwners := rfl
@[simp] theorem State.mapWaves_lostPeers (s : State) (f : Wave → Wave) : (s.mapWaves f).lostPeers = s.lostPeers := rfl
@[simp] theorem State.mapWaves_clusters (s : State) (f : Wave → Wave) : (s.mapWaves f).clusters = s.clusters := rfl
@[simp] theorem State.mapWaves_launches (s : State) (f : Wave → Wave) : (s.mapWaves f).launches = s.launches := rfl
@[simp] theorem State.mapWaves_impressions (s : State) (f : Wave → Wave) : (s.mapWaves f).impressions = s.impressions := rfl
@[simp] theorem State.mapWaves_tickets (s : State) (f : Wave → Wave) : (s.mapWaves f).tickets = s.tickets := rfl
@[simp] theorem State.mapWaves_items (s : State) (f : Wave → Wave) : (s.mapWaves f).items = s.items := rfl
@[simp] theorem State.mapWaves_teams (s : State) (f : Wave → Wave) : (s.mapWaves f).teams = s.teams := rfl
@[simp] theorem State.mapWaves_who (s : State) (f : Wave → Wave) : (s.mapWaves f).who = s.who := rfl
@[simp] theorem State.mapWaves_rings (s : State) (f : Wave → Wave) : (s.mapWaves f).rings = s.rings := rfl
@[simp] theorem State.mapWaves_scan (s : State) (f : Wave → Wave) : (s.mapWaves f).scan = s.scan := rfl
@[simp] theorem State.mapWaves_groups (s : State) (f : Wave → Wave) : (s.mapWaves f).groups = s.groups := rfl
@[simp] theorem State.mapWaves_kvs (s : State) (f : Wave → Wave) : (s.mapWaves f).kvs = s.kvs := rfl
@[simp] theorem State.mapWaves_mills (s : State) (f : Wave → Wave) : (s.mapWaves f).mills = s.mills := rfl
@[simp] theorem State.mapWaves_lifetime (s : State) (f : Wave → Wave) : (s.mapWaves f).lifetime = s.lifetime := rfl
@[simp] theorem State.mapWaves_throttle (s : State) (f : Wave → Wave) : (s.mapWaves f).throttle = s.throttle := rfl
@[simp] theorem State.mapWaves_firmware (s : State) (f : Wave → Wave) : (s.mapWaves f).firmware = s.firmware := rfl
@[simp] theorem State.mapWaves_rollback (s : State) (f : Wave → Wave) : (s.mapWaves f).rollback = s.rollback := rfl
@[simp] theorem State.mapWaves_outbox (s : State) (f : Wave → Wave) : (s.mapWaves f).outbox = s.outbox := rfl
@[simp] theorem State.mapWaves_agenda (s : State) (f : Wave → Wave) : (s.mapWaves f).agenda = s.agenda := rfl
@[simp] theorem State.mapWaves_focus (s : State) (f : Wave → Wave) : (s.mapWaves f).focus = s.focus := rfl
@[simp] theorem State.mapWaves_issue (s : State) (f : Wave → Wave) : (s.mapWaves f).issue = s.issue := rfl
@[simp] theorem State.mapWaves_fresh (s : State) (f : Wave → Wave) : (s.mapWaves f).fresh = s.fresh := rfl
@[simp] theorem State.mapWaves_nextId (s : State) (f : Wave → Wave) : (s.mapWaves f).nextId = s.nextId := rfl
@[simp] theorem State.mapWaves_time (s : State) (f : Wave → Wave) : (s.mapWaves f).time = s.time := rfl
@[simp] theorem State.mapWaves_msixMasked (s : State) (f : Wave → Wave) : (s.mapWaves f).msixMasked = s.msixMasked := rfl
@[simp] theorem State.mapWaves_msixPending (s : State) (f : Wave → Wave) : (s.mapWaves f).msixPending = s.msixPending := rfl

/-! `block`. -/

@[simp] theorem State.block_cycle (s : State) (p : Park) : (s.block p).cycle = s.cycle := rfl
@[simp] theorem State.block_gt (s : State) (p : Park) : (s.block p).gt = s.gt := rfl
@[simp] theorem State.block_mem (s : State) (p : Park) : (s.block p).mem = s.mem := rfl
@[simp] theorem State.block_hostMem (s : State) (p : Park) : (s.block p).hostMem = s.hostMem := rfl
@[simp] theorem State.block_peerMem (s : State) (p : Park) : (s.block p).peerMem = s.peerMem := rfl
@[simp] theorem State.block_sectors (s : State) (p : Park) : (s.block p).sectors = s.sectors := rfl
@[simp] theorem State.block_floors (s : State) (p : Park) : (s.block p).floors = s.floors := rfl
@[simp] theorem State.block_poison (s : State) (p : Park) : (s.block p).poison = s.poison := rfl
@[simp] theorem State.block_lines (s : State) (p : Park) : (s.block p).lines = s.lines := rfl
@[simp] theorem State.block_asids (s : State) (p : Park) : (s.block p).asids = s.asids := rfl
@[simp] theorem State.block_scrubs (s : State) (p : Park) : (s.block p).scrubs = s.scrubs := rfl
@[simp] theorem State.block_atsPending (s : State) (p : Park) : (s.block p).atsPending = s.atsPending := rfl
@[simp] theorem State.block_copies (s : State) (p : Park) : (s.block p).copies = s.copies := rfl
@[simp] theorem State.block_tlbs (s : State) (p : Park) : (s.block p).tlbs = s.tlbs := rfl
@[simp] theorem State.block_urgent (s : State) (p : Park) : (s.block p).urgent = s.urgent := rfl
@[simp] theorem State.block_sealTable (s : State) (p : Park) : (s.block p).sealTable = s.sealTable := rfl
@[simp] theorem State.block_ctxs (s : State) (p : Park) : (s.block p).ctxs = s.ctxs := rfl
@[simp] theorem State.block_aborting (s : State) (p : Park) : (s.block p).aborting = s.aborting := rfl
@[simp] theorem State.block_linksDown (s : State) (p : Park) : (s.block p).linksDown = s.linksDown := rfl
@[simp] theorem State.block_linkOwners (s : State) (p : Park) : (s.block p).linkOwners = s.linkOwners := rfl
@[simp] theorem State.block_lostPeers (s : State) (p : Park) : (s.block p).lostPeers = s.lostPeers := rfl
@[simp] theorem State.block_clusters (s : State) (p : Park) : (s.block p).clusters = s.clusters := rfl
@[simp] theorem State.block_launches (s : State) (p : Park) : (s.block p).launches = s.launches := rfl
@[simp] theorem State.block_impressions (s : State) (p : Park) : (s.block p).impressions = s.impressions := rfl
@[simp] theorem State.block_tickets (s : State) (p : Park) : (s.block p).tickets = s.tickets := rfl
@[simp] theorem State.block_items (s : State) (p : Park) : (s.block p).items = s.items := rfl
@[simp] theorem State.block_teams (s : State) (p : Park) : (s.block p).teams = s.teams := rfl
@[simp] theorem State.block_waves (s : State) (p : Park) : (s.block p).waves = s.waves := rfl
@[simp] theorem State.block_who (s : State) (p : Park) : (s.block p).who = s.who := rfl
@[simp] theorem State.block_rings (s : State) (p : Park) : (s.block p).rings = s.rings := rfl
@[simp] theorem State.block_scan (s : State) (p : Park) : (s.block p).scan = s.scan := rfl
@[simp] theorem State.block_groups (s : State) (p : Park) : (s.block p).groups = s.groups := rfl
@[simp] theorem State.block_kvs (s : State) (p : Park) : (s.block p).kvs = s.kvs := rfl
@[simp] theorem State.block_mills (s : State) (p : Park) : (s.block p).mills = s.mills := rfl
@[simp] theorem State.block_lifetime (s : State) (p : Park) : (s.block p).lifetime = s.lifetime := rfl
@[simp] theorem State.block_throttle (s : State) (p : Park) : (s.block p).throttle = s.throttle := rfl
@[simp] theorem State.block_firmware (s : State) (p : Park) : (s.block p).firmware = s.firmware := rfl
@[simp] theorem State.block_rollback (s : State) (p : Park) : (s.block p).rollback = s.rollback := rfl
@[simp] theorem State.block_outbox (s : State) (p : Park) : (s.block p).outbox = s.outbox := rfl
@[simp] theorem State.block_agenda (s : State) (p : Park) : (s.block p).agenda = s.agenda := rfl
@[simp] theorem State.block_focus (s : State) (p : Park) : (s.block p).focus = s.focus := rfl
@[simp] theorem State.block_issue (s : State) (p : Park) : (s.block p).issue = s.issue := rfl
@[simp] theorem State.block_fresh (s : State) (p : Park) : (s.block p).fresh = s.fresh := rfl
@[simp] theorem State.block_nextId (s : State) (p : Park) : (s.block p).nextId = s.nextId := rfl
@[simp] theorem State.block_time (s : State) (p : Park) : (s.block p).time = s.time := rfl
@[simp] theorem State.block_msixMasked (s : State) (p : Park) : (s.block p).msixMasked = s.msixMasked := rfl
@[simp] theorem State.block_msixPending (s : State) (p : Park) : (s.block p).msixPending = s.msixPending := rfl

/-! `counted`. -/

@[simp] theorem State.counted_cycle (s : State) : (s.counted).cycle = s.cycle := rfl
@[simp] theorem State.counted_gt (s : State) : (s.counted).gt = s.gt := rfl
@[simp] theorem State.counted_mem (s : State) : (s.counted).mem = s.mem := rfl
@[simp] theorem State.counted_hostMem (s : State) : (s.counted).hostMem = s.hostMem := rfl
@[simp] theorem State.counted_peerMem (s : State) : (s.counted).peerMem = s.peerMem := rfl
@[simp] theorem State.counted_sectors (s : State) : (s.counted).sectors = s.sectors := rfl
@[simp] theorem State.counted_floors (s : State) : (s.counted).floors = s.floors := rfl
@[simp] theorem State.counted_poison (s : State) : (s.counted).poison = s.poison := rfl
@[simp] theorem State.counted_lines (s : State) : (s.counted).lines = s.lines := rfl
@[simp] theorem State.counted_asids (s : State) : (s.counted).asids = s.asids := rfl
@[simp] theorem State.counted_scrubs (s : State) : (s.counted).scrubs = s.scrubs := rfl
@[simp] theorem State.counted_atsPending (s : State) : (s.counted).atsPending = s.atsPending := rfl
@[simp] theorem State.counted_copies (s : State) : (s.counted).copies = s.copies := rfl
@[simp] theorem State.counted_tlbs (s : State) : (s.counted).tlbs = s.tlbs := rfl
@[simp] theorem State.counted_urgent (s : State) : (s.counted).urgent = s.urgent := rfl
@[simp] theorem State.counted_sealTable (s : State) : (s.counted).sealTable = s.sealTable := rfl
@[simp] theorem State.counted_ctxs (s : State) : (s.counted).ctxs = s.ctxs := rfl
@[simp] theorem State.counted_aborting (s : State) : (s.counted).aborting = s.aborting := rfl
@[simp] theorem State.counted_linksDown (s : State) : (s.counted).linksDown = s.linksDown := rfl
@[simp] theorem State.counted_linkOwners (s : State) : (s.counted).linkOwners = s.linkOwners := rfl
@[simp] theorem State.counted_lostPeers (s : State) : (s.counted).lostPeers = s.lostPeers := rfl
@[simp] theorem State.counted_clusters (s : State) : (s.counted).clusters = s.clusters := rfl
@[simp] theorem State.counted_launches (s : State) : (s.counted).launches = s.launches := rfl
@[simp] theorem State.counted_impressions (s : State) : (s.counted).impressions = s.impressions := rfl
@[simp] theorem State.counted_tickets (s : State) : (s.counted).tickets = s.tickets := rfl
@[simp] theorem State.counted_items (s : State) : (s.counted).items = s.items := rfl
@[simp] theorem State.counted_teams (s : State) : (s.counted).teams = s.teams := rfl
@[simp] theorem State.counted_waves (s : State) : (s.counted).waves = s.waves := rfl
@[simp] theorem State.counted_cur (s : State) : (s.counted).cur = s.cur := rfl
@[simp] theorem State.counted_who (s : State) : (s.counted).who = s.who := rfl
@[simp] theorem State.counted_rings (s : State) : (s.counted).rings = s.rings := rfl
@[simp] theorem State.counted_scan (s : State) : (s.counted).scan = s.scan := rfl
@[simp] theorem State.counted_groups (s : State) : (s.counted).groups = s.groups := rfl
@[simp] theorem State.counted_kvs (s : State) : (s.counted).kvs = s.kvs := rfl
@[simp] theorem State.counted_mills (s : State) : (s.counted).mills = s.mills := rfl
@[simp] theorem State.counted_lifetime (s : State) : (s.counted).lifetime = s.lifetime := rfl
@[simp] theorem State.counted_throttle (s : State) : (s.counted).throttle = s.throttle := rfl
@[simp] theorem State.counted_firmware (s : State) : (s.counted).firmware = s.firmware := rfl
@[simp] theorem State.counted_rollback (s : State) : (s.counted).rollback = s.rollback := rfl
@[simp] theorem State.counted_outbox (s : State) : (s.counted).outbox = s.outbox := rfl
@[simp] theorem State.counted_agenda (s : State) : (s.counted).agenda = s.agenda := rfl
@[simp] theorem State.counted_focus (s : State) : (s.counted).focus = s.focus := rfl
@[simp] theorem State.counted_issue (s : State) : (s.counted).issue = s.issue := rfl
@[simp] theorem State.counted_fresh (s : State) : (s.counted).fresh = s.fresh + 1 := rfl
@[simp] theorem State.counted_nextId (s : State) : (s.counted).nextId = s.nextId := rfl
@[simp] theorem State.counted_time (s : State) : (s.counted).time = s.time := rfl
@[simp] theorem State.counted_msixMasked (s : State) : (s.counted).msixMasked = s.msixMasked := rfl
@[simp] theorem State.counted_msixPending (s : State) : (s.counted).msixPending = s.msixPending := rfl

/-! Keyed parts read back. -/

@[simp] theorem State.ctx_setCtx (s : State) (n : Nat) (c : Ctx) : (s.setCtx n c).ctx n = c := by
  simp [State.ctx]

@[simp] theorem State.cluster_setCluster (s : State) (n : Nat) (c : Cluster) : (s.setCluster n c).cluster n = c := by
  simp [State.cluster]

theorem State.mem_postOnce (s : State) (i : Instr) : i ∈ (s.postOnce i).agenda := by
  unfold State.postOnce
  split
  · rename_i h; simpa using h
  · simp

theorem State.mem_postOnce_of_mem (s : State) (i j : Instr) (h : j ∈ s.agenda) : j ∈ (s.postOnce i).agenda := by
  unfold State.postOnce
  split
  · exact h
  · simp [h]

/-- A thread that exists reads back what was written to it. -/
theorem State.thread_setThread (s : State) (t : Thread) (h : s.threadExists) : (s.setThread t).thread = t := by
  unfold State.threadExists at h
  unfold State.thread State.setThread Wave.setThread Wave.thread
  cases hw : s.who with
  | split n => simp
  | sprig j =>
    simp only [hw] at h
    cases hp : NMap.get? s.cur.sprigs j with
    | none => simp [hp] at h
    | some p => simp [hp]
  | handler =>
    simp only [hw] at h
    cases hf : s.cur.frame with
    | none => simp [hf] at h
    | some f => simp

end Sys2Proof.Machine
end

