-- ==== Sys2Proof/Laws/Frames.lean ====
section
/-! SUPPORT. What the shared operations on registers leave unchanged: everything but the registers they name, the results
pending for those, and flags, which they only raise. -/

namespace Sys2Proof.Machine

theorem State.sameOutside_refl (s : State) : s.sameOutside s := rfl

theorem State.sameOutside_trans {s r t : State} (h : s.sameOutside r) (k : r.sameOutside t) : s.sameOutside t := by
  unfold State.sameOutside at *
  rw [← h, ← k]

theorem State.sameOutside_who {s r : State} (h : s.sameOutside r) : r.who = s.who := by
  unfold State.sameOutside at h; rw [← h]
theorem State.sameOutside_mem {s r : State} (h : s.sameOutside r) : r.mem = s.mem := by
  unfold State.sameOutside at h; rw [← h]

theorem Wave.sameControl_refl (w : Wave) : w.sameControl w := rfl

theorem Wave.sameControl_trans {u v w : Wave} (h : u.sameControl v) (k : v.sameControl w) : u.sameControl w := by
  unfold Wave.sameControl at *
  rw [← h, ← k]

theorem State.keeps_refl (s : State) : s.keeps [] s :=
  ⟨rfl, rfl, fun _ _ => rfl, fun _ _ => rfl, fun _ _ _ => rfl, fun _ h _ => h, rfl, BitVec.and_self, fun _ _ => ⟨rfl, rfl⟩, fun _ _ => rfl⟩

theorem State.keeps_mono {ds es : List RegName} {s r : State} (h : s.keeps ds r) (k : ∀ x ∈ ds, x ∈ es) : s.keeps es r := by
  obtain ⟨h1, h2, h3, h4, h5, h6⟩ := h
  exact ⟨h1, h2, fun n hn => h3 n fun hc => hn (k _ hc), fun n hn => h4 n fun hc => hn (k _ hc),
    fun x hx => h5 x fun hc => hx (k _ hc), h6⟩

theorem State.keeps_trans {ds es : List RegName} {s r t : State} (h : s.keeps ds r) (k : r.keeps es t) :
    s.keeps (ds ++ es) t := by
  obtain ⟨h1, h2, h3, h4, h5, h6, h7, h8, h9, h10⟩ := h
  obtain ⟨k1, k2, k3, k4, k5, k6, k7, k8, k9, k10⟩ := k
  have hw := State.sameOutside_who h1
  refine ⟨State.sameOutside_trans h1 k1, Wave.sameControl_trans h2 k2, ?_, ?_, ?_, ?_, ?_, ?_, ?_, ?_⟩
  · intro n hn
    simp only [List.mem_append, not_or] at hn
    rw [k3 n hn.2, h3 n hn.1]
  · intro n hn
    simp only [List.mem_append, not_or] at hn
    rw [k4 n hn.2, h4 n hn.1]
  · intro x hx l
    simp only [List.mem_append, not_or] at hx
    rw [k5 x hx.2, h5 x hx.1]
  · intro p hp hf
    exact k6 p (h6 p hp hf) (by rw [hw]; exact hf)
  · rw [k7, h7]
  · calc t.sys.flags &&& s.sys.flags = t.sys.flags &&& (r.sys.flags &&& s.sys.flags) := by rw [h8]
      _ = (t.sys.flags &&& r.sys.flags) &&& s.sys.flags := by rw [BitVec.and_assoc]
      _ = s.sys.flags := by rw [k8, h8]
  · intro j hj
    obtain ⟨a1, a2⟩ := h9 j hj
    obtain ⟨b1, b2⟩ := k9 j (hw.trans hj)
    exact ⟨b1.trans a1, b2.trans a2⟩
  · intro j hj
    rw [k10 j (by rw [hw]; exact hj), h10 j hj]

/-! Posting. -/

theorem State.keeps_post (s : State) (i : Instr) : s.keeps [] (s.post i) :=
  ⟨rfl, rfl, fun _ _ => rfl, fun _ _ => rfl, fun _ _ _ => rfl, fun _ h _ => h, rfl, BitVec.and_self, fun _ _ => ⟨rfl, rfl⟩, fun _ _ => rfl⟩

theorem State.keeps_postOnce (s : State) (i : Instr) : s.keeps [] (s.postOnce i) := by
  unfold State.postOnce
  split
  · exact State.keeps_refl s
  · exact State.keeps_post s i

theorem State.keeps_foldl {α : Type} (f : State → α → State) (h : ∀ (s : State) (a : α), s.keeps [] (f s a)) (xs : List α) :
    ∀ s : State, s.keeps [] (xs.foldl f s) := by
  induction xs with
  | nil => exact State.keeps_refl
  | cons a rest ih => intro s; exact State.keeps_trans (h s a) (ih _)

/-! Before a write. -/

/-- Changing what is pending for one register leaves what is pending for the others. -/
theorem pendingFor_map (ps : List Pending) (who : Who) (r x : RegName) (g : PendReg → PendReg) (l : Nat) (h : x ≠ r)
    (hg : ∀ q, (g q).reg = q.reg) :
    pendingFor (ps.map fun p => if sameFile p.who who then { p with regs := p.regs.map fun q => if q.reg = r then g q else q }
      else p) who x l = pendingFor ps who x l := by
  simp only [pendingFor, List.findSome?_map]
  congr 1
  funext p
  simp only [Function.comp]
  by_cases hf : sameFile p.who who = true
  · simp only [hf, ↓reduceIte]
    induction p.regs with
    | nil => rfl
    | cons q qs ih =>
      have : (r == x) = false := beq_eq_false_iff_ne.mpr (Ne.symm h)
      by_cases hq : q.reg = r <;> simp [hq, hg, this, List.find?_cons, ih]
  · simp [hf]

/-- The pending results of a wave with lanes of a register cancelled. -/
theorem State.keeps_cancel (s : State) (r : RegName) (m : Mask) :
    s.keeps [r] { s with cur := s.cur.cancel s.who r m s.nextId } := by
  refine ⟨rfl, rfl, fun _ _ => rfl, fun _ _ => rfl, ?_, ?_, rfl, BitVec.and_self, fun _ _ => ⟨rfl, rfl⟩, fun _ _ => rfl⟩
  · intro x hx l
    exact pendingFor_map s.cur.pending s.who r x _ l (by simpa using hx) fun _ => rfl
  · intro p hp hf
    simp only [Wave.cancel, List.mem_map]
    exact ⟨p, hp, by simp [hf]⟩

/-- The pending results of a wave without bits of lanes of a register. -/
theorem State.keeps_keep (s : State) (r : RegName) (m : Mask) (bits : W64) (b : Bool) :
    s.keeps [r] { s with cur := s.cur.keep s.who r m bits, issue := { s.issue with marker := b } } := by
  refine ⟨rfl, rfl, fun _ _ => rfl, fun _ _ => rfl, ?_, ?_, rfl, BitVec.and_self, fun _ _ => ⟨rfl, rfl⟩, fun _ _ => rfl⟩
  · intro x hx l
    exact pendingFor_map s.cur.pending s.who r x _ l (by simpa using hx) fun _ => rfl
  · intro p hp hf
    simp only [Wave.keep, List.mem_map]
    exact ⟨p, hp, by simp [hf]⟩

/-- A sprig's entry replaced by one with other registers, flags or notes. -/
theorem State.keeps_sprig {ds : List RegName} (s : State) (j : Nat) (p q : Sprig) (hw : s.who = .sprig j)
    (hp : NMap.get? s.cur.sprigs j = some p) (h1 : ∀ n, .s n ∉ ds → q.file.sregs[n]? = p.file.sregs[n]?)
    (h2 : ∀ n, .v n ∉ ds → q.file.vregs[n]? = p.file.vregs[n]?) (h3 : q.sys = { p.sys with flags := q.sys.flags })
    (h4 : q.sys.flags &&& p.sys.flags = p.sys.flags) :
    s.keeps ds { s with cur := { s.cur with sprigs := NMap.set s.cur.sprigs j q } } := by
  have hs : State.sprig? { s with cur := { s.cur with sprigs := NMap.set s.cur.sprigs j q } } = some q := by
    simp [State.sprig?, hw]
  have hs0 : s.sprig? = some p := by simp [State.sprig?, hw, hp]
  refine ⟨rfl, rfl, ?_, ?_, fun _ _ _ => rfl, fun _ h _ => h, ?_, ?_, fun _ _ => ⟨rfl, rfl⟩, ?_⟩
  · intro n hn; simp only [State.file, hs, hs0]; exact h1 n hn
  · intro n hn; simp only [State.file, hs, hs0]; exact h2 n hn
  · simp only [State.sys, hs, hs0]; exact h3
  · simp only [State.sys, hs, hs0]; exact h4
  · intro k hk
    have : k ≠ j := fun hc => hk (by rw [hw, hc])
    exact nmap_get_set_other _ _ _ _ this

theorem State.keeps_noteWrote (s : State) (r : RegName) : s.keeps [] (s.noteWrote r) := by
  unfold State.noteWrote
  split
  · rename_i j hw
    split
    · rename_i p hp
      split
      · exact State.keeps_refl s
      · exact State.keeps_sprig s j p _ hw hp (fun _ _ => rfl) (fun _ _ => rfl) rfl BitVec.and_self
    · exact State.keeps_refl s
  · exact State.keeps_refl s

theorem State.keeps_pushOut (s : State) (r : RegName) : s.keeps [] (s.pushOut r) := by
  unfold State.pushOut
  split
  · exact State.keeps_refl s
  · generalize hx : s.cur.sprigs = xs
    clear hx
    refine State.keeps_foldl _ ?_ xs s
    intro t a
    obtain ⟨j, p⟩ := a
    dsimp only
    split
    · exact State.keeps_refl t
    · exact State.keeps_postOnce t _

theorem State.keeps_beforeWrite (s : State) (r : RegName) (m : Mask) : s.keeps [r] (s.beforeWrite r m) :=
  State.keeps_mono (State.keeps_trans (State.keeps_trans (State.keeps_cancel s r m) (State.keeps_noteWrote _ r))
    (State.keeps_pushOut _ r)) (by simp)

/-! Writing registers. -/

/-- Registers of the issuing thread's file replaced. -/
theorem State.keeps_setFile {ds : List RegName} (s : State) (f : RegFile) (h1 : ∀ n, .s n ∉ ds → f.sregs[n]? = s.file.sregs[n]?)
    (h2 : ∀ n, .v n ∉ ds → f.vregs[n]? = s.file.vregs[n]?) : s.keeps ds (s.setFile f) := by
  unfold State.setFile
  split
  · rename_i j hw
    split
    · rename_i p hp
      have hs0 : s.sprig? = some p := by simp [State.sprig?, hw, hp]
      simp only [State.file, hs0] at h1 h2
      exact State.keeps_sprig s j p _ hw hp h1 h2 rfl BitVec.and_self
    · exact State.keeps_mono (State.keeps_refl s) (by simp)
  · rename_i hw
    have hn : s.sprig? = none := by
      unfold State.sprig?
      split
      · rename_i j hj; exact absurd hj (hw j)
      · rfl
    have hn2 : State.sprig? { s with cur := { s.cur with file := f } } = none := by
      unfold State.sprig? at hn ⊢
      split
      · rename_i j hj; exact absurd hj (hw j)
      · rfl
    simp only [State.file, hn] at h1 h2
    refine ⟨rfl, rfl, ?_, ?_, fun _ _ _ => rfl, fun _ h _ => h, ?_, ?_, ?_, fun _ _ => rfl⟩
    · intro n h; simp only [State.file, hn, hn2]; exact h1 n h
    · intro n h; simp only [State.file, hn, hn2]; exact h2 n h
    · simp only [State.sys, hn, hn2]
    · simp only [State.sys, hn, hn2]; exact BitVec.and_self
    · intro j hj; exact absurd hj (hw j)

/-- A write of a scalar register changes that register alone. -/
theorem State.keeps_writeS (s : State) (r : Nat) (tag : Fmt) (v : W64) : s.keeps [.s r] (s.writeS r tag v) := by
  refine State.keeps_mono (State.keeps_trans (State.keeps_beforeWrite s (.s r) (-1)) (State.keeps_setFile (ds := [.s r]) _ _ ?_ ?_)) (by simp)
  · intro n hn
    have : n ≠ r := by simpa using hn
    exact List.getElem?_set_ne (Ne.symm this)
  · intro n _; rfl

/-- A write of a vector register changes that register alone. -/
theorem State.keeps_writeV (s : State) (r : Nat) (tag : Fmt) (m : Mask) (f : Nat → W64) : s.keeps [.v r] (s.writeV r tag m f) := by
  unfold State.writeV
  split
  · exact State.keeps_mono (State.keeps_refl s) (by simp)
  · refine State.keeps_mono (State.keeps_trans (State.keeps_beforeWrite s (.v r) m) (State.keeps_setFile (ds := [.v r]) _ _ ?_ ?_)) (by simp)
    · intro n _; rfl
    · intro n hn
      have : n ≠ r := by simpa using hn
      exact List.getElem?_set_ne (Ne.symm this)

/-- A write of part of a register changes that register alone. -/
theorem State.keeps_writePart (s : State) (r : RegName) (tag : Fmt) (m : Mask) (bits : W64) (f : Nat → W64) :
    s.keeps [r] (s.writePart r tag m bits f) := by
  unfold State.writePart
  split
  · exact State.keeps_mono (State.keeps_refl s) (by simp)
  · refine State.keeps_mono (State.keeps_trans (State.keeps_trans (State.keeps_trans (State.keeps_keep s r m bits true)
      (State.keeps_noteWrote _ r)) (State.keeps_pushOut _ r)) (State.keeps_setFile (ds := [r]) _ _ ?_ ?_)) (by simp)
    · intro n hn
      cases r with
      | s k => exact List.getElem?_set_ne (Ne.symm (by simpa using hn))
      | v k => rfl
    · intro n hn
      cases r with
      | s k => rfl
      | v k => exact List.getElem?_set_ne (Ne.symm (by simpa using hn))

theorem State.keeps_setTag (s : State) (r : RegName) (tag : Fmt) : s.keeps [r] (s.setTag r tag) := by
  unfold State.setTag
  split
  · refine State.keeps_setFile s _ ?_ ?_
    · intro n hn
      exact List.getElem?_set_ne (Ne.symm (by simpa using hn))
    · intro n _; rfl
  · refine State.keeps_setFile s _ ?_ ?_
    · intro n _; rfl
    · intro n hn
      exact List.getElem?_set_ne (Ne.symm (by simpa using hn))

/-- The registers of a variable-latency result, tagged at issue. -/
theorem State.keeps_tagAll (rs : List (RegName × Fmt × Mask × (Nat → W64))) : ∀ s : State,
    s.keeps (rs.map (·.1)) (rs.foldl (fun s (r, tag, m, _) => (s.beforeWrite r m).setTag r tag) s) := by
  induction rs with
  | nil => exact State.keeps_refl
  | cons a rest ih =>
    intro s
    obtain ⟨r, tag, m, f⟩ := a
    refine State.keeps_mono (State.keeps_trans (State.keeps_trans (State.keeps_beforeWrite s r m) (State.keeps_setTag _ r tag)) (ih _)) ?_
    intro x hx
    simpa [or_assoc] using hx

/-- A variable-latency result changes tags and what is pending for the registers it names, and nothing else, at issue. -/
theorem State.keeps_defer (s : State) (rs : List (RegName × Fmt × Mask × (Nat → W64))) (flags : BitVec 5)
    (parts : List LoadPart) (sealWait : Option Nat) : s.keeps (rs.map (·.1)) (s.defer rs flags parts sealWait) := by
  have h := State.keeps_tagAll (rs.filter fun (_, _, m, _) => m != 0) s
  have h2 : ∀ (t : State) (p : Pending) (i : Instr) (n : Nat), p.who = t.who → (∀ q ∈ p.regs, q.reg ∈ rs.map (·.1)) →
      t.keeps (rs.map (·.1)) (State.post { t with cur := { t.cur with pending := t.cur.pending ++ [p] }, nextId := n } i) := by
    intro t p i n hp hq
    refine ⟨rfl, rfl, fun _ _ => rfl, fun _ _ => rfl, ?_, ?_, rfl, BitVec.and_self, fun _ _ => ⟨rfl, rfl⟩, fun _ _ => rfl⟩
    · intro x hx l
      simp only [pendingFor, State.post_cur, State.post_who, List.findSome?_append]
      have : (p.regs.find? fun q => q.reg == x && q.lanes.has l && !(p.parts.any fun y => y.lane == l)) = none := by
        rw [List.find?_eq_none]
        intro q hm
        have : q.reg ≠ x := fun hc => hx (hc ▸ hq q hm)
        simp [this]
      rw [List.findSome?_cons, List.findSome?_nil]
      simp only [this, ite_self, Option.or_none]
      rfl
    · intro q hm _
      simp [hm]
  refine State.keeps_mono (State.keeps_trans h (h2 _ _ _ _ ?_ ?_)) ?_
  · rfl
  · intro q hm
    simp only [List.mem_map, List.mem_filter] at hm ⊢
    obtain ⟨a, ⟨ha, -⟩, rfl⟩ := hm
    exact ⟨a, ha, rfl⟩
  · intro x hx
    simp only [List.mem_append, List.mem_map, List.mem_filter] at hx ⊢
    rcases hx with ⟨a, ⟨ha, -⟩, rfl⟩ | hx
    · exact ⟨a, ha, rfl⟩
    · exact hx

/-! Flags. -/

theorem or_and_self (x y : BitVec 5) : (x ||| y) &&& x = x := by
  revert x y; decide

/-- Raising flags changes nothing but flags. -/
theorem State.keeps_raiseFlags (s : State) (f : BitVec 5) : s.keeps [] (s.raiseFlags f) := by
  have hnow : s.keeps [] (s.raiseNow f) := by
    unfold State.raiseNow State.setSys
    split
    · rename_i j hw
      split
      · rename_i p hp
        have hs0 : s.sprig? = some p := by simp [State.sprig?, hw, hp]
        have h := State.keeps_sprig (ds := []) s j p { p with sys := { p.sys with flags := p.sys.flags ||| f } } hw hp
          (fun _ _ => rfl) (fun _ _ => rfl) rfl (or_and_self _ _)
        simp only [State.sys, hs0]
        exact h
      · exact State.keeps_refl s
    · rename_i hw
      have hn : s.sprig? = none := by
        unfold State.sprig?
        split
        · rename_i j hj; exact absurd hj (hw j)
        · rfl
      have hn2 : ∀ x y, State.sprig? { s with cur := { s.cur with sys := x }, issue := y } = none := by
        intro x y
        unfold State.sprig?
        split
        · rename_i j hj; exact absurd hj (hw j)
        · rfl
      refine ⟨rfl, rfl, ?_, ?_, fun _ _ _ => rfl, fun _ h _ => h, ?_, ?_, ?_, fun _ _ => rfl⟩
      · intro n _; simp only [State.file, hn, hn2]
      · intro n _; simp only [State.file, hn, hn2]
      · simp only [State.sys, hn, hn2]
      · simp only [State.sys, hn, hn2]; exact or_and_self _ _
      · intro j hj; exact absurd hj (hw j)
  unfold State.raiseFlags
  split
  · split
    · exact ⟨rfl, rfl, fun _ _ => rfl, fun _ _ => rfl, fun _ _ _ => rfl, fun _ h _ => h, rfl, BitVec.and_self,
        fun _ _ => ⟨rfl, rfl⟩, fun _ _ => rfl⟩
    · exact hnow
  · exact hnow

/-! FLAGS and what run-ahead holds apart, where nothing is raised. -/

/-- The thread registers and the open run-ahead are as before. -/
def State.plain (s r : State) : Prop := r.sys = s.sys ∧ r.cur.runAhead = s.cur.runAhead ∧ r.who = s.who

theorem State.plain_refl (s : State) : s.plain s := ⟨rfl, rfl, rfl⟩
theorem State.plain_trans {s r t : State} (h : s.plain r) (k : r.plain t) : s.plain t :=
  ⟨k.1.trans h.1, k.2.1.trans h.2.1, k.2.2.trans h.2.2⟩

theorem State.plain_postOnce (s : State) (i : Instr) : s.plain (s.postOnce i) := by
  unfold State.postOnce
  split
  · exact State.plain_refl s
  · exact ⟨rfl, rfl, rfl⟩

theorem State.plain_foldl {α : Type} (f : State → α → State) (h : ∀ (s : State) (a : α), s.plain (f s a)) (xs : List α) :
    ∀ s : State, s.plain (xs.foldl f s) := by
  induction xs with
  | nil => exact State.plain_refl
  | cons a rest ih => intro s; exact State.plain_trans (h s a) (ih _)

theorem State.plain_sprig (s : State) (j : Nat) (p q : Sprig) (hw : s.who = .sprig j)
    (hp : NMap.get? s.cur.sprigs j = some p) (h : q.sys = p.sys) :
    s.plain { s with cur := { s.cur with sprigs := NMap.set s.cur.sprigs j q } } := by
  refine ⟨?_, rfl, rfl⟩
  simp [State.sys, State.sprig?, hw, hp, h]

theorem State.plain_setFile (s : State) (f : RegFile) : s.plain (s.setFile f) := by
  unfold State.setFile
  split
  · rename_i j hw
    split
    · rename_i p hp
      exact State.plain_sprig s j p _ hw hp rfl
    · exact State.plain_refl s
  · rename_i hw
    refine ⟨?_, rfl, rfl⟩
    unfold State.sys State.sprig?
    cases hs : s.who with
    | sprig j => exact absurd hs (hw j)
    | split n => simp
    | handler => simp

theorem State.plain_noteWrote (s : State) (r : RegName) : s.plain (s.noteWrote r) := by
  unfold State.noteWrote
  split
  · rename_i j hw
    split
    · rename_i p hp
      split
      · exact State.plain_refl s
      · exact State.plain_sprig s j p _ hw hp rfl
    · exact State.plain_refl s
  · exact State.plain_refl s

theorem State.plain_pushOut (s : State) (r : RegName) : s.plain (s.pushOut r) := by
  unfold State.pushOut
  split
  · exact State.plain_refl s
  · generalize hx : s.cur.sprigs = xs
    clear hx
    refine State.plain_foldl _ ?_ xs s
    intro u a
    obtain ⟨j, p⟩ := a
    dsimp only
    split
    · exact State.plain_refl u
    · exact State.plain_postOnce u _

theorem State.plain_beforeWrite (s : State) (r : RegName) (m : Mask) : s.plain (s.beforeWrite r m) :=
  State.plain_trans (State.plain_trans (r := { s with cur := s.cur.cancel s.who r m s.nextId }) ⟨rfl, rfl, rfl⟩
    (State.plain_noteWrote _ r)) (State.plain_pushOut _ r)

theorem State.plain_writeS (s : State) (r : Nat) (tag : Fmt) (v : W64) : s.plain (s.writeS r tag v) :=
  State.plain_trans (State.plain_beforeWrite s _ _) (State.plain_setFile _ _)

theorem State.plain_writeV (s : State) (r : Nat) (tag : Fmt) (m : Mask) (f : Nat → W64) : s.plain (s.writeV r tag m f) := by
  unfold State.writeV
  split
  · exact State.plain_refl s
  · exact State.plain_trans (State.plain_beforeWrite s _ _) (State.plain_setFile _ _)

theorem State.plain_writePart (s : State) (r : RegName) (tag : Fmt) (m : Mask) (bits : W64) (f : Nat → W64) :
    s.plain (s.writePart r tag m bits f) := by
  unfold State.writePart
  split
  · exact State.plain_refl s
  · exact State.plain_trans (State.plain_trans (State.plain_trans
      (r := { s with cur := s.cur.keep s.who r m bits, issue := { s.issue with marker := true } }) ⟨rfl, rfl, rfl⟩
      (State.plain_noteWrote _ r)) (State.plain_pushOut _ r)) (State.plain_setFile _ _)

theorem State.plain_setTag (s : State) (r : RegName) (tag : Fmt) : s.plain (s.setTag r tag) := by
  unfold State.setTag
  split <;> exact State.plain_setFile s _

theorem State.plain_defer (s : State) (rs : List (RegName × Fmt × Mask × (Nat → W64))) (flags : BitVec 5)
    (parts : List LoadPart) (sealWait : Option Nat) : s.plain (s.defer rs flags parts sealWait) := by
  have h := State.plain_foldl (fun (s : State) (x : RegName × Fmt × Mask × (Nat → W64)) => (s.beforeWrite x.1 x.2.2.1).setTag x.1 x.2.1)
    (fun t a => State.plain_trans (State.plain_beforeWrite t _ _) (State.plain_setTag _ _ _))
    (rs.filter fun (_, _, m, _) => m != 0) s
  exact State.plain_trans h ⟨rfl, rfl, rfl⟩

/-! The element writes. -/

theorem State.keeps_putElems (s : State) (f tag : Fmt) (sel : Sel) (d : Dest) (g : Nat → Nat → Nat) :
    s.keeps [RegName.ofDest d] (s.putElems f tag sel d g) := by
  unfold State.putElems
  split
  · exact State.keeps_writePart ..
  · cases d with
    | v r => exact State.keeps_writeV ..
    | s r => exact State.keeps_writeS ..

theorem State.plain_putElems (s : State) (f tag : Fmt) (sel : Sel) (d : Dest) (g : Nat → Nat → Nat) :
    s.plain (s.putElems f tag sel d g) := by
  unfold State.putElems
  split
  · exact State.plain_writePart ..
  · cases d with
    | v r => exact State.plain_writeV ..
    | s r => exact State.plain_writeS ..

theorem State.keeps_putImages (s : State) (tag : Fmt) (d : Dest) (g : Nat → W64) :
    s.keeps [RegName.ofDest d] (s.putImages tag d g) := by
  cases d with
  | v r => exact State.keeps_writeV ..
  | s r => exact State.keeps_writeS ..

theorem State.plain_putImages (s : State) (tag : Fmt) (d : Dest) (g : Nat → W64) : s.plain (s.putImages tag d g) := by
  cases d with
  | v r => exact State.plain_writeV ..
  | s r => exact State.plain_writeS ..

theorem State.keeps_putParts (s : State) (w : Nat) (tag : Fmt) (d : Dest) (g : Nat → List (Nat × Nat)) :
    s.keeps [RegName.ofDest d] (s.putParts w tag d g) := by
  unfold State.putParts
  dsimp only
  split
  · exact State.keeps_writePart ..
  · cases d with
    | v r => exact State.keeps_writeV ..
    | s r => exact State.keeps_writeS ..

theorem State.plain_putParts (s : State) (w : Nat) (tag : Fmt) (d : Dest) (g : Nat → List (Nat × Nat)) :
    s.plain (s.putParts w tag d g) := by
  unfold State.putParts
  dsimp only
  split
  · exact State.plain_writePart ..
  · cases d with
    | v r => exact State.plain_writeV ..
    | s r => exact State.plain_writeS ..

theorem State.keeps_putMask (s : State) (f : Fmt) (sel : Sel) (d : Dest) (g : Nat → Nat → Bool) :
    s.keeps [RegName.ofDest d] (s.putMask f sel d g) := by
  cases d with
  | v r => exact State.keeps_putElems ..
  | s r => exact State.keeps_writeS ..

theorem State.plain_putMask (s : State) (f : Fmt) (sel : Sel) (d : Dest) (g : Nat → Nat → Bool) : s.plain (s.putMask f sel d g) := by
  cases d with
  | v r => exact State.plain_putElems ..
  | s r => exact State.plain_writeS ..

/-! The end of a word. -/

/-- A word either goes on with its effect or stops. -/
theorem State.finish_cases {s t : State} {r : Except Stop State} (h : s.finish r = .next t) :
    (∃ e, r = .error e ∧ t = s.halted e) ∨ ∃ u, r = .ok u ∧ t = s.closed u := by
  cases r with
  | error e => exact .inl ⟨e, rfl, (Host.Outcome.next.inj h).symm⟩
  | ok u => exact .inr ⟨u, rfl, (Host.Outcome.next.inj h).symm⟩

theorem State.finish_ok (s r : State) : s.finish (.ok r) = .next (s.closed r) := rfl
theorem State.finish_error (s : State) (e : Stop) : s.finish (.error e) = .next (s.halted e) := rfl

theorem need_true (e : Stop) : need true e = .ok () := rfl
theorem need_false (e : Stop) : need false e = .error e := rfl

/-- A check that passes held. -/
theorem need_ok {b : Bool} {e : Stop} (h : need b e = .ok ()) : b = true := by
  cases b with
  | true => rfl
  | false => cases h

/-- What an element-wise operation does, if it goes on: its destination is written. -/
theorem State.elementwise_cases {s t : State} {f tag : Fmt} {sel : Sel} {d : Dest} {ops : List Operand} {ok : Fmt → Bool}
    {g : Nat → Nat → Nat} (h : s.elementwise f tag sel d ops ok g = .ok t) : s.ready d sel ops ok ∧ t = s.putElems f tag sel d g := by
  unfold State.elementwise at h
  simp only [bind, Except.bind] at h
  split at h
  · cases h
  · rename_i h1
    split at h
    · cases h
    · rename_i h2
      split at h
      · cases h
      · rename_i h3
        have h1 := need_ok h1
        simp only [Bool.and_eq_true] at h1
        exact ⟨⟨h1.1, h1.2, h2, h3⟩, (Except.ok.inj h).symm⟩

/-- An element-wise operation that is ready goes on. -/
theorem State.elementwise_ready {s : State} {f tag : Fmt} {sel : Sel} {d : Dest} {ops : List Operand} {ok : Fmt → Bool}
    {g : Nat → Nat → Nat} (h : s.ready d sel ops ok) : s.elementwise f tag sel d ops ok g = .ok (s.putElems f tag sel d g) := by
  obtain ⟨h1, h2, h3, h4⟩ := h
  simp [State.elementwise, need, h1, h2, h3, h4, bind, Except.bind]

/-- An element-wise operation that raises flags and is ready goes on. -/
theorem State.elementwiseF_ready {s : State} {f tag : Fmt} {sel : Sel} {d : Dest} {ops : List Operand} {ok : Fmt → Bool}
    {g : Nat → Nat → Nat × BitVec 5} (h : s.ready d sel ops ok) : s.elementwiseF f tag sel d ops ok g =
      .ok ((s.putElems f tag sel d fun l k => (g l k).1).raiseFlags (s.flagsOver f sel d fun l k => (g l k).2)) := by
  obtain ⟨h1, h2, h3, h4⟩ := h
  simp [State.elementwiseF, need, h1, h2, h3, h4, bind, Except.bind]

end Sys2Proof.Machine
end

