-- ==== Sys2Proof/Laws/Home.lean ====
section
/-! SUPPORT. What the operations at the home of memory do to the three memories: which leave them as they are, and that
all of them keep the canonical form (log entry 1). -/

namespace Sys2Proof.Machine

/-- The three memories and the teams are as before. -/
def State.sameMemories (s t : State) : Prop := t.mem = s.mem ∧ t.hostMem = s.hostMem ∧ t.peerMem = s.peerMem ∧ t.teams = s.teams

theorem State.sameMemories_refl (s : State) : s.sameMemories s := ⟨rfl, rfl, rfl, rfl⟩

theorem State.sameMemories_trans {s r t : State} (h : s.sameMemories r) (k : r.sameMemories t) : s.sameMemories t :=
  ⟨k.1.trans h.1, k.2.1.trans h.2.1, k.2.2.1.trans h.2.2.1, k.2.2.2.trans h.2.2.2⟩

theorem State.sameMemories_foldl {α : Type} (f : State → α → State) (h : ∀ (s : State) (a : α), s.sameMemories (f s a))
    (xs : List α) : ∀ s : State, s.sameMemories (xs.foldl f s) := by
  induction xs with
  | nil => exact State.sameMemories_refl
  | cons a rest ih => intro s; exact State.sameMemories_trans (h s a) (ih _)

theorem State.memoriesOk_same {s t : State} (h : s.sameMemories t) (k : s.memoriesOk) : t.memoriesOk := by
  unfold State.memoriesOk at *
  rw [h.1, h.2.1, h.2.2.1, h.2.2.2]
  exact k

theorem State.memoriesOk_foldl {α : Type} (f : State → α → State)
    (h : ∀ (s : State) (a : α), s.memoriesOk → (f s a).memoriesOk) (xs : List α) :
    ∀ s : State, s.memoriesOk → (xs.foldl f s).memoriesOk := by
  induction xs with
  | nil => exact fun _ k => k
  | cons a rest ih => exact fun s k => ih _ (h s a k)

/-! Operations that leave memory as it is. -/

theorem State.sameMemories_postOnce (s : State) (i : Instr) : s.sameMemories (s.postOnce i) := by
  unfold State.postOnce
  split <;> exact ⟨rfl, rfl, rfl, rfl⟩

theorem State.sameMemories_doom (s : State) (by_ : Writer) (blk : Nat) (write : Bool) :
    s.sameMemories (s.doom by_ blk write) :=
  State.sameMemories_trans ⟨rfl, rfl, rfl, rfl⟩ (State.sameMemories_foldl _ State.sameMemories_postOnce _ _)

theorem State.sameMemories_notify (s : State) (key : Nat) : s.sameMemories (s.notify key) :=
  State.sameMemories_trans ⟨rfl, rfl, rfl, rfl⟩ (State.sameMemories_foldl _ State.sameMemories_postOnce _ _)

theorem State.sameMemories_notifyRange (s : State) (key : Nat → Nat) (a n : Nat) :
    s.sameMemories (s.notifyRange key a n) :=
  State.sameMemories_foldl _ (fun s _ => State.sameMemories_notify s _) _ s

theorem State.sameMemories_invalidate (s : State) (sec : Nat) (x : Sector) (keep : BitVec 16) :
    s.sameMemories (s.invalidate sec x keep) :=
  State.sameMemories_foldl (fun (s : State) b => s.send (.invalidate b sec)) (fun _ _ => ⟨rfl, rfl, rfl, rfl⟩) _ s

theorem State.sameMemories_overPriv (s : State) (t : Target) (pa n : Nat) : s.sameMemories (s.overPriv t pa n) :=
  State.sameMemories_foldl _ (fun s k => by dsimp only; split <;> exact ⟨rfl, rfl, rfl, rfl⟩) _ s

theorem State.sameMemories_writeCopy (s : State) (sec : Nat) (kept : Bool) (wts : BitVec 16) :
    s.sameMemories (s.writeCopy sec kept wts) := by
  unfold State.writeCopy
  split <;> exact ⟨rfl, rfl, rfl, rfl⟩

theorem State.sameMemories_putLines (s : State) (t : Target) (pa : Nat) (bs : List Byte) : s.sameMemories (s.putLines t pa bs) := by
  induction bs generalizing s pa with
  | nil => exact State.sameMemories_refl s
  | cons b rest ih =>
    unfold State.putLines
    refine State.sameMemories_trans ?_ (ih _ _)
    split <;> exact ⟨rfl, rfl, rfl, rfl⟩

theorem State.sameMemories_withGt (s : State) (t : BitVec 16) : s.sameMemories (s.withGt t) := by
  unfold State.withGt
  split <;> exact ⟨rfl, rfl, rfl, rfl⟩

theorem State.sameMemories_raiseGt (s : State) (t : BitVec 16) : s.sameMemories (s.raiseGt t) := s.sameMemories_withGt _

theorem State.sameMemories_cleared (s : State) (sec : Nat) (b : Bool) : s.sameMemories (s.cleared sec b) := ⟨rfl, rfl, rfl, rfl⟩

theorem State.sameMemories_setSector (s : State) (n : Nat) (x : Sector) : s.sameMemories (s.setSector n x) := ⟨rfl, rfl, rfl, rfl⟩

theorem State.sameMemories_countRepair (s : State) (sec : Nat) (b : Bool) : s.sameMemories (s.countRepair sec b) := by
  unfold State.countRepair
  split <;> exact ⟨rfl, rfl, rfl, rfl⟩

theorem State.sameMemories_newTimes (s : State) (sec : Nat) (words : BitVec 4) (time : BitVec 16) (repair : Bool) (by_ : Writer) :
    s.sameMemories (s.newTimes sec words time repair by_) := by
  unfold State.newTimes
  dsimp only
  refine State.sameMemories_trans ?_ (State.sameMemories_raiseGt _ _)
  refine State.sameMemories_trans ?_ (State.sameMemories_cleared _ _ _)
  refine State.sameMemories_trans ?_ (State.sameMemories_writeCopy _ _ _ _)
  refine State.sameMemories_trans ?_ (State.sameMemories_setSector _ _ _)
  exact State.sameMemories_trans (State.sameMemories_invalidate _ _ _ _) (State.sameMemories_countRepair _ _ _)

/-! Operations that write memory keep its form. -/

theorem puts_foldl_wf {α : Type} (a : α → Nat) (b : α → List Byte) (xs : List α) :
    ∀ m : Memory, m.wf = true → (xs.foldl (fun m k => m.puts (a k) (b k)) m).wf = true := by
  induction xs with
  | nil => exact fun _ h => h
  | cons k rest ih => exact fun m h => ih _ (puts_wf _ _ _ h)

theorem State.memoriesOk_putMem (s : State) (m : Memory) (c : Nat) (k : Cluster) (h : s.memoriesOk) (hm : m.wf = true) :
    ({ s with mem := m }.setCluster c k).memoriesOk := ⟨hm, h.2⟩

theorem State.memoriesOk_returnSome (s : State) (sec : Nat) (keep : Nat → Bool) (h : s.memoriesOk) :
    (s.returnSome sec keep).memoriesOk := by
  unfold State.returnSome
  split
  · exact h
  · dsimp only
    split
    · exact h
    · rcases Bool.eq_false_or_eq_true (s.poison.contains sec) with hp | hp <;>
        simp only [hp, Bool.false_eq_true, if_true, if_false]
      · exact h
      · exact State.memoriesOk_putMem _ _ _ _
          (State.memoriesOk_same (State.sameMemories_raiseGt _ _) (State.memoriesOk_same (State.sameMemories_setSector _ _ _) h))
          (puts_foldl_wf _ _ _ _ h.1)

theorem State.memoriesOk_returnWords (s : State) (sec : Nat) (h : s.memoriesOk) : (s.returnWords sec).memoriesOk :=
  s.memoriesOk_returnSome sec _ h

theorem State.memoriesOk_setSector (s : State) (n : Nat) (x : Sector) (h : s.memoriesOk) : (s.setSector n x).memoriesOk := h

theorem State.memoriesOk_setCluster (s : State) (n : Nat) (c : Cluster) (h : s.memoriesOk) : (s.setCluster n c).memoriesOk := h

theorem State.memoriesOk_count (s : State) (x n : Nat) (h : s.memoriesOk) : (s.count x n).memoriesOk := h

theorem State.memoriesOk_dropStash (s : State) (frame : Nat) (h : s.memoriesOk) : (s.dropStash frame).memoriesOk := by
  unfold State.dropStash
  split
  · exact h
  · dsimp only
    refine State.memoriesOk_setCluster _ _ _ (State.memoriesOk_foldl _ (fun s k hs => ?_) _ s h)
    exact State.memoriesOk_setSector _ _ _ (State.memoriesOk_returnWords s _ hs)

theorem State.memoriesOk_putHome (s : State) (pa : Nat) (bs : List Byte) (h : s.memoriesOk) : (s.putHome pa bs).memoriesOk :=
  State.memoriesOk_same (State.sameMemories_notifyRange _ _ _ _)
    (State.memoriesOk_same (State.sameMemories_overPriv _ _ _ _) ⟨puts_wf _ _ _ h.1, h.2.1, h.2.2⟩)

theorem State.memoriesOk_homeParts (s : State) (sec : Nat) (parts : List (Nat × List Byte)) (time : BitVec 16) (rep : Bool)
    (by_ : Writer) (h : s.memoriesOk) : (s.homeParts sec parts time rep by_).memoriesOk := by
  have h1 : ((s.dropStash (sec / 8)).doom by_ (sec / 2) true).memoriesOk :=
    State.memoriesOk_same (State.sameMemories_doom _ _ _ _) (s.memoriesOk_dropStash _ h)
  unfold State.homeParts
  generalize (s.dropStash (sec / 8)).doom by_ (sec / 2) true = r at h1
  dsimp only
  split
  · exact State.memoriesOk_count r 6 3 h1
  · exact State.memoriesOk_foldl _ (fun s x hs => s.memoriesOk_putHome x.1 x.2 hs) _ _
      (State.memoriesOk_same (State.sameMemories_newTimes ..) h1)

theorem State.memoriesOk_homeWrite (s : State) (pa : Nat) (bs : List Byte) (time : BitVec 16) (rep : Bool)
    (by_ : Writer) (h : s.memoriesOk) : (s.homeWrite pa bs time rep by_).memoriesOk := s.memoriesOk_homeParts _ _ _ _ _ h

theorem State.memoriesOk_homeWrites (s : State) (pa : Nat) (bs : List Byte) (time : BitVec 16) (by_ : Writer)
    (h : s.memoriesOk) : (s.homeWrites pa bs time by_).memoriesOk :=
  State.memoriesOk_foldl _ (fun s _ hs => s.memoriesOk_homeWrite _ _ _ _ _ hs) _ s h

/-- What a map holds after a write is what was written or what it held. -/
theorem nmap_mem_set {α : Type} (m : NMap α) (k : Nat) (x : α) : ∀ e ∈ NMap.set m k x, e = (k, x) ∨ e ∈ m := by
  have h1 : ∀ e ∈ NMap.insert m k x, e = (k, x) ∨ e ∈ m := by
    induction m with
    | nil => simp [NMap.insert]
    | cons y rest ih =>
      intro e he
      unfold NMap.insert at he
      split at he
      · simpa using he
      · rcases List.mem_cons.1 he with rfl | he
        · exact .inr (List.mem_cons_self ..)
        · exact (ih e he).imp id (List.mem_cons_of_mem _)
  have h2 : ∀ e ∈ NMap.replace m k x, e = (k, x) ∨ e ∈ m := by
    clear h1
    induction m with
    | nil => simp [NMap.replace]
    | cons y rest ih =>
      intro e he
      unfold NMap.replace at he
      split at he
      · exact (List.mem_cons.1 he).imp id (List.mem_cons_of_mem _)
      · rcases List.mem_cons.1 he with rfl | he
        · exact .inr (List.mem_cons_self ..)
        · exact (ih e he).imp id (List.mem_cons_of_mem _)
  unfold NMap.set
  split <;> assumption

/-- The map at another number is as before, so a property of every memory of it is kept by a write. -/
theorem nmap_set_all {α : Type} (P : α → Prop) (k : Nat) (x : α) (hx : P x) :
    ∀ m : NMap α, (∀ e ∈ m, P e.2) → ∀ e ∈ NMap.set m k x, P e.2 := by
  intro m h e he
  rcases nmap_mem_set m k x e he with rfl | he
  · exact hx
  · exact h e he

/-- A value that the map holds has the property of all of them, and so has the default. -/
theorem nmap_getD_all {α : Type} (P : α → Prop) (k : Nat) (d : α) (hd : P d) :
    ∀ m : NMap α, (∀ e ∈ m, P e.2) → P (NMap.getD m k d) := by
  intro m
  induction m with
  | nil => exact fun _ => hd
  | cons y rest ih =>
    intro h
    obtain ⟨j, x⟩ := y
    have := ih (fun e he => h e (List.mem_cons_of_mem _ he))
    unfold NMap.getD at this ⊢
    rw [NMap.get?]
    split
    · exact h (j, x) (List.mem_cons_self ..)
    · exact this

theorem State.memoriesOk_physWrite (s : State) (g : Target) (pa : Nat) (bs : List Byte) (time : BitVec 16)
    (by_ : Writer) (h : s.memoriesOk) : (s.physWrite g pa bs time by_).memoriesOk := by
  unfold State.physWrite
  split
  · exact s.memoriesOk_homeWrites pa bs time by_ h
  · exact State.memoriesOk_same (State.sameMemories_notifyRange _ _ _ _)
      (State.memoriesOk_same (State.sameMemories_overPriv _ _ _ _)
        (State.memoriesOk_same (State.sameMemories_putLines ..) ⟨h.1, puts_wf _ _ _ h.2.1, h.2.2⟩))
  · refine State.memoriesOk_same (State.sameMemories_notifyRange _ _ _ _)
      (State.memoriesOk_same (State.sameMemories_overPriv _ _ _ _)
        (State.memoriesOk_same (State.sameMemories_putLines ..) ?_))
    exact ⟨h.1, h.2.1, nmap_set_all (fun m : Memory => m.wf = true) _ _
        (puts_wf _ _ _ (nmap_getD_all (fun m : Memory => m.wf = true) _ _ rfl _ h.2.2.1)) _ h.2.2.1, h.2.2.2⟩

end Sys2Proof.Machine
end

