-- ==== Sys2Proof/Laws/Masks.lean ====
section
/-! SUPPORT. Masks of lanes formed from a predicate: which lanes they have. -/

namespace Sys2Proof.Machine

/-- A sum of distinct powers of two has exactly their bits. -/
theorem sum_pow_bits (p : Nat → Bool) (n : Nat) :
    let x := (List.range n).foldl (fun acc l => if p l then acc + 2 ^ l else acc) 0
    x < 2 ^ n ∧ ∀ l, x.testBit l = (decide (l < n) && p l) := by
  induction n with
  | zero => simp
  | succ n ih =>
    obtain ⟨h1, key⟩ := ih
    simp only [List.range_succ, List.foldl_append, List.foldl_cons, List.foldl_nil]
    generalize (List.range n).foldl (fun acc l => if p l then acc + 2 ^ l else acc) 0 = x at h1 key ⊢
    have wider (l : Nat) (h : l ≠ n) : decide (l < n + 1) = decide (l < n) := by
      simp only [decide_eq_decide]; omega
    cases hp : p n <;> simp only [Bool.false_eq_true, ↓reduceIte]
    · refine ⟨by rw [Nat.pow_succ]; omega, fun l => ?_⟩
      by_cases h : l = n
      · simp [key, h, hp]
      · rw [key, wider l h]
    · refine ⟨by rw [Nat.pow_succ]; omega, fun l => ?_⟩
      have e : x + 2 ^ n = 2 ^ n * 1 ||| x := by rw [← Nat.two_pow_add_eq_or_of_lt h1]; omega
      rw [e, Nat.testBit_or, key, Nat.mul_one, Nat.testBit_two_pow]
      by_cases h : l = n
      · simp [h, hp]
      · rw [wider l h, decide_eq_false (Ne.symm h), Bool.false_or]

/-- A mask has the lanes for which its predicate holds. -/
theorem Mask.has_ofFn (p : Nat → Bool) (l : Nat) : (Mask.ofFn p).has l = (decide (l < 32) && p l) := by
  have h := (sum_pow_bits p 32).2 l
  simp only [Mask.has, Mask.ofFn, BitVec.getLsbD_ofNat, h]
  cases decide (l < 32) <;> simp

/-- An empty mask: its predicate holds for no lane. -/
theorem Mask.ofFn_eq_zero {p : Nat → Bool} (h : Mask.ofFn p = 0) {l : Nat} (hl : l < 32) : p l = false := by
  have := Mask.has_ofFn p l
  rw [h] at this
  simpa [Mask.has, hl] using this.symm

end Sys2Proof.Machine
end

