-- ==== Sys2Proof/Laws/Space.lean ====
section
/-! SUPPORT. Reads of memory, translation, fetches and landing points depend on the memories, the poison, the TLBs, the
contexts and the private words alone: two states that agree in these agree in all of them. -/

namespace Sys2Proof.Machine

/-- Two states in which every read of memory gives the same. -/
structure State.ReadsLike (s r : State) : Prop where
  mem : r.mem = s.mem
  hostMem : r.hostMem = s.hostMem
  peerMem : r.peerMem = s.peerMem
  poison : r.poison = s.poison
  clusters : r.clusters = s.clusters
  ctxs : r.ctxs = s.ctxs
  asids : r.asids = s.asids
  fresh : r.fresh = s.fresh
  sectors : r.sectors = s.sectors
  tlbs : r.tlbs = s.tlbs
  lines : r.lines = s.lines
  lostPeers : r.lostPeers = s.lostPeers
  priv : ∀ k, r.privAt k = s.privAt k

variable {s r : State}

theorem State.ReadsLike.atHome (h : s.ReadsLike r) (pa : Nat) : r.atHome pa = s.atHome pa := by
  simp only [State.atHome, State.stashOf, h.clusters, h.mem]

theorem State.ReadsLike.seen (h : s.ReadsLike r) (pa : Nat) : r.seen pa = s.seen pa := by
  simp only [State.seen, State.overHome, h.priv, h.atHome, h.fresh]

theorem State.ReadsLike.seenBytes (h : s.ReadsLike r) (pa n : Nat) : r.seenBytes pa n = s.seenBytes pa n := by
  simp only [State.seenBytes, h.seen]

theorem State.ReadsLike.sectorAway (h : s.ReadsLike r) (k : Nat) : r.sectorAway k = s.sectorAway k := by
  simp only [State.sectorAway, State.sectorHeld, State.stashOf, h.sectors, h.clusters]

theorem State.ReadsLike.overHome (h : s.ReadsLike r) (t : Target) (pa : Nat) (b : Byte) : r.overHome t pa b = s.overHome t pa b := by
  simp only [State.overHome, h.priv, h.fresh]

theorem State.ReadsLike.poisonedIn (h : s.ReadsLike r) (pa n : Nat) : r.poisonedIn pa n = s.poisonedIn pa n := by
  simp only [State.poisonedIn, h.poison]

theorem State.ReadsLike.poisonedAt (h : s.ReadsLike r) (pa : Nat) : r.poisonedAt pa = s.poisonedAt pa := by
  simp only [State.poisonedAt, h.poison]

theorem State.ReadsLike.outBytes (h : s.ReadsLike r) (t : Target) (pa n : Nat) : r.outBytes t pa n = s.outBytes t pa n := by
  simp only [State.outBytes, State.outByte, h.lines, h.hostMem, h.peerMem]

theorem State.ReadsLike.physRead (h : s.ReadsLike r) (t : Target) (pa n : Nat) : r.physRead t pa n = s.physRead t pa n := by
  cases t with
  | device => simp only [State.physRead]; rw [h.poisonedIn, h.seenBytes]
  | host c => simp only [State.physRead, h.outBytes, h.overHome]
  | peer p => simp only [State.physRead, h.outBytes, h.overHome]

theorem State.ReadsLike.walkFrom (h : s.ReadsLike r) (va fuel : Nat) :
    ∀ level table, r.walkFrom va fuel level table = s.walkFrom va fuel level table := by
  induction fuel with
  | zero => intro _ _; rfl
  | succ n ih => intro _ _; rw [State.walkFrom, State.walkFrom, h.poisonedAt, h.seenBytes, h.sectorAway]; simp only [ih]

theorem State.ReadsLike.entry (h : s.ReadsLike r) (die ctx va : Nat) : r.entry die ctx va = s.entry die ctx va := by
  have h1 : ∀ n, r.ctx n = s.ctx n := fun n => by simp only [State.ctx, h.ctxs]
  have h2 : ∀ a, r.gen a = s.gen a := fun a => by simp only [State.gen, h.asids]
  have h3 : ∀ a, r.heldLeaf die a va = s.heldLeaf die a va := fun a => by simp only [State.heldLeaf, h.clusters, h.tlbs, h2]
  have h4 : r.entryOf ctx va = s.entryOf ctx va := by funext l; simp only [State.entryOf, h1, h2]
  rw [State.entry, State.entry]
  simp only [h1, h3, h4, h.fresh, h.walkFrom]

theorem State.ReadsLike.leaf (h : s.ReadsLike r) (die ctx va : Nat) : r.leaf die ctx va = s.leaf die ctx va := by
  simp only [State.leaf, h.entry]

theorem State.ReadsLike.peerAllows (h : s.ReadsLike r) (t : Target) (pa : Nat) : r.peerAllows t pa = s.peerAllows t pa := by
  simp only [State.peerAllows, h.lostPeers]

theorem State.ReadsLike.translate (h : s.ReadsLike r) (die ctx va : Nat) (n : Need) :
    r.translate die ctx va n = s.translate die ctx va n := by
  simp only [State.translate, h.entry, h.peerAllows]

theorem State.ReadsLike.globalRead (h : s.ReadsLike r) (die ctx va n : Nat) (nd : Need) :
    r.globalRead die ctx va n nd = s.globalRead die ctx va n nd := by
  simp only [State.globalRead, h.translate, h.physRead]

theorem State.ReadsLike.codeBytes (h : s.ReadsLike r) {v w : Wave} (h1 : v.cluster = w.cluster) (h2 : v.ctx = w.ctx)
    (pkt : Nat) : r.codeBytes v pkt = s.codeBytes w pkt := by
  simp only [State.codeBytes, h.translate, h.physRead, h.sectorAway, State.cluster, h.clusters, h1, h2]

/-- A fetch by the same thread through a wave that has fetched the same. -/
theorem State.ReadsLike.fetch (h : s.ReadsLike r) (hk : ∀ p, fetchKey r.who p = fetchKey s.who p) {v w : Wave}
    (h1 : v.cluster = w.cluster) (h2 : v.ctx = w.ctx) (h3 : v.fetched = w.fetched) (pkt : Nat) :
    r.fetch v pkt = s.fetch w pkt := by
  simp only [State.fetch, h.codeBytes h1 h2, h3, h.fresh, hk]

theorem State.ReadsLike.landing (h : s.ReadsLike r) (hk : ∀ p, fetchKey r.who p = fetchKey s.who p) {v w : Wave}
    (h1 : v.cluster = w.cluster) (h2 : v.ctx = w.ctx) (h3 : v.fetched = w.fetched) (t : W64) :
    r.landing v t = s.landing w t := by
  simp only [State.landing, h.fetch hk h1 h2 h3]

/-- A wave that issues changes, its private words and its stage apart. -/
theorem State.readsLike_cur (s : State) (w : Wave) (i : Issue) (a : List Instr) (who : Who) (h1 : w.priv = s.cur.priv)
    (h2 : w.stage = s.cur.stage) : s.ReadsLike { s with cur := w, issue := i, agenda := a, who := who } where
  mem := rfl
  hostMem := rfl
  peerMem := rfl
  poison := rfl
  clusters := rfl
  ctxs := rfl
  asids := rfl
  fresh := rfl
  sectors := rfl
  tlbs := rfl
  lines := rfl
  lostPeers := rfl
  priv k := by
    simp only [State.privAt, State.allWaves, h2]
    split
    · rfl
    · simp only [List.singleton_append, List.findSome?_cons, h1]

/-- A legal landing point is fetched, so no sector is away for it. -/
theorem State.fetchAway_of_landing {s : State} {w : Wave} {t : W64} (h : s.landing w t = true) : s.fetchAway w t = none := by
  unfold State.landing at h
  unfold State.fetchAway
  cases hf : s.fetch w t.toNat with
  | ok p => rfl
  | error c => simp [hf] at h

/-- A legal landing point meets no fault and no wait. -/
theorem State.needLanding_ok {s : State} {t : W64} (e : Stop) (h : s.landing s.cur t = true) : s.needLanding t e = .ok () := by
  simp [State.needLanding, State.fetchAway_of_landing h, need, h]

end Sys2Proof.Machine
end

