-- ==== Sys2Proof/Laws/Trap.lean ====
section
/-! SUPPORT. Taking a trap (19 R366): when a trap is taken at once, and what its entry then is. -/

namespace Sys2Proof.Machine

/-- Without an open transaction nothing is aborted. -/
theorem State.abortTx_none {s : State} (h : s.cur.tx = none) (status : Nat) : s.abortTx status = s := by
  simp only [State.abortTx, h]

/-- A trap that no transaction precedes and that names no poison finds the machine as it is. -/
theorem State.beforeTrap_self {s : State} {tr : Trap} (htx : s.cur.tx = none) (hdue : s.cur.due = none) (hc : tr.cause ≠ 4) :
    s.beforeTrap s.who tr = s := by
  have e : ({ s.cur with due := none } : Wave) = s.cur := by rw [← hdue]
  simp only [State.beforeTrap, State.abortTx_none htx, hc, ↓reduceIte]
  exact congrArg (fun w => ({ s with cur := w } : State)) e

/-- A thread that is not at a rendezvous takes such a trap of its wave outside handler mode: the registers are written, and the
handler is entered or the wave stops. -/
theorem State.takeTrap_self {s : State} {tr : Trap} (at_ : PC) (htx : s.cur.tx = none) (hdue : s.cur.due = none)
    (hc : tr.cause ≠ 4) (hframe : s.cur.frame = none) (hpark : s.thread.park ≠ .rendezvous) (hab : tr.tx = false) :
    s.takeTrap s.who at_ tr =
      if s.trapFatal then (s.noteTrap at_ tr false).stopWave tr.cause (tr.resume.getD s.thread.pc)
        (s.cur.splitsWord s.thread.mask s.splitIx)
      else (s.noteTrap at_ tr false).enterHandler (s.thread.ended s.cycle.toNat) (tr.resume.getD s.thread.pc) := by
  have hp : (s.thread.ended s.cycle.toNat).park ≠ .rendezvous := hpark
  simp only [State.takeTrap, State.beforeTrap_self htx hdue hc, State.inHandler, hframe, htx, hab, hp, Option.isSome_none,
    Bool.or_self, Bool.false_and, Bool.false_eq_true, ↓reduceIte]
  rfl

/-- A trap is taken at once where nothing is outstanding, no other trap is due and the handler can be entered. -/
theorem State.raise_takes {s : State} {tr : Trap} (at_ : PC) (htx : s.cur.tx = none) (hdue : s.cur.due = none)
    (hframe : s.cur.frame = none) (hpend : s.cur.pending = []) (hh : s.landing s.cur (s.const s.cur 7 52) = true)
    (hz : s.const s.cur 7 52 ≠ 0) : s.raise at_ tr = s.takeTrap s.who at_ tr := by
  have hz' : (s.const s.cur 7 52 == 0) = false := by simpa using hz
  simp only [State.raise, State.trapsLater, State.abortFirst, State.handlerAway, State.logsTrap, State.trapFatal,
    State.inHandler, State.fetchAway_of_landing hh, htx, hdue, hframe, hpend, hh, hz', Option.isSome_none, Option.isNone_none,
    Bool.or_self, Bool.false_and, Bool.and_self, Bool.not_true, Bool.not_false, Bool.false_eq_true,
    List.isEmpty_nil, ↓reduceIte]

/-- Nor is it fatal then. -/
theorem State.trapFatal_of_landing {s : State} (hframe : s.cur.frame = none) (hh : s.landing s.cur (s.const s.cur 7 52) = true)
    (hz : s.const s.cur 7 52 ≠ 0) : s.trapFatal = false := by
  have hz' : (s.const s.cur 7 52 == 0) = false := by simpa using hz
  simp only [State.trapFatal, State.inHandler, hframe, hh, hz', Option.isSome_none, Bool.or_self, Bool.not_true]

end Sys2Proof.Machine
end

