-- ==== Sys2Proof/Tests/Slice0.lean ====
section
/-! SUPPORT. Tests: words written out from the spec's encodings, ill-formed terms that are refused, single steps whose
results are the spec's worked examples, and for every statement with hypotheses states and operands that meet them. -/

open Sys2Proof Sys2Proof.Machine

namespace Sys2Proof.Tests

set_option Elab.async false

/-! Small states. -/

/-- A wave of context 0, with 8 blocks, at packet 0 of a page of 16 KiB that lies at physical 0x14000. -/
def demo : State := State.reset.placeDemo

/-- Bytes placed in the page of `demo`. -/
def State.placed (s : State) (off : Nat) (bs : List Byte) : State := { s with mem := s.mem.puts (0x14000 + off) bs }

/-- Words placed in the page of `demo`. -/
def words (s : State) (off : Nat) (ws : List Nat) : State := State.placed s off (ws.flatMap (bytesOf 8))

/-- A wave changed. -/
def onWave (s : State) (f : Wave → Wave) : State := { s with cur := f s.cur }

/-- A check that passes. -/
def passes (x : Except Stop Unit) : Bool :=
  match x with
  | .ok _ => true
  | .error _ => false

theorem passed {x : Except Stop Unit} (h : passes x = true) : x = .ok () := by
  cases x with
  | ok u => rfl
  | error e => cases h

/-- A result that meets a condition. -/
def meets {ε α : Type} (x : Except ε α) (p : α → Bool) : Bool :=
  match x with
  | .ok v => p v
  | .error _ => false

theorem met {ε α : Type} {x : Except ε α} {p : α → Bool} (h : meets x p = true) : ∃ v, x = .ok v ∧ p v = true := by
  cases x with
  | ok v => exact ⟨v, rfl, h⟩
  | error e => cases h

/-- An option that holds what meets a condition. -/
def holds {α : Type} (x : Option α) (p : α → Bool) : Bool :=
  match x with
  | some v => p v
  | none => false

theorem held {α : Type} {x : Option α} {p : α → Bool} (h : holds x p = true) : ∃ v, x = some v ∧ p v = true := by
  cases x with
  | some v => exact ⟨v, rfl, h⟩
  | none => cases h

/-- A condition on the next state. -/
def after (o : Host.Outcome State Fault Refusal) (p : State → Bool) : Bool :=
  match o with
  | .next t => p t
  | _ => false

/-- The state that a step leads to. -/
def next (o : Host.Outcome State Fault Refusal) : State :=
  match o with
  | .next t => t
  | _ => State.reset

/-- The value of a scalar register, and its tag. -/
def sreg (t : State) (r : Nat) : Nat := (t.cur.file.sregs.getD r ⟨.b64, 0⟩).val.toNat
def stag (t : State) (r : Nat) : Fmt := (t.cur.file.sregs.getD r ⟨.b64, 0⟩).tag
/-- A lane of a vector register, and its tag. -/
def vreg (t : State) (r l : Nat) : Nat := ((t.cur.file.vregs.getD r ⟨.b64, []⟩).lanes.getD l 0).toNat
def vtag (t : State) (r : Nat) : Fmt := (t.cur.file.vregs.getD r ⟨.b64, []⟩).tag
/-- The image that the last result pending for a vector register brings to a lane. -/
def due (t : State) (r l : Nat) : Nat :=
  ((t.cur.pending.flatMap (·.regs)).foldl (fun acc q => if q.reg = .v r then (q.new.getD l 0).toNat else acc) 0)
/-- The image that the last result pending for a scalar register brings. -/
def dueS (t : State) (r : Nat) : Nat :=
  ((t.cur.pending.flatMap (·.regs)).foldl (fun acc q => if q.reg = .s r then (q.new.getD 0 0).toNat else acc) 0)

/-- `s` with a vector register written in every lane alike. -/
def setV (s : State) (r : Nat) (tag : Fmt) (x : Nat) : State := s.writeV r tag (-1) fun _ => w64 x
/-- `s` with a vector register written lane by lane. -/
def setLanes (s : State) (r : Nat) (tag : Fmt) (xs : List Nat) : State := s.writeV r tag (-1) fun l => w64 (xs.getD l 0)
/-- `s` with a scalar register written. -/
def setS (s : State) (r : Nat) (tag : Fmt) (x : Nat) : State := s.writeS r tag (w64 x)

/-! Words written out from the tables of 04 R83, R84, R88, R94, and the words and templates printed in 03 to 25. -/

/-- 04 R94, R98: the fixed entries. The word of XLOAD is the one of 04. -/
theorem test_decode_fixed : decodeTableWord 32 0x00000000 = some .nop ∧
    decodeTableWord 32 0x00A8C148 = some (.xload 40 (.imm 1) (.s 8)) ∧
    decodeTableWord 32 (2 * 2 ^ 23 + 0xC0C0) = some .xfence ∧
    decodeTableWord 32 (3 * 2 ^ 23 + 5 * 2 ^ 16 + 0xC0C0) = some (.trap 5) ∧
    decodeTableWord 32 (4 * 2 ^ 23 + 7 * 2 ^ 16 + 0xC0C0) = some (.brk 7) ∧
    decodeTableWord 32 0x0280C0C0 = some .exit ∧ decodeTableWord 32 0x03010002 = some (.sgetFixed 1 2) ∧
    decodeTableWord 32 0x0380FFF4 = some (.brAlways 0xFFF4) := by decide +kernel

/-- 04 R85: an unused operand that is not 0xC0, or a D that is not 0, is illegal; NOP ignores all three. -/
theorem test_decode_unused : decodeTableWord 32 0x0280C0C1 = none ∧ decodeTableWord 32 0x0281C0C0 = none ∧
    decodeTableWord 32 0x0001C1C2 = some .nop := by decide +kernel

/-- 22, 23, 24, 25: the integer family. -/
theorem test_decode_integer :
    decode false 0x3128_0000_FF00_0000 0x068301E1 = some (.add ⟨.i32, false, none, .v 3, .v 1, .u (.lit 1)⟩) ∧
    decode false 0x3340_0010_FF00_0000 0x09054443 = some (.sub ⟨.n64, false, none, .s 5, .u (.s 4), .u (.s 3)⟩) ∧
    decode false 0x3B40_0010_FF00_0000 0x088847C1 = some (.and ⟨.n64, false, none, .s 8, .u (.s 7), .u (.imm 1)⟩) ∧
    decode false 0x4330_0000_FF00_0000 0x061313C7 = some (.shr ⟨.n32, false, none, .v 19, .v 19, .u (.imm 7)⟩) ∧
    decode false 0x4540_0010_FF00_07E0 0x0E0E4CC0 = some (.bfx ⟨.n64, none, .s 14, .u (.s 12), 32, 31⟩) ∧
    decode false 0x4F30_0000_FF20_0000 0x0F97164F = some (.cmp ⟨.n32, .lt, none, .v 23, .v 22, .u (.s 15)⟩) ∧
    decode false 0x5130_0000_1700_0000 0x101918DF =
      some (.sel ⟨.n32, false, none, .v 25, .v 24, .u (.imm 31), .op (.v 23)⟩) ∧
    decode false 0x5330_0000_FF18_0000 0x060809C0 = some (.mov ⟨.n32, some (1, 0), .v 8, .v 9⟩) ∧
    decode false 0x55A0_0010_FF10_0400 0x0C9656C0 =
      some (.lea ⟨.n64, false, 0, 64, .s 22, .u (.s 22), .u (.imm 0)⟩) ∧
    decode false 0x3118_0000_FF0B_0000 0x070606C1 = some (.add ⟨.i16, false, some 3, .v 6, .v 6, .u (.imm 1)⟩) := by
  decide +kernel

/-- 04, 10: floating point and block scales. -/
theorem test_decode_float :
    decode false 0x5950_0000_FF00_0000 0x14010203 = some (.fadd ⟨.f32, .rne, false, none, .v 1, .v 2, .v 3⟩) ∧
    decode false 0x5D50_0001_FF00_0000 0x00040102 = some (.fma ⟨.f32, .rne, false, none, .v 4, .v 1, .v 2, .old⟩) ∧
    decode false 0x6982_8000_FF00_0000 0x04140085 = some (.quant ⟨.f32, some (.c 5), 20, 0⟩) := by decide +kernel

/-- 11, 24, 25: cross-lane and irregular work. -/
theorem test_decode_lanes :
    decode false 0x7330_0000_FF00_0000 0x040A0446 = some (.rebal 10 4 6) ∧
    decode false 0x6F30_0000_FF80_0000 0x0E9110C0 = some (.scan ⟨.n32, .add, true, none, 17, 16, .imm 0⟩) ∧
    decode false 0x7100_0010_FF60_0000 0x0C8C15C0 = some (.redw ⟨.b64, .pick (.imm 0), none, .s 12, 21⟩) ∧
    decode false 0x7750_0010_FF40_0000 0x0B1C56C0 = some (.merge ⟨.f32, .add, true, .wave, 28, .s 22⟩) := by decide +kernel

/-- 13, 16, 21 to 25: memory and copies. -/
theorem test_decode_memory :
    decode false 0x7950_0100_FF08_1800 0x040102C8 =
      some (.ld ⟨.f32, .device, .global, 8, .b8, none, .v 1, .v 2, .u (.imm 8)⟩) ∧
    decode false 0x7928_0100_FF40_1000 0x0A07C0C0 =
      some (.ld ⟨.i32, .device, .shared, 0, .b4, none, .v 7, .u (.imm 0), .u (.imm 0)⟩) ∧
    decode false 0x7BA0_0130_FF10_1800 0x119655C0 =
      some (.st ⟨.addr, .device, .global, false, .b8, none, .s 22, .u (.s 21), .u (.imm 0)⟩) ∧
    decode false 0x8328_0070_FF08_0000 0x0880C0C1 =
      some (.atom ⟨.i32, .team, .shared, .red .add, none, .u (.imm 0), .u (.imm 1)⟩) ∧
    decode false 0x8150_0130_FF00_0000 0x00000203 = some (.sred ⟨.f32, .device, .add, .v 2, .v 3⟩) ∧
    decode false 0x7D68_0100_FF1F_0000 0x0F08541A = some (.gather ⟨.e4m3, .device, 7, 3, 8, .s 20, 26⟩) ∧
    decode false 0x8700_0133_FF04_0000 0x12800101 = some (.fence ⟨.device, 0, some (1, 4)⟩) ∧
    decode false 0x9B00_0050_FF00_0000 0x0486C0E1 = some (.chwait ⟨.team, false, 6, .imm 0, .lit 1⟩) := by decide +kernel

/-- 14, 15, 25: the matrix engine and computed sparsity. -/
theorem test_decode_matrix :
    decode false 0x9F53_4220_FF00_0000 0x13000008 =
      some (.mma ⟨.f32, .e4m3, 1, 0, false, false, false, 0, 0, 8, .none, 0, 0⟩) ∧
    decode false 0xA552_8130_FF00_0000 0x13805557 =
      some (.mstore ⟨.f32, .f32, .rne, false, 0, .device, false, false, 0, .s 21, .s 23⟩) ∧
    decode false 0xA900_0010_FF00_0000 0x1418C0C0 = some (.mbatch 24) ∧
    decode false 0xAB00_0030_FF00_0000 0x1100C1C0 = some (.mwait (.imm 1)) ∧
    decode false 0x2F00_0030_FF00_0000 0x000001C0 = none ∧
    decode false 0x2F00_0030_FF00_0000 0x000041C0 = some (.ink (.s 1)) ∧
    decode false 0xB1A8_0000_FF03_0000 0x0494C94A = some (.patgen ⟨3, false, 20, .imm 9, 10⟩) := by decide +kernel

/-- 03, 07, 18, 19, 22: control flow, synchronisation, transactions and traps. -/
theorem test_decode_control :
    decode false 0x0500_0033_FF00_0000 0x08000002 = some (.brP 2) ∧
    decode false 0x0500_0033_FF03_0000 0x0D94FFFD = some (.brS 20 0xFFFD) ∧
    decode false 0x0900_0013_FF00_0000 0x04050010 = some (.call 5 16) ∧
    decode false 0x0D00_0033_FF00_0000 0x07000004 = some (.reconv 4) ∧
    decode false 0x1100_0030_FF00_0000 0x078042C0 = some (.ppush false (.u (.s 2))) ∧
    decode false 0x1300_0030_FF00_0000 0x0000C0C0 = some .pinv ∧
    decode false 0x0F00_0010_FF02_0000 0x000102C0 = some (.vote .ballot 1 (some 2)) ∧
    decode false 0x2700_0030_FF00_000C 0x0580C0C0 = some (.sset 12 (.imm 0)) ∧
    decode false 0x2940_0010_FF00_0000 0x0601C8C0 = some (.blkacq 1 (.imm 8)) ∧
    decode false 0x1B00_0070_FF00_0000 0x0680C0C0 = some (.bar ⟨.team, 0, false, none⟩) ∧
    decode false 0xBB00_0110_FF02_0000 0x060281C3 = some (.waitv ⟨.device, .ge, false, 2, .c 1, .imm 3⟩) ∧
    decode false 0xB900_0130_FF01_0000 0x088081C1 = some (.signal ⟨.device, true, false, .c 1, .imm 1⟩) ∧
    decode false 0x8F00_0030_FF00_0000 0x0000C0C0 = some .txend ∧
    decode false 0x1F00_0030_FF00_8000 0x0600C0C0 = some .trapRet ∧
    decode false 0x1D00_0030_FF00_0000 0x0000C0C0 = some .tfence := by decide +kernel

/-! Terms that WellFormed refuses, one for each check. -/

/-- Formats and SAT (09 R188, R190, 10 R203, 11 R219, 13 R259, R261, R262, 14 R277, R286, 15 R298, 20 R387). -/
theorem test_refused_formats :
    (Instr.add ⟨.f32, false, none, .v 1, .v 2, .v 3⟩).wf = false ∧
    (Instr.mulh ⟨.i32, true, none, .v 1, .v 2, .v 3⟩).wf = false ∧
    (Instr.and ⟨.f32, false, none, .v 1, .v 2, .v 3⟩).wf = false ∧
    (Instr.shl ⟨.mask, false, none, .v 1, .v 2, .v 3⟩).wf = false ∧
    (Instr.fadd ⟨.i32, .rne, false, none, .v 1, .v 2, .v 3⟩).wf = false ∧
    (Instr.sfn ⟨.f64, .exp2, .rne, none, 1, .v 2⟩).wf = false ∧
    (Instr.dot ⟨.f32, .i8, .rne, false, 0, 1, .v 2, .v 3, .old⟩).wf = false ∧
    (Instr.cvt ⟨.mask, .f32, .rne, false, 0, .v 1, .v 2⟩).wf = false ∧
    (Instr.cvt ⟨.f64, .e2m1, .rne, false, 0, .v 1, .v 2⟩).wf = false ∧
    (Instr.scan ⟨.f32, .and, false, none, 1, 2, .imm 0⟩).wf = false ∧
    (Instr.topk ⟨.f64, false, 0, 1, 4, 5⟩).wf = false ∧
    (Instr.merge ⟨.bf16, .add, false, .device, 1, .s 2⟩).wf = false ∧
    (Instr.sred ⟨.n32, .device, .add, .v 1, .v 2⟩).wf = false ∧
    (Instr.atom ⟨.f32, .device, .global, .exch, none, .v 1, .v 2⟩).wf = false ∧
    (Instr.cas ⟨.f32, .device, .global, .v 1, .v 2, .v 3, .old⟩).wf = false ∧
    (Instr.mma ⟨.i32, .e4m3, 1, 0, false, false, false, 0, 0, 8, .none, 0, 0⟩).wf = false ∧
    (Instr.mstore ⟨.i8, .f32, .rne, false, 0, .device, false, false, 0, .s 1, .s 2⟩).wf = false ∧
    (Instr.ldprune ⟨.f64, .device, false, .p24, false, 0, .s 1, 8, none⟩).wf = false ∧
    (Instr.collAgat .i8 .device 1 (.s 2)).wf = false ∧ (Instr.collAred ⟨.n32, .add, .device, 1, .s 2⟩).wf = false := by
  decide +kernel

/-- Element selection, sizes, fields, pipes, third sources, register pairs and classes (04 R84, R92, 09 R186, R195, 11 R223,
13 R253, R267, 14 R280, R291, 16 R318, 18 R342, 20 R385). -/
theorem test_refused_fields :
    (Instr.add ⟨.i64, false, some 0, .v 1, .v 2, .v 3⟩).wf = false ∧
    (Instr.add ⟨.i32, false, some 2, .v 1, .v 2, .v 3⟩).wf = false ∧
    (Instr.add ⟨.i32, false, none, .s 1, .v 2, .u (.s 3)⟩).wf = false ∧
    (Instr.mad ⟨.i32, false, none, .v 1, .v 2, .v 3, .op (.v 64)⟩).wf = false ∧
    (Instr.bfx ⟨.n32, none, .v 1, .v 2, 20, 20⟩).wf = false ∧
    (Instr.ld ⟨.f32, .device, .global, 0, .b2, none, .v 1, .v 2, .v 3⟩).wf = false ∧
    (Instr.ld ⟨.b64, .device, .global, 0, .b16, none, .v 127, .v 2, .v 3⟩).wf = false ∧
    (Instr.ld ⟨.b64, .device, .shared, 1, .b8, none, .v 1, .v 2, .v 3⟩).wf = false ∧
    (Instr.st ⟨.b64, .device, .global, false, .b16, none, .s 63, .u (.s 2), .u (.s 3)⟩).wf = false ∧
    (Instr.topk ⟨.f32, false, 0, 127, 4, 5⟩).wf = false ∧
    (Instr.copy ⟨.f32, .mxfp4, .rne, false, .device, 0, false, 0, 1, .s 2, .global (.s 3)⟩).wf = false ∧
    (Instr.mma ⟨.f32, .e4m3, 0, 0, false, false, false, 0, 0, 8, .none, 0, 0⟩).wf = false ∧
    (Instr.mma ⟨.f32, .bf16, 1, 0, false, true, false, 0, 0, 8, .none, 0, 0⟩).wf = false ∧
    (Instr.mmg ⟨.f32, .bf16, 1, 0, true, 0, 0, 8, .none, 0, 0⟩).wf = false ∧
    (Instr.fence ⟨.device, 0, none⟩).wf = false ∧ (Instr.bar ⟨.wave, 0, false, none⟩).wf = false ∧
    (Instr.kvx .team 1 (.s 2)).wf = false ∧ (Instr.collBar .cluster 1 (.s 2)).wf = false := by decide +kernel


/-! Single steps. The expected values are the spec's worked examples, or sums done by hand from its rules. -/

/-- v1 of 09's worked sequence, the same in every lane. -/
def seqV1 : State := setV demo 1 .i16 0x7FFF_0001_8000_FFFE

/-- 09, the worked sequence: ADD with and without SAT. -/
theorem test_add : after (exec (.add ⟨.i16, true, none, .v 2, .v 1, .v 1⟩) seqV1) (fun t =>
      vreg t 2 0 == 0x7FFF_0002_8000_FFFC && decide (vtag t 2 = .i16)) = true ∧
    after (exec (.add ⟨.i16, false, none, .v 3, .v 1, .v 1⟩) seqV1) (fun t => vreg t 3 0 == 0xFFFE_0002_0000_FFFC) = true := by
  decide +kernel

/-- 09, the worked sequence: MULH by 3, SHR by 1. -/
theorem test_mulh_shr :
    after (exec (.mulh ⟨.i16, false, none, .v 4, .v 1, .u (.imm 3)⟩) seqV1) (fun t => vreg t 4 0 == 0x0001_0000_FFFE_FFFF) = true ∧
    after (exec (.shr ⟨.i16, false, none, .v 5, .v 1, .u (.imm 1)⟩) seqV1) (fun t => vreg t 5 0 == 0x3FFF_0000_C000_FFFF) = true := by
  decide +kernel

/-- 09, the worked sequence: the clamp at zero by CMP and SEL, and ADD to element h3 alone. -/
theorem test_cmp_sel :
    after (exec (.cmp ⟨.i16, .lt, none, .v 6, .v 1, .u (.imm 0)⟩) seqV1) (fun t =>
      vreg t 6 0 == 0x0000_0000_FFFF_FFFF && decide (vtag t 6 = .mask)) = true ∧
    after (exec (.sel ⟨.i16, false, none, .v 7, .u (.imm 0), .v 1, .op (.v 6)⟩) (setV seqV1 6 .mask 0x0000_0000_FFFF_FFFF))
      (fun t => vreg t 7 0 == 0x7FFF_0001_0000_0000) = true ∧
    after (exec (.add ⟨.i16, false, some 3, .v 7, .v 7, .u (.imm 1)⟩) (setV demo 7 .i16 0x7FFF_0001_0000_0000))
      (fun t => vreg t 7 0 == 0x8000_0001_0000_0000) = true := by
  decide +kernel

/-- 07 R151, R152: lanes that are not active keep their bits, and with no active lane the tag stays. -/
theorem test_inactive :
    after (exec (.add ⟨.i64, false, none, .v 2, .u (.imm 1), .u (.imm 2)⟩)
      (onWave demo fun w => { w with sys := { w.sys with exec := 1 } })) (fun t => vreg t 2 0 == 3 && vreg t 2 1 == 0) = true ∧
    after (exec (.add ⟨.i64, false, none, .v 2, .u (.imm 1), .u (.imm 2)⟩)
      (onWave demo fun w => { w with sys := { w.sys with exec := 0 } })) (fun t => decide (vtag t 2 = .b64)) = true := by
  decide +kernel

/-- 09 R190: 100 * 2 - 150 in i8 is 50, and SUB in n64 wraps. -/
theorem test_mad_sub :
    after (exec (.mad ⟨.i8, false, some 0, .s 5, .u (.s 6), .u (.imm 2), .op (.u (.s 7))⟩)
      (setS (setS demo 6 .i8 100) 7 .i8 (256 - 106))) (fun t => sreg t 5 == (200 + 150) % 256) = true ∧
    after (exec (.sub ⟨.n64, false, none, .s 5, .u (.imm 0), .u (.imm 1)⟩) demo) (fun t => sreg t 5 == 2 ^ 64 - 1) = true := by
  decide +kernel

/-- 09 R195, R196: a signed field, an inserted field, and the leading zeros of 1. -/
theorem test_fields :
    after (exec (.bfx ⟨.i64, none, .s 5, .u (.s 6), 4, 3⟩) (setS demo 6 .b64 0xF8A)) (fun t => sreg t 5 == 2 ^ 64 - 8) = true ∧
    after (exec (.bfi ⟨.n64, none, .s 5, .u (.s 6), .u (.imm 0), 4, 3⟩) (setS demo 6 .b64 0xFFF)) (fun t => sreg t 5 == 0xF0F) = true ∧
    after (exec (.bitc ⟨.n32, .clz, none, .s 5, .u (.imm 1)⟩) demo) (fun t => sreg t 5 % 2 ^ 32 == 31) = true := by
  decide +kernel

/-- 09 R200: for lane 5 and o = 12 the address is pbase + 300. -/
theorem test_lea_lane :
    after (exec (.lea ⟨.n64, true, 0, 12, .v 5, .u (.s 6), .u (.imm 0)⟩) (setS demo 6 .addr 0x1000))
      (fun t => vreg t 5 5 == 0x1000 + 300) = true := by decide +kernel

/-- 10 R205, 06 R131: 1.5 + 2.25 in f32, and the comparison of a NaN with itself. -/
theorem test_float :
    after (exec (.fadd ⟨.f32, .rne, false, some 0, .v 2, .v 1, .v 3⟩) (setV (setV demo 1 .f32 0x3FC00000) 3 .f32 0x40100000))
      (fun t => vreg t 2 0 == 0x40700000) = true ∧
    after (exec (.fcmp ⟨.f32, .eq, some 0, .v 2, .v 1, .v 1⟩) (setV demo 1 .f32 0x7FC00000)) (fun t => vreg t 2 0 % 2 ^ 32 == 0) = true := by
  decide +kernel

/-- 10, the worked conversions: 2.5 to i32 is 2, and 70000 to f16 is infinite, with SAT 65504. -/
theorem test_cvt :
    after (exec (.cvt ⟨.i32, .f32, .rne, false, 0, .v 2, .v 1⟩) (setV demo 1 .f32 0x40200000)) (fun t => vreg t 2 0 % 2 ^ 32 == 2) = true ∧
    after (exec (.cvt ⟨.f16, .n32, .rne, false, 0, .v 2, .v 1⟩) (setV demo 1 .n32 70000)) (fun t => vreg t 2 0 % 2 ^ 16 == 0x7C00) = true ∧
    after (exec (.cvt ⟨.f16, .n32, .rne, true, 0, .v 2, .v 1⟩) (setV demo 1 .n32 70000)) (fun t => vreg t 2 0 % 2 ^ 16 == 0x7BFF) = true := by
  decide +kernel

/-- A launch whose constant 5 of window 0 is 1.0. -/
def withScale : State :=
  { demo with launches := NMap.set demo.launches 0 { demoLaunch with consts := demoLaunch.consts.set 5 0x3F800000 } }

/-- v0 to v7 of 10's block: lanes 0 to 3 hold 0.3 and -0.1 in lane 0, zeros elsewhere. -/
def blockV : State := setLanes withScale 0 .f32 [0xBDCCCCCD3E99999A]

/-- 10, a block through QUANT and DEQ. -/
theorem test_quant :
    after (exec (.quant ⟨.f32, some (.c 5), 20, 0⟩) ((List.range 7).foldl (fun s k => setV s (k + 1) .f32 0) blockV))
      (fun t => vreg t 20 0 == 0x7777_7777_7777_774F && vreg t 21 0 == 0x4C && vreg t 21 3 == 0x4C) = true ∧
    after (exec (.deq ⟨.f32, some (.c 5), .rne, 24, 20, 21⟩) (setV (setV withScale 20 .nib4 0x7777_7777_7777_774F) 21 .n8 0x4C))
      (fun t => vreg t 24 0 == 0xBDAD40003E9A0000) = true := by
  decide +kernel

/-- 11 R222, the worked case of REBAL. -/
theorem test_rebal :
    after (exec (.rebal 10 4 6) (setS (setLanes demo 4 .n32 [20, 0, 15, 7]) 6 .n64 0))
      (fun t => due t 10 25 == 0x0000_0005_0000_0002 && dueS t 6 == 32) = true ∧
    after (exec (.rebal 10 4 6) (setS (setLanes demo 4 .n32 [20, 0, 15, 7]) 6 .n64 32))
      (fun t => due t 10 3 == 3 && due t 10 10 == 2 ^ 64 - 1 && dueS t 6 == 42) = true := by decide +kernel

/-- 11 R223, the worked case of TOPK. -/
theorem test_topk :
    after (exec (.topk ⟨.f32, true, 4, 10, 1, 3⟩)
        (setS (setLanes demo 1 .f32 [0x00000000_3F000000, 0x3F000000_40000000, 0x00000000_BF800000]) 3 .n64 6))
      (fun t => due t 10 0 == 0x3F000000_40000000 && due t 10 1 == 0xBF800000_3F000000 && due t 10 2 % 2 ^ 32 == 0xFF800000 &&
        due t 11 0 == 0x00000000_00000002 && due t 11 1 == 0x00000004_00000003 && due t 11 2 % 2 ^ 32 == 0xFFFFFFFF && dueS t 3 == 4) = true := by
  decide +kernel

/-- 11 R218, R220: a rotation by 1 and an inclusive sum. -/
theorem test_lanes :
    after (exec (.shuf ⟨.n64, .rot, none, 2, 1, .u (.imm 1)⟩) (setLanes demo 1 .n64 (List.range 32)))
      (fun t => due t 2 0 + due t 2 31 == 31 + 30 || due t 2 0 + due t 2 31 == 1) = true ∧
    after (exec (.scan ⟨.n64, .add, false, none, 2, 1, .imm 1⟩) (setLanes demo 1 .n64 (List.range 32)))
      (fun t => due t 2 6 == 21 && due t 2 31 == 496) = true := by decide +kernel

/-- 04 R87, 07 R164: NOP at packet 0, slot 0 moves the thread to slot 1, and RET goes to its packet. -/
theorem test_step : after (step (demo.withFetchWord 32 0)) (fun t => decide (t.thread.pc = ⟨0, 1⟩)) = true ∧
    after (exec (.ret (.s 5)) (setS demo 5 .addr 0x40)) (fun t => decide (t.thread.pc = ⟨0x40, 0⟩)) = true := by
  decide +kernel

/-- 13 R254, R255: a store of 8 bytes to the page reads back at home, low byte first; a load brings a doubleword. -/
theorem test_memory :
    after (exec (.st ⟨.n64, .wave, .global, false, .b8, none, .s 5, .u (.s 6), .u (.imm 8)⟩)
        (setS (setS demo 5 .n64 0x1122334455667788) 6 .addr 0x100))
      (fun t => (t.cluster 0).queue.any fun q => q.pa == 0x14108 && decide (q.op = .store (bytesOf 8 0x1122334455667788) false)) = true := by decide +kernel

/-- The constants of 19's worked case, and a packet at 0x40 that may be entered. -/
def withHandler (stop : Nat) (handler : Nat) : State :=
  { State.placed demo 0x40 (bytesOf 16 (2 ^ 126)) with launches := NMap.set demo.launches 0 { demoLaunch with
    consts := (demoLaunch.consts.set (7 * 64 + 51) (w64 stop)).set (7 * 64 + 52) (w64 handler) } }

/-- The thread at slot 1, with OF and NX raised and a trap on OF. -/
def atTfence (s : State) : State :=
  onWave (s.setThread { s.thread with pc := ⟨0, 1⟩ }) fun w => { w with sys := { w.sys with flags := 5, ftrap := 4 } }

/-- 19, the worked case of TFENCE: with a handler, TRAPINFO is 0xFFFF_FFFF_0004_4010 and the thread goes on at the handler;
with none, record 0 of the stop log begins with 0xFFFF_FFFF_0004_4410. -/
theorem test_trap :
    after (exec .tfence (atTfence (withHandler 0 0x40))) (fun t =>
      t.cur.trapinfo == 0xFFFF_FFFF_0004_4010 && decide (t.thread.pc = ⟨0x40, 0⟩) && t.cur.frame.isSome &&
      t.cur.sys.cwin == 7) = true ∧
    after (exec (.trapTake 1) (next (exec .tfence (atTfence (withHandler 0x1000 0))))) (fun t =>
      decide (ofBytes ((List.range 8).map fun k => t.mem.get (0x15040 + k)) = 0xFFFF_FFFF_0004_4410)) = true := by
  decide +kernel

/-! Witnesses: for every statement with hypotheses, states and operands that meet them, clause by clause. -/

theorem ready_of {s : State} {d : Dest} {sel : Sel} {ops : List Operand} {ok : Fmt → Bool}
    (h : (s.destOk d && ops.all s.opOk && passes (s.tagsIn ok ops) && passes (s.partialReady sel d)) = true) :
    s.ready d sel ops ok := by
  simp only [Bool.and_eq_true] at h
  exact ⟨h.1.1.1, h.1.1.2, passed h.1.2, passed h.2⟩

/-- A vector destination and a scalar one, the first and the last register of the blocks held. -/
theorem witness_ready : demo.ready (.v 127) (some 1) [.v 0, .u (.imm 3)] (intTag .i32) ∧
    demo.ready (.s 63) none [.u (.s 0), .u (.c 1), .u (.lit 0)] (intTag .n64) ∧
    demo.ready (.v 0) none [.v 127, .v 1] (fun _ => true) := by
  repeat' first | exact ready_of (by decide +kernel) | exact passed (by decide +kernel) | decide +kernel | apply And.intro

theorem witness_IntegerArithmeticCompletes :
    demo.ready (.v 2) none [.v 1, .u (.imm 1)] (intTag .i16) ∧
    demo.ready (.v 2) (some 3) [.v 1, .u (.imm 1), (Third.old).operand (.v 2)] (intTag .i16) := by
  repeat' first | exact ready_of (by decide +kernel) | exact passed (by decide +kernel) | decide +kernel | apply And.intro

theorem witness_MinMaxAndLogicTakeBits :
    demo.ready (.v 2) none [.v 1, .u (.imm 1)] (intTag .i16) ∧ demo.ready (.s 2) none [.u (.s 1), .u (.imm 1)] (fun _ => true) ∧
    decode false 0x3B40_0010_FF00_0000 0x088847C1 = some (.and ⟨.n64, false, none, .s 8, .u (.s 7), .u (.imm 1)⟩) := by
  repeat' first | exact ready_of (by decide +kernel) | exact passed (by decide +kernel) | decide +kernel | apply And.intro

theorem witness_FittingWrapsOrClamps : Fmt.isSigned .n8 = false ∧ Fmt.isSigned .i8 = true := by decide

theorem witness_BitOperationsComplete :
    demo.ready (.v 2) none [.v 1, .u (.imm 1)] (fun _ => true) ∧ demo.ready (.s 2) (some 1) [.u (.s 1)] (fun _ => true) := by
  repeat' first | exact ready_of (by decide +kernel) | exact passed (by decide +kernel) | decide +kernel | apply And.intro

theorem witness_ShiftsAndFields : 32 ≤ 32 ∧ Fmt.width .i32 ≤ 32 ∧ 0x80000000 < 2 ^ Fmt.width .i32 ∧
    Fmt.isSigned .n32 = false := by decide

theorem witness_CompareSelectMoveComplete :
    demo.ready (.v 2) (maskSel none (.v 2)) [.v 1, .v 1] (intTag .n64) ∧
    demo.ready (.s 2) (maskSel none (.s 2)) [.u (.s 1), .u (.imm 1)] (intTag .i8) ∧
    demo.ready (.v 2) none [.v 1, .v 1, (Third.op (.u (.s 3))).operand (.v 2)] (fun _ => true) ∧
    demo.ready (.v 2) (some 1) [.u (.s 3)] (fun _ => true) ∧
    (demo.ready (.v 2) none [.u (.s 3)] addrTag ∧ demo.opOk (.v 4) = true ∧
      demo.tagIn (fun t => t == IxKind.fmt .n32 || t == .b64 || (IxKind.n32 == .n32 && t == .idx32)) (.v 4) = .ok ()) := by
  repeat' first | exact ready_of (by decide +kernel) | exact passed (by decide +kernel) | decide +kernel | apply And.intro

/-- A vector register with a floating tag. -/
def floats : State := setV (setV (setS demo 3 .f32 0x3F800000) 1 .f32 0x3F8000003F800000) 2 .f32 0

theorem witness_FloatArithmeticCompletes :
    floats.ready (.v 3) none [.v 1, .u (.s 3)] (· == .f32) ∧
    floats.ready (.v 2) (some 1) [.v 1, .u (.imm 1), (Third.old).operand (.v 2)] (· == .f32) := by
  repeat' first | exact ready_of (by decide +kernel) | exact passed (by decide +kernel) | decide +kernel | apply And.intro

theorem witness_ConversionsComplete :
    floats.ready (.v 3) (maskSel none (.v 3)) [.v 1, .u (.s 3)] (· == .f32) ∧
    (let f : CvtForm := ⟨.f16, .f32, .rne, false, 1, .v 3, .v 1⟩;
      let src := floats.cvtSource f;
      floats.ready f.d (if f.fmt.width < src.width then some 0 else none) [f.a]
        (fun t => if f.src == .b64 then t.cvt || t == .b64 else t == f.src) ∧
      (f.src != .b64 || !src.cvt || cvtPairOk f.fmt src f.part.toNat) = true) ∧
    (let f : DotForm := ⟨.f32, .f32, .rne, false, 1, 2, .v 1, .v 1, .old⟩;
      floats.ready (.v f.d) (some f.k) [f.a, f.b] (· == f.src) ∧ floats.opOk (f.third.operand (.v f.d)) = true ∧
      floats.tagIn (· == f.fmt) (f.third.operand (.v f.d)) = .ok ()) ∧
    (let s := (List.range 8).foldl (fun s k => setV s k .f32 0) (setS withScale 6 .f32 0);
      let f : QuantForm := ⟨.f32, some (.c 5), 62, 0⟩;
      s.regsOk f.d.toNat 2 = true ∧ s.regsOk f.a.toNat (wideRegs f.src) = true ∧
      s.tagsIn (· == f.src) ((List.range (wideRegs f.src)).map fun k => Operand.v (f.a + BitVec.ofNat 7 k)) = .ok () ∧
      s.superTag f.super = .ok () ∧ s.partialReady none (.v f.d) = .ok () ∧ s.partialReady none (.v (f.d + 1)) = .ok ()) ∧
    (let s := setV (setV withScale 20 .nib4 0x7777_7777_7777_774F) 21 .n8 0x4C;
      let f : DeqForm := ⟨.f32, some (.c 5), .rne, 56, 20, 21⟩;
      s.regsOk f.d.toNat (wideRegs f.fmt) = true ∧ s.regOk f.a.toNat = true ∧ s.regOk f.b.toNat = true ∧
      s.tagIn (· == (if f.super.isSome then .nib4 else .mxfp4)) (.v f.a) = .ok () ∧
      s.tagIn (· == (if f.super.isSome then .n8 else .e8m0)) (.v f.b) = .ok () ∧ s.superTag f.super = .ok () ∧ s.active = -1) := by
  repeat' first | exact ready_of (by decide +kernel) | exact passed (by decide +kernel) | decide +kernel | apply And.intro

theorem witness_VariableLatencyCompletes :
    floats.ready (.v 3) none [.v 1] (· == .f32) ∧
    demo.ready (.v 3) (some 0) [.v 1, .u (.imm 1)] (fun _ => true) ∧
    (floats.ready (.v 3) none [.v 1] (redTag .add .f32) ∧
      floats.srcTag (fun t => t == .mask || t == .n32 || t == .n64 || t == .b64) (.s 5) = .ok ()) ∧
    (floats.ownReady none (.v 3) = .ok () ∧ demo.ownReady (some 0) (.v 3) = .ok () ∧ floats.ownReady none (.s 3) = .ok ()) ∧
    floats.ready (.s 3) none [.v 1] (redTag .max .f32) ∧ demo.ready (.v 3) none [.v 1] (fun _ => true) ∧ demo.active ≠ 0 := by
  repeat' first | exact ready_of (by decide +kernel) | exact passed (by decide +kernel) | decide +kernel | apply And.intro

theorem witness_ReductionTrees : Fmt.isFloat .i32 = false ∧ ∀ l : Nat, (fun _ => 2 ^ 32 - 1) l < 2 ^ Fmt.width .i32 :=
  ⟨rfl, fun _ => (by decide : 2 ^ 32 - 1 < 2 ^ Fmt.width .i32)⟩

/-- Addresses in the page of `demo`: s6, s7 and s8 hold 0x400, 0x800 and 0x1000, s9 holds 0x40. -/
def addrs : State := setS (setS (setS (setS demo 6 .addr 0x400) 7 .addr 0x800) 8 .addr 0x1000) 9 .n64 0x40

/-- One active lane. -/
def oneLane (s : State) : State := onWave s fun w => { w with sys := { w.sys with exec := 1 } }

/-- Two empty rows for MERGE. -/
def mergeRows : State := words addrs 0x400 [0x1000, 0x1100, 0x1800, 0x1900, 0x1A00, 0x1B00, 0, 0]

/-- The descriptor that MERGE reads there, and the loop from its beginning to its end. -/
def mergeRead : List W64 × State :=
  match mergeRows.loadWords (mergeRows.image (.s 6)).toNat 8 with
  | .ok x => x
  | .error _ => ([], State.reset)
def mergeForm : MergeForm := ⟨.f32, .add, false, .wave, 5, .s 6⟩
def mergeEnd : MergeAt :=
  let d := mergeDesc mergeRead.1
  let p := mergeRows.cur.prog.toNat
  mergeRead.2.mergeLoop mergeForm d (d.alen + d.blen) true ⟨mergeRead.2, p / 2 ^ 42, p / 2 ^ 21 % 2 ^ 21, p % 2 ^ 21, 0, none, false⟩

theorem merge_ends : (mergeEnd.stop.isNone && !mergeEnd.short) = true := by decide +kernel

theorem witness_IrregularMerge : mergeRows.noSprig = .ok () ∧ mergeRows.srcTag addrTag (.s 6) = .ok () ∧ mergeRows.noRunAhead = .ok () ∧
    mergeRows.noTx 2 = .ok () ∧ (mergeRows.image (.s 6)).extractLsb' 0 6 = 0 ∧
    passes ((mergeRows.loadWords (mergeRows.image (.s 6)).toNat 8).map fun _ => ()) = true ∧
    (mergeDesc mergeRead.1).alen ≤ 2 ^ 20 ∧ (mergeDesc mergeRead.1).blen ≤ 2 ^ 20 ∧ mergeRead.1.getD 7 0 = 0 ∧
    mergeMisaligned (mergeDesc mergeRead.1) 4 = none ∧ (mergeEnd.stop.isNone && !mergeEnd.short) = true :=
  ⟨passed (by decide +kernel), passed (by decide +kernel), passed (by decide +kernel), passed (by decide +kernel), by decide +kernel,
    by decide +kernel, by decide +kernel, by decide +kernel, by decide +kernel, by decide +kernel, merge_ends⟩

/-- A record of one f32 element at 0x2000 for LDPRUNE, and the band of the diagonal for PATBIND at 0x800. -/
def shapes : State := words (words addrs 0x400 [0x2000, 0, 0, 1, 0, 0, 0x010A00000000, 0]) 0x800 [0x2000000020, 0, 0, 0, 0x10000000]

theorem witness_IrregularAndSparseWorkCompletes :
    (demo.regOk 63 = true ∧ demo.regOk 0 = true ∧ demo.inSprig = false ∧
      demo.tagIn (fun t => t == .n32 || t == .idx32 || t == .b64) (.v 0) = .ok () ∧ demo.srcTag countTag (.s 3) = .ok () ∧
      demo.partialReady none (.v 63) = .ok () ∧
      demo.shortAt ((Mask.ofFn fun l => demo.active.has l && decide (demo.cur.prog.toNat ≤ l)) : Mask).toList = none) ∧
    (floats.awaitsOwn (.v 62) = false ∧ floats.awaitsOwn (.v 63) = false ∧
      floats.shortAt ((List.range 64).filter fun j => decide (floats.cur.prog.toNat ≤ j)) = none) ∧
    (floats.regsOk 62 2 = true ∧ floats.tagIn (· == .f32) (.v 1) = .ok () ∧ floats.awaits (.v 62) = false ∧
      floats.awaits (.v 63) = false) ∧
    (let s := oneLane shapes
      let f : LdpruneForm := ⟨.f32, .wave, false, .p24, false, 56, .s 6, 54, none⟩
      s.regsOk f.d.toNat 8 = true ∧ s.regsOk f.m.toNat f.pat.metaRegs = true ∧ f.m.toNat + f.pat.metaRegs ≤ f.d.toNat ∧
      s.noSprig = .ok () ∧ s.srcTag (baseTag .global) f.rec_ = .ok () ∧ s.orgTag f.org = .ok () ∧ s.noTx 2 = .ok () ∧
      s.active ≠ 0 ∧ (s.image f.rec_).extractLsb' 0 6 = 0 ∧
      (∃ x, s.loadWords (s.image f.rec_).toNat 8 = .ok x ∧
        (meets (parseShape (s.image f.rec_) x.1 (· == f.fmt)) fun sh =>
          meets (s.pruneLanes f sh) fun rows => passes (s.wAllReady (s.wPieces (rowPlaces sh rows)))) = true)) ∧
    ((shapes.image (.s 7)).extractLsb' 0 7 = 0 ∧
      ∃ x, shapes.loadWords (shapes.image (.s 7)).toNat 16 = .ok x ∧ (bindFault (shapes.image (.s 7)) x.1).isNone = true) ∧
    (let s := onWave demo fun w => { w with binds := w.binds.set 7 (some ⟨[0x10000000], 32, 32, 0, 0⟩) }
      let f : PatgenForm := ⟨7, false, 63, .s 3, 4⟩
      s.regOk f.d.toNat = true ∧ s.srcTag countTag f.a = .ok () ∧ s.srcTag countTag (.s f.b) = .ok () ∧ s.active ≠ 0 ∧
      s.shortAt s.lanesLeft = none ∧ ∃ bp, s.boundPattern f.slot.toNat = some bp ∧
        (passes (s.wAllReady (s.wPieces (s.patWalk f bp.1 bp.2 none).places)) && (s.patWalk f bp.1 bp.2 none).fault.isNone &&
          passes (s.wAllReady (s.wPieces (s.patWalk f bp.1 bp.2 (s.shortAt s.lanesLeft)).places)) &&
          (s.patWalk f bp.1 bp.2 (s.shortAt s.lanesLeft)).fault.isNone) = true) := by
  and_intros <;> first | exact passed (by decide +kernel) | exact met (by decide +kernel) | exact held (by decide +kernel) | decide +kernel

/-- The other hypotheses are those of the statement before. -/
theorem witness_LongInstructionsYieldToASave : demo.issue.multi = false ∧ demo.urgent = [] ∧ floats.issue.multi = false ∧
    (onWave demo fun w => { w with binds := w.binds.set 7 (some ⟨[0x10000000], 32, 32, 0, 0⟩) }).issue.multi = false := by
  decide +kernel

/-- A transaction under way; a store on its way to its home. -/
def inTx : State := next (exec (.txbegin false 5 1) addrs)
def storing : State := next (exec (.st ⟨.n64, .wave, .global, false, .b8, none, .s 9, .u (.s 6), .u (.imm 8)⟩) addrs)

/-- A load of a doubleword to s5 or v5 from s6 + 8, and a store of s9 or v5 there. -/
def load (d : Dest) : LdForm := ⟨.n64, .wave, .global, 0, .b8, none, d, .u (.s 6), .u (.imm 8)⟩
def store (d : Dest) (rep : Bool) : StForm := ⟨.n64, .wave, .global, rep, .b8, none, d, .u (.s 6), .u (.imm 8)⟩
/-- No active lane. -/
def noLane (s : State) : State := onWave s fun w => { w with sys := { w.sys with exec := 0 } }
/-- v4 holds 8 times the lane's number, and v5 zeros, both n64. -/
def ramp : State := setV (setLanes addrs 4 .n64 ((List.range 32).map (8 * ·))) 5 .n64 0

theorem witness_LoadCompletes :
    (let s := addrs; let f := load (.s 5);
      s.destOk f.d = true ∧ s.opOk f.a = true ∧ s.opOk f.b = true ∧ s.pairOk f.sz f.d = true ∧
      s.addrTags f.space f.a f.b = .ok () ∧ s.txSpace f.space = .ok () ∧ s.ldLanes f ≠ [] ∧ s.cur.tx = none ∧
      ∃ ps, s.ldAccesses f = .ok ps ∧ (passes (s.memoryReady .rd ps) && ps.all fun x => !s.behindAtomic x.2 && !s.behindLoad x.2) = true) ∧
    addrs.ownReady none (.s 5) = .ok () ∧
    (noLane addrs).ldLanes (load (.v 63)) = [] ∧ (noLane addrs).destOk (.v 63) = true ∧
    (let s := inTx; let f := load (.s 5);
      s.destOk f.d = true ∧ s.addrTags f.space f.a f.b = .ok () ∧ s.txSpace f.space = .ok () ∧ s.ldLanes f ≠ [] ∧
      (∃ x, s.cur.tx = some x ∧ x.ro = false) ∧ ∃ ps, s.ldAccesses f = .ok ps ∧
        (passes (s.txReady ps) && meets (s.txTouchAll ps false) fun _ => true) = true) := by
  and_intros <;> first | exact passed (by decide +kernel) | exact met (by decide +kernel) | decide +kernel |
    exact ⟨_, rfl, by decide +kernel⟩

theorem witness_StoreCompletes :
    (let s := addrs; let f := store (.s 9) false;
      s.opOk f.a = true ∧ s.opOk f.b = true ∧ (stData f).all s.opOk = true ∧ s.addrTags f.space f.a f.b = .ok () ∧
      s.tagsIn (fun t => t == f.fmt || t == .b64) (stData f) = .ok () ∧ s.noRunAhead = .ok () ∧ s.txSpace f.space = .ok () ∧
      s.txWrites = .ok () ∧ s.stLanes f ≠ [] ∧ s.cur.tx = none ∧
      ∃ ps, s.stAccesses f = .ok ps ∧ (passes (s.storesReady ps) && passes (s.memoryReady .wr ps)) = true) ∧
    (let s := onWave ramp fun w => { w with sys := { w.sys with exec := 15 } }; let f : StForm := ⟨.n64, .wave, .global, true, .b8, none, .v 5, .u (.s 6), .v 4⟩;
      s.addrTags f.space f.a f.b = .ok () ∧ s.tagsIn (fun t => t == f.fmt || t == .b64) (stData f) = .ok () ∧
      repairCovers ((s.stLanes f).flatMap (s.touched f.space f.sz.bytes)) = true ∧
      ∃ ps, s.stAccesses f = .ok ps ∧ (passes (s.storesReady ps) && passes (s.repairReady ps)) = true) ∧
    (noLane ramp).stLanes (store (.v 5) false) = [] ∧
    (let s := inTx; let f := store (.s 9) false;
      s.txWrites = .ok () ∧ s.stLanes f ≠ [] ∧ s.cur.tx.isSome = true ∧ ∃ ps, s.stAccesses f = .ok ps ∧
        (passes (s.txReady ps) && meets (s.txTouchAll ps true) fun _ => true) = true) := by
  and_intros <;> first | decide +kernel | exact passed (by decide +kernel) | exact met (by decide +kernel)

theorem witness_StoresKeepOtherBytes :
    (let s := addrs; let f := store (.s 9) false;
      s.cur.tx = none ∧ ∃ ps, s.stAccesses f = .ok ps ∧
        ((s.stPieces f ps).all fun x => !decide (x.2.1.spot = .stash) && decide (0 < x.2.1.n) && x.2.1.spot.memory == some 0) = true) ∧
    (let s := onWave ramp fun w => { w with sys := { w.sys with exec := 15 } };
      let f : StForm := ⟨.n64, .wave, .global, true, .b8, none, .v 5, .u (.s 6), .v 4⟩;
      s.cur.tx = none ∧ (meets (s.stAccesses f) fun ps => !ps.isEmpty) = true ∧ after (exec (.st f) s) (fun _ => true) = true) ∧
    (let s := inTx; let f := store (.s 9) false;
      s.cur.tx.isSome = true ∧ (meets (s.stAccesses f) fun ps => meets (s.txTouchAll ps true) fun _ => true) = true ∧
        after (exec (.st f) s) (fun _ => true) = true) ∧
    (let p : Piece := { at_ := 0, va := 0x100, pa := 0x14100, n := 2, spot := .home .device };
      demo.mem.wf = true ∧ demo.hostMem.wf = true ∧ demo.peerMem = [] ∧ demo.teams.all (fun e => e.2.shared.wf) = true ∧ p.n = [(1 : Byte), 2].length ∧ p.spot ≠ .stash ∧
      atomQueued (demo.cluster demo.cur.cluster).queue .device p.pa p.n = false) := by
  and_intros <;> first | exact met (by decide +kernel) | decide +kernel

theorem witness_AtomicsComplete :
    (let s := addrs; let f : AtomForm := ⟨.n64, .device, .global, .red .add, some (.s 5), .u (.s 6), .u (.s 9)⟩;
      f.d.all s.destOk = true ∧ s.opOk f.a = true ∧ s.opOk f.b = true ∧ s.tagIn (baseTag f.space) f.a = .ok () ∧
      s.tagIn (fun t => t == f.fmt || t == .b64) f.b = .ok () ∧ s.noRunAhead = .ok () ∧ s.txSpace f.space = .ok () ∧
      s.txWrites = .ok () ∧ s.cur.tx = none ∧ s.atomLanes f.d f.a ≠ [] ∧
      (∃ t, s.atomic f.fmt f.space f.d f.a (fun l => .atom f.fn f.fmt (w64 (s.elemAt f.fmt f.b l 0))) = .ok t ∧
        decide ((t.cluster 0).queue ≠ []) = true) ∧
      ∃ ps, s.atomAccesses f.fmt f.space f.d f.a = .ok ps ∧ (passes (s.storesReady ps) && passes (s.memoryReady .rmw ps)) = true) ∧
    (let s := addrs; let f : CasForm := ⟨.n64, .wave, .global, .s 5, .u (.s 6), .u (.imm 0), .op (.u (.s 9))⟩;
      s.destOk f.d = true ∧ [f.a, f.cmp, f.new.operand f.d].all s.opOk = true ∧ s.tagIn (baseTag f.space) f.a = .ok () ∧
      s.tagsIn (fun t => t == f.fmt || t == .b64) [f.cmp, f.new.operand f.d] = .ok () ∧
      ∃ t, s.atomic f.fmt f.space (some f.d) f.a (fun l =>
        .cas f.fmt (w64 (s.elemAt f.fmt f.cmp l 0)) (w64 (s.elemAt f.fmt (f.new.operand f.d) l 0))) = .ok t ∧
        decide ((t.cluster 0).queue ≠ []) = true) := by
  and_intros <;> first | decide +kernel | exact passed (by decide +kernel) | exact met (by decide +kernel)

theorem witness_RowsComplete :
    (let s := oneLane (setV ramp 4 .n32 3); let f : RowsForm := ⟨.n64, .wave, 1, 1, 62, .s 8, 4⟩;
      s.regsOk f.d.toNat (f.n1.toNat + 1) = true ∧ s.regOk f.ix.toNat = true ∧ s.noSprig = .ok () ∧
      s.srcTag (baseTag .global) f.base = .ok () ∧ s.tagIn (fun t => t == .idx32 || t == .n32 || t == .b64) (.v f.ix) = .ok () ∧
      s.noTx 2 = .ok () ∧ s.active ≠ 0 ∧ s.gatherReady = .ok () ∧ (s.rowLanes f .rd).2 = none ∧
      s.piecesFree (((s.rowLanes f .rd).1.map fun l => (l, s.rowOf f .rd l)).flatMap fun x => x.2) = .ok () ∧
      s.tagsIn (fun t => t == f.fmt || t == .b64) ((List.range (f.n1.toNat + 1)).map fun j => .v (f.d + BitVec.ofNat 7 j)) = .ok () ∧
      s.shortAt (s.rowLanes f .rd).1 = none ∧ s.shortAt (s.rowLanes f .wr).1 = none ∧
      s.noRunAhead = .ok () ∧ (s.rowLanes f .wr).2 = none ∧
      s.claims (bareSectors (((s.rowLanes f .wr).1.flatMap fun l => (s.rowOf f .wr l).map fun p => (l, p)).map fun x => x.2)) = .ok ()) ∧
    (noLane ramp).active = 0 ∧
    (let s := setV ramp 7 .n64 1; let f : SredForm := ⟨.n64, .device, .add, .u (.s 6), .v 7⟩;
      s.opOk f.a = true ∧ s.opOk f.b = true ∧ s.tagIn (baseTag .global) f.a = .ok () ∧ s.tagIn (· == f.fmt) f.b = .ok () ∧
      ∃ ps, s.sredAccesses f = .ok ps ∧ decide (ps ≠ []) = true) := by
  and_intros <;> first | decide +kernel | exact passed (by decide +kernel) | exact met (by decide +kernel)

/-- One entry of the sealing table over the first bytes of the range at 0x1000, and a table that is full elsewhere. -/
def sealedAt (s : State) (ks : List Nat) (base : Nat) : State :=
  { s with sealTable := ks.map fun k => (k, ⟨k, 0, (s.ctx 0).asid, 0, base + 256 * k, 256, false, false⟩) }

theorem witness_MaintenanceAndSealingComplete :
    (addrs.opOk (.u (.s 6)) = true ∧ addrs.opOk (.u (.imm 8)) = true ∧ addrs.addrTags .global (.u (.s 6)) (.u (.imm 8)) = .ok ()) ∧
    (addrs.noTx 2 = .ok () ∧ addrs.fenceIds ⟨.device, 3, none⟩ = [] ∧ storing.noTx 2 = .ok () ∧
      storing.fenceIds ⟨.device, 3, none⟩ ≠ []) ∧
    (addrs.srcTag addrTag (.s 6) = .ok () ∧ addrs.srcTag countTag (.s 9) = .ok () ∧ addrs.srcTag countTag (.imm 0) = .ok () ∧
      addrs.noRunAhead = .ok () ∧ (addrs.image (.s 9)).toNat ≤ 2 ^ 32 ∧
      (addrs.image (.s 6)).toNat + (addrs.image (.s 9)).toNat ≤ 2 ^ 58 ∧ (addrs.image (.imm 0)).toNat = 0 ∧
      (addrs.image (.s 9)).toNat ≠ 0 ∧ addrs.repairFault (addrs.image (.s 6)).toNat (addrs.image (.s 9)).toNat = none) ∧
    (let s := setS addrs 10 .n64 256; let b := (s.image (.s 8)).toNat; let n := (s.image (.s 10)).toNat; let asid := (s.ctx s.cur.ctx).asid;
      s.noSprig = .ok () ∧ s.srcTag addrTag (.s 8) = .ok () ∧ s.srcTag countTag (.s 10) = .ok () ∧ b % 256 = 0 ∧ n % 256 = 0 ∧
      256 ≤ n ∧ n ≤ 2 ^ 40 ∧ (sealedAt s [0] 0x1000).sealOverlaps asid b n = true ∧
      (sealedAt s (List.range 64) 0x100000).sealOverlaps asid b n = false ∧ 64 ≤ (sealedAt s (List.range 64) 0x100000).sealTable.length ∧
      s.sealOverlaps asid b n = false ∧ s.sealTable.length < 64 ∧ s.over s.cur s.who .allAccesses = true ∧
      s.rangeReady b n = .ok ()) ∧
    (let s := sealedAt addrs [1] 0x1000;
      s.srcTag countTag (.imm 1) = .ok () ∧ (∃ x, NMap.get? s.sealTable (s.image (.imm 1)).toNat = some x ∧
        (decide (x.ctx = s.cur.ctx) && !x.plate) = true) ∧
      NMap.get? s.sealTable (s.image (.imm 0)).toNat = none) := by
  and_intros <;> first | exact passed (by decide +kernel) | exact held (by decide +kernel) | decide +kernel

/-- A record of one f32 element at 0x2000, at 0x400. -/
def copyForm : CopyForm := ⟨.f32, .f32, .rne, false, .device, 0, false, 7, 5, .s 6, .global (.s 7)⟩
/-- The same as the record at 0x800, of one element at 0x3000. -/
def copySpace : State :=
  words (words addrs 0x400 [0x2000, 0, 0, 1, 0, 0, 0x010A00000000, 0]) 0x800 [0x3000, 0, 0, 1, 0, 0, 0x010A00000000, 0]
/-- One element at an address, and a wave that copies it. -/
def oneAt (a : W64) : Shape := ⟨a, 0, 0, [1, 1, 1, 1], [0, 0, 0], .f32, 1, false⟩
def copyingFrom (done : Nat) (a : W64) : State :=
  onWave demo fun w => { w with chans := w.chans.set 7 ⟨0, [⟨copyForm, oneAt a, oneAt 0x3000, done, 0, 4, 0⟩]⟩ }
def copying : State := copyingFrom 0 0x2000
/-- The jobs of channel 7 of the wave that copies. -/
def jobs (s : State) : List CopyJob := (s.cur.chans.getD 7 ⟨0, []⟩).jobs
/-- The same COPY with its units done, and one that reads where nothing is mapped. -/
def copied : State := copyingFrom 1 0x2000
def copyLost : State := copyingFrom 0 0x100000

theorem witness_CopiesComplete :
    (let s := copySpace; let f := copyForm;
      7 < s.cur.foot.chans ∧ s.copyRegs f 0 = true ∧ s.noSprig = .ok () ∧ s.srcTag (baseTag .global) f.srec = .ok () ∧
      s.copyDstTag f = .ok () ∧ s.noRunAhead = .ok () ∧ s.noTx 2 = .ok () ∧ s.over s.cur s.who (.copyFull 7) = true ∧
      (meets (s.readShape (s.image f.srec) (· == f.src)) fun src =>
        meets (s.copyTarget f src) fun dst => s.copyRegs f (copyBytes f.toRegs dst)) = true) ∧
    (let f : ChwaitForm := ⟨.device, true, 5, .imm 7, .imm 1⟩;
      copying.value .n64 f.ch < 8 ∧ 7 < copying.cur.foot.chans ∧ copying.srcTag countTag f.ch = .ok () ∧ f.try_ = true) ∧
    addrs.over addrs.cur addrs.who (.chwait 7 (addrs.image (.imm 0))) = true ∧
    ((holds (copying.wave? 1) fun x => holds x.chans[7]? fun c => !c.jobs.isEmpty) = true ∧ copying.engineRuns 0 = true ∧
      ((jobs copying).all fun j => decide (j.done < j.units)) = true ∧ jobs copying ≠ [] ∧
      ((jobs copied).all fun j => decide (j.units ≤ j.done)) = true ∧ jobs copied ≠ [] ∧
      ((jobs copyLost).all fun j => match (copyLost.select 1 (.split 0)).copyUnit j j.done with
        | .ok _ => false
        | .error (e, _, _) => ((copyLost.select 1 (.split 0)).heldAway e (.copyProgress 1 7)).isNone) = true ∧ jobs copyLost ≠ [] ∧
      ((jobs copying).all fun j => meets ((copying.select 1 (.split 0)).copyUnit j j.done) fun u =>
        ((copying.select 1 (.split 0)).heldIO (locSectors u.reads) (locSectors (u.writes j)) (.wave 1)
          (.copyProgress 1 7)).isNone) = true) := by
  and_intros <;> first | decide +kernel | exact passed (by decide +kernel) | exact met (by decide +kernel)

theorem witness_ChannelPointer :
    (copying.cur.chans.getD 7 ⟨0, []⟩).jobs ≠ [] ∧ ((jobs copying).all fun j => decide (j.units ≤ j.done + 1)) = true ∧
    ∃ j : CopyJob, j.done + 1 < j.units :=
  ⟨by decide +kernel, by decide +kernel,
    ⟨copyForm, ⟨0, 0, 0, [256, 256, 1, 1], [64, 0, 0], .f32, 2, false⟩, ⟨0, 0, 0, [256, 256, 1, 1], [64, 0, 0], .f32, 2, false⟩, 0, 0, 0, 0⟩,
    by decide +kernel⟩

/-- A local transfer of one page from 0x1000 to 0x2000, whose lists lie at 0x800 and 0x808; one whose source does not
exist, and one whose source is poisoned. -/
def pages : State :=
  words (words addrs 0x400 [0x1000C0000, 0x800, 0x808, 0, 1, 0, 0, 0]) 0x800 [0x1000, 0x2000, 0x100000]
def transfer (dir peer : Nat) (left : List Nat) (src : W64) : Kv :=
  ⟨9, 0, 0, 0, 0, dir, peer, 12, 1, src, 0x808, 0, 1, left⟩
def withKv (k : Kv) : State := { pages with kvs := [k] }

theorem nextPage_one (n : Nat) : [(0 : Nat)].getD (Config.nextPage n % 1) 0 = 0 := by simp [Nat.mod_one]

theorem witness_PageTransfersComplete :
    (let s := pages;
      s.noSprig = .ok () ∧ s.srcTag (baseTag .global) (.s 6) = .ok () ∧ s.noRunAhead = .ok () ∧ s.noTx 2 = .ok () ∧
      (s.image (.s 6)).extractLsb' 0 6 = 0 ∧
      (meets (s.loadWords (s.image (.s 6)).toNat 8) fun x => kvxFields x.1 && (kvxMisaligned x.1).isNone) = true ∧
      s.kvs.length < 64 ∧
      64 ≤ ((List.replicate 64 (transfer 0 0 [0] 0x800)).filter
        fun k : Kv => k.ctx == s.cur.ctx && k.die == s.die).length) ∧
    (let s := withKv (transfer 2 13 [0] 0x800); s.kvs.find? (fun k => k.id == 9) = some (transfer 2 13 [0] 0x800) ∧
      s.engineRuns 0 = true ∧ s.lostPeers.contains 13 = false ∧ (transfer 2 13 [0] 0x800).dir ≠ 0) ∧
    (let s := withKv (transfer 0 0 [0] 0x800); s.heldIO (s.kvxSectors (transfer 0 0 [0] 0x800) 0).1 (s.kvxSectors (transfer 0 0 [0] 0x800) 0).2 (.die 0) (.kvxComplete 9 .done) = none ∧
      (meets (s.kvxPage (transfer 0 0 [0] 0x800) false 0) fun x => decide (x.2 = 0)) = true) ∧
    (match (withKv (transfer 0 0 [0] 0x810)).kvxPage (transfer 0 0 [0] 0x810) false 0 with
      | .ok _ => false
      | .error _ => true) = true ∧
    (meets ({ withKv (transfer 0 0 [0] 0x800) with poison := [0x15000 / 32] }.kvxPage (transfer 0 0 [0] 0x800) false 0) fun x =>
      decide (x.2 ≠ 0)) = true := by
  and_intros <;> first | decide +kernel | exact passed (by decide +kernel) | exact met (by decide +kernel)

/-- A team of four waves, of which the wave that issues is the first. -/
def quad : State := onWave { addrs with teams := [(0, ⟨0, 0, 1, 0, 0, [0, 1, 2, 3], [1, 2, 3, 4], [], List.replicate 16 Bar.blank, []⟩)] }
  fun w => { w with team := some 0 }
/-- v0 to v7 hold f32 zeros, constant 5 names a record of rows of eight f32 at 0x2000, and v8 holds empty indexes. -/
def tileRegs : State :=
  let s := words quad 0x400 [0x2000, 0, 0, 0x100000008, 0, 2, 0x020A00000000, 0]
  setV (List.foldl (fun s k => setV s k .f32 0)
    { s with launches := NMap.set s.launches 0 { demoLaunch with consts := demoLaunch.consts.set 5 0x400 } } (List.range 8)) 8 .idx32 (2 ^ 64 - 1)
/-- Four waves at the rendezvous, whose first template differs by `d`. -/
def met4 (d : W64) : State :=
  let arr (t : W64) : Arrival := ⟨t, 0, 1, false, false, .f32, .f32, .f32, 0, 0, none, [], [], [], [], none, []⟩
  let at_ (n : Nat) (t : W64) (w : Wave) : Wave :=
    { w with id := n, waveNo := BitVec.ofNat 5 (n - 1), arrival := some (arr t),
             splits := [(0, { Thread.blank with mask := -1, park := .rendezvous })] }
  { quad with cur := at_ 1 d quad.cur, waves := [(2, at_ 2 7 quad.cur), (3, at_ 3 7 quad.cur), (4, at_ 4 7 quad.cur)] }
/-- A wave with one tile to be written by operation 3. -/
def tiling : State := onWave quad fun w => { w with ops := [⟨5, 0, .acc 3 0 0 none .f32 [], .wave⟩] }

theorem witness_MatrixMultiplyCompletes :
    (let f : MmaForm := ⟨.f32, .f32, 0, 0, false, false, false, 7, 0, 4, .none, 0, 0⟩;
      tileRegs.mmaReady f = .ok () ∧ tileRegs.issue.multi = false ∧ (NMap.get? tileRegs.cur.splits 0).isSome = true ∧ tileRegs.who = .split 0) ∧
    (let s := tileRegs; let f : MmgForm := ⟨.f32, .f32, 0, 0, false, 7, 8, 4, .none, 0, 5⟩;
      s.mmaChecks f.asMma (s.regOk f.a.toNat) (s.tagIn (fun t => t == .idx32 || t == .b64) (.v f.a)) = .ok () ∧
      s.noTx 2 = .ok () ∧ s.over s.cur s.who .stores = true ∧
      (meets (s.readShape (s.image (.c f.ent)) (· == f.src)) fun sh => meets (s.mmgRows sh (mmaK f.src false) f.a) fun rows =>
        passes (s.locsFree (mmgPlaces sh rows))) = true) ∧
    (holds ((met4 7).wave? 1) fun x => holds ((met4 7).rendezvous x) fun ws =>
      ws.all (fun y => !(met4 7).spent y && (met4 7).engineRuns y.ctx) && decide (ws.length = 4) &&
        (ws.filterMap (·.arrival)).all fun a => a.template == 7 && a.prog == 0) = true ∧
    (holds ((met4 8).wave? 1) fun x => holds ((met4 8).rendezvous x) fun ws => !(ws.filterMap (·.arrival)).all fun a => a.template == 8) = true ∧
    (holds (tiling.wave? 1) fun x => decide (x.accOp = some (3, 0)) && tiling.engineRuns x.ctx &&
      (tiling.allWaves.filter fun y => y.owesTile 3 0).all fun y => (y.accReady 3 0).isSome) = true := by
  and_intros <;> first | decide +kernel | exact passed (by decide +kernel) | exact met (by decide +kernel)

/-- A wave in run-ahead. -/
def ahead : State := onWave demo fun w => { w with runAhead := some ⟨true, 0, 0⟩ }
/-- A wave with a batch that is closed, and one with a tile to be copied. -/
def batched : State := onWave demo fun w => { w with batch := 1, closed := [1], ops := [⟨5, 2, .copy 0 1, .wave⟩] }

/-- The only operation that is ready is the next. -/
theorem nextOp_one (w : Wave) (n : Nat) (o : Outstanding)
    (h : ((readyFrom [] w.ops).filter fun o => match o.op with
      | .acc _ _ _ _ _ _ => false
      | _ => true) = [o]) : w.nextOp n = some o := by
  have one : ∀ r : List Outstanding, r = [o] → r[Config.pick n % Nat.max 1 r.length]? = some o := by
    rintro _ rfl
    simp [Nat.mod_one]
  exact one _ h

theorem batched_next : batched.cur.nextOp batched.fresh = some ⟨5, 2, .copy 0 1, .wave⟩ :=
  nextOp_one _ _ _ (by decide +kernel)

theorem witness_TilesBatchesAndRunAheadComplete :
    (let s := oneLane tileRegs; let f : MloadForm := ⟨.f32, 0, .wave, false, false, 7, .s 6, .imm 0⟩;
      s.tileChecks f.d.toNat (s.shadowsOk [f.d.toNat]) f.rec_ f.org = .ok () ∧ s.noTx 2 = .ok () ∧
      s.inkFree = true ∧ s.active ≠ 0 ∧ s.shortAt s.lanesLeft = none ∧
      (meets (s.readShape (s.image f.rec_) (mloadFmt f.fmt)) fun sh =>
        (s.tileRows sh f.shared f.t .rd (s.origin f.org).1 (s.origin f.org).2 none).2.isNone &&
          passes (s.locsFree (rowPlaces sh (s.tileRows sh f.shared f.t .rd (s.origin f.org).1 (s.origin f.org).2 none).1))) = true) ∧
    (let s := onWave (oneLane tileRegs) fun w => { w with tiles := w.tiles.map fun t => { t with tag := .f32 } };
      let f : MstoreForm := ⟨.f32, .f32, .rne, false, 0, .wave, false, false, 7, .s 6, .imm 0⟩;
      s.inkFree = true ∧ s.shortAt s.lanesLeft = none ∧ s.tileChecks f.m.toNat true f.rec_ f.org = .ok () ∧ s.cur.tagAt (s.placeOf f.m.toNat) = f.src ∧ s.noRunAhead = .ok () ∧
      f.fmt ≠ .mxfp4 ∧ (meets (s.readShape (s.image f.rec_) (· == f.fmt)) fun sh =>
        (s.tileRows sh f.shared f.t .wr (s.origin f.org).1 (s.origin f.org).2 none).2.isNone &&
          passes (s.locsFree (rowPlaces sh (s.tileRows sh f.shared f.t .wr (s.origin f.org).1 (s.origin f.org).2 none).1))) = true) ∧
    (noLane tileRegs).active = 0 ∧
    (let f : MmoveForm := ⟨.f32, 0, 7, .fill (.imm 0)⟩;
      demo.tilesOk f.d.toNat 1 = true ∧ f.op.tiles.all (fun t => demo.tilesOk t 1) = true ∧ demo.shadowsOk [f.d.toNat] = true ∧
      demo.noSprig = .ok () ∧ demo.fillTag f = .ok () ∧ demo.tileTags f.fmt f.op.tiles = .ok () ∧
      demo.inkFree = true) ∧
    (batched.over batched.cur batched.who .mbatch = true ∧ batched.srcTag countTag (.imm 15) = .ok () ∧
      batched.value .n64 (.imm 15) ≤ 15 ∧ batched.over batched.cur batched.who (.mwait (batched.value .n64 (.imm 1))) = true) ∧
    (batched.wave? 1 = some batched.cur ∧ batched.engineRuns 0 = true ∧
      batched.heldIO (locSectors (MatrixOp.copy 0 1).io.1) (locSectors (MatrixOp.copy 0 1).io.2) (.wave 1) (.matrixOpComplete 1) = none) ∧
    (holds (batched.wave? 1) fun x => decide (x.closed = [1]) && !x.ops.any (fun o => o.batch == 1)) = true ∧
    (demo.cur.runAhead = none ∧ demo.inHandler = false ∧ 0 < demo.cur.foot.pencils ∧ demo.alone = .ok () ∧ demo.noTx 2 = .ok ()) ∧
    (ahead.cur.runAhead.isSome = true ∧ ahead.inHandler = false ∧ ahead.alone = .ok () ∧
      ahead.srcTag (fun t => countTag t || t == .mask || t == .addr) (.imm 1) = .ok () ∧ ahead.image (.imm 1) ≠ 0 ∧
      ahead.image (.imm 0) = 0) := by
  and_intros <;> first | decide +kernel | exact passed (by decide +kernel) | exact met (by decide +kernel)

/-- Packets at 0x40 and 0x80 that may be entered; s20 and v20 hold 0x40, v21 holds 0x40 and 0x80 in turn, v22 indexes. -/
def landings : State :=
  let s := State.placed (State.placed addrs 0x40 (bytesOf 16 (2 ^ 126))) 0x80 (bytesOf 16 (2 ^ 126))
  onWave (setV (setLanes (setV (setS s 20 .addr 0x40) 20 .addr 0x40) 21 .addr ((List.range 32).map fun l => 0x40 * (1 + l % 2)))
    22 .idx32 4) fun w => { w with sys := { w.sys with exec := 3 } }
/-- The predicate stack of the thread that issues. -/
def preds (s : State) (ps : List Mask) : State := s.setThread { s.thread with preds := ps }

theorem witness_BranchesComplete :
    (let s := landings;
      s.srcTag (fun t => countTag t || t == .mask || t == .addr) (.s 20) = .ok () ∧
      s.landing s.cur (s.offsetTarget 4) = true ∧ s.landing s.cur (s.offsetTarget 8) = true ∧ s.srcTag addrTag (.s 20) = .ok () ∧
      s.landing s.cur (s.image (.s 20)) = true ∧ (s.image (.s 20)).extractLsb' 0 4 = 0) ∧
    (let some_ := preds demo [3]; let all_ := preds demo [-1]; let none_ := preds demo [0];
      let act (s : State) := s.rsys.exec &&& s.seenThread.mask &&& predBase s.seenThread.preds;
      some_.canPop 1 = true ∧ all_.canPop 1 = true ∧ none_.canPop 1 = true ∧ act none_ &&& none_.pred = 0 ∧
      act all_ &&& all_.pred ≠ 0 ∧ act all_ &&& all_.pred = act all_ ∧ act some_ &&& some_.pred ≠ 0 ∧
      act some_ &&& some_.pred ≠ act some_ ∧ some_.cur.tx = none ∧ some_.canSplit 1 = true) ∧
    (let s := landings;
      s.regOk 20 = true ∧ s.tagIn (· == .addr) (.v 20) = .ok () ∧ (meets (s.branchEach fun l => s.vval 20 l) fun _ => true) = true ∧
      s.tagIn (· == .idx32) (.v 22) = .ok () ∧
      (meets (s.branchEach fun l => w64 ((s.image (.imm 0)).toNat + 16 * elem 32 (s.vval 22 l) 0)) fun _ => true) = true ∧
      s.active ≠ 0 ∧ Mask.ofFn (fun l => s.active.has l && !s.landing s.cur (s.vval 21 l)) = 0 ∧
      s.active.toList.foldl (fun acc l => insertRising (s.vval 20 l).toNat acc) [] = [0x40] ∧
      s.active.toList.foldl (fun acc l => insertRising (s.vval 21 l).toNat acc) [] = [0x40, 0x80] ∧ s.cur.tx = none ∧
      s.canSplit 1 = true) ∧
    (noLane landings).active = 0 ∧
    (let s := onWave (next (exec (.reconv 4) landings)) fun w =>
        { w with splits := w.splits ++ [(1, Thread.blank), (2, Thread.blank), (3, Thread.blank)] };
      s.canSplit 1 = false ∧ s.canPend = true) := by
  and_intros <;> first | decide +kernel | exact passed (by decide +kernel) | exact met (by decide +kernel)

theorem witness_StacksAndVotesComplete :
    (demo.opOk (.v 63) = true ∧ (setV demo 63 .mask 5).tagIn (conditionTag (.v 63)) (.v 63) = .ok () ∧
      (preds demo (List.replicate 15 3)).thread.preds.length < 16) ∧
    (preds demo [3]).canPop 1 = true ∧ (preds demo [3, 1]).canPop (2 : BitVec 8).toNat = true ∧ demo.canPop (0 : BitVec 8).toNat = true ∧
    demo.recs.length < 16 ∧ demo.voteReady none = .ok () ∧ (setV demo 63 .mask 5).voteReady (some 63) = .ok () ∧
    demo.noRunAhead = .ok () := by
  and_intros <;> first | decide +kernel | exact passed (by decide +kernel)

theorem witness_VoteAndPredicateValues : 31 < 32 ∧ demo.thread.mask.getLsbD 31 = true := by decide +kernel

/-- A handler that holds the wave, with stacks as deep as at its trap. -/
def handling : State :=
  let s := onWave landings fun w => { w with frame := some ⟨⟨0x80, 1⟩, List.replicate 4 ⟨.b64, 0⟩, 0, 0, 0, .split 0, 0,
    { Thread.blank with mask := -1 }⟩ }
  { s with who := .handler }

theorem witness_ExemplarAndTrapInstructionsComplete :
    (let s := words addrs 0x400 [0x3340_0010_FF00_0000];
      s.inSprig = false ∧ s.cur.shownSplits.length ≤ 1 ∧ s.cur.joins = 0 ∧ s.srcTag countTag (.imm 1) = .ok () ∧
      s.srcTag addrTag (.s 6) = .ok () ∧ 8 ≤ (127 : BitVec 7).toNat ∧ 1 ≤ s.value .n64 (.imm 1) ∧
      (127 : BitVec 7).toNat + s.value .n64 (.imm 1) ≤ 128 ∧ (s.image (.s 6)).extractLsb' 0 3 = 0 ∧ s.noRunAhead = .ok () ∧
      ∃ x, s.entryWords (s.image (.s 6)).toNat (s.value .n64 (.imm 1)) = .ok x ∧ (firstMalformed x.1 127).isNone = true) ∧
    (handling.cur.frame.isSome = true ∧ handling.who = .handler ∧ handling.thread.preds.length = 0 ∧
      handling.thread.stack.length = 0 ∧ handling.srcTag addrTag (.s 20) = .ok () ∧
      handling.landing handling.cur (handling.image (.s 20)) = true) ∧
    (demo.over demo.cur demo.who .flags = true ∧ demo.fencedFlags &&& demo.sys.ftrap = 0 ∧
      (atTfence demo).over (atTfence demo).cur (atTfence demo).who .flags = true ∧
      (atTfence demo).fencedFlags &&& (atTfence demo).sys.ftrap ≠ 0) := by
  and_intros <;> first | decide +kernel | exact passed (by decide +kernel) | exact met (by decide +kernel)

theorem witness_SystemRegistersAndBlocksComplete :
    (demo.sgetIndex (0 : BitVec 12).toNat = true ∧ (0 : BitVec 12) ≠ 1 ∧ demo.sgetIndex (0x00C : BitVec 12).toNat = true ∧
      demo.regOk (63 : BitVec 7).toNat = true ∧ demo.partialReady none (.v 63) = .ok ()) ∧
    (ssetIndex 0x01A = true ∧ ssetInRange 0x01A 7 = true ∧ ssetIndex 0x009 = true ∧ ssetInRange 0x009 1 = true ∧
      ssetInRange 0x009 4095 = true ∧ ssetInRange 0x00E 8 = true) ∧
    (demo.noSprig = .ok () ∧ demo.srcTag countTag (.imm 8) = .ok () ∧ 1 ≤ demo.value .n64 (.imm 1) ∧
      demo.value .n64 (.imm 8) ≤ 8 ∧ demo.cur.held ≤ demo.value .n64 (.imm 8) ∧ demo.value .n64 (.imm 1) < demo.cur.held ∧
      demo.over demo.cur demo.who (.blocks 1) = true) ∧
    ((63 : BitVec 7).toNat + ((0 : BitVec 5).toNat + 1) ≤ 64 ∧ demo.regsOk (32 : BitVec 7).toNat ((31 : BitVec 5).toNat + 1) = true) := by
  and_intros <;> first | decide +kernel | exact passed (by decide +kernel)

/-- The queue of launches full, and the queue of tasks. -/
def manyTickets : State := { addrs with tickets := (List.range 256).map fun n => (n, ⟨0, none, 0, none, none, some 0, some 0⟩) }
def manyItems : State :=
  { addrs with items := List.replicate 4096 ⟨0, 0, 0, 0, 0, none, none, 0, 0, 1, none, ⟨1, 0, 0, 0⟩, [], 0, 0, 0, []⟩ }
/-- A transaction that holds one byte, one that is doomed, and one that began 65,536 cycles ago. -/
def txOf (f : Tx → Tx) : State := onWave inTx fun w => { w with tx := w.tx.map f }

theorem witness_WorkAndTransactionsComplete :
    (let s := addrs;
      s.noSprig = .ok () ∧ s.srcTag addrTag (.s 6) = .ok () ∧ s.noRunAhead = .ok () ∧ s.noTx 3 = .ok () ∧
      (noLane s).rsys.exec = 0 ∧ s.rsys.exec ≠ 0 ∧ (s.image (.s 6)).extractLsb' 0 7 = 0 ∧
      (∃ x, s.translate s.die s.cur.ctx (s.image (.s 6)).toNat .rd = .ok x ∧ decide (x.2 = 0x14400) = true) ∧
      256 ≤ manyTickets.launchQueue 0 ∧ s.launchQueue s.cur.ctx < 256 ∧ s.released = .ok () ∧
      (s.image (.s 6)).extractLsb' 0 4 = 0 ∧ s.cur.depth < 4 ∧ 4096 ≤ manyItems.childQueue 0 0 ∧ s.childQueue s.cur.ctx s.die < 4096) ∧
    (demo.inSprig = false ∧ demo.cur.splits.length ≤ 1 ∧ demo.cur.sprigs = [] ∧ demo.cur.joins = 0 ∧ demo.ahead = false ∧
      demo.cur.tx = none) ∧
    (let s := txOf fun x => { x with held := [(0x14100, 1)] };
      s.noSprig = .ok () ∧ s.over s.cur s.who .accesses = true ∧ (holds s.cur.tx fun x => x.doomed.isNone &&
        ((heldRuns x.held).all fun r => !s.sealedPa r.1 r.2.length) &&
        passes (s.claims ((heldRuns x.held).map fun r => r.1 / 32))) = true) ∧
    (let s := sealedAt (txOf fun x => { x with held := [(0x15000, 1)] }) [0] 0x1000;
      s.over s.cur s.who .accesses = true ∧ (holds s.cur.tx fun x =>
        holds ((heldRuns x.held).find? fun r => s.sealedPa r.1 r.2.length) fun _ => x.doomed.isNone) = true) ∧
    ((holds ((txOf fun x => { x with doomed := some 1 }).wave? 1) fun y => holds y.tx fun x => decide (x.doomed = some 1)) = true ∧
      (holds ({ inTx with cycle := 65536 }.wave? 1) fun y => holds y.tx fun x => decide (x.begun + 65536 ≤ 65536)) = true) := by
  and_intros <;> first | decide +kernel | exact passed (by decide +kernel) | exact met (by decide +kernel)

/-- A phase of barrier 15 at which wave 1 of `quad` has arrived alone, and one at which it has not. -/
def arrivedAt (s : State) : State :=
  s.setBars ((s.bars s.cur).set 15 { Bar.blank with mode := some (some 1), arrived := [(1, -1)], full := [1] })

/-- A thread that waits in WAITV for the word at 0x400 to be 5, or not to be 5. -/
def waiting (c : WaitCond) : State :=
  demo.setThread { demo.thread with park := .waitv 5 c (wordKey .device 0x14400) 0x400 5 .device }

theorem witness_BarriersAndSignalsComplete :
    (let f : BarForm := ⟨.team, 15, false, some (.imm 1)⟩;
      quad.barTag f = .ok () ∧ (f.cnt.map fun n => (quad.image n).toNat) = some 1 ∧ quad.noTx 2 = .ok () ∧
      (((quad.bars quad.cur).getD f.id.toNat Bar.blank).arrive quad.cur (some 1) quad.active).isSome = true ∧
      quad.over quad.cur quad.who .accesses = true) ∧
    (holds ((arrivedAt quad).wave? 1) fun x =>
      (((arrivedAt quad).barWaves x).filterMap (arrivedAt quad).wave?).foldl (fun (b : Bar) w => b.mark w)
        (((arrivedAt quad).bars x).getD 15 Bar.blank) |>.complete ((arrivedAt quad).barWaves x)) = true ∧
    (let f : SignalForm := ⟨.device, true, false, .s 6, .imm 1⟩;
      addrs.srcTag (baseTag (syncSpace f.shared)) f.a = .ok () ∧ addrs.noRunAhead = .ok () ∧ addrs.noTx 2 = .ok () ∧
      addrs.over addrs.cur addrs.who .accesses = true ∧
      ∃ ps, addrs.wordAccesses (syncSpace f.shared) f.a .rmw = .ok ps ∧ passes (addrs.memoryReady .rmw ps) = true) ∧
    (let f : WaitvForm := ⟨.device, .eq, false, 5, .s 6, .imm 0⟩; let g : WaitvForm := ⟨.device, .ne, false, 5, .s 6, .imm 0⟩;
      addrs.noSprig = .ok () ∧ addrs.srcTag (baseTag (syncSpace f.shared)) f.a = .ok () ∧ addrs.srcTag countTag f.v = .ok () ∧
      (meets ((noLane addrs).wordAccesses (syncSpace f.shared) f.a .rd) fun ps => ps.isEmpty) = true ∧
      (meets (addrs.wordAccesses (syncSpace f.shared) f.a .rd) fun ps => holds ps.head? fun x =>
        passes (addrs.locsFree [(addrs.waitLoc f x.2, 8)]) && !addrs.locPoison (addrs.waitLoc f x.2) 8 &&
          waitHolds f.cond (w64 (addrs.locNum addrs.cur.team (addrs.waitLoc f x.2) 8)) (addrs.image f.v) &&
          !waitHolds g.cond (w64 (addrs.locNum addrs.cur.team (addrs.waitLoc g x.2) 8)) (addrs.image g.v)) = true) ∧
    (let key := wordKey .device 0x14400; let s := (waiting .eq).select 1 (.split 0);
      (holds ((waiting .eq).wave? 1) fun x => decide ((x.thread (.split 0)).park = .waitv 5 .eq key 0x400 5 .device) && x.hears (.split 0)) = true ∧
      (meets (s.locate (keyShared key) .rd 0x400 8) fun l =>
        ((waiting .eq).heldAny (locSectors [(l, 8)]) (.waitvRecheck 1 (.split 0))).isNone &&
          waitHolds .ne (w64 (s.locNum s.cur.team l 8)) 5 && !waitHolds .eq (w64 (s.locNum s.cur.team l 8)) 5) = true ∧
      (match s.locate (keyShared key) .rd 0x100000 8 with
        | .error e => ((waiting .eq).heldAway e.1 (.waitvRecheck 1 (.split 0))).isNone
        | .ok _ => false) = true) := by
  and_intros <;> first | decide +kernel | exact passed (by decide +kernel) | exact met (by decide +kernel)

theorem witness_BarrierPhases :
    ({ Bar.blank with mode := some none } : Bar).mode = some none ∧
    ({ Bar.blank with mode := some (some 32) } : Bar).mode = some (some 32) ∧ Bar.blank.mode = none := by decide

/-- Global ring 0 has its header at 0 and four places at 0x200; it holds `n` elements. -/
def ringOf (n : Nat) : State := words addrs 0 [0x202, n * 2 ^ 32]

/-- An AWAIT.ev at slot 0 that has been told of a write. -/
def heardAwait : State := addrs.setThread { addrs.thread with heard := true, slot := addrs.slot }

theorem witness_RingsAndAwaitsComplete :
    (let f : QputForm := ⟨.device, true, false, 5, .imm 0, .u (.s 9)⟩; let s := ringOf 3;
      s.opOk f.v = true ∧ s.noSprig = .ok () ∧ s.srcTag countTag f.k = .ok () ∧ s.noRunAhead = .ok () ∧ s.noTx 2 = .ok () ∧
      (noLane s).putValues f = [] ∧ s.putValues f ≠ [] ∧ s.over s.cur s.who .accesses = true ∧
      ∃ x, s.put f.d f.glob f.try_ (s.image f.k).toNat (s.putValues f) = .ok x ∧
        (holds x fun y => passes (s.locsFree y.1.1) && passes (s.claims (locSectors y.1.2))) = true) ∧
    (let f : QtakeForm := ⟨.device, true, false, .s 5, .imm 0⟩; let s := ringOf 1;
      s.destOk f.d = true ∧ (noLane s).active = 0 ∧ s.active ≠ 0 ∧
      ∃ x, s.take f.d f.glob f.try_ (s.image f.k).toNat s.active f.scope = .ok x ∧
        (holds x fun y => passes (s.locsFree y.1.1) && passes (s.claims (locSectors y.1.2))) = true) ∧
    (let s := (ringOf 1).setThread { demo.thread with park := .qtake (.s 5) true 0 0 (-1) .device };
      (holds (s.wave? 1) fun x => x.hears (.split 0)) = true ∧
      (holds ((s.select 1 (.split 0)).ringStep (s.select 1 (.split 0)).thread.park) fun r => meets r fun x => holds x fun y =>
        (s.heldIO (locSectors y.1.1) (locSectors y.1.2) (.wave 1) (.ringWake 1 (.split 0))).isNone) = true) ∧
    (demo.noSprig = .ok () ∧
      (meets (demo.awaitCond .kids) fun c => meets (demo.awaitHolds c) fun b => b) = true ∧
      (let s := onWave demo fun w => { w with children := 1 };
        (meets (s.awaitCond .kids) fun c => !s.heardNow c && meets (s.awaitHolds c) fun b => !b) = true)) ∧
    (heardAwait.noSprig = .ok () ∧ (meets (heardAwait.awaitCond (.ev false (.s 6))) fun c => heardAwait.heardNow c &&
      meets (heardAwait.awaitHolds c) fun b => !b) = true) ∧
    (let s := demo.setThread { demo.thread with park := .await .kids };
      (holds (s.wave? 1) fun x => decide ((x.thread (.split 0)).park = .await .kids) && x.hears (.split 0) && x.stage == .running) = true ∧
      (meets ((s.select 1 (.split 0)).awaitHolds .kids) fun b => b) = true ∧
      (let t := onWave s fun w => { w with stage := .swapped };
        (holds (t.wave? 1) fun x => x.stage == .swapped) = true ∧ (meets ((t.select 1 (.split 0)).awaitHolds .kids) fun b => b) = true)) := by
  and_intros <;> first | decide +kernel | exact passed (by decide +kernel) | exact met (by decide +kernel)

theorem witness_RingUnit :
    (∃ r, (ringOf 3).ring true 0 .rmw = .ok r ∧ (decide (1 ≤ r.cap - r.held) && (meets ((ringOf 3).ringElems true r .wr r.tail 1) fun _ => true)) = true) ∧
    ([1, 2] : List W64).contains emptyValue = false ∧
    (∃ r, (ringOf 3).ring true 0 .rmw = .ok r ∧ (decide (2 ≤ r.cap) && decide (r.cap - r.held < 2)) = true) ∧
    (∃ r, (ringOf 0).ring true 0 .rmw = .ok r ∧ decide (r.held = 0) = true) ∧
    (∃ r, (ringOf 1).ring true 0 .rmw = .ok r ∧ (decide (r.held ≠ 0) &&
      (meets ((ringOf 1).ringElems true r .rd r.head (Nat.min (-1 : Mask).count r.held)) fun ls => decide (ls.length = 1))) = true) ∧
    ((-1 : Mask).has 31 = true ∧ (-1 : Mask).count ≤ (List.replicate 32 (0 : W64)).length) := by
  and_intros <;> first | decide +kernel | exact met (by decide +kernel)

/-- A group of two ranks whose record lies at 0x400, wave 1 of which is rank 0 and has handle 2; its descriptor lies at 0x600. -/
def rankOf (wave : Option Nat) (posts : NMap Post) (prop : Option W32) : Rank := ⟨0, wave, posts, 1, false, false, prop⟩
def postOf : Post := ⟨.bar, .add, .b64, .device, 0, 0, 0, 0, 0, 0, 0, 0, 0, 1⟩
def grouped (posts : NMap Post) (prop : Option W32) : State :=
  let s := setS (words (words addrs 0x400 [0x20000002A, 0, 0, 0, 0, 0, 0, 0, 0, 0, 0, 0, 0, 0, 0, 0]) 0x600 [2, 0, 0, 0, 0, 0, 0, 0]) 7 .addr 0x600
  onWave { s with groups := [(42, ⟨42, 2, [(0, rankOf (some 1) posts prop), (1, rankOf none posts prop)], 0, []⟩)] }
    fun w => { w with members := [(2, ⟨42, 0⟩)] }

/-- Wave 1 proposes step 3, and the other rank is on peer 3. -/
def proposing : State :=
  let s := (grouped [] none).setThread { demo.thread with park := .stepagr 5 2 3 }
  { s with groups := [(42, ⟨42, 2, [(0, rankOf (some 1) [] none), (1, ⟨3, none, [], 1, false, false, none⟩)], 0, []⟩)] }

/-- A COLL.bar whose descriptor is read and in order goes on. -/
theorem bar_ok (s : State) (a : Src)
    (h : (meets (s.collRecord a 8) fun x => Sys2Proof.Machine.collFields CollOp.bar (Fmt.b64.width / 8) x.1) = true) :
    ∃ r, s.coll .bar .add .b64 .device 5 a = .ok r := by
  obtain ⟨x, hx, hf⟩ := met h
  obtain ⟨y, hy⟩ : ∃ y, x.2.postStep (wordsField x.1 0 1) (s.stepOf .bar .add .b64 .device x.1) = .ok y := by
    have hb : (s.stepOf .bar .add .b64 .device x.1).op ≠ .bcast := by simp [State.stepOf]
    simp only [State.postStep]
    split
    · exact ⟨_, rfl⟩
    · split
      · exact ⟨_, rfl⟩
      · split
        · exact absurd ‹_ ∧ _›.1 hb
        · split
          · exact ⟨_, rfl⟩
          · split <;> exact ⟨_, rfl⟩
  exact ⟨_, by simp only [State.coll, hx, need, hf, bind, Except.bind, if_true, hy]; rfl⟩

theorem witness_CollectivesComplete_join :
    (meets ((grouped [] none).collRecord (.s 6) 16) fun x => groupOk x.1) = true := by decide +kernel

theorem witness_CollectivesComplete_bar :
    ∃ r, (grouped [] none).coll .bar .add .b64 .device 5 (.s 7) = .ok r := bar_ok _ _ (by decide +kernel)

theorem witness_CollectivesComplete_ared :
    (meets ((words (grouped [] none) 0x600 [2, 0x1000, 0x2000, 1, 0, 0, 0, 0]).collRecord (.s 7) 8) fun x =>
      Sys2Proof.Machine.collFields CollOp.ared (Fmt.f32.width / 8) x.1 && Sys2Proof.Machine.collFields CollOp.bcast (Fmt.f32.width / 8) x.1) = true := by
  decide +kernel

theorem witness_CollectivesComplete_agree :
    (meets ((grouped [] none).stepagrHead (.imm 3) none) fun m => m.isNone) = true ∧
    (meets ((grouped [] none).stepagrHead (.imm 2) none) fun m => m.isSome) = true ∧
    (meets ((grouped [] none).stepagrHead (.imm 3) (some (.imm 5))) fun m => m.isNone) = true ∧
    (meets ((grouped [] none).stepagrHead (.imm 2) (some (.imm 5))) fun m => m.isSome) = true := by
  and_intros <;> decide +kernel

theorem witness_CollectivesComplete :
    (let s := grouped [(1, postOf)] none; let t := ((s.vacate 42 []).peersJoined 42 []).dropStopped 42;
      (holds (NMap.get? t.groups 42) fun g => g.step == some 1 && g.failing.isEmpty) = true ∧
      (holds (NMap.get? s.groups 42) fun g => g.ranks.all (fun x => (NMap.get? (g.posted 1) x.1).isSome && !x.2.vacant) &&
        (g.posted 1).all (fun x => s.engineRuns x.2.2.ctx) && (((g.posted 1).map fun x => x.2.2.shape).all fun y =>
          (((g.posted 1).map fun x => x.2.2.shape).head? == some y)) && g.ranks.all (fun x => !s.lostPeers.contains x.2.dev) &&
        (s.heldStep g.size (g.posted 1) (.collStepRun 42 [] [] .done)).isNone &&
        meets (s.sources g (g.posted 1) []) fun _ => true) = true) ∧
    (let s := grouped [] none; let g : Group := ⟨42, 2, [(0, rankOf (some 1) [(1, postOf)] none), (1, { rankOf none [] none with vacant := true })], 0, []⟩;
      (g.ranks.any fun x => x.2.vacant) = true ∧ (g.ranks.all fun x => x.2.vacant || (NMap.get? (g.posted 1) x.1).isSome) = true ∧
      s.heldStep g.size (g.posted 1) (.collStepRun 42 [] [] .done) = none ∧
      (holds (NMap.get? ({ s with groups := [(42, { g with failing := [⟨postOf, 6, none⟩] })] }.dropStopped 42).groups 42) fun h =>
        decide (h.failing = [⟨postOf, 6, none⟩])) = true) ∧
    (let s := proposing; let t := (s.vacate 42 []).peersJoined 42 [1];
      (holds (NMap.get? t.groups 42) fun g => decide ((State.agreement { t with groups := NMap.set t.groups 42 (g.propose [(1, 4)]) }
        42 (g.propose [(1, 4)])) = some 3)) = true) := by
  and_intros <;> first | decide +kernel | exact passed (by decide +kernel) | exact met (by decide +kernel)

/-- A sprig in slot 0 of the wave, of lanes 0 to 3, recalled or not, and with its thread's wait. -/
def sprig (recalled : Bool) (p : Park) : Sprig :=
  { th := { Thread.blank with mask := 15, park := p }, file := RegFile.blank, sys := ⟨-1, 0, 0, 10, 0, 0⟩, recs := [], home := 0,
    atExport := [], exporter := 0, exportDepth := 0, splitsAtExport := 0, nib := 0, lines := 1, recalled := recalled,
    wrote := [], held := [], age := 0, starved := 0, fenced := false }
def exported (recalled : Bool) (p : Park) : State := onWave addrs fun w => { w with sprigs := [(0, sprig recalled p)] }

theorem witness_StacksAndVotesComplete_exit :
    demo.sprig? = none ∧ demo.noRunAhead = .ok () ∧
    (let s := { exported false .run with who := .sprig 0 }; s.noRunAhead = .ok () ∧ s.sprig?.isSome = true) := by
  and_intros <;> first | decide +kernel | exact passed (by decide +kernel)

theorem witness_CollectivesInSpecialSituations :
    ((noLane (grouped [] none)).rsys.exec = 0 ∧
      (∃ r, (noLane (grouped [] none)).coll .bar .add .b64 .device 5 (.s 7) = .ok r) ∧
      (meets ((noLane (grouped [] none)).collRecord (.s 6) 16) fun x => groupOk x.1) = true ∧
      (meets ((noLane (grouped [] none)).stepagrHead (.imm 2) none) fun m => m.isSome) = true ∧
      (meets ((noLane (grouped [] none)).stepagrHead (.imm 2) (some (.imm 5))) fun m => m.isSome) = true) ∧
    ({ exported false .run with who := .sprig 0 }.inSprig = true) ∧
    (ahead.inSprig = false ∧ ahead.srcTag countTag (.imm 1) = .ok () ∧ (setS ahead 6 .addr 0).srcTag addrTag (.s 6) = .ok () ∧
      ahead.ahead = true) ∧
    (inTx.inSprig = false ∧ inTx.srcTag addrTag (.s 6) = .ok () ∧ inTx.ahead = false ∧ inTx.cur.tx.isSome = true) := by
  and_intros <;> first | decide +kernel | exact passed (by decide +kernel) | exact bar_ok _ _ (by decide +kernel)

/-- `withHandler` with one lane active, and no handler. -/
def trapping : State := withHandler 0 0x40

theorem witness_TrapEntry : trapping.who = .split 0 ∧ trapping.cur.frame = none ∧ trapping.cur.tx = none ∧
    trapping.cur.pending = [] ∧ trapping.cur.due = none ∧ (Trap.of 7).tx = false ∧ (Trap.of 7).cause ≠ 4 ∧ awaySector (Trap.of 7).cause = none ∧ trapping.thread.park ≠ .rendezvous ∧ trapping.const trapping.cur 7 52 ≠ 0 ∧
    trapping.counted.landing trapping.cur (trapping.const trapping.cur 7 52) = true := by
  and_intros <;> decide +kernel

theorem witness_FatalTraps : handling.cur.tx = none ∧ handling.cur.pending = [] ∧ handling.cur.frame.isSome = true ∧
    handling.who = .handler ∧ demo.cur.tx = none ∧ demo.cur.pending = [] ∧ demo.cur.frame = none ∧ demo.const demo.cur 7 52 = 0 ∧
    handling.thread.park ≠ .rendezvous ∧ demo.thread.park ≠ .rendezvous ∧ handling.cur.due = none ∧ demo.cur.due = none ∧
    demo.stopBase = none ∧ (withHandler 0x1000 0).stopBase.isSome = true ∧ (withHandler 0x1000 0).cur.due = none ∧
    (withHandler 0 0x80).counted.fetchAway (withHandler 0 0x80).cur ((withHandler 0 0x80).const (withHandler 0 0x80).cur 7 52) = none ∧
    (withHandler 0 0x80).counted.landing (withHandler 0 0x80).cur ((withHandler 0 0x80).const (withHandler 0 0x80).cur 7 52) = false := by
  and_intros <;> decide +kernel

theorem witness_TrapReturnRestores : (holds handling.cur.frame fun f => decide (f.from_ = .split 0) && decide (f.saved.length = 4)) = true ∧
    handling.who = .handler ∧ 64 ≤ handling.cur.file.sregs.length := by
  and_intros <;> decide +kernel

/-- Context 0 changed. -/
def withCtx (f : Ctx → Ctx) : State := addrs.setCtx 0 (f (addrs.ctx 0))
/-- Context 0 with a plate in slot 15 of one WRITE node that follows nothing, and a kick of it that has been read `n` times. -/
def onePlate : Plate := ⟨0, false, true, some 3, 0, [⟨3, [], 0, 0⟩], false⟩
def plated (f : Plate → Plate) (kicks : List Kick) : State :=
  withCtx fun c => { c with plates := c.plates.set 15 (f onePlate), kicks := kicks }

theorem witness_SlotEventsComplete :
    (addrs.frozenFn 0 = false ∧ { addrs with aborting := [0] }.frozenFn 0 = true ∧ addrs.ownerOf 0 = 0 ∧ State.reset.frozenFn 0 = false) ∧
    (511 < 512 ∧ ((0x10 : Byte).extractLsb' 0 5).toNat ≤ 16 ∧ (State.reset.ctx 511).state = .off ∧
      ((List.range 512).filter fun k => (State.reset.ctx k).owner == (0x10 : Byte).extractLsb' 0 5 && k != 511).length < 64) ∧
    ((addrs.ctx 0).state = .run ∧ (addrs.ctx 0).bump = false) ∧
    (let s := withCtx fun c => { c with state := .frozen }; (s.ctx 0).state = .frozen ∧ (s.ctx 0).bump = false ∧ s.frozenFn 0 = false) ∧
    ((withCtx fun c => { c with state := .tearing }).ctx 0).state = .tearing ∧ ((withCtx fun c => { c with bump := true }).ctx 0).bump = true ∧
    (let s := withCtx fun c => { c with state := .tearing, bump := true };
      s.asidBusy (s.ctx 0).asid = false ∧ (s.tryBump (s.ctx 0).asid).isSome = true ∧ (s.ctx 0).state = .tearing ∧
      (s.ctx 0).bump = true) := by
  and_intros <;> decide +kernel

theorem witness_EnableMovesContexts : (State.reset.ctx 0).state = .off ∧ (addrs.ctx 0).state = .run ∧
    ((withCtx fun c => { c with state := .frozen }).ctx 0).state = .frozen ∧
    ((withCtx fun c => { c with state := .tearing }).ctx 0).state = .tearing := by and_intros <;> decide +kernel

theorem witness_PlateAndKickEventsComplete :
    (let t := addrs.openPlate 0 15 (plateAddr 0x1001);
      (addrs.plate 0 15).valid = false ∧ (addrs.plate 0 15).releasing = false ∧ 15 < (addrs.ctx 0).plates.length ∧
      t.heldAny (t.plateSectors 0 (plateAddr 0x1001).toNat) (.plateRegister 0 15 0x1001) = none) ∧
    (let s := plated (fun p => { p with valid := false, releasing := true }) [];
      (s.plate 0 15).releasing = true ∧ s.slotBusy 0 15 = false ∧ (s.plate 0 15).entry = some 3) ∧
    (let s := plated id (List.replicate 63 ⟨0, 0, 0, false⟩);
      (s.ctx 0).enable = true ∧ (s.ctx 0).state = .run ∧ (s.plate 0 (kickSlot 0x40F)).valid = true ∧ (s.ctx 0).kicks.length < 64) ∧
    (let k : Kick := ⟨0x40F, 0, 0, false⟩; let s := plated id [k];
      s.headKick 0 15 = some k ∧ s.serves 0 = true ∧ (s.plate 0 15).valid = true ∧ (s.plate 0 15).entry.isSome = true ∧
      s.heldAny (s.kickSectors 0 k) (.kickValidate 0 15) = none) ∧
    (let k : Kick := ⟨0x40F, 1, 0, false⟩; let s := plated id [k];
      s.headKick 0 15 = some k ∧ s.heldAny (s.kickSectors 0 k) (.kickRetry 0 15) = none) ∧
    (let s (running : Bool) (started done : List Nat) : State :=
        { plated id [] with impressions := [(7, ⟨0, 15, 0, 0, [], running, started, done⟩)] };
      ((s false [] []).impressions.find? fun e => e.2.ctx = 0 ∧ e.2.slot = 15) = some (7, ⟨0, 15, 0, 0, [], false, [], []⟩) ∧
      (s false [] []).serves 0 = true ∧
      (holds (NMap.get? (s true [] []).impressions 7) fun x => x.running && !x.started.contains 0) = true ∧
      (((s true [] []).plate 0 15).nodes[0]?).isSome = true ∧ predsIn ((s true [] []).plate 0 15).nodes 0 = [] ∧
      (holds (NMap.get? (s true [0] []).impressions 7) fun x => x.started.contains 0 && !x.done.contains 0) = true ∧
      (holds (NMap.get? (s true [0] [0]).impressions 7) fun x => decide (x.done.length = ((s true [0] [0]).plate 0 15).nodes.length)) = true) := by
  and_intros <;> decide +kernel

theorem witness_DroppedKicksAreRecorded :
    (State.reset.ctx 0).enable = false ∧ ((withCtx fun c => { c with state := .frozen }).ctx 0).state ≠ .run ∧
    (addrs.plate 0 (kickSlot 0x40F)).valid = false ∧
    (let s := plated id (List.replicate 64 ⟨0, 0, 0, false⟩);
      (s.ctx 0).enable = true ∧ (s.ctx 0).state = .run ∧ (s.plate 0 (kickSlot 0x40F)).valid = true ∧ 64 ≤ (s.ctx 0).kicks.length) := by
  and_intros <;> decide +kernel

/-- A task of context 0 to be placed; a wave that waits in AWAIT since 65,536 cycles while a task fits nowhere. -/
def task (blocks : Nat) : Item := ⟨3, 0, 0, 0, 0, none, none, 0x40, 0, 1, none, ⟨blocks, 0, 0, 0⟩, [], 0, 0, 0, []⟩
def awaiting (stage : Stage) : State :=
  onWave { addrs with cycle := 65536, items := [task 1000] } fun w =>
    { w with stage := stage, splits := [(0, { Thread.blank with mask := -1, park := .await .hit })] }
/-- A launch all of whose work is done. -/
def overLaunch : State := { addrs with launches := [(0, { demoLaunch with outstanding := 0, record := List.replicate 128 0 })] }

theorem witness_LaunchEventsComplete :
    (let s := { addrs with tickets := [(4, ⟨0, none, 0x100000, none, none, some 0, some 0⟩)] };
      (holds (NMap.get? s.tickets 4) fun t => s.serves t.ctx &&
        (s.heldIO (s.ticketSectors t).1 (s.ticketSectors t).2 .outside (.launchAccept 4)).isNone) = true) ∧
    (let s := { addrs with items := [task 1] }; s.headItem 0 = some (task 1) ∧ (s.placeItem (task 1)).isSome = true) ∧
    (let s := onWave landings fun w => { w with stage := .placed, splits := [(0, { Thread.blank with mask := -1, pc := ⟨0x40, 0⟩ })] };
      (holds (s.wave? 1) fun x => x.stage == .placed &&
        (let t := (s.setWave { x with stage := .running, sys := { x.sys with pts := s.gt } }).select 1 (.split 0);
        (t.startFault t.cur).isNone)) = true) ∧
    (let s := onWave addrs fun w => { w with stage := .retiring }; (holds (s.wave? 1) fun x => x.stage == .retiring && s.retirable x) = true) ∧
    (let s := overLaunch; (holds (NMap.get? s.launches 0) fun x => x.outstanding == 0 && x.unplaced == 0 && (s.ctx x.ctx).state == .run &&
      (s.heldWrite (s.frontSectors x.ctx (w64 (x.field 0x20 8)).toNat (if w64 (x.field 0x20 8) = 0 then 0 else 8) .wr) .outside
        (.launchComplete 0)).isNone) = true) ∧
    (let s := awaiting .running; (holds (s.wave? 1) fun x => s.maySwap x && (s.heldWrite x.privSectors (.wave 1) (.waveSwapOut 1)).isNone &&
      ((s.settleMemory x).wave? 1).isSome) = true) ∧
    (let s := awaiting .swapped; (holds (s.wave? 1) fun x => x.stage == .swapped && s.someHolds x && s.swapFits x) = true) ∧
    addrs.cur.stage ≠ .none := by
  and_intros <;> decide +kernel

/-- A lease request of cluster 0 for two words at 0x14400. -/
def lease : LeaseReq := ⟨0, 0x144, 0, 1, 3, 3, 0, 1, 5, 10, 1, none, 3, 0, none, 0, false, false⟩
/-- The sector of 0x14400 as `x`. -/
def sectorAt (x : Sector) : State := { demo with sectors := [(0x14400 / 32, x)] }

theorem witness_CacheEventsComplete :
    (atomQueued ((demo.cluster 0).queue.filter fun q => !q.sent) .device (lease.frame * 256 + 8 * lease.first)
      (8 * (lease.last + 1 - lease.first)) = false ∧ lease.want ≠ 0 ∧
      { lease with want := 0 }.want = 0 ∧ demo.heldAny (wordSectors lease.frame (demo.wanted lease)) (.leaseRequest lease) = none) ∧
    (((storing.cluster 0).queue.all fun q => (storing.unsent 0 q.id).isSome && decide (q.target = .device) &&
        !storing.sealRefuses q.wave q.va q.target q.pa q.bytes && (storing.heldWrite [q.pa / 32] (.wave q.wave) (.homeStore 0 q.id)).isNone &&
        ((storing.cluster 0).queue.find? (fun r => r.id == q.id)).isSome) = true ∧ (storing.cluster 0).queue ≠ []) ∧
    (let s := { sectorAt ⟨0, 0, 0, 0, 1, 0, 0, some ⟨.tick, 1, 0, 0, []⟩⟩ with time := micros 2000 };
      (holds (s.sector (0x14400 / 32)).busy fun b => decide (b.since + micros 2000 ≤ s.time)) = true) ∧
    0x80 ≤ ((sectorAt ⟨0, 0, 0, 0, 0, 0x80, 0, none⟩).sector (0x14400 / 32)).owner.toNat ∧
    ((NMap.get? quad.teams 0).isSome = true ∧ ((quad.cluster 0).stash.any fun f => f.team == 0 && f.va == 4 && f.frame == 0x144) = false ∧
      quad.heldTell (sectorsOf (0x144 * 256) 256) (fun k => (quad.sector k).sharers) (.stashFill 0 0 ⟨4, 0x144⟩ true) = none) ∧
    demo.heldTell (sectorsOf (0x144 * 256) 256) (fun k => (demo.sector k).sharers) (.l2Evict 0x144) = none ∧
    (let u : MillUpdate := ⟨6, 1, .split 0, -1, 0x14400, 0x400, .add, .n64, 1⟩; let s := { demo with mills := [u] };
      s.mills.find? (fun u => u.id == 6) = some u ∧ s.millFirst u = u ∧
      s.sealRefuses u.wave (some u.va) .device u.pa 1 = false ∧ s.heldWrite [u.pa / 32] .outside (.millUpdate u.id) = none) ∧
    (let s := { demo with sealTable := [(5, ⟨7, 0, 0, 0, 0x1000, 256, true, false⟩)] };
      (holds (NMap.get? s.sealTable 5) fun x => x.opening) = true) := by
  and_intros <;> decide +kernel

/-- An access to the last sector of device memory. -/
def last : Nat := deviceBytes - 32

theorem witness_OutsideEventsComplete :
    (inDevice last 32 = true ∧ inDevice last 33 = false ∧ inDevice (32 * (last / 32)) 32 = true) ∧
    ({ demo with aborting := [35] }.aborting.contains (outsideKey (.peer 3)) = true ∧ demo.aborting.contains (outsideKey (.peer 3)) = false ∧
      demo.sealedPa last 32 = false ∧ demo.heldWrite (sectorsOf last 32) .outside (.hostPeerWrite (.host 0) last (List.replicate 32 0)) = none ∧
      { demo with poison := [last / 32] }.poisonedIn last 32 = true ∧ demo.poisonedIn last 32 = false ∧
      demo.heldAny (sectorsOf last 32) (.hostPeerRead (.host 0) last 32) = none ∧
      demo.heldTell [last / 32] (fun k => (demo.sector k).sharers &&& ~~~outsideBit (.peer 3)) (.hostPeerOwnRequest (.peer 3) (last / 32)) = none ∧ demo.poison.contains (last / 32) = false) ∧
    (let s := sealedAt (words addrs 0x1000 [1]) [0] 0x1000; s.sealedPa 0x15000 8 = true ∧ s.aborting.contains (outsideKey (.host 0)) = false) ∧
    inDevice (32 * (last / 32 + 1)) 32 = false := by
  and_intros <;> decide +kernel

theorem witness_HomeWritesAreVisible :
    demo.mem.wf = true ∧ demo.hostMem.wf = true ∧ demo.peerMem = [] ∧ demo.stashOf (0x1441E / 256) = none ∧
    0x1441E % 32 + [(1 : Byte), 2].length ≤ 32 ∧ demo.poison.contains (0x1441E / 32) = false ∧
    { demo with poison := [0x1441E / 32] }.poison.contains (0x1441E / 32) = true := by
  and_intros <;> decide +kernel

/-- A wave with a result for v63 that has come, and with a trap that is due. -/
def resulting : State := onWave addrs fun w => { w with
  pending := [⟨9, .split 0, -1, [⟨.v 63, 5, List.replicate 32 7, [], none⟩], 1, false, [], none⟩], due := some (.split 0, ⟨0, 0⟩, Trap.of 7) }
def dueTrap : State := onWave addrs fun w => { w with due := some (.split 0, ⟨0, 0⟩, Trap.of 7) }
/-- Entry 0 of the reconvergence table, at which the one split waits. -/
def joined : State := onWave addrs fun w => { w with
  recs := [(0, ⟨0x40, -1, -1, none, 0, 0, [], some 0, false, []⟩)], joins := 1,
  splits := [(0, { Thread.blank with mask := -1, park := .join 0, stack := [0] })] }

theorem witness_WaveEventsComplete :
    (holds (resulting.wave? 1) fun x => (x.readyResult 9).isSome) = true ∧
    (let s := exported false .run; (holds (s.wave? 1) fun x => holds (NMap.get? x.sprigs 0) fun p =>
      !p.recalled && !p.held.contains (.v 127)) = true) ∧
    (let s := exported true .run; (holds (s.wave? 1) fun x => holds (NMap.get? x.sprigs 0) fun p =>
      p.recalled && s.mayReexport x 0 && p.th.park != .join 0 && (s.nibFor x.cluster p.lines).isSome) = true) ∧
    (let s := exported false (.join 0); (holds (s.wave? 1) fun x => holds (NMap.get? x.sprigs 0) fun p =>
      p.th.park == .join 0 && x.stage == .running && !x.pending.any (fun q => q.who == .sprig 0)) = true) ∧
    (holds (joined.wave? 1) fun x => holds (NMap.get? x.recs 0) fun r => x.mergeReady 0 r && x.frame.isNone && x.due.isNone &&
      x.stage == .running && (x.merge 0 r joined.cycle.toNat).isSome && !r.uneven) = true ∧
    ((holds (dueTrap.wave? 1) fun x => x.due.isSome && dueTrap.trapReady x && x.stage == .running) = true ∧
      (dueTrap.select 1 (.split 0)).trapHeld = none) ∧
    (holds (handling.wave? 1) fun x => x.frame.isSome && x.due.isNone && x.stage == .running) = true ∧
    (holds ((grouped [] none).wave? 1) fun x => x.frame.isNone && x.due.isNone && x.stage == .running &&
      holds (((grouped [] none).takeToken x 2 4).wave? 1) fun y => y.tokens.isEmpty) = true := by
  and_intros <;> decide +kernel

theorem witness_MergesAndResults :
    (holds (NMap.get? joined.cur.recs 0) fun r => (joined.cur.merge 0 r 0).isSome && decide ((joined.cur.waitingAt 0).head?.isSome)) = true ∧
    (resulting.cur.pending.all fun p => p.who == .split 0 && decide (p.regs.length = 1) && !p.ahead) = true ∧
    resulting.cur.pending ≠ [] ∧ 63 < resulting.cur.file.vregs.length ∧ resulting.cur.sprigs = [] := by
  and_intros <;> decide +kernel

/-- All links are peer 13's, and none has worked for 2 ms. -/
def lonely : State := { demo with linkOwners := (List.range 24).map fun l => (l, 13), linksDown := (List.range 24).map fun l => (l, 0), time := micros 2000 }

theorem witness_DeviceEventsComplete :
    NMap.get? demo.linksDown 0 = none ∧ lonely.lostPeers.contains 13 = false ∧ lonely.peerDead 13 = true ∧ demo.throttle < 13 ∧ demo.cur.stage ≠ .none ∧
    0 < { demo with throttle := 1 }.throttle := by and_intros <;> decide +kernel

/-- Context 0 with nothing in it and an area at 0x1000 of `n` bytes; `k` is the command under way. -/
def areaOf (s : State) (n k : Nat) : State :=
  s.setCtx 0 { s.ctx 0 with pre := { (s.ctx 0).pre with area := 0x1000, size := w64 n, job := k, state := if k = 0 then 0 else 1, target := 0x1000 } }
def emptyCtx : State := { addrs with cur := Wave.blank, launches := [] }

theorem witness_SaveAndRestoreComplete :
    ((areaOf emptyCtx 256 1).ctx 0).pre.state = 1 ∧
    (((areaOf emptyCtx 256 0).ctx 0).pre.state ≠ 1 ∧ (State.reset.ctx 0).pre.state ≠ 1 ∧ (State.reset.ctx 0).state ≠ .run) ∧
    (let s := areaOf emptyCtx 255 0; (s.ctx 0).state = .run ∧ (s.ctx 0).pre.size.toNat < (s.offsets (s.roster 0)).getD 5 0) ∧
    (let s := areaOf emptyCtx 256 0; (s.offsets (s.roster 0)).getD 5 0 ≤ (s.ctx 0).pre.size.toNat) ∧
    (let s := areaOf emptyCtx 256 1; (s.ctx 0).pre.job = 1 ∧ s.quiet 0 = true ∧
      s.heldWrite (s.frontSectors 0 (s.ctx 0).pre.target.toNat ((s.offsets (s.roster 0)).getD 5 0) .wr ++ s.savedWords 0) .outside
        (.saveComplete 0) = none) ∧
    (let s := areaOf emptyCtx 256 0; s.holdsNone 0 = true ∧
      s.heldAny (s.frontSectors 0 (s.ctx 0).pre.area.toNat 256 .rd) (.restore 0) = none ∧
      (holds (s.frontRead 0 (s.ctx 0).pre.area.toNat 256) fun h => !areaHeadOk h (s.ctx 0).pre.size.toNat) = true) ∧
    (let s := words (areaOf emptyCtx 256 0) 0x1000 [0x100039D1C, 0, 0, 0, 0x100, 0x100, 0x100, 0x100, 0x100, 0x100];
      (holds (s.frontRead 0 (s.ctx 0).pre.area.toNat 256) fun h => areaHeadOk h (s.ctx 0).pre.size.toNat &&
        (s.heldAny (s.frontSectors 0 (s.ctx 0).pre.area.toNat (recField h 0x48 8) .rd) (.restore 0)).isNone &&
        (s.frontRead 0 (s.ctx 0).pre.area.toNat (recField h 0x48 8)).isSome) = true) ∧
    (let s := areaOf emptyCtx 256 2; (s.ctx 0).pre.job = 2 ∧ (s.ctx 0).state = .run) := by
  and_intros <;> decide +kernel

/-- The demonstration wave with NOP where it fetches next. -/
def stepping : State := demo.withFetchWord 32 0

theorem witness_StepRunsDecoded :
    (holds { State.reset with agenda := [.tick] }.nextEvent fun x => decide (x.1 = .tick)) = true ∧
    (State.reset.nextEvent = none ∧ State.reset.choose = none) ∧
    (stepping.nextEvent = none ∧ (holds stepping.choose fun t =>
      let u := t.setThread (t.thread.resume t.cycle.toNat)
      meets u.nextPacket fun p =>
        let v := (u.keepPacket p).chooseTable
        let w := pktWord p v.thread.pc.slot
        u.rest.isNone && !pktBad p && ((u.keepPacket p).joinAt p).isNone && !w.getLsbD 31 &&
          templateValid (v.template (w.extractLsb' 23 7).toNat) &&
          decide (decode ((w.extractLsb' 23 7).toNat == 6) (v.template (w.extractLsb' 23 7).toNat) w = some .nop) &&
          decide (v.thread.pc.slot = 0)) = true) ∧
    (let s := demo.withFetchWord 64 0x80000000; s.nextEvent = none ∧ (holds s.choose fun t => match t.plan with
      | .group p slots u => decide (slots.length = 2) && meets ({ u.chooseTable with issue := { u.issue with slot := 0 } }.wordAt p 0 false)
          (fun i => decide (i = .nop)) && after (runGroup p slots false u) fun v => v.issue.stop.isNone && v.issue.cut.isNone
      | _ => false) = true) := by
  and_intros <;> decide +kernel

theorem witness_DecodingInvertsEncoding :
    Instr.wf (.mul ⟨.n32, false, some 1, .v 127, .u (.imm (-16)), .u (.lit 3)⟩) = true ∧
    (encode 127 (.mul ⟨.n32, false, some 1, .v 127, .u (.imm (-16)), .u (.lit 3)⟩)).isSome = true ∧
    (encode 6 (.sgetFixed 63 0xFFF)).isSome = true ∧
    (decode false 0x7330_0000_FF00_0000 0x040A0446).isSome = true := by and_intros <;> decide +kernel

theorem witness_MemoriesStayCanonical : stepping.mem.wf = true ∧ stepping.hostMem.wf = true ∧ stepping.peerMem = [] ∧
    after (step stepping) (fun _ => true) = true := by and_intros <;> decide +kernel

/-- A group of two words, NOP and BRK 7, of which the second traps. -/
def twoWords : State := trapping.withFetchWord 64 (0x0207C0C0 * 2 ^ 32 + 0x80000000)

theorem witness_GroupsAreExact :
    (holds twoWords.choose fun t => match t.plan with
      | .group p slots s => s.issue.multi && after (runGroup p slots false s) fun t => holds t.issue.stop fun x => x.1 == 1 && match x.2 with
        | .trap _ => true
        | _ => false
      | _ => false) = true ∧
    (trapping.who = .split 0 ∧ (Trap.of 7).resume = none ∧ (Trap.of 7).cause ≠ 4) := by and_intros <;> decide +kernel

theorem witness_FaultsByName :
    (templateValid (demo.template 40) = false ∧ templateValid (demo.template 1) = true ∧
      templateValid (demo.template 5) = true ∧ decode false (demo.template 5) 0x0280C0C1 = none) ∧
    (let s := onWave demo fun w => { w with held := 1 }; (s.destOk (.v 16) && [Operand.v 15, .v 0].all s.opOk) = false) ∧
    ((floats.destOk (.v 3) && [Operand.v 1, .v 2].all floats.opOk) = true ∧
      floats.tagsIn (intTag .n32) [.v 1, .v 2] = .error (tagFault .f32)) ∧
    countTag (floats.sreg (3 : BitVec 6).toNat).tag = false ∧ 0x1001 % Nat.min 2 8 ≠ 0 ∧ 0x1008 % Nat.min 16 8 = 0 ∧
    (let s := setS addrs 6 .addr 0x401; let f := load (.s 5);
      s.destOk f.d = true ∧ s.opOk f.a = true ∧ s.opOk f.b = true ∧ s.pairOk f.sz f.d = true ∧
      s.addrTags f.space f.a f.b = .ok () ∧ s.txSpace f.space = .ok () ∧ s.ldLanes f ≠ [] ∧ s.cur.tx = none ∧
      (match s.ldAccesses f with
        | .error tr => decide (tr.cause = 3)
        | .ok _ => false) = true) := by
  and_intros <;> first | decide +kernel | exact passed (by decide +kernel) | rfl

theorem witness_RegisterInstructionsKeepTheRest :
    (Instr.registerDests (.add ⟨.i16, true, none, .v 2, .v 1, .v 1⟩)).isSome = true ∧
    after (exec (.add ⟨.i16, true, none, .v 2, .v 1, .v 1⟩) seqV1) (fun _ => true) = true := by and_intros <;> decide +kernel

theorem witness_SlotEndKeepsTheRest : demo.issue.transfer = none ∧ demo.threadExists ∧
    ({ demo with issue := { demo.issue with marker := true } }).issue.transfer = none :=
  ⟨rfl, by change (NMap.get? demo.cur.splits 0).isSome = true; decide +kernel, rfl⟩

end Sys2Proof.Tests
end

section
/-! PROOF. The events of plates, kicks and impressions (02 R44 to R51; 03 R62 to R66; 20 R396): what each operation of
Machine/Plates.lean writes and leaves, and the statement O51 about all of them. -/

namespace Sys2Proof.Machine

/-! Events, requests and folds. -/

theorem State.event_eq_counted (s : State) : s.event = .next s.counted := rfl

/-- A request of a function that is not frozen takes effect (03 R76). -/
theorem State.event_request_of_served {s : State} {fn : Nat} (h : s.frozenFn fn = false) (t : State) :
    (s.request fn t).event = .next t.counted := by
  simp [State.request, h, State.event_eq_counted]

theorem exec_plateRegister_of_served {s : State} {n : Nat} (h : s.frozenFn (s.ownerOf n) = false) (p : Nat) (v : W64) :
    exec (.plateRegister n p v) s = .next (s.writeValid1 n p v).counted := State.event_request_of_served h _

theorem exec_plateUnregister_of_served {s : State} {n : Nat} (h : s.frozenFn (s.ownerOf n) = false) (p : Nat) (v : W64) :
    exec (.plateUnregister n p v) s = .next (s.writeValid0 n p v).counted := State.event_request_of_served h _

theorem exec_kick_of_served {s : State} {n : Nat} (h : s.frozenFn (s.ownerOf n) = false) (v : W64) :
    exec (.kick n v) s = .next (s.writeKick n v).counted := State.event_request_of_served h _

/-- What posting an event leaves, posting a list of events leaves. -/
theorem State.foldl_postOnce_keeps {α β : Type} (part : State → β) (h : ∀ s i, part (s.postOnce i) = part s)
    (ev : α → Instr) (xs : List α) (s : State) : part (xs.foldl (fun s k => s.postOnce (ev k)) s) = part s := by
  induction xs generalizing s with
  | nil => rfl
  | cons k rest ih => exact (ih _).trans (h s (ev k))

/-! Plate registers. -/

theorem State.plate_setCtx (s : State) (n p : Nat) (c : Ctx) : (s.setCtx n c).plate n p = c.plates.getD p Plate.reset := by
  simp [State.plate]

theorem State.plate_setPlate (s : State) (n p : Nat) (x : Plate) (h : p < (s.ctx n).plates.length) :
    (s.setPlate n p x).plate n p = x := by
  simp [State.setPlate, State.plate_setCtx, h]

theorem State.plates_length_setPlate (s : State) (n p : Nat) (x : Plate) :
    ((s.setPlate n p x).ctx n).plates.length = (s.ctx n).plates.length := by
  simp [State.setPlate]

/-! The release of a plate's seal (03 R62, 17 R337). -/

/-- Freeing an entry changes nothing but the seal table, the waves and the agenda. -/
theorem State.freeSeal_keeps {β : Type} (part : State → β) (hpost : ∀ s i, part (s.postOnce i) = part s)
    (htable : ∀ (s : State) m f, part ({ s with sealTable := m }.mapWaves f) = part s) (s : State) (e : Nat) :
    part (s.freeSeal e) = part s := by
  unfold State.freeSeal
  split
  · exact (State.foldl_postOnce_keeps part hpost id _ _).trans (htable s _ _)
  · rfl

@[simp] theorem State.freeSeal_mem (s : State) (e : Nat) : (s.freeSeal e).mem = s.mem :=
  State.freeSeal_keeps State.mem State.postOnce_mem (fun _ _ _ => rfl) s e
@[simp] theorem State.freeSeal_clusters (s : State) (e : Nat) : (s.freeSeal e).clusters = s.clusters :=
  State.freeSeal_keeps State.clusters State.postOnce_clusters (fun _ _ _ => rfl) s e
@[simp] theorem State.freeSeal_ctxs (s : State) (e : Nat) : (s.freeSeal e).ctxs = s.ctxs :=
  State.freeSeal_keeps State.ctxs State.postOnce_ctxs (fun _ _ _ => rfl) s e

/-- An entry that is still in the table after it could be freed is as it was. -/
theorem State.get_sealTable_freeSeal {s : State} {e : Nat} {y : SealEntry}
    (h : NMap.get? (s.freeSeal e).sealTable e = some y) : NMap.get? s.sealTable e = some y := by
  unfold State.freeSeal at h
  split at h
  · have hfold := State.foldl_postOnce_keeps State.sealTable State.postOnce_sealTable id
    simp only [id] at hfold
    simp [hfold] at h
  · exact h

/-- The seal entry `e` marked as opening since `now`, where the table has it. -/
def openingEntry (m : NMap SealEntry) (e now : Nat) : NMap SealEntry :=
  match NMap.get? m e with
  | some y => NMap.set m e { y with opening := true, since := now }
  | none => m

theorem opening_of_openingEntry {m : NMap SealEntry} {e now : Nat} {y : SealEntry}
    (h : NMap.get? (openingEntry m e now) e = some y) : y.opening = true := by
  unfold openingEntry at h
  cases hm : NMap.get? m e with
  | some z =>
    simp only [hm, nmap_get_set, Option.some.injEq] at h
    rw [← h]
  | none => simp [hm] at h

/-- A cluster without the blocks tagged with the entry `e`. -/
def Cluster.dropTagged (e : Nat) (k : Cluster) : Cluster := { k with blocks := k.blocks.filter fun b => b.sealTag != some e }

/-- The release of a seal that waits for it: its entry opens, no block and no reply is tagged with it, and it is freed where
nothing uses it. -/
theorem State.releasePlate_of_waiting {s : State} {n p e : Nat} (hrel : (s.plate n p).releasing = true)
    (hbusy : s.slotBusy n p = false) (he : (s.plate n p).entry = some e) :
    s.releasePlate n p =
      ((({ s with sealTable := openingEntry s.sealTable e s.cycle.toNat,
                  clusters := s.clusters.map fun (c : Nat × Cluster) => (c.1, c.2.dropTagged e) }.untag e).setPlate n p
        { s.plate n p with releasing := false, entry := none, nodes := [] }).freeSeal e) := by
  simp only [State.releasePlate, hrel, hbusy, he, Bool.not_true, Bool.or_self, Bool.false_eq_true, if_false]
  rfl

/-- A seal that does not wait for its release, or whose plate some impression still uses, is kept. -/
theorem State.releasePlate_of_kept {s : State} {n p : Nat} (h : (s.plate n p).releasing = false ∨ s.slotBusy n p = true) :
    s.releasePlate n p = s := by
  rcases h with h | h <;> simp [State.releasePlate, h]

theorem State.plates_length_releasePlate (s : State) (n p : Nat) :
    ((s.releasePlate n p).ctx n).plates.length = (s.ctx n).plates.length := by
  cases hrel : (s.plate n p).releasing with
  | false => rw [State.releasePlate_of_kept (.inl hrel)]
  | true => cases hbusy : s.slotBusy n p with
    | true => rw [State.releasePlate_of_kept (.inr hbusy)]
    | false => cases he : (s.plate n p).entry with
      | none => simp [State.releasePlate, hrel, hbusy, he]
      | some e =>
        rw [State.releasePlate_of_waiting hrel hbusy he]
        simp only [State.ctx, State.freeSeal_ctxs]
        exact State.plates_length_setPlate _ n p _

/-- PLATE_SEAL_RELEASE where the impressions have finished. -/
theorem plateSealRelease_completes {s : State} {n p e : Nat} (hrel : (s.plate n p).releasing = true)
    (hbusy : s.slotBusy n p = false) (he : (s.plate n p).entry = some e) :
    ∃ t : State, exec (.plateSealRelease n p) s = .next t ∧ t.mem = s.mem ∧
      (∀ y, NMap.get? t.sealTable e = some y → y.opening = true) ∧
      ∀ c ∈ t.clusters, ∀ b ∈ c.2.blocks, b.sealTag ≠ some e := by
  refine ⟨(s.releasePlate n p).counted, rfl, ?_, ?_, ?_⟩ <;> rw [State.releasePlate_of_waiting hrel hbusy he]
  · exact State.freeSeal_mem _ e
  · exact fun y hy => opening_of_openingEntry (State.get_sealTable_freeSeal hy)
  · intro c hc b hb
    rw [State.counted_clusters, State.freeSeal_clusters] at hc
    obtain ⟨c₀, _, rfl⟩ := List.mem_map.1 hc
    simpa using (List.mem_filter.1 hb).2

/-! Registration (02 R46, 03 R62). -/

/-- A plate register opened holds ADDR while the plate is read. -/
theorem State.plate_openPlate (s : State) (n p : Nat) (addr : W64) (h : p < (s.ctx n).plates.length) :
    (s.openPlate n p addr).plate n p = { Plate.reset with addr := addr, valid := true } :=
  State.plate_setPlate _ n p _ (by rwa [State.plates_length_releasePlate])

/-- A write of VALID 1 that the device takes and whose sectors are free reads and registers the plate at once. -/
theorem State.writeValid1_registers {s : State} {n p : Nat} {v : W64} (hvalid : (s.plate n p).valid = false)
    (hfree : (s.plate n p).releasing = false ∨ s.slotBusy n p = false) (hp : p < 16) (hlen : p < (s.ctx n).plates.length)
    (hheld : (s.openPlate n p (plateAddr v)).heldAny
      ((s.openPlate n p (plateAddr v)).plateSectors n (plateAddr v).toNat) (.plateRegister n p v) = none) :
    s.writeValid1 n p v = ((s.openPlate n p (plateAddr v)).touchSectors
      ((s.openPlate n p (plateAddr v)).plateSectors n (plateAddr v).toNat) false).registerPlate n p (plateAddr v) := by
  have htaken : ((s.plate n p).releasing && s.slotBusy n p) = false := by
    rcases hfree with h | h <;> simp [h]
  simp only [State.writeValid1, hvalid, htaken, Bool.false_and, Bool.or_self, Bool.false_or, decide_eq_true_eq,
    Nat.not_le.2 hp, Bool.false_eq_true, if_false, State.plate_openPlate s n p _ hlen, hheld, Option.getD_none]

/-! Kicks (03 R63 to R66). -/

/-- A kick that nothing refuses is queued last. -/
theorem State.writeKick_queues {s : State} {n : Nat} {v : W64} (hen : (s.ctx n).enable = true) (hrun : (s.ctx n).state = .run)
    (hvalid : (s.plate n (kickSlot v)).valid = true) (hroom : (s.ctx n).kicks.length < 64) :
    ∃ t : State, s.writeKick n v = t.postOnce (.kickValidate n (kickSlot v)) ∧
      t.ctx n = { s.ctx n with kickReg := v, kicks := (s.ctx n).kicks ++ [⟨v, 0, 0, false⟩] } := by
  refine ⟨_, ?_, State.ctx_setCtx (s.setCtx n { s.ctx n with kickReg := v }) n _⟩
  simp only [State.plate] at hvalid
  simp only [State.writeKick, State.ctx_setCtx, State.plate_setCtx, hen, hrun, hvalid, Nat.not_le.2 hroom, bne_self_eq_false,
    Bool.not_true, Bool.or_self, Bool.false_eq_true, if_false]

/-- KICK where nothing refuses it. -/
theorem kick_completes {s : State} {n : Nat} {v : W64} (hfn : s.frozenFn (s.ownerOf n) = false)
    (hen : (s.ctx n).enable = true) (hrun : (s.ctx n).state = .run) (hvalid : (s.plate n (kickSlot v)).valid = true)
    (hroom : (s.ctx n).kicks.length < 64) : ∃ t : State, exec (.kick n v) s = .next t ∧
      (t.ctx n).kicks = (s.ctx n).kicks ++ [⟨v, 0, 0, false⟩] ∧ (t.ctx n).kickReg = v ∧
      (t.ctx n).kickNew = (s.ctx n).kickNew ∧ (t.ctx n).kickCode = (s.ctx n).kickCode := by
  obtain ⟨t, hkick, hctx⟩ := State.writeKick_queues hen hrun hvalid hroom
  have hfinal : ((t.postOnce (.kickValidate n (kickSlot v))).counted).ctx n =
      { s.ctx n with kickReg := v, kicks := (s.ctx n).kicks ++ [⟨v, 0, 0, false⟩] } := by
    simpa [State.ctx] using hctx
  refine ⟨_, (exec_kick_of_served hfn v).trans (by rw [hkick]), ?_⟩
  simp only [hfinal, and_self]

/-- A kick at the head of its slot's order whose plate is registered and whose sectors are free reads its header. -/
theorem State.stepKick_reads {s : State} {n p : Nat} {k : Kick} {ev : Instr} (hdead : k.dead = false)
    (hvalid : (s.plate n p).valid = true) (hentry : (s.plate n p).entry.isSome = true)
    (hheld : s.heldAny (s.kickSectors n k) ev = none) :
    s.stepKick n p k ev = (s.touchSectors (s.kickSectors n k) false).tryKick n p k := by
  have hentry' : (s.plate n p).entry.isNone = false := by simpa using hentry
  simp [State.stepKick, hdead, hvalid, hentry', hheld]

theorem exec_kickValidate_of_head {s : State} {n p : Nat} {k : Kick} (hhead : s.headKick n p = some k)
    (hserves : s.serves n = true) (hreads : k.reads = 0) :
    exec (.kickValidate n p) s = .next (s.stepKick n p k (.kickValidate n p)).counted := by
  change execKickValidate n p s = _
  simp [execKickValidate, hhead, hserves, hreads, State.event_eq_counted]

theorem exec_kickRetry_of_head {s : State} {n p : Nat} {k : Kick} (hhead : s.headKick n p = some k)
    (hserves : s.serves n = true) (hreads : k.reads ≠ 0) :
    exec (.kickRetry n p) s = .next (s.stepKick n p k (.kickRetry n p)).counted := by
  change execKickRetry n p s = _
  simp [execKickRetry, hhead, hserves, hreads, State.event_eq_counted]

/-! Impressions and their nodes (02 R47, R48). -/

/-- IMPRESSION_START of the oldest impression of a slot, which does not run yet. -/
theorem impressionStart_completes {s : State} {n p imp : Nat} {x : Impression}
    (hfind : s.impressions.find? (fun e => e.2.ctx = n ∧ e.2.slot = p) = some (imp, x)) (hidle : x.running = false)
    (hserves : s.serves n = true) : ∃ t : State, exec (.impressionStart n p) s = .next t ∧
      NMap.get? t.impressions imp = some { x with running := true } ∧ t.mem = s.mem := by
  have hstep : exec (.impressionStart n p) s = .next (State.counted
      (((List.range (s.plate n p).nodes.length).filter fun k => (predsIn (s.plate n p).nodes k).isEmpty).foldl
        (fun (t : State) k => t.postOnce (.nodeStart imp k))
        { s with impressions := NMap.set s.impressions imp { x with running := true } })) := by
    change execImpressionStart n p s = _
    simp only [execImpressionStart, hfind, hidle, hserves, Bool.not_true, Bool.or_self, Bool.false_eq_true, if_false,
      State.event_eq_counted]
  refine ⟨_, hstep, ?_, ?_⟩
  · rw [State.counted_impressions, State.foldl_postOnce_keeps State.impressions State.postOnce_impressions]
    exact nmap_get_set ..
  · exact State.foldl_postOnce_keeps State.mem State.postOnce_mem _ _ _

/-- NODE_START of a node whose predecessors are done. -/
theorem exec_nodeStart_of_ready {s : State} {imp k : Nat} {x : Impression} {nd : PlateNode}
    (himp : NMap.get? s.impressions imp = some x) (hnode : (s.plate x.ctx x.slot).nodes[k]? = some nd)
    (hrun : x.running = true) (hserves : s.serves x.ctx = true) (hnew : x.started.contains k = false)
    (hpreds : (predsIn (s.plate x.ctx x.slot).nodes k).all (fun i => x.done.contains i) = true) :
    exec (.nodeStart imp k) s = .next (s.startNode imp k x nd).counted := by
  change execNodeStart imp k s = _
  simp only [execNodeStart, himp, hnode, hrun, hserves, hnew, hpreds, Bool.not_true, Bool.or_self, Bool.false_eq_true,
    if_false, State.event_eq_counted]

/-- WRITE_NODE_DONE of a write node that has started and is not done. -/
theorem exec_writeNodeDone_of_started {s : State} {imp k : Nat} {x : Impression} {nd : PlateNode}
    (himp : NMap.get? s.impressions imp = some x) (hnode : (s.plate x.ctx x.slot).nodes[k]? = some nd) (hkind : nd.kind = 3)
    (hstarted : x.started.contains k = true) (hdone : x.done.contains k = false) (hrun : (s.ctx x.ctx).state = .run) :
    exec (.writeNodeDone imp k) s = .next (s.nodeDone imp k).counted := by
  change execWriteNodeDone imp k s = _
  simp only [execWriteNodeDone, himp, hnode, hkind, hstarted, hdone, hrun, Option.map_some, Option.getD_some,
    Bool.false_eq_true, not_false_eq_true, and_self, if_true, State.event_eq_counted]

/-! The end of an impression (20 R396). -/

/-- A plate that is looked at again changes at most the agenda. -/
theorem State.checkPlate_keeps {β : Type} (part : State → β) (h : ∀ s i, part (s.postOnce i) = part s) (s : State) (n p : Nat) :
    part (s.checkPlate n p) = part s := by
  unfold State.checkPlate
  split
  · exact h s _
  · rfl

/-- An MSI-X vector that is not masked goes out. -/
theorem State.sendVector_of_unmasked {s : State} {fn v : Nat} (h : s.msixMasked.contains (fn, v) = false) :
    s.sendVector fn v = s.send (.msix fn v) := by
  simp only [State.sendVector, h, Bool.false_eq_true, if_false]

/-- A masked vector sets its pending bit and stays. -/
theorem State.sendVector_of_masked {s : State} {fn v : Nat} (h : s.msixMasked.contains (fn, v) = true) :
    (s.sendVector fn v).outbox = s.outbox ∧ (fn, v) ∈ (s.sendVector fn v).msixPending := by
  simp only [State.sendVector, h, if_true, true_and]
  split
  · rename_i hpending
    simpa using hpending
  · simp

/-- A vector sent or kept leaves what outputs and pending bits do not reach. -/
theorem State.sendVector_keeps {β : Type} (part : State → β) (hsend : ∀ s o, part (State.send s o) = part s)
    (hpend : ∀ (s : State) l, part { s with msixPending := l } = part s) (s : State) (fn v : Nat) :
    part (s.sendVector fn v) = part s := by
  unfold State.sendVector
  split
  · exact hpend s _
  · exact hsend s _

/-- The state after the last node of an impression of slot `p` of context `n`. -/
def State.endImpression (s : State) (imp n p : Nat) : State :=
  let t := s.sendVector (s.ctx n).owner.toNat (s.vector n p)
  let t := { t with impressions := NMap.erase t.impressions imp }
  ((t.postOnce (.impressionStart n p)).postOnce (.kickValidate n p)).checkPlate n p

theorem exec_impressionComplete_of_done {s : State} {imp : Nat} {x : Impression} (himp : NMap.get? s.impressions imp = some x)
    (hdone : x.done.length = (s.plate x.ctx x.slot).nodes.length) (hrun : (s.ctx x.ctx).state = .run) :
    exec (.impressionComplete imp) s = .next (s.endImpression imp x.ctx x.slot).counted := by
  change execImpressionComplete imp s = _
  simp [execImpressionComplete, himp, hdone, hrun, State.endImpression, State.event_eq_counted]

/-- What no posted event reaches is after the end of an impression as after its vector, but for the impression. -/
theorem State.endImpression_keeps {β : Type} (part : State → β) (hpost : ∀ s i, part (s.postOnce i) = part s)
    (himps : ∀ (s : State) m, part { s with impressions := m } = part s) (s : State) (imp n p : Nat) :
    part (s.endImpression imp n p) = part (s.sendVector (s.ctx n).owner.toNat (s.vector n p)) := by
  simp only [State.endImpression, State.checkPlate_keeps part hpost, hpost, himps]

theorem State.get_impressions_endImpression (s : State) (imp n p : Nat) :
    NMap.get? (s.endImpression imp n p).impressions imp = none := by
  simp only [State.endImpression, State.checkPlate_keeps State.impressions State.postOnce_impressions,
    State.postOnce_impressions, nmap_get_erase]

theorem State.endImpression_mem (s : State) (imp n p : Nat) : (s.endImpression imp n p).mem = s.mem :=
  (s.endImpression_keeps State.mem State.postOnce_mem (fun _ _ => rfl) imp n p).trans
    (State.sendVector_keeps State.mem State.send_mem (fun _ _ => rfl) s _ _)

theorem State.endImpression_msixMasked (s : State) (imp n p : Nat) : (s.endImpression imp n p).msixMasked = s.msixMasked :=
  (s.endImpression_keeps State.msixMasked State.postOnce_msixMasked (fun _ _ => rfl) imp n p).trans
    (State.sendVector_keeps State.msixMasked State.send_msixMasked (fun _ _ => rfl) s _ _)

/-- The outputs and pending bits after the end of an impression are those that its vector leaves. -/
theorem State.endImpression_outbox (s : State) (imp n p : Nat) :
    (s.endImpression imp n p).outbox = (s.sendVector (s.ctx n).owner.toNat (s.vector n p)).outbox :=
  s.endImpression_keeps State.outbox State.postOnce_outbox (fun _ _ => rfl) imp n p

theorem State.endImpression_msixPending (s : State) (imp n p : Nat) :
    (s.endImpression imp n p).msixPending = (s.sendVector (s.ctx n).owner.toNat (s.vector n p)).msixPending :=
  s.endImpression_keeps State.msixPending State.postOnce_msixPending (fun _ _ => rfl) imp n p

/-- IMPRESSION_COMPLETE of an impression whose nodes are all done. -/
theorem impressionComplete_completes {s : State} {imp : Nat} {x : Impression} (himp : NMap.get? s.impressions imp = some x)
    (hdone : x.done.length = (s.plate x.ctx x.slot).nodes.length) (hrun : (s.ctx x.ctx).state = .run) :
    ∃ t : State, exec (.impressionComplete imp) s = .next t ∧ NMap.get? t.impressions imp = none ∧
      t.mem = s.mem ∧ t.msixMasked = s.msixMasked ∧
      let v := ((s.ctx x.ctx).owner.toNat, s.vector x.ctx x.slot)
      (s.msixMasked.contains v = false → t.outbox = s.outbox ++ [.msix v.1 v.2] ∧ t.msixPending = s.msixPending) ∧
      (s.msixMasked.contains v = true → t.outbox = s.outbox ∧ v ∈ t.msixPending) := by
  refine ⟨_, exec_impressionComplete_of_done himp hdone hrun, s.get_impressions_endImpression _ _ _,
    (State.counted_mem _).trans (s.endImpression_mem _ _ _),
    (State.counted_msixMasked _).trans (s.endImpression_msixMasked _ _ _), ?_⟩
  intro v
  rw [State.counted_outbox, State.counted_msixPending, State.endImpression_outbox, State.endImpression_msixPending]
  refine ⟨fun hopen => ?_, State.sendVector_of_masked⟩
  rw [State.sendVector_of_unmasked hopen]
  exact ⟨State.send_outbox s _, State.send_msixPending s _⟩

/-- Settles O51, event by event: each event's own lemma above, under the hypotheses that its guards name. -/
theorem plateAndKickEventsComplete : Obligations.PlateAndKickEventsComplete := by
  unfold Obligations.PlateAndKickEventsComplete
  refine ⟨?register, ?unregister, ?sealRelease, ?kick, ?kickRead, ?impressionStart, ?nodeStart, ?writeNodeDone, ?complete⟩
  case register =>
    intro s n p v hfn hvalid hfree hp hlen t ks hheld
    rw [exec_plateRegister_of_served hfn, State.writeValid1_registers hvalid hfree hp hlen hheld]
  case unregister => exact fun s n p v hfn => exec_plateUnregister_of_served hfn p v
  case sealRelease => exact fun s n p e => plateSealRelease_completes
  case kick => exact fun s n v => kick_completes
  case kickRead =>
    intro s n p k hhead hserves hdead hvalid hentry t
    refine ⟨fun hreads hheld => ?_, fun hreads hheld => ?_⟩
    · rw [exec_kickValidate_of_head hhead hserves hreads, State.stepKick_reads hdead hvalid hentry hheld]
    · rw [exec_kickRetry_of_head hhead hserves hreads, State.stepKick_reads hdead hvalid hentry hheld]
  case impressionStart => exact fun s n p imp x => impressionStart_completes
  case nodeStart => exact fun s imp k x nd => exec_nodeStart_of_ready
  case writeNodeDone => exact fun s imp k x nd => exec_writeNodeDone_of_started
  case complete => exact fun s imp x => impressionComplete_completes

end Sys2Proof.Machine
end

section
/-! PROOF. The events of context slots (03 R56 to R61, R75, R76; 12 R235, R236) and kicks that are dropped (03 R64, R66): what
the operations of Machine/Slots.lean and Machine/Plates.lean do in each state of a slot, and the statements O49, O50, O52. -/

namespace Sys2Proof.Machine

@[simp] theorem State.ctx_counted (s : State) (n : Nat) : s.counted.ctx n = s.ctx n := rfl

/-! Requests of a frozen function (03 R76). -/

/-- A request of a frozen function has no effect and completes with Completer Abort. -/
theorem State.event_request_of_frozen {s : State} {fn : Nat} (h : s.frozenFn fn = true) (t : State) :
    (s.request fn t).event = .next (s.send (.completerAbort fn)).counted := by
  simp only [State.request, h, if_true, State.event_eq_counted]

theorem State.readRegister_of_frozen {s : State} {fn : Nat} (h : s.frozenFn fn = true) (off : Nat) :
    s.readRegister fn off = none := by
  simp only [State.readRegister, h, if_true]

/-- Every request at the registers of a slot whose owner is frozen completes with Completer Abort. -/
theorem exec_slotRequests_of_frozen {s : State} {n : Nat} (h : s.frozenFn (s.ownerOf n) = true) (p : Nat) (v : W64) (on : Bool) :
    let r := Host.Outcome.next (s.send (.completerAbort (s.ownerOf n))).counted
    exec (.kick n v) s = r ∧ exec (.enable n on) s = r ∧ exec (.teardown n) s = r ∧ exec (.bump n) s = r ∧
      exec (.plateRegister n p v) s = r ∧ exec (.plateUnregister n p v) s = r :=
  have aborts := State.event_request_of_frozen h
  ⟨aborts _, aborts _, aborts _, aborts _, aborts _, aborts _⟩

/-! Requests of a function that is served. -/

theorem exec_registerWrite_of_served {s : State} {fn : Nat} (h : s.frozenFn fn = false) (off : Nat) (v : W64) :
    exec (.registerWrite fn off v) s = .next (s.writeRegister fn off v).counted := State.event_request_of_served h _

theorem exec_slotOwnerWrite_of_served {s : State} (h : s.frozenFn 0 = false) (n : Nat) (v : Byte) :
    exec (.slotOwnerWrite n v) s = .next (s.setOwner n v).counted := State.event_request_of_served h _

theorem exec_enable_of_served {s : State} {n : Nat} (h : s.frozenFn (s.ownerOf n) = false) (on : Bool) :
    exec (.enable n on) s = .next (s.setEnable n on).counted := State.event_request_of_served h _

theorem exec_teardown_of_served {s : State} {n : Nat} (h : s.frozenFn (s.ownerOf n) = false) :
    exec (.teardown n) s = .next (s.tearDown n).counted := State.event_request_of_served h _

theorem exec_bump_of_served {s : State} {n : Nat} (h : s.frozenFn (s.ownerOf n) = false) :
    exec (.bump n) s = .next (s.requestBump n).counted := State.event_request_of_served h _

/-! OWNER (03 R56). -/

/-- OWNER takes a function that exists and has room, while the slot is OFF. -/
theorem State.setOwner_takes {s : State} {n : Nat} {v : Byte} (hn : n < 512) (hfn : (v.extractLsb' 0 5).toNat ≤ 16)
    (hoff : (s.ctx n).state = .off) (hroom : v.extractLsb' 0 5 = 0 ∨
      ((List.range 512).filter fun k => (s.ctx k).owner == v.extractLsb' 0 5 && k != n).length < 64) :
    s.setOwner n v = s.setCtx n { s.ctx n with owner := v.extractLsb' 0 5 } := by
  refine if_neg (not_or.2 ⟨Nat.not_le.2 hn, not_or.2 ⟨Nat.not_lt.2 hfn, not_or.2 ⟨Classical.not_not.2 hoff, ?_⟩⟩⟩)
  rintro ⟨hvirtual, hmany⟩
  exact hroom.elim hvirtual (Nat.not_lt.2 hmany)

/-! ENABLE (03 R58). -/

theorem State.setEnable_of_off {s : State} {n : Nat} (h : (s.ctx n).state = .off) (on : Bool) :
    s.setEnable n on = s.setCtx n
      (if on then { s.ctx n with enable := true, state := .run, lastHost := none } else { s.ctx n with enable := false }) := by
  simp only [State.setEnable, h]

theorem State.setEnable_of_placed {s : State} {n : Nat} (h : (s.ctx n).state = .run ∨ (s.ctx n).state = .frozen) (on : Bool) :
    s.setEnable n on = s.setCtx n { s.ctx n with enable := on } := by
  rcases h with h | h <;> simp only [State.setEnable, h]

theorem State.setEnable_of_tearing {s : State} {n : Nat} (h : (s.ctx n).state = .tearing) (on : Bool) :
    s.setEnable n on = s := by
  simp only [State.setEnable, h]

/-- Settles O50, state by state. -/
theorem enableMovesContexts : Obligations.EnableMovesContexts := by
  unfold Obligations.EnableMovesContexts
  intro s n
  refine ⟨fun hoff => ?off, fun hplaced on => ?placed, fun htearing on => State.setEnable_of_tearing htearing on⟩
  case off => simp [State.setEnable_of_off hoff, hoff]
  case placed => simp [State.setEnable_of_placed hplaced]

/-! Teardown and bumps of GEN (03 R58, R75; 12 R235, R236). -/

/-- A teardown asked for in OFF or in TEARING changes nothing. -/
theorem State.tearDown_of_idle {s : State} {n : Nat} (h : (s.ctx n).state = .off ∨ (s.ctx n).state = .tearing) :
    s.tearDown n = s := by
  rcases h with h | h <;> simp [State.tearDown, h]

/-- A bump asked for while none is under way, and not in TEARING, begins. -/
theorem State.requestBump_begins {s : State} {n : Nat} (hstate : (s.ctx n).state ≠ .tearing) (hbump : (s.ctx n).bump = false) :
    s.requestBump n = (s.setCtx n { s.ctx n with bump := true, bumpres := 0 }).postOnce (.bumpComplete n) := by
  simp [State.requestBump, hstate, hbump]

/-- A bump asked for in TEARING or while one is under way changes nothing. -/
theorem State.requestBump_of_busy {s : State} {n : Nat} (h : (s.ctx n).state = .tearing ∨ (s.ctx n).bump = true) :
    s.requestBump n = s := by
  rcases h with h | h <;> simp [State.requestBump, h]

/-- TEARDOWN_COMPLETE where the accesses have completed and GEN may advance. -/
theorem exec_teardownComplete_of_bumped {s t : State} {n : Nat} (hstate : (s.ctx n).state = .tearing)
    (hidle : s.asidBusy (s.ctx n).asid = false) (hbump : s.tryBump (s.ctx n).asid = some t) :
    exec (.teardownComplete n) s = .next (State.counted (State.followGen
      (t.setCtx n { s.ctx n with state := .off, enable := false, tearing := false, held := false }) (s.ctx n).asid)) := by
  change execTeardownComplete n s = _
  simp [execTeardownComplete, hstate, hidle, hbump, State.event_eq_counted]

/-- BUMP_COMPLETE where the accesses have completed and GEN may advance. -/
theorem exec_bumpComplete_of_bumped {s t : State} {n : Nat} (hunder : (s.ctx n).bump = true)
    (hidle : s.asidBusy (s.ctx n).asid = false) (hbump : s.tryBump (s.ctx n).asid = some t) :
    exec (.bumpComplete n) s = .next (State.counted (State.followGen
      (t.setCtx n { s.ctx n with bump := false, bumpres := 1 }) (s.ctx n).asid)) := by
  change execBumpComplete n s = _
  simp [execBumpComplete, hunder, hidle, hbump, State.event_eq_counted]

/-- BUMP_COMPLETE where the next GEN may not be used yet: the bump reads busy. -/
theorem exec_bumpComplete_of_unscrubbed {s : State} {n : Nat} (hunder : (s.ctx n).bump = true)
    (hidle : s.asidBusy (s.ctx n).asid = false) (hbump : s.tryBump (s.ctx n).asid = none) :
    exec (.bumpComplete n) s = .next (s.setCtx n { s.ctx n with bump := false, bumpres := 2 }).counted := by
  change execBumpComplete n s = _
  simp [execBumpComplete, hunder, hidle, hbump, State.event_eq_counted]

/-- What a scrub keeps of a TLB is under the current GEN. -/
theorem State.gen_of_mem_currentEntries {s : State} {tlb : List TlbEntry} {x : TlbEntry} (h : x ∈ s.currentEntries tlb) :
    x.gen = s.gen x.asid :=
  eq_of_beq (List.mem_filter.1 h).2

/-- SCRUB_PASS_END counts the pass and leaves current translations alone in every TLB. -/
theorem scrubPassEnd_completes (s : State) : ∃ t : State, exec .scrubPassEnd s = .next t ∧ t.scrubs = s.scrubs + 1 ∧ t.mem = s.mem ∧
    (∀ e ∈ t.clusters, ∀ x ∈ e.2.tlb, x.gen = t.gen x.asid) ∧ ∀ e ∈ t.tlbs, ∀ x ∈ e.2, x.gen = t.gen x.asid := by
  refine ⟨_, rfl, rfl, rfl, fun e he x hx => ?_, fun e he x hx => ?_⟩
  all_goals
    obtain ⟨e₀, -, rfl⟩ := List.mem_map.1 he
    exact State.gen_of_mem_currentEntries (s := s) hx

/-- Settles O49, event by event. -/
theorem slotEventsComplete : Obligations.SlotEventsComplete := by
  unfold Obligations.SlotEventsComplete
  refine ⟨?write, ?writeFrozen, ?frozen, ?owner, ?enable, ?tearBump, ?complete, ?busy, ?scrub, ?ats, ?violations, ?peer⟩
  case write => exact fun s fn off v hfn => exec_registerWrite_of_served hfn off v
  case writeFrozen =>
    exact fun s fn off v hfn => ⟨State.event_request_of_frozen hfn _, State.readRegister_of_frozen hfn off⟩
  case frozen => exact fun s n p v on hfn => exec_slotRequests_of_frozen hfn p v on
  case owner =>
    intro s n v hfn hn howner hoff hroom
    rw [exec_slotOwnerWrite_of_served hfn, State.setOwner_takes hn howner hoff hroom]
  case enable => exact fun s n on hfn => exec_enable_of_served hfn on
  case tearBump =>
    intro s n hfn
    rw [exec_teardown_of_served hfn, exec_bump_of_served hfn]
    refine ⟨fun _ => rfl, fun hidle => ?_, fun hstate hbump => ?_, fun hbusy => ?_⟩
    · rw [State.tearDown_of_idle hidle]
    · rw [State.requestBump_begins hstate hbump]
    · rw [State.requestBump_of_busy hbusy]
  case complete =>
    exact fun s t n hidle hbump => ⟨fun hstate => exec_teardownComplete_of_bumped hstate hidle hbump,
      fun hunder => exec_bumpComplete_of_bumped hunder hidle hbump⟩
  case busy => exact fun s n hidle hbump hunder => exec_bumpComplete_of_unscrubbed hunder hidle hbump
  case scrub => exact scrubPassEnd_completes
  case ats => exact fun s p => rfl
  case violations => exact fun s fn => ⟨rfl, rfl⟩
  case peer => exact fun s p => rfl

/-! Kicks that are dropped (03 R64, R66). -/

/-- A dropped kick stands in KICKSTAT and leaves the queue. -/
theorem State.ctx_dropKick (s : State) (n : Nat) (v : W64) (code : Nat) :
    (s.dropKick n v code).ctx n = { s.ctx n with kickTag := v.extractLsb' 48 16, kickSlot := v.extractLsb' 0 4,
                                                 kickNew := true, kickCode := BitVec.ofNat 4 code } := by
  have htag : BitVec.ofNat 16 (kickTag v) = v.extractLsb' 48 16 := by
    apply BitVec.eq_of_toNat_eq
    simp [kickTag, bitsOf, Nat.shiftRight_eq_div_pow]
  have hslot : BitVec.ofNat 4 (kickSlot v) = v.extractLsb' 0 4 := by
    apply BitVec.eq_of_toNat_eq
    simp [kickSlot, bitsOf]
  simp only [State.dropKick, State.ctx_setCtx, htag, hslot]

/-- The code with which a kick written to a slot is dropped at once, if it is. -/
def State.kickRefusal (s : State) (n : Nat) (v : W64) : Option Nat :=
  if (s.ctx n).enable = false ∨ (s.ctx n).state ≠ .run then some 6
  else if (s.plate n (kickSlot v)).valid = false then some 3
  else if 64 ≤ (s.ctx n).kicks.length then some 5
  else none

/-- A kick that is refused is recorded as dropped, and nothing else happens. -/
theorem State.writeKick_of_refused {s : State} {n : Nat} {v : W64} {code : Nat} (h : s.kickRefusal n v = some code) :
    s.writeKick n v = (s.setCtx n { s.ctx n with kickReg := v }).dropKick n v code := by
  have hplate : (s.setCtx n { s.ctx n with kickReg := v }).plate n (kickSlot v) = s.plate n (kickSlot v) :=
    s.plate_setCtx n _ _
  unfold State.kickRefusal at h
  simp only [State.writeKick, State.ctx_setCtx, hplate]
  split at h
  case isTrue hstop =>
    cases h
    rcases hstop with hoff | hstate
    · simp [hoff]
    · simp [hstate]
  case isFalse hgo =>
    obtain ⟨hon, hrun⟩ := not_or.1 hgo
    have hstop : (!(s.ctx n).enable || (s.ctx n).state != .run) = false := by simpa using And.intro hon hrun
    split at h
    case isTrue hvalid => cases h; simp [hstop, hvalid]
    case isFalse hvalid =>
      split at h
      case isTrue hfull => cases h; simp [hstop, hvalid, hfull]
      case isFalse => cases h

/-- KICK where it is refused: KICKSTAT records it, and the queue is as before. -/
theorem kick_drops {s : State} {n : Nat} {v : W64} {code : Nat} (hfn : s.frozenFn (s.ownerOf n) = false)
    (hrefused : s.kickRefusal n v = some code) :
    ∃ t : State, exec (.kick n v) s = .next t ∧ (t.ctx n).kicks = (s.ctx n).kicks ∧ (t.ctx n).kickNew = true ∧
      (t.ctx n).kickCode = BitVec.ofNat 4 code ∧ (t.ctx n).kickTag = v.extractLsb' 48 16 ∧
      (t.ctx n).kickSlot = v.extractLsb' 0 4 ∧ t.mem = s.mem := by
  refine ⟨_, exec_kick_of_served hfn v, ?_⟩
  rw [State.writeKick_of_refused hrefused, State.ctx_counted, State.ctx_dropKick, State.ctx_setCtx]
  exact ⟨rfl, rfl, rfl, rfl, rfl, rfl⟩

/-- Settles O52: each of the three cases is a refusal with its code. -/
theorem droppedKicksAreRecorded : Obligations.DroppedKicksAreRecorded := by
  unfold Obligations.DroppedKicksAreRecorded
  intro s n v code hfn hcase
  refine kick_drops hfn ?_
  rcases hcase with ⟨rfl, hstop⟩ | ⟨rfl, hon, hrun, hvalid⟩ | ⟨rfl, hon, hrun, hvalid, hfull⟩
  · exact if_pos hstop
  · simp [State.kickRefusal, hon, hrun, hvalid]
  · simp [State.kickRefusal, hon, hrun, hvalid, hfull]

end Sys2Proof.Machine
end

section
/-! PROOF. The events of launches and placement (03 R67 to R70; 02 R38, R420; 18 R354; 20 R394, R395; 07 R148): one lemma for
each event where nothing holds it back, and the statement O53. -/

namespace Sys2Proof.Machine

/-! Accepting and placing (03 R67 to R70). -/

/-- LAUNCH_ACCEPT of a ticket whose context is served and whose sectors are free. -/
theorem exec_launchAccept_of_free {s : State} {k : Nat} {t : Ticket} (hticket : NMap.get? s.tickets k = some t)
    (hserves : s.serves t.ctx = true)
    (hheld : s.heldIO (s.ticketSectors t).1 (s.ticketSectors t).2 .outside (.launchAccept k) = none) :
    exec (.launchAccept k) s =
      .next ({ s.touchSectors (s.ticketSectors t).1 false with tickets := NMap.erase s.tickets k }.accept t).counted := by
  change execLaunchAccept k s = _
  simp only [execLaunchAccept, hticket, hserves, hheld, Bool.not_true, Bool.false_eq_true, if_false, State.event_eq_counted]

/-- PLACE_WORK where the item that the distributor serves fits. -/
theorem exec_placeWork_of_fits {s t : State} {die : Nat} {i : Item} (hhead : s.headItem die = some i)
    (hfits : s.placeItem i = some t) : exec (.placeWork die) s = .next (t.postOnce (.placeWork die)).counted := by
  change execPlaceWork die s = _
  simp only [execPlaceWork, hhead, Option.bind_some, hfits, State.event_eq_counted]

/-! Starting and retiring (02 R38, R420; 20 R394). -/

/-- A placed wave set running with its PTS, and selected (17 R325, log entry 76). -/
def State.started (s : State) (w : Nat) (x : Wave) : State :=
  (s.setWave { x with stage := .running, sys := { x.sys with pts := if x.team.isSome then s.gt else x.sys.pts } }).select w
    (.split 0)

/-- WAVE_START of a wave that passes the checks of 02 R420. -/
theorem exec_waveStart_of_checked {s : State} {w : Nat} {x : Wave} (hwave : s.wave? w = some x) (hplaced : x.stage = .placed)
    (hchecks : (s.started w x).startFault (s.started w x).cur = none) :
    exec (.waveStart w) s = .next (s.started w x).counted := by
  change execWaveStart w s = _
  unfold State.started at hchecks ⊢
  simp only [execWaveStart, hwave, hplaced, ne_eq, not_true_eq_false, if_false, hchecks, State.event_eq_counted]

/-- WAVE_START of a wave that fails one of the checks of 02 R420: it traps. -/
theorem exec_waveStart_of_fault {s : State} {w : Nat} {x : Wave} {tr : Trap} (hwave : s.wave? w = some x)
    (hplaced : x.stage = .placed) (hfault : (s.started w x).startFault (s.started w x).cur = some tr)
    (hhere : s.heldAway tr.cause (.waveStart w) = none) :
    exec (.waveStart w) s = .next ((s.started w x).raise (s.started w x).thread.pc tr).counted := by
  change execWaveStart w s = _
  unfold State.started at hfault ⊢
  simp only [execWaveStart, hwave, hplaced, ne_eq, not_true_eq_false, if_false, hfault, hhere, Option.getD_none,
    State.event_eq_counted]

/-- WAVE_RETIRE of a wave that waits for nothing more. -/
theorem exec_waveRetire_of_retirable {s : State} {w : Nat} {x : Wave} (hwave : s.wave? w = some x)
    (hretiring : x.stage = .retiring) (hfree : s.retirable x = true) :
    exec (.waveRetire w) s = .next (s.retire x).counted := by
  change execWaveRetire w s = _
  simp only [execWaveRetire, hwave, hretiring, hfree, and_self, if_true, State.event_eq_counted]

/-- LAUNCH_COMPLETE of a launch of which nothing is left, and whose DONE can be written. -/
theorem exec_launchComplete_of_over {s : State} {l : Nat} {x : Launch} (hlaunch : NMap.get? s.launches l = some x)
    (hout : x.outstanding = 0) (hplaced : x.unplaced = 0) (hrun : (s.ctx x.ctx).state = .run)
    (hheld : s.heldWrite (s.frontSectors x.ctx (w64 (x.field 0x20 8)).toNat (if w64 (x.field 0x20 8) = 0 then 0 else 8) .wr)
      .outside (.launchComplete l) = none) :
    exec (.launchComplete l) s = .next ((({ s with launches := NMap.erase s.launches l }).writeDone x.ctx
      (w64 (x.field 0x20 8)) 0 (x.field 4 4)).launchOver x.ctx x.node).counted := by
  change execLaunchComplete l s = _
  simp only [execLaunchComplete, hlaunch, hout, hplaced, hrun, ne_eq, not_true_eq_false, or_self, if_false, hheld,
    State.event_eq_counted]

/-! Swapping (18 R354). -/

/-- WAVE_SWAP_OUT of a wave that may leave, and whose written words can go home. -/
theorem exec_waveSwapOut_of_free {s : State} {w : Nat} {x y : Wave} (hwave : s.wave? w = some x) (hmay : s.maySwap x = true)
    (hheld : s.heldWrite x.privSectors (.wave w) (.waveSwapOut w) = none) (hsettled : (s.settleMemory x).wave? w = some y) :
    exec (.waveSwapOut w) s = .next (((s.settleMemory x).setWave { y with stage := .swapped, lent := false }).postOnce
      (.placeWork (clusterDie y.cluster))).counted := by
  change execWaveSwapOut w s = _
  simp only [execWaveSwapOut, hwave, hmay, hheld, hsettled, Bool.not_true, Bool.false_eq_true, if_false,
    State.event_eq_counted]

/-- A wave placed again on its quadrant, its age new (log entry 73), what it waits for looked at, and selected. -/
def State.swappedIn (s : State) (w : Nat) (x : Wave) : State :=
  let y := { x with stage := .running, age := s.nextId, placedAt := s.cycle.toNat }
  ((State.setWave { s with nextId := s.nextId + 1 } y).rewake y).select w (.split 0)

/-- WAVE_SWAP_IN of a wave that has something to do and finds room. -/
theorem exec_waveSwapIn_of_fits {s : State} {w : Nat} {x : Wave} (hwave : s.wave? w = some x) (hswapped : x.stage = .swapped)
    (hready : x.due.isSome = true ∨ s.someHolds x = true) (hfits : s.swapFits x = true) :
    exec (.waveSwapIn w) s = .next (if x.due.isSome then (s.swappedIn w x).postOnce (.trapTake w)
      else if x.frame.isNone then (s.swappedIn w x).takeHeld else s.swappedIn w x).counted := by
  have hstays : ¬(x.stage ≠ .swapped ∨ (x.due.isNone = true ∧ (!s.someHolds x) = true) ∨ (!s.swapFits x) = true) := by
    rintro (hstage | ⟨hdue, hnone⟩ | hroom)
    · exact hstage hswapped
    · simp only [Option.isNone_iff_eq_none.1 hdue, Option.isSome_none, Bool.false_eq_true, false_or] at hready
      simp [hready] at hnone
    · simp [hfits] at hroom
  change execWaveSwapIn w s = _
  simp only [execWaveSwapIn, hwave, hstays, if_false, State.event_eq_counted, State.swappedIn]

/-! INKWELL (07 R148). -/

/-- A wave with its budget refilled at the rates of its context. -/
def State.refillWave (s : State) (w : Wave) : Wave :=
  { w with inkwell := refillInk (s.ctx w.ctx).inkrateInForce.toNat (s.ctx w.ctx).inkrate.toNat w.inkwell }

/-- Every wave with its budget refilled, and the rates in force from now on. -/
def State.refilled (s : State) : State :=
  { s.mapWaves s.refillWave with
    ctxs := s.ctxs.map fun (e : Nat × Ctx) => (e.1, { e.2 with inkrateInForce := e.2.inkrate }) }

/-- INKWELL_REFILL refills, and then looks again at each rendezvous that a thread of a wave waits at. -/
theorem exec_inkwellRefill (s : State) : exec .inkwellRefill s = .next (State.counted
    ((s.allWaves.filter fun w => w.threads.any fun x => x.2.park == .rendezvous).foldl
      (fun (t : State) w => t.postOnce (.mmaRendezvous w.id)) s.refilled)) := by
  rw [List.foldl_filter]
  rfl

/-- A change of every value of a map that leaves the default reads through. -/
theorem nmap_getD_map {α : Type} (f : α → α) {d : α} (hd : f d = d) (m : NMap α) (k : Nat) :
    NMap.getD (m.map fun e => (e.1, f e.2)) k d = f (NMap.getD m k d) := by
  unfold NMap.getD
  induction m with
  | nil => exact hd.symm
  | cons e rest ih =>
    by_cases h : e.1 = k
    · simp [NMap.get?, h]
    · simpa [NMap.get?, h] using ih

theorem State.ctx_refilled (s : State) (n : Nat) :
    s.refilled.ctx n = { s.ctx n with inkrateInForce := (s.ctx n).inkrate } :=
  nmap_getD_map (d := Ctx.reset) (fun c : Ctx => { c with inkrateInForce := c.inkrate }) rfl s.ctxs n

theorem State.cur_refilled {s : State} (h : s.cur.stage ≠ .none) :
    s.refilled.cur.inkwell =
      refillInk (s.ctx s.cur.ctx).inkrateInForce.toNat (s.ctx s.cur.ctx).inkrate.toNat s.cur.inkwell := by
  simp only [State.refilled, State.mapWaves, h, if_false, State.refillWave]

/-- INKWELL_REFILL brings the rates into force and refills the wave that issues. -/
theorem inkwellRefill_completes (s : State) : ∃ t : State, exec .inkwellRefill s = .next t ∧ t.mem = s.mem ∧
    (∀ n, (t.ctx n).inkrateInForce = (s.ctx n).inkrate) ∧
    (s.cur.stage ≠ .none → t.cur.inkwell =
      refillInk (s.ctx s.cur.ctx).inkrateInForce.toNat (s.ctx s.cur.ctx).inkrate.toNat s.cur.inkwell) := by
  refine ⟨_, exec_inkwellRefill s, ?mem, fun n => ?rate, fun hstage => ?ink⟩
  case mem =>
    rw [State.counted_mem, State.foldl_postOnce_keeps State.mem State.postOnce_mem]
    rfl
  case rate =>
    rw [State.ctx_counted, State.ctx, State.foldl_postOnce_keeps State.ctxs State.postOnce_ctxs, ← State.ctx,
      State.ctx_refilled]
  case ink =>
    rw [State.counted_cur, State.foldl_postOnce_keeps State.cur State.postOnce_cur, State.cur_refilled hstage]

/-- Settles O53, event by event: each event's own lemma above, under the hypotheses that its guards name. -/
theorem launchEventsComplete : Obligations.LaunchEventsComplete := by
  unfold Obligations.LaunchEventsComplete
  refine ⟨?accept, ?place, ?start, ?retire, ?complete, ?swapOut, ?swapIn, inkwellRefill_completes⟩
  case accept => exact fun s k t => exec_launchAccept_of_free
  case place => exact fun s t die i => exec_placeWork_of_fits
  case start =>
    exact fun s w x hwave hplaced => ⟨exec_waveStart_of_checked hwave hplaced,
      fun tr => exec_waveStart_of_fault hwave hplaced⟩
  case retire => exact fun s w x => exec_waveRetire_of_retirable
  case complete => exact fun s l x => exec_launchComplete_of_over
  case swapOut => exact fun s w x y => exec_waveSwapOut_of_free
  case swapIn => exact fun s w x => exec_waveSwapIn_of_fits

end Sys2Proof.Machine
end

section
/-! PROOF. LAUNCH, SPAWN (03 R73, R74) and transactions (18 R357 to R360): what each word answers once its checks pass, what
ends a transaction from outside, and the statement O39. -/

namespace Sys2Proof.Machine

/-! Checks that pass. -/

@[simp] theorem stop_ok_bind {α β : Type} (a : α) (f : α → Except Stop β) : (Except.ok a >>= f) = f a := rfl

theorem need_of_true {b : Bool} (h : b = true) (e : Stop) : need b e = .ok () := h ▸ need_true e

theorem State.noTx_of_none {s : State} (h : s.cur.tx = none) (status : Nat) : s.noTx status = .ok () :=
  need_of_true (by rw [h]; rfl) _

/-! LAUNCH (03 R73). -/

section
variable {s : State} {d : BitVec 6} {rec_ : Src} {args : Option Src} (hsprig : s.noSprig = .ok ())
  (htag : s.srcTag addrTag rec_ = .ok ()) (hahead : s.noRunAhead = .ok ()) (htx : s.noTx 3 = .ok ())
include hsprig htag hahead htx

/-- LAUNCH without a lane in EXEC has the result 2. -/
theorem exec_launch_of_noLane (hexec : s.rsys.exec = 0) :
    exec (.launch d rec_ args) s = .next (s.closed (s.deferS d .n64 2)) := by
  change execLaunch d rec_ args s = _
  simp only [execLaunch, hsprig, htag, hahead, htx, hexec, stop_ok_bind, if_true, State.finish_ok]

variable {x : Target × Nat} (hexec : s.rsys.exec ≠ 0) (halign : (s.image rec_).extractLsb' 0 7 = 0)
  (hmapped : s.translate s.die s.cur.ctx (s.image rec_).toNat .rd = .ok x)
include hexec halign hmapped

/-- LAUNCH where 256 records wait has the result 1. -/
theorem exec_launch_of_full (hfull : 256 ≤ s.launchQueue s.cur.ctx) :
    exec (.launch d rec_ args) s = .next (s.closed (s.deferS d .n64 1)) := by
  change execLaunch d rec_ args s = _
  simp only [execLaunch, hsprig, htag, hahead, htx, hexec, halign, hmapped, hfull, stop_ok_bind, beq_self_eq_true, need_true,
    if_false, if_true, State.finish_ok]

/-- LAUNCH with room in the queue hands its record over as a release, with the result 0. -/
theorem exec_launch_of_room (hroom : s.launchQueue s.cur.ctx < 256) (hreleased : s.released = .ok ()) :
    exec (.launch d rec_ args) s =
      .next (s.closed ((s.hand (s.image rec_) (args.map s.image)).deferS d .n64 0)) := by
  change execLaunch d rec_ args s = _
  simp only [execLaunch, hsprig, htag, hahead, htx, hexec, halign, hmapped, Nat.not_le.2 hroom, hreleased, stop_ok_bind,
    beq_self_eq_true, need_true, if_false, State.finish_ok]

end

/-! SPAWN (03 R74). -/

section
variable {s : State} {f : SpawnForm} (hsprig : s.noSprig = .ok ()) (htag : s.srcTag addrTag f.entry = .ok ())
  (hahead : s.noRunAhead = .ok ()) (htx : s.noTx 3 = .ok ())
include hsprig htag hahead htx

/-- SPAWN without a lane in EXEC has the result 2. -/
theorem exec_spawn_of_noLane (hexec : s.rsys.exec = 0) :
    exec (.spawn f) s = .next (s.closed (s.deferS f.d .n64 2)) := by
  change execSpawn f s = _
  simp only [execSpawn, hsprig, htag, hahead, htx, hexec, stop_ok_bind, if_true, State.finish_ok]

variable (hexec : s.rsys.exec ≠ 0) (halign : (s.image f.entry).extractLsb' 0 4 = 0) (hdepth : s.cur.depth < 4)
include hexec halign hdepth

/-- SPAWN where 4096 tasks wait on the die has the result 1. -/
theorem exec_spawn_of_full (hfull : 4096 ≤ s.childQueue s.cur.ctx s.die) :
    exec (.spawn f) s = .next (s.closed (s.deferS f.d .n64 1)) := by
  change execSpawn f s = _
  simp only [execSpawn, hsprig, htag, hahead, htx, hexec, halign, hdepth, hfull, stop_ok_bind, beq_self_eq_true,
    decide_true, need_true, if_false, if_true, State.finish_ok]

/-- SPAWN with room in the queue queues its task as a release, with the result 0. -/
theorem exec_spawn_of_room (hroom : s.childQueue s.cur.ctx s.die < 4096) (hreleased : s.released = .ok ()) :
    exec (.spawn f) s = .next (s.closed (State.deferS (s.queueTask (s.image f.entry) (s.image f.args)
      ⟨f.blocks1.toNat + 1, f.tiles.toNat, f.chans.toNat, f.pencils.toNat⟩) f.d .n64 0)) := by
  change execSpawn f s = _
  simp only [execSpawn, hsprig, htag, hahead, htx, hexec, halign, hdepth, Nat.not_le.2 hroom, hreleased, stop_ok_bind,
    beq_self_eq_true, decide_true, need_true, if_false, State.finish_ok]

end

/-! Transactions (18 R357, R358). -/

/-- The transaction that a TXBEGIN opens. -/
def State.newTx (s : State) (ro : Bool) (d : BitVec 6) (off : BitVec 16) : Tx :=
  { who := s.who, handler := s.offsetTarget off, d := d, ro := ro, reads := [], writes := [], held := [], vas := [],
    repairs := [], begun := s.cycle.toNat, gt := s.gt, doomed := none }

/-- TXBEGIN in the only thread of a wave, outside run-ahead and transactions, opens a transaction. -/
theorem exec_txbegin_of_alone {s : State} (hsprig : s.inSprig = false) (hsplits : s.cur.splits.length ≤ 1)
    (hsprigs : s.cur.sprigs = []) (hjoins : s.cur.joins = 0) (hahead : s.ahead = false) (htx : s.cur.tx = none) (ro : Bool)
    (d : BitVec 6) (off : BitVec 16) : exec (.txbegin ro d off) s =
      .next (s.closed (State.deferS { s with cur := { s.cur with tx := some (s.newTx ro d off) } } d .n64 0)) := by
  have halone : (!s.inSprig && decide (s.cur.splits.length ≤ 1) && s.cur.sprigs.isEmpty && s.cur.joins == 0) = true := by
    simp [hsprig, hsplits, hsprigs, hjoins]
  change execTxbegin ro d off s = _
  simp only [execTxbegin, halone, hahead, Bool.not_false, need_true, State.noTx_of_none htx, stop_ok_bind, State.finish_ok,
    State.newTx]

theorem State.openTx_of_some {s : State} {x : Tx} (h : s.cur.tx = some x) : s.openTx = .ok x := by
  simp only [State.openTx, h]

section
variable {s : State} {x : Tx} (hsprig : s.noSprig = .ok ()) (htx : s.cur.tx = some x)
include hsprig htx

/-- TXABORT aborts with its code. -/
theorem exec_txabort_of_open (code : BitVec 8) :
    exec (.txabort code) s = .next (s.halted (.abort (5 + 256 * code.toNat) none)) := by
  change execTxabort code s = _
  simp only [execTxabort, hsprig, State.openTx_of_some htx, stop_ok_bind, State.finish_error]

variable (hwins : x.doomed = none) (hover : s.over s.cur s.who .accesses = true)
include hwins hover

/-- TXEND of a transaction whose stores no seal refuses commits them in one step. -/
theorem exec_txend_of_unsealed (hopen : ∀ r ∈ heldRuns x.held, s.sealedPa r.1 r.2.length = false)
    (hclaims : s.claims ((heldRuns x.held).map fun r => r.1 / 32) = .ok ()) :
    exec .txend s = .next (s.closed (s.commit x)) := by
  have hfind : (heldRuns x.held).find? (fun r => s.sealedPa r.1 r.2.length) = none :=
    List.find?_eq_none.2 fun r hr => by simp [hopen r hr]
  change execTxend s = _
  simp only [execTxend, hsprig, State.openTx_of_some htx, hwins, hover, Option.isNone_none, need_true, stop_ok_bind, hfind,
    hclaims, State.finish_ok]

/-- TXEND of a transaction of which a seal refuses a store aborts as for a memory fault. -/
theorem exec_txend_of_sealed {r : Nat × List Byte}
    (hfind : (heldRuns x.held).find? (fun r => s.sealedPa r.1 r.2.length) = some r) :
    exec .txend s =
      .next (s.halted (.abort 7 (some { Trap.of 2 with addr := some (w64 (x.globalOf r.1)), write := true }))) := by
  change execTxend s = _
  simp only [execTxend, hsprig, State.openTx_of_some htx, hwins, hover, Option.isNone_none, need_true, stop_ok_bind, hfind,
    State.finish_error]

end

/-! Aborts from outside (18 R359, R360). -/

section
variable {s : State} {w : Nat} {y : Wave} {x : Tx} (hwave : s.wave? w = some y) (htx : y.tx = some x)
include hwave htx

theorem exec_txConflictAbort_of_doomed {status : Nat} (hdoomed : x.doomed = some status) :
    exec (.txConflictAbort w) s = .next (s.endTx w x status).counted := by
  change execTxConflictAbort w s = _
  simp only [execTxConflictAbort, hwave, htx, Option.bind_some, hdoomed, State.event_eq_counted]

theorem exec_txCapacityEvict_of_open : exec (.txCapacityEvict w) s = .next (s.endTx w x 2).counted := by
  change execTxCapacityEvict w s = _
  simp only [execTxCapacityEvict, hwave, htx, Option.bind_some, State.event_eq_counted]

theorem exec_txTimeout_of_late (hlate : x.begun + 65536 ≤ s.cycle.toNat) :
    exec (.txTimeout w) s = .next (s.endTx w x 3).counted := by
  change execTxTimeout w s = _
  simp only [execTxTimeout, hwave, htx, Option.bind_some, hlate, if_true, State.event_eq_counted]

end

/-- Settles O39, word by word and abort by abort. -/
theorem workAndTransactionsComplete : Obligations.WorkAndTransactionsComplete := by
  unfold Obligations.WorkAndTransactionsComplete
  refine ⟨⟨?launch, ?spawn⟩, ?txbegin, ?txend, ?txabort, ?outside⟩
  case launch =>
    intro s d rec_ args hsprig htag hahead htx a
    exact ⟨exec_launch_of_noLane hsprig htag hahead htx, fun x hexec halign hmapped =>
      ⟨exec_launch_of_full hsprig htag hahead htx hexec halign hmapped,
        exec_launch_of_room hsprig htag hahead htx hexec halign hmapped⟩⟩
  case spawn =>
    intro s f hsprig htag hahead htx e
    exact ⟨exec_spawn_of_noLane hsprig htag hahead htx, fun hexec halign hdepth =>
      ⟨exec_spawn_of_full hsprig htag hahead htx hexec halign hdepth,
        exec_spawn_of_room hsprig htag hahead htx hexec halign hdepth⟩⟩
  case txbegin =>
    intro s ro d off hsprig hsplits hsprigs hjoins hahead htx
    exact exec_txbegin_of_alone hsprig hsplits hsprigs hjoins hahead htx ro d off
  case txend =>
    intro s x hsprig htx hwins hover
    exact ⟨exec_txend_of_unsealed hsprig htx hwins hover, fun r => exec_txend_of_sealed hsprig htx hwins hover⟩
  case txabort => exact fun s x code hsprig htx => exec_txabort_of_open hsprig htx code
  case outside =>
    exact fun s w y x hwave htx => ⟨fun status => exec_txConflictAbort_of_doomed hwave htx,
      exec_txCapacityEvict_of_open hwave htx, exec_txTimeout_of_late hwave htx⟩

end Sys2Proof.Machine
end

section
/-! PROOF. Decoding (04 R83, R84, R88, R91): the fields of every instruction of a wave read back as the instruction, and the
statements O3 and O4. -/

namespace Sys2Proof

/-! Setters of fields as plain updates, and what their codes read back as. -/

/-- DKIND of a destination (04 R91). -/
def Dest.kind : Dest → BitVec 2
  | .v _ => 0
  | .s _ => 1

/-- D of a destination (04 R91). -/
def Dest.num : Dest → BitVec 7
  | .v r => r
  | .s r => 0#1 ++ r

@[simp] theorem Dest.kind_v (r : BitVec 7) : (Dest.v r).kind = 0#2 := rfl
@[simp] theorem Dest.num_v (r : BitVec 7) : (Dest.v r).num = r := rfl
@[simp] theorem Dest.kind_ne_three (d : Dest) : d.kind ≠ 3#2 := by cases d <;> simp [Dest.kind]

@[simp] theorem destOf_vector (r : BitVec 7) : destOf 0#2 r = some (.v r) := rfl
@[simp] theorem destOf_kind_num (d : Dest) : destOf d.kind d.num = some d := by
  cases d with
  | v r => rfl
  | s r => revert r; decide

/-- HOLES of a third source, where the template's is else 0 (04 R89). -/
def Third.holes : Third → BitVec 2
  | .old => 1
  | .op _ => 0

/-- CSPEC of a third source, where the template's is else 0xFF (04 R89). -/
def Third.cspec : Third → BitVec 8
  | .old => 0xFF
  | .op o => o.code

theorem thirdOf_code {t : Third} (h : t.ok = true) : thirdOf t.holes t.cspec = some t := by
  cases t with
  | old => rfl
  | op o =>
    cases o with
    | v r => simp [thirdOf, Third.holes, Third.cspec, operandOf_low r (by simpa [Third.ok] using h)]
    | u x => simp [thirdOf, Third.holes, Third.cspec, Operand.code]

/-- HOLES of an accumulator, where the template's is else 0 (14 R280). -/
def Acc.holes : Acc → BitVec 2
  | .own => 1
  | _ => 0

/-- CSPEC of an accumulator, where the template's is else 0xFF (14 R280). -/
def Acc.cspec : Acc → BitVec 8
  | .tile c => 0#5 ++ c
  | _ => 0xFF

@[simp] theorem accOf_code (a : Acc) : accOf a.holes a.cspec = some a := by
  cases a with
  | none => rfl
  | own => rfl
  | tile c => revert c; decide

@[simp] theorem Fields.setDest_eq (f : Fields) (d : Dest) : f.setDest d = { f with dkind := d.kind, d := d.num } := by
  cases d <;> rfl
@[simp] theorem Fields.setA_eq (f : Fields) (o : Operand) : f.setA o = { f with a := o.code, abank := o.bank } := rfl
@[simp] theorem Fields.setB_eq (f : Fields) (o : Operand) : f.setB o = { f with b := o.code, bbank := o.bank } := rfl
@[simp] theorem Fields.setAB_eq (f : Fields) (i : BitVec 16) :
    f.setAB i = { f with holes := 3, a := i.extractLsb' 8 8, b := i.extractLsb' 0 8 } := rfl

theorem Fields.setThird_eq {f : Fields} (hholes : f.holes = 0) (hcspec : f.cspec = 0xFF) (t : Third) :
    f.setThird t = { f with holes := t.holes, cspec := t.cspec } := by
  cases t <;> simp [Fields.setThird, Third.holes, Third.cspec, ← hholes, ← hcspec]

theorem Fields.setAcc_eq {f : Fields} (hholes : f.holes = 0) (hcspec : f.cspec = 0xFF) (a : Acc) :
    f.setAcc a = { f with holes := a.holes, cspec := a.cspec } := by
  cases a <;> simp [Fields.setAcc, Acc.holes, Acc.cspec, ← hholes, ← hcspec]

/-- A scalar register in a field of seven bits (08 R184). -/
theorem scalar_widen {r : BitVec 7} (h : r.toNat < 64) : (0#1 ++ r.extractLsb' 0 6 : BitVec 7) = r := by
  revert r; decide

/-! The fields that matter (04 R84). -/

/-- A bank bit as the decoder keeps it: ignored where the operand names no vector register. -/
def keptBank (holes : BitVec 2) (code : BitVec 8) (bank : BitVec 1) : BitVec 1 :=
  if holes != 3 && code.extractLsb' 6 2 != 0 then 0 else bank

@[simp] theorem keptBank_zero (holes : BitVec 2) (code : BitVec 8) : keptBank holes code 0#1 = 0#1 := ite_self _

@[simp] theorem keptBank_operand (holes : BitVec 2) (o : Operand) : keptBank holes o.code o.bank = o.bank := by
  unfold keptBank
  split
  case isTrue h =>
    simp only [Bool.and_eq_true, bne_iff_ne] at h
    exact (Operand.bank_eq o h.2).symm
  case isFalse => rfl

theorem Fields.norm_eq {f : Fields} (hop : f.op ≠ 0#7) :
    f.norm = { f with abank := keptBank f.holes f.a f.abank, bbank := keptBank f.holes f.b f.bbank } := by
  simp only [Fields.norm, beq_iff_eq, BitVec.ofNat_eq_ofNat, hop, if_false, keptBank]

/-- The decoder reads `i` from the fields `f`, none of which it ignores. -/
def Fields.Reads (f : Fields) (i : Instr) : Prop := f.norm = f ∧ f.parse i.pinned = some i

theorem Fields.reads_iff {f : Fields} {i : Instr} (hop : f.op ≠ 0#7) :
    f.Reads i ↔ (keptBank f.holes f.a f.abank = f.abank ∧ keptBank f.holes f.b f.bbank = f.bbank) ∧
      f.parse i.pinned = some i := by
  obtain ⟨op, fmt, fmtb, rnd, sat, ecls, scope, dkind, abank, bbank, holes, cspec, mod, imm, d, a, b⟩ := f
  simp [Fields.Reads, Fields.norm_eq hop]

/-! Every instruction of a wave, grouped as its fields are laid out. -/

theorem reads_await {g : AwaitForm} {f : Fields} (hf : (Instr.await g).fields = some f) : f.Reads (.await g) := by
  cases g <;> obtain rfl := Option.some.inj hf <;> simp [Fields.reads_iff, Fields.parse, parseControl, Fields.blank]

theorem reads_st {g : StForm} {f : Fields} (hf : (Instr.st g).fields = some f) : f.Reads (.st g) := by
  obtain ⟨fmt, scope, space, repair, sz, sel, r | r, a, b⟩ := g <;> obtain rfl := Option.some.inj hf <;>
    simp [Fields.reads_iff, Fields.parse, parseMemory, Fields.blank, Fields.sd]

theorem reads_atom {g : AtomForm} {f : Fields} (hf : (Instr.atom g).fields = some f) : f.Reads (.atom g) := by
  obtain ⟨fmt, scope, space, fn | _, _ | d, a, b⟩ := g <;> obtain rfl := Option.some.inj hf <;>
    simp [Fields.reads_iff, Fields.parse, parseMemory, Fields.blank]

theorem reads_copy {g : CopyForm} {f : Fields} (hf : (Instr.copy g).fields = some f) : f.Reads (.copy g) := by
  obtain ⟨fmt, src, rnd, sat, scope, chain, fromShared, ch, d, srec, r | r | r⟩ := g <;>
    obtain rfl := Option.some.inj hf <;> simp [Fields.reads_iff, Fields.parse, parseMemory, Fields.blank, Fields.sd]

theorem reads_mmove {g : MmoveForm} {f : Fields} (hf : (Instr.mmove g).fields = some f) : f.Reads (.mmove g) := by
  obtain ⟨fmt, ecls, d, a | a | ⟨a, b⟩⟩ := g <;> obtain rfl := Option.some.inj hf <;>
    simp [Fields.reads_iff, Fields.parse, parseMatrix, Fields.blank]

theorem reads_ldprune {g : LdpruneForm} {f : Fields} (hf : (Instr.ldprune g).fields = some f) : f.Reads (.ldprune g) := by
  obtain ⟨fmt, scope, shared, _ | _ | _, t, d, rec_, m, _ | org⟩ := g <;> obtain rfl := Option.some.inj hf <;>
    simp [Fields.reads_iff, Fields.parse, parseMatrix, Fields.blank]

/-- The fields of a well-formed instruction of a wave read back as the instruction. -/
theorem reads_fields {i : Instr} {f : Fields} (hwf : i.wf = true) (hf : i.fields = some f) : f.Reads i := by
  cases i with
  | nop | exit | xfence | trapRet | pinv | tfence | txend => cases hf; exact ⟨rfl, rfl⟩
  | trap _ | brk _ | ppop _ | brAlways _ | brP _ | brNp _ | brS _ _ | call _ _ | reconv _ | pencil _ _ | sgetFixed _ _
  | xload _ _ _ | trapRetTo _ | brx _ | brxTbl _ _ | callR _ _ | ret _ | retE _ | ppush _ _ | spawn _ | blkacq _ _
  | blkrel _ _ | ink _ | sset _ _ =>
    obtain rfl := Option.some.inj hf
    simp [Fields.reads_iff, Fields.parse, parseControl, parseMatrix, Fields.blank, Instr.pinned, Fields.imm16, Fields.sd]
  | sget fmt d ix pinned =>
    cases pinned <;> obtain rfl := Option.some.inj hf <;>
      simp [Fields.reads_iff, Fields.parse, parseControl, Fields.blank, Instr.pinned, Fields.imm16]
  | vote mode d a =>
    cases a <;> obtain rfl := Option.some.inj hf <;>
      simp [Fields.reads_iff, Fields.parse, parseControl, Fields.blank, Fields.sd]
  | await g => exact reads_await hf
  | bar g =>
    obtain ⟨scope, id, arrive, _ | n⟩ := g <;> obtain rfl := Option.some.inj hf <;>
      simp [Fields.reads_iff, Fields.parse, parseControl, Fields.blank]
  | add _ | sub _ | mul _ | mulh _ | and _ | or _ | xor _ | min _ | max _ =>
    obtain rfl := Option.some.inj hf
    simp [Fields.reads_iff, Fields.parse, parseArith, Fields.blank, Alu2.fields, alu2Of]
  | mad _ | sel _ | fma _ =>
    obtain rfl := Option.some.inj hf
    simp only [Instr.wf, Bool.and_eq_true] at hwf
    simp [Fields.reads_iff, Fields.parse, parseArith, Fields.blank, Alu3.fields, alu3Of, Fields.setThird_eq, thirdOf_code, hwf]
  | shl _ | shr _ =>
    obtain rfl := Option.some.inj hf
    simp [Fields.reads_iff, Fields.parse, parseArith, Fields.blank, ShiftForm.fields, shiftOf]
  | bfx _ | bfi _ | bitc _ | cmp _ | lea _ | cvt _ | fcmp _ | sfn _ =>
    obtain rfl := Option.some.inj hf
    simp [Fields.reads_iff, Fields.parse, parseArith, Fields.blank, alu2Of]
  | mov g =>
    obtain ⟨fmt, _ | ⟨kd, ks⟩, d, a⟩ := g <;> obtain rfl := Option.some.inj hf <;>
      simp [Fields.reads_iff, Fields.parse, parseArith, Fields.blank, alu2Of]
  | fadd _ | fmul _ =>
    obtain rfl := Option.some.inj hf
    simp [Fields.reads_iff, Fields.parse, parseArith, Fields.blank, FAlu2.fields, falu2Of]
  | fmin _ | fmax _ =>
    obtain rfl := Option.some.inj hf
    simp [Fields.reads_iff, Fields.parse, parseArith, Fields.blank, FMinForm.fields, fminOf]
  | dot g =>
    obtain rfl := Option.some.inj hf
    simp only [Instr.wf, DotForm.ok, Bool.and_eq_true] at hwf
    simp [Fields.reads_iff, Fields.parse, parseArith, Fields.blank, alu3Of, Fields.setThird_eq, thirdOf_code, hwf]
  | quant g =>
    obtain ⟨src, _ | super, d, a⟩ := g <;> obtain rfl := Option.some.inj hf <;>
      simp [Fields.reads_iff, Fields.parse, parseArith, Fields.blank]
  | deq g =>
    obtain ⟨fmt, _ | super, rnd, d, a, b⟩ := g <;> obtain rfl := Option.some.inj hf <;>
      simp [Fields.reads_iff, Fields.parse, parseArith, Fields.blank]
  | redw g =>
    obtain ⟨fmt, fn | n, sel, d, a⟩ := g <;> obtain rfl := Option.some.inj hf <;>
      simp [Fields.reads_iff, Fields.parse, parseArith, Fields.blank]
  | shuf _ | scan _ | topk _ | rebal _ _ _ | merge _ =>
    obtain rfl := Option.some.inj hf
    simp [Fields.reads_iff, Fields.parse, parseArith, Fields.blank, Fields.sd]
  | ld _ | sred _ | pref _ | sealRange _ _ _ | sealOpen _ _ | chwait _ | kvx _ _ _ | txbegin _ _ _ | txabort _ | qput _
  | qtake _ =>
    obtain rfl := Option.some.inj hf
    simp [Fields.reads_iff, Fields.parse, parseMemory, Fields.blank, alu2Of, Fields.sd, Fields.imm16]
  | gather _ | scatter _ =>
    obtain rfl := Option.some.inj hf
    simp [Fields.reads_iff, Fields.parse, parseMemory, Fields.blank, RowsForm.fields, rowsOf]
  | st g => exact reads_st hf
  | atom g => exact reads_atom hf
  | cas g =>
    obtain rfl := Option.some.inj hf
    simp only [Instr.wf, CasForm.ok, Bool.and_eq_true] at hwf
    simp [Fields.reads_iff, Fields.parse, parseMemory, Fields.blank, alu3Of, Fields.setThird_eq, thirdOf_code, hwf]
  | fence g =>
    obtain ⟨scope, ord, _ | ⟨src, dst⟩⟩ := g <;> obtain rfl := Option.some.inj hf <;>
      simp [Fields.reads_iff, Fields.parse, parseMemory, Fields.blank, Fields.imm16]
  | flush g =>
    obtain ⟨scope, _ | _ | _, base, len⟩ := g <;> obtain rfl := Option.some.inj hf <;>
      simp [Fields.reads_iff, Fields.parse, parseMemory, Fields.blank]
  | copy g => exact reads_copy hf
  | mma _ | mmg _ =>
    obtain rfl := Option.some.inj hf
    simp [Fields.reads_iff, Fields.parse, parseMatrix, Fields.blank, mmaOf, Fields.setAcc_eq]
  | mload _ | mstore _ | mbatch _ | mwait _ | patbind _ _ | patbindClear _ | patgen _ | stepagr _ _ _ | stepagrRead _ _
  | signal _ | waitv _ =>
    obtain rfl := Option.some.inj hf
    simp [Fields.reads_iff, Fields.parse, parseMatrix, Fields.blank, Fields.sd]
  | mmove g => exact reads_mmove hf
  | ldprune g => exact reads_ldprune hf
  | collJoin _ _ _ | collAred _ | collAgat _ _ _ _ | collRsc _ | collBcast _ _ _ _ | collBar _ _ _ =>
    obtain rfl := Option.some.inj hf
    simp [Fields.reads_iff, Fields.parse, parseMatrix, Fields.blank, collFields, collOf, Fields.sd]
  | launch d rec_ args =>
    cases args <;> obtain rfl := Option.some.inj hf <;>
      simp [Fields.reads_iff, Fields.parse, parseMatrix, Fields.blank, Fields.sd]
  | pull scalar r n1 =>
    cases scalar with
    | false =>
      obtain rfl := Option.some.inj hf
      simp [Fields.reads_iff, Fields.parse, parseMatrix, Fields.blank]
    | true =>
      obtain rfl := Option.some.inj hf
      have hr : r.toNat < 64 := by simpa [Instr.wf] using hwf
      simp [Fields.reads_iff, Fields.parse, parseMatrix, Fields.blank, scalar_widen hr]
  | _ => simp [Instr.fields] at hf

/-! The decoder (04 R91). -/

theorem decode_eq_some_iff {fixed : Bool} {t : BitVec 64} {w : BitVec 32} {i : Instr} : decode fixed t w = some i ↔
    (Fields.unpack t w).norm.parse fixed = some i ∧ i.wf = true ∧ i.fields = some (Fields.unpack t w).norm := by
  unfold decode
  dsimp only
  split
  case h_1 h => simp [h]
  case h_2 j h =>
    constructor
    · intro hj
      split at hj
      case isTrue hok => obtain rfl := Option.some.inj hj; simpa [h] using hok
      case isFalse => cases hj
    · rintro ⟨hi, hwf, hfields⟩
      obtain rfl := Option.some.inj (h.symm.trans hi)
      simp [hwf, hfields]

/-- Settles O4: the fields read back instruction by instruction (`reads_fields`), and the decoder checks its own candidate. -/
theorem decodingInvertsEncoding : Obligations.DecodingInvertsEncoding := by
  unfold Obligations.DecodingInvertsEncoding
  constructor
  · intro i x p hwf hp
    obtain ⟨f, hf, rfl⟩ := Option.map_eq_some_iff.1 hp
    obtain ⟨hnorm, hparse⟩ := reads_fields hwf hf
    rw [decode_eq_some_iff, Fields.unpack_pack, hnorm]
    exact ⟨hparse, hwf, hf⟩
  · intro fixed t w i hi
    exact (decode_eq_some_iff.1 hi).2

/-- Settles O3, by decoding each word. -/
theorem decodedWords : Obligations.DecodedWords := by
  unfold Obligations.DecodedWords
  decide +kernel

end Sys2Proof
end

section
/-! PROOF. The end of a group (04 R82, R86, R87; 07 R146): what writing the issuing thread leaves as it was, what the switch
marker adds, and the statements O9 and O6. -/

namespace Sys2Proof.Machine

/-! Writing the issuing thread. -/

/-- Everything but the issuing thread itself, its words that were left for later, what the group carries and the counter of
free values is as before. -/
structure State.SameButThread (s r : State) : Prop where
  outside : { r with cur := s.cur, fresh := s.fresh, issue := s.issue } = s
  wave : { r.cur with splits := s.cur.splits, sprigs := s.cur.sprigs, frame := s.cur.frame, late := s.cur.late } = s.cur
  file : r.file = s.file
  sys : r.sys = s.sys
  splits : ∀ n, s.who ≠ .split n → NMap.get? r.cur.splits n = NMap.get? s.cur.splits n
  sprigs : ∀ j, s.who ≠ .sprig j → NMap.get? r.cur.sprigs j = NMap.get? s.cur.sprigs j

theorem State.SameButThread.who {s r : State} (h : s.SameButThread r) : r.who = s.who := by
  rw [← h.outside]

theorem State.SameButThread.trans {s r t : State} (h : s.SameButThread r) (k : r.SameButThread t) : s.SameButThread t where
  outside := by rw [← h.outside, ← k.outside]
  wave := by rw [← h.wave, ← k.wave]
  file := k.file.trans h.file
  sys := k.sys.trans h.sys
  splits n hn := (k.splits n (h.who ▸ hn)).trans (h.splits n hn)
  sprigs j hj := (k.sprigs j (h.who ▸ hj)).trans (h.sprigs j hj)

theorem State.SameButThread.wave_file {s r : State} (h : s.SameButThread r) : r.cur.file = s.cur.file := by
  rw [← h.wave]

theorem State.SameButThread.wave_sys {s r : State} (h : s.SameButThread r) : r.cur.sys = s.cur.sys := by
  rw [← h.wave]

theorem Wave.setThread_eq (w : Wave) (who : Who) (t : Thread) : w.setThread who t =
    { w with splits := (w.setThread who t).splits, sprigs := (w.setThread who t).sprigs,
             frame := (w.setThread who t).frame } := by
  cases who with
  | split n => rfl
  | sprig j => unfold Wave.setThread; dsimp only; split <;> rfl
  | handler => unfold Wave.setThread; dsimp only; split <;> rfl

theorem Wave.splits_setThread (w : Wave) {who : Who} {n : Nat} (h : who ≠ .split n) (t : Thread) :
    NMap.get? (w.setThread who t).splits n = NMap.get? w.splits n := by
  cases who with
  | split k => exact nmap_get_set_other _ _ _ _ fun e => h (e ▸ rfl)
  | sprig j => unfold Wave.setThread; dsimp only; split <;> rfl
  | handler => unfold Wave.setThread; dsimp only; split <;> rfl

theorem Wave.sprigs_setThread (w : Wave) {who : Who} {j : Nat} (h : who ≠ .sprig j) (t : Thread) :
    NMap.get? (w.setThread who t).sprigs j = NMap.get? w.sprigs j := by
  cases who with
  | split n => rfl
  | sprig k =>
    unfold Wave.setThread
    dsimp only
    split
    case h_1 => exact nmap_get_set_other _ _ _ _ fun e => h (e ▸ rfl)
    case h_2 => rfl
  | handler => unfold Wave.setThread; dsimp only; split <;> rfl

/-- The issuing sprig, if a sprig issues, keeps everything but its thread. -/
theorem State.sprig?_setThread (s : State) (t : Thread) :
    (s.setThread t).sprig? = s.sprig?.map fun p => { p with th := t } := by
  unfold State.sprig?
  rw [State.setThread_who, State.setThread_cur]
  cases s.who with
  | split n => rfl
  | handler => rfl
  | sprig j =>
    unfold Wave.setThread
    dsimp only
    split
    case h_1 p hp => simp [hp]
    case h_2 hp => simp [hp]

theorem State.late_setThread (s : State) (t : Thread) : (s.setThread t).cur.late = s.cur.late := by
  rw [State.setThread_cur, Wave.setThread_eq]

theorem State.sameButThread_setThread (s : State) (t : Thread) : s.SameButThread (s.setThread t) where
  outside := rfl
  wave := by rw [State.setThread_cur, Wave.setThread_eq]
  file := by
    unfold State.file
    rw [State.sprig?_setThread, State.setThread_cur, Wave.setThread_eq]
    cases s.sprig? <;> rfl
  sys := by
    unfold State.sys
    rw [State.sprig?_setThread, State.setThread_cur, Wave.setThread_eq]
    cases s.sprig? <;> rfl
  splits _ h := s.cur.splits_setThread h t
  sprigs _ h := s.cur.sprigs_setThread h t

theorem State.threadExists_setThread {s : State} (t : Thread) (h : s.threadExists) : (s.setThread t).threadExists := by
  unfold State.threadExists at *
  unfold State.setThread Wave.setThread
  cases hw : s.who with
  | split n => simp
  | sprig j =>
    simp only [hw] at h
    obtain ⟨p, hp⟩ := Option.isSome_iff_exists.1 h
    simp [hp]
  | handler =>
    simp only [hw] at h
    obtain ⟨f, hf⟩ := Option.isSome_iff_exists.1 h
    simp [hf]

/-- `r` is `s` with its issuing thread replaced by `t`, but for what the group carries. -/
structure State.MovesThread (s r : State) (t : Thread) : Prop where
  same : s.SameButThread r
  late : r.cur.late = s.cur.late
  thread : r.thread = t
  present : r.threadExists

theorem State.movesThread_self {s : State} (h : s.threadExists) : s.MovesThread s s.thread :=
  ⟨⟨rfl, rfl, rfl, rfl, fun _ _ => rfl, fun _ _ => rfl⟩, rfl, rfl, h⟩

theorem State.movesThread_setThread {s : State} (t : Thread) (h : s.threadExists) : s.MovesThread (s.setThread t) t :=
  ⟨s.sameButThread_setThread t, s.late_setThread t, s.thread_setThread t h, s.threadExists_setThread t h⟩

theorem State.MovesThread.trans {s r u : State} {a b : Thread} (h : s.MovesThread r a) (k : r.MovesThread u b) :
    s.MovesThread u b := ⟨h.same.trans k.same, k.late.trans h.late, k.thread, k.present⟩

/-! The switch marker (07 R146). -/

/-- A thread that goes on as `a` does, and may wait for its results. -/
def Thread.GoesOnAs (t a : Thread) (marker : Bool) : Prop :=
  t.pc = a.pc ∧ t.mask = a.mask ∧ t.preds = a.preds ∧ t.stack = a.stack ∧
    (t.park = a.park ∨ (marker = true ∧ t.park = .marker))

theorem State.mark_moves {s : State} (h : s.threadExists) :
    ∃ t, s.MovesThread s.mark t ∧ t.GoesOnAs s.thread s.issue.marker := by
  have self : s.thread.GoesOnAs s.thread s.issue.marker := ⟨rfl, rfl, rfl, rfl, .inl rfl⟩
  unfold State.mark
  dsimp only
  split
  case isTrue => exact ⟨s.thread, State.movesThread_self h, self⟩
  case isFalse hm =>
    split
    case isTrue => exact ⟨{ s.thread with mark := true }, State.movesThread_setThread _ h, self⟩
    case isFalse =>
      split
      case isTrue =>
        exact ⟨{ s.thread with park := .marker }, State.movesThread_setThread _ h, rfl, rfl, rfl, rfl,
          .inr ⟨by simpa using hm, rfl⟩⟩
      case isFalse => exact ⟨s.thread, State.movesThread_self h, self⟩

/-! The end of a group (04 R82, R86). -/

/-- The machine as the end of a group finds it: what the group carried is gone, and with it what the thread had left for
later. -/
def State.groupOver (s : State) : State :=
  { s with fresh := s.fresh + 1, cur := { s.cur with late := s.cur.late.filter (·.1 != s.who) },
           issue := { s.issue with transfer := none, raised := 0, stop := none, cut := none } }

/-- The issuing thread as a group leaves it that ends at `slot`, before it moves on. -/
def State.groupLeaves (s : State) (slot : Nat) : Thread :=
  { s.thread with chained := false, heard := false, choice := if slot < 2 then s.thread.choice else none }

/-- The machine after a group without a transfer that ends at `slot`, but for the switch marker. -/
def State.movedOn (s : State) (slot : Nat) : State :=
  let u := s.groupOver.setThread (s.groupLeaves slot)
  u.setThread { u.thread with pc := s.thread.pc.after slot }

theorem State.settle_of_noTransfer {s : State} (htr : s.issue.transfer = none) (slot : Nat) :
    s.settle slot = (s.movedOn slot).mark.seeNow := by
  simp only [State.settle, htr, Option.isNone_none, Bool.true_and, decide_eq_true_eq]
  rfl

theorem State.movedOn_moves {s : State} (hex : s.threadExists) (slot : Nat) : s.groupOver.MovesThread (s.movedOn slot)
    { s.groupLeaves slot with pc := s.thread.pc.after slot } := by
  have h : s.groupOver.MovesThread _ (s.groupLeaves slot) := State.movesThread_setThread (s := s.groupOver) _ hex
  simp only [State.movedOn, h.thread]
  exact h.trans (State.movesThread_setThread _ h.present)

/-- Settles O9: the end of a group clears what the group carried, writes the issuing thread, and then obeys the marker. -/
theorem slotEndKeepsTheRest : Obligations.SlotEndKeepsTheRest := by
  unfold Obligations.SlotEndKeepsTheRest
  intro s k htr hex
  have hmove := State.movedOn_moves hex k
  obtain ⟨t, hmark, hpc, hmask, hpreds, hstack, hpark⟩ := State.mark_moves hmove.present
  rw [hmove.thread] at hpc hmask hpreds hstack hpark
  obtain ⟨hsame, hlate, hthread, -⟩ := hmove.trans hmark
  have hover : s.SameButThread s.groupOver := ⟨rfl, rfl, rfl, rfl, fun _ _ => rfl, fun _ _ => rfl⟩
  obtain ⟨houtside, hwave, hfile, hsys, hsplits, hsprigs⟩ := hover.trans hsame
  have hend : (s.movedOn k).mark.seeNow.thread = t := hthread
  dsimp only
  rw [State.settle_of_noTransfer htr, hend]
  exact ⟨hpc, hmask, hpreds, hstack, hpark, hfile, hsys, (hover.trans hsame).wave_file, (hover.trans hsame).wave_sys,
    houtside, hwave, hlate, hsplits, hsprigs⟩

/-! Stops of a group (04 R87). -/

theorem State.halted_of_multi {s : State} (h : s.issue.multi = true) (tr : Trap) :
    s.halted (.trap tr) = s.noteStop (.trap tr) := by
  simp only [State.halted, h, if_true, State.finishWord]

theorem runWords_of_trap {s t : State} {p : BitVec 128} {slots : List Nat} {k : Nat} {tr : Trap}
    (hrun : runGroup p slots false s = .next t) (hstop : t.issue.stop = some (k, .trap tr)) :
    runWords p slots s = .next (s.stopGroup t k (.trap tr)) := by
  simp only [runWords, hrun, hstop]

/-- The machine as the stop of a group finds it: what the group carried is gone. -/
def State.groupStopped (s : State) : State :=
  { s with fresh := s.fresh + 1, issue := { s.issue with transfer := none, raised := 0, stop := none, cut := none } }

theorem State.halt_of_trap {s : State} {tr : Trap} (haway : awaySector tr.cause = none) (slot : Nat) :
    s.halt slot (.trap tr) = (s.groupStopped.raise ⟨s.packet, slot⟩ tr).seeNow := by
  simp only [State.halt, State.trapOrWait, haway]
  rfl

theorem State.readsLike_groupStopped (s : State) : s.counted.ReadsLike s.groupStopped :=
  State.readsLike_cur s.counted s.cur s.groupStopped.issue s.agenda s.who rfl rfl

theorem State.landing_groupStopped (s : State) (t : W64) : s.groupStopped.landing s.cur t = s.counted.landing s.cur t :=
  s.readsLike_groupStopped.landing (fun _ => rfl) rfl rfl rfl t

/-- A trap that names no place to resume at enters the handler, which resumes where the thread stands. -/
theorem State.takeTrap_enters {s : State} {tr : Trap} (at_ : PC) (htx : s.cur.tx = none) (hdue : s.cur.due = none)
    (hc : tr.cause ≠ 4) (hframe : s.cur.frame = none) (hpark : s.thread.park ≠ .rendezvous) (hresume : tr.resume = none)
    (hfatal : s.trapFatal = false) : s.takeTrap s.who at_ tr =
      (s.noteTrap at_ tr tr.tx).enterHandler (s.thread.ended s.cycle.toNat) s.thread.pc := by
  have hp : (s.thread.ended s.cycle.toNat).park ≠ .rendezvous := hpark
  have hpc : (if tr.tx = true then (s.thread.ended s.cycle.toNat).pc else s.thread.pc) = s.thread.pc := ite_self _
  simp only [State.takeTrap, State.beforeTrap_self htx hdue hc, State.inHandler, hframe, htx, hp, hresume, hfatal,
    Option.isSome_none, Bool.false_or, Bool.false_and, Bool.false_eq_true, if_false, Option.getD_none]
  exact congrArg _ hpc

/-- Where a split's trap is taken at once and enters the handler: nothing is outstanding or due, no transaction is open, and
HANDLER is a landing point. -/
theorem State.halt_enters {s : State} {tr : Trap} (hframe : s.cur.frame = none) (htx : s.cur.tx = none)
    (hpend : s.cur.pending = []) (hdue : s.cur.due = none) (hpark : s.thread.park ≠ .rendezvous) (hresume : tr.resume = none)
    (hc : tr.cause ≠ 4) (haway : awaySector tr.cause = none) (hz : s.const s.cur 7 52 ≠ 0)
    (hland : s.counted.landing s.cur (s.const s.cur 7 52) = true) (slot : Nat) :
    s.halt slot (.trap tr) = ((s.groupStopped.noteTrap ⟨s.packet, slot⟩ tr tr.tx).enterHandler
      (s.thread.ended s.cycle.toNat) s.thread.pc).seeNow := by
  have hh : s.groupStopped.landing s.groupStopped.cur (s.groupStopped.const s.groupStopped.cur 7 52) = true :=
    (s.landing_groupStopped _).trans hland
  have hraise := State.raise_takes (s := s.groupStopped) (tr := tr) ⟨s.packet, slot⟩ htx hdue hframe hpend hh hz
  have htake := State.takeTrap_enters (s := s.groupStopped) ⟨s.packet, slot⟩ htx hdue hc hframe hpark hresume
    (State.trapFatal_of_landing hframe hh hz)
  rw [State.halt_of_trap haway, hraise, htake]
  rfl

/-- A split's handler has the registers, memory, stacks and INKWELL as the trap found them, and resumes where it is told. -/
theorem State.enterHandler_of_split {s : State} {n : Nat} (hwho : s.who = .split n) (t : Thread) (resume : PC) :
    let u := s.enterHandler t resume
    u.cur.file = s.cur.file ∧ u.mem = s.mem ∧ u.cur.inkwell = s.cur.inkwell ∧ u.cur.recs = s.cur.recs ∧
      u.cur.frame.map (·.resume) = some resume := by
  simp only [State.enterHandler, State.setThread, Wave.setThread, hwho, Option.map_some, and_self]

/-- A trap writes TRAPINFO and TRAPADDR alone; what they hold matters to no other part of the state. -/
theorem State.noteTrap_eq (s : State) (at_ : PC) (tr : Trap) (tx : Bool) :
    ∃ info addr, s.noteTrap at_ tr tx = { s with cur := { s.cur with trapinfo := info, trapaddr := addr } } := ⟨_, _, rfl⟩

/-- Settles O6: the first stop is kept, `stopGroup` goes back to the state before the group, and a split's trap is taken there
at once. -/
theorem groupsAreExact : Obligations.GroupsAreExact := by
  unfold Obligations.GroupsAreExact
  refine ⟨fun s tr hmulti => ?first, fun _ _ _ _ _ _ => runWords_of_trap, ?resumes⟩
  case first => rw [State.halted_of_multi hmulti]; rfl
  case resumes =>
    intro s n k tr hwho hframe htx hpend hdue hpark hresume hc haway hz hland
    obtain ⟨info, addr, hnote⟩ := s.groupStopped.noteTrap_eq ⟨s.packet, k⟩ tr tr.tx
    rw [State.halt_enters hframe htx hpend hdue hpark hresume hc haway hz hland, hnote]
    exact State.enterHandler_of_split
      (s := { s.groupStopped with cur := { s.groupStopped.cur with trapinfo := info, trapaddr := addr } }) hwho _ _

end Sys2Proof.Machine
end

section
/-! PROOF. Faults by name (04 R90, R91, R102; 06 R129; 13 R251): what an unwritten entry, a word that is no instruction, a register
beyond the blocks held, a tag and a faulting access raise, and the statement O7. -/

namespace Sys2Proof.Machine

@[simp] theorem stop_error_bind {α β : Type} (e : Stop) (f : α → Except Stop β) : (Except.error e >>= f) = .error e := rfl

/-! Words (04 R90, R91). -/

theorem State.decodeWord_of_unwritten {s : State} {w : BitVec 32}
    (h : templateValid (s.template (w.extractLsb' 23 7).toNat) = false) :
    s.decodeWord w = .error (.trap { Trap.of 5 with code := (w.extractLsb' 23 7).toNat }) := by
  simp only [State.decodeWord, h, Bool.not_false, if_true]

theorem State.decodeWord_of_refused {s : State} {w : BitVec 32}
    (hvalid : templateValid (s.template (w.extractLsb' 23 7).toNat) = true)
    (hnone : decode ((w.extractLsb' 23 7).toNat == 6) (s.template (w.extractLsb' 23 7).toNat) w = none) :
    s.decodeWord w = .error illegal := by
  simp only [State.decodeWord, hvalid, hnone, Bool.not_true, Bool.false_eq_true, if_false]

/-! Registers and tags (02 R43, 06 R129). -/

section
variable {s : State} {f tag : Fmt} {sel : Sel} {d : Dest} {ops : List Operand} {ok : Fmt → Bool}

theorem State.elementwise_of_beyond (h : (s.destOk d && ops.all s.opOk) = false) (g : Nat → Nat → Nat) :
    s.elementwise f tag sel d ops ok g = .error illegal := by
  simp only [State.elementwise, h, need_false, stop_error_bind]

theorem State.elementwise_of_tag {e : Stop} (h : (s.destOk d && ops.all s.opOk) = true) (htag : s.tagsIn ok ops = .error e)
    (g : Nat → Nat → Nat) : s.elementwise f tag sel d ops ok g = .error e := by
  simp only [State.elementwise, h, need_true, stop_ok_bind, htag, stop_error_bind]

end

/-- ADD, SUB, MUL, MULH, MIN and MAX are element-wise operations with the tag check of integer arithmetic (09 R188). -/
theorem exec_alu2 {f : Alu2} {i : Instr}
    (hi : i = .add f ∨ i = .sub f ∨ i = .mul f ∨ i = .mulh f ∨ i = .min f ∨ i = .max f) (s : State) :
    ∃ g : Int → Int → Int, exec i s = s.finish (s.alu2 f g) := by
  rcases hi with rfl | rfl | rfl | rfl | rfl | rfl <;> exact ⟨_, rfl⟩

theorem State.tagsIn_scalar_of_refused {s : State} {ok : Fmt → Bool} {r : BitVec 6} (h : ok (s.sreg r.toNat).tag = false) :
    s.tagsIn ok [.u (.s r)] = .error (tagFault (s.sreg r.toNat).tag) := by
  simp only [State.tagsIn, State.tagIn, State.tagOf, h, need_false]

/-! Accesses (13 R251). -/

theorem State.pieces_of_misaligned {s : State} {a n : Nat} (h : a % Nat.min n 8 ≠ 0) (sp : Space) (l : Nat) (nd : Need) :
    s.pieces sp l a n nd = [.error 3] := by
  simp only [State.pieces, h, ne_eq, not_false_eq_true, if_true]

theorem State.memFault_of_noTx {s : State} (h : s.cur.tx = none) (tr : Trap) : s.memFault tr = .trap tr := by
  simp only [State.memFault, h, Option.isSome_none, Bool.false_and, Bool.false_eq_true, if_false]

/-- A load outside transactions whose checks pass raises the fault of its accesses. -/
theorem exec_ld_of_fault {s : State} {f : LdForm} {tr : Trap} (hd : s.destOk f.d = true) (ha : s.opOk f.a = true)
    (hb : s.opOk f.b = true) (hpair : s.pairOk f.sz f.d = true) (htags : s.addrTags f.space f.a f.b = .ok ())
    (hspace : s.txSpace f.space = .ok ()) (hpart : f.sel = none ∨ s.awaits (RegName.ofDest f.d) = false)
    (hown : s.ownReady f.sel f.d = .ok ()) (hlanes : s.ldLanes f ≠ []) (hfault : s.ldAccesses f = .error tr)
    (htx : s.cur.tx = none) : exec (.ld f) s = .next (s.halted (.trap tr)) := by
  have hready : (f.sel.isNone || !s.awaits (RegName.ofDest f.d)) = true := by
    rcases hpart with h | h <;> simp [h]
  have hsome : (s.ldLanes f).isEmpty = false := by simpa using hlanes
  change execLd f s = _
  simp only [execLd, hd, ha, hb, hpair, htags, hspace, hready, hown, hsome, hfault, State.memFault_of_noTx htx, Bool.and_self,
    need_true, stop_ok_bind, Bool.false_eq_true, if_false, State.finish_error]

/-- Settles O7, fault by fault. -/
theorem faultsByName : Obligations.FaultsByName := by
  unfold Obligations.FaultsByName
  refine ⟨fun s w => ⟨State.decodeWord_of_unwritten, State.decodeWord_of_refused⟩, ?integers,
    fun _ _ _ => State.tagsIn_scalar_of_refused, fun _ sp l _ _ nd h => State.pieces_of_misaligned h sp l nd,
    fun _ _ _ => exec_ld_of_fault⟩
  case integers =>
    intro s f i hi
    obtain ⟨g, hg⟩ := exec_alu2 hi s
    rw [hg]
    constructor
    · intro hbeyond
      rw [State.alu2, State.elementwise_of_beyond hbeyond, State.finish_error]
    · intro e hwithin htag
      rw [State.alu2, State.elementwise_of_tag hwithin htag, State.finish_error]

end Sys2Proof.Machine
end

section
/-! PROOF. NOP, XLOAD and XFENCE (04 R98 to R100), TRAP, BRK, TRAP.ret and TFENCE (04 R101; 19 R368, R369): what each word does
once its checks pass, and the statement O37. -/

namespace Sys2Proof.Machine

/-! The exemplar table (04 R99). -/

/-- XLOAD of entries within the table, outside sprigs, joins and run-ahead, writes them where none is malformed. -/
theorem exec_xload_of_wellFormed {s t : State} {first : BitVec 7} {count addr : Src} {ts : List W64} (hsprig : s.inSprig = false)
    (hsplits : s.cur.shownSplits.length ≤ 1) (hjoins : s.cur.joins = 0) (hcount : s.srcTag countTag count = .ok ())
    (haddr : s.srcTag addrTag addr = .ok ()) (hfirst : 8 ≤ first.toNat) (hsome : 1 ≤ s.value .n64 count)
    (hlast : first.toNat + s.value .n64 count ≤ 128) (halign : (s.image addr).extractLsb' 0 3 = 0)
    (hahead : s.noRunAhead = .ok ()) (hwords : s.entryWords (s.image addr).toNat (s.value .n64 count) = .ok (ts, t))
    (hgood : firstMalformed ts first.toNat = none) :
    let u : State := { t with cur := t.cur.loadEntries first.toNat ts }
    exec (.xload first count addr) s = .next (s.closed (u.setThread { u.thread with choice := none })) := by
  have halone : (!s.inSprig && decide (s.cur.shownSplits.length ≤ 1) && s.cur.joins == 0) = true := by
    simp [hsprig, hsplits, hjoins]
  have hrange : (decide (8 ≤ first.toNat) && decide (1 ≤ s.value .n64 count) && decide (s.value .n64 count ≤ 120) &&
      decide (first.toNat + s.value .n64 count ≤ 128)) = true := by
    simp only [Bool.and_eq_true, decide_eq_true_eq]
    omega
  change execXload first count addr s = _
  simp only [execXload, halone, hcount, haddr, hrange, halign, hahead, hwords, hgood, beq_self_eq_true, need_true, stop_ok_bind,
    State.finish_ok]

/-! Returns from a trap (19 R368). -/

theorem State.returnFrame_of_handler {s : State} {f : Frame} (hframe : s.cur.frame = some f) (hwho : s.who = .handler) :
    s.returnFrame = .ok f := by
  simp only [State.returnFrame, hframe, hwho, beq_self_eq_true, need_true, stop_ok_bind]

theorem State.returnDepths_of_eq {s : State} {f : Frame} (hpreds : s.thread.preds.length = f.pdepth)
    (hstack : s.thread.stack.length = f.rdepth) : s.returnDepths f = .ok () := by
  simp only [State.returnDepths, hpreds, hstack, beq_self_eq_true, need_true, stop_ok_bind]

section
variable {s : State} {f : Frame} (hframe : s.cur.frame = some f) (hwho : s.who = .handler)
  (hpreds : s.thread.preds.length = f.pdepth) (hstack : s.thread.stack.length = f.rdepth)
include hframe hwho hpreds hstack

theorem exec_trapRet_of_handler : exec .trapRet s = .next (s.closed (s.returnTo f f.resume true)) := by
  change execTrapRet s = _
  simp only [execTrapRet, State.returnFrame_of_handler hframe hwho, State.returnDepths_of_eq hpreds hstack, stop_ok_bind,
    State.finish_ok]

theorem exec_trapRetTo_of_landing {a : Src} (htag : s.srcTag addrTag a = .ok ()) (hland : s.landing s.cur (s.image a) = true) :
    exec (.trapRetTo a) s =
      .next (s.closed ({ s with cur := { s.cur with prog := 0 } }.returnTo f ⟨s.image a, 0⟩ false)) := by
  change execTrapRetTo a s = _
  simp only [execTrapRetTo, State.returnFrame_of_handler hframe hwho, htag, State.returnDepths_of_eq hpreds hstack,
    State.needLanding_ok _ hland, stop_ok_bind, State.finish_ok]

end

/-! TFENCE (19 R369). -/

section
variable {s : State} (hover : s.over s.cur s.who .flags = true)
include hover

theorem exec_tfence_of_clear (h : s.fencedFlags &&& s.sys.ftrap = 0) : exec .tfence s = .next (s.closed s) := by
  change execTfence s = _
  simp only [execTfence, hover, h, beq_self_eq_true, need_true, stop_ok_bind, State.finish_ok]

theorem exec_tfence_of_raised (h : s.fencedFlags &&& s.sys.ftrap ≠ 0) :
    exec .tfence s = .next (s.halted (s.requested 0x10 (s.fencedFlags &&& s.sys.ftrap).toNat)) := by
  change execTfence s = _
  simp only [execTfence, hover, beq_eq_false_iff_ne.2 h, need_true, need_false, stop_ok_bind, stop_error_bind,
    State.finish_error]

end

/-- Settles O37, word by word; NOP, XFENCE, TRAP and BRK check nothing. -/
theorem exemplarAndTrapInstructionsComplete : Obligations.ExemplarAndTrapInstructionsComplete := by
  unfold Obligations.ExemplarAndTrapInstructionsComplete
  refine ⟨⟨fun s => s.finish_ok s, ?xload, fun s => s.finish_ok _⟩, fun s c => ⟨s.finish_error _, s.finish_error _⟩, ?ret, ?tfence⟩
  case xload =>
    intro s t first count addr ts hsprig hsplits hjoins hcount haddr n hfirst hsome hlast halign hahead hwords hgood
    exact exec_xload_of_wellFormed hsprig hsplits hjoins hcount haddr hfirst hsome hlast halign hahead hwords hgood
  case ret =>
    intro s f hframe hwho hpreds hstack
    exact ⟨exec_trapRet_of_handler hframe hwho hpreds hstack, fun a => exec_trapRetTo_of_landing hframe hwho hpreds hstack⟩
  case tfence => exact fun s hover => ⟨exec_tfence_of_clear hover, exec_tfence_of_raised hover⟩

end Sys2Proof.Machine
end

section
/-! PROOF. The values of e2m1 and e8m0 (06 R121, R122), and the statement O17. -/

namespace Sys2Proof.Machine

/-! e2m1 (06 R121). -/

/-- The significand of a code of e2m1 without its sign: subnormal below code 2. -/
def e2m1Sig (c : Nat) : Nat := if c / 2 = 0 then c % 2 else 2 + c % 2

/-- The exponent of a code of e2m1 without its sign, in units of the smallest subnormal. -/
def e2m1Exp (c : Nat) : Nat := c / 2 - 1

theorem numOf_e2m1_of_lt {c : Nat} (h : c < 8) : numOf .e2m1 c = .fin false (e2m1Sig c) ((e2m1Exp c : Int) - 1) := by
  have hmod : c % 8 = c := Nat.mod_eq_of_lt h
  have hsign : c % 16 < 8 := by omega
  by_cases hsub : c / 2 = 0
  · simp [numOf, Fmt.width, Fmt.frac, Fmt.hasInf, Fmt.isFloat, Fmt.least2, e2m1Sig, e2m1Exp, hmod, hsign, hsub]
  · have hexp : (-1 + ((c / 2 : Nat) : Int) - 1) = ((c / 2 - 1 : Nat) : Int) - 1 := by omega
    simp only [numOf, Fmt.width, Fmt.frac, Fmt.hasInf, Fmt.isFloat, Fmt.least2, e2m1Sig, e2m1Exp]
    simp [hmod, hsign, hsub, ← hexp]

/-- The codes from 8 on are the negatives of the codes from 0 on, in the same order. -/
theorem numOf_e2m1_add_eight {c : Nat} (h : c < 8) : numOf .e2m1 (c + 8) = (numOf .e2m1 c).neg := by
  have hmod : c % 8 = c := Nat.mod_eq_of_lt h
  have hlow : c % 16 < 8 := by omega
  have hhigh : 8 ≤ (c + 8) % 16 := by omega
  by_cases hsub : c / 2 = 0 <;>
    simp [numOf, Num.neg, Fmt.width, Fmt.frac, Fmt.hasInf, Fmt.isFloat, hmod, hlow, hhigh, hsub]

/-- The magnitudes 0, 0.5, 1, 1.5, 2, 3, 4 and 6, in halves. -/
theorem e2m1_halves : ∀ c < 8, e2m1Sig c * 2 ^ e2m1Exp c = [0, 1, 2, 3, 4, 6, 8, 12].getD c 0 := by decide

/-! e8m0 (06 R122). -/

theorem numOf_e8m0_of_lt {c : Nat} (h : c < 255) : numOf .e8m0 c = .fin false 1 ((c : Int) - 127) := by
  have hmod : c % 256 = c := by omega
  simp [numOf, hmod, Nat.ne_of_lt h]

theorem toUnits_of_le (rnd : Rnd) (neg : Bool) (m : Nat) {e u : Int} (h : u ≤ e) :
    toUnits rnd neg m e u = (m * 2 ^ (e - u).toNat, true) := by
  simp only [toUnits, h, if_true]

/-- 2^-127 is a multiple of the smallest subnormal of f32, so no mode rounds it. -/
theorem roundCode_f32_two_pow_neg_127 (rnd : Rnd) : roundCode .f32 rnd false 1 (-127) = (0x00400000, true) := by
  have hunit : max (((1 : Nat).log2 : Int) + -127 - (Fmt.f32.frac : Nat)) Fmt.f32.least2 = -149 := by decide
  simp only [roundCode, hunit, toUnits_of_le rnd false 1 (show (-149 : Int) ≤ -127 by decide)]
  decide

/-- Settles O17, code by code. -/
theorem smallFormatValues : Obligations.SmallFormatValues := by
  unfold Obligations.SmallFormatValues
  refine ⟨fun c hc => ⟨e2m1Sig c, e2m1Exp c, numOf_e2m1_of_lt hc, ?negative, e2m1_halves c hc⟩, fun c => numOf_e8m0_of_lt, ?nan,
    ?least⟩
  case negative => rw [numOf_e2m1_add_eight hc, numOf_e2m1_of_lt hc, Num.neg, Bool.not_false]
  case nan => decide
  case least =>
    intro rnd sat
    rw [numOf_e8m0_of_lt (by decide)]
    simp [roundTo, roundCode_f32_two_pow_neg_127, Fmt.maxCode, Fmt.frac, signCode, flagIf]

end Sys2Proof.Machine
end

section
/-! PROOF. Reduction trees (06 R139, 11 R219, R220): what a span value is, for every function, and what it is for the functions
that do not depend on the tree, and the statement O21. -/

namespace Sys2Proof.Machine

/-! The tree (06 R139). -/

/-- The result of one combining step, without its flags. -/
def redOp (fn : RedFn) (f : Fmt) (x y : Nat) : Nat := (redStep fn f x y).1

/-- One level of the tree: the adjacent results 2m and 2m + 1 of the level below, combined. -/
def redPairs (fn : RedFn) (f : Fmt) (g : Nat → Nat) (m : Nat) : Nat := redOp fn f (g (2 * m)) (g (2 * m + 1))

/-- The results of level `t` of the tree, in order. -/
def redLevel (fn : RedFn) (f : Fmt) (leaf : Nat → Nat) : (t : Nat) → Nat → Nat
  | 0 => leaf
  | t + 1 => redPairs fn f (redLevel fn f leaf t)

/-- What a span delivers of its combined lanes: a NaN is canonical (06 R119). -/
def redCanon (f : Fmt) (r : Nat) : Nat := if f.isFloat && (numOf f r).isNan then f.nanCode else r

@[simp] theorem redStepF_fst (fn : RedFn) (f : Fmt) (x y : Nat × BitVec 5) : (redStepF fn f x y).1 = redOp fn f x.1 y.1 := rfl

@[simp] theorem treeNode_zero_fst (fn : RedFn) (f : Fmt) (leaf : Nat → Nat) (m : Nat) : (treeNode fn f leaf 0 m).1 = leaf m := rfl

@[simp] theorem treeNode_succ_fst (fn : RedFn) (f : Fmt) (leaf : Nat → Nat) (t m : Nat) :
    (treeNode fn f leaf (t + 1) m).1 = redOp fn f (treeNode fn f leaf t m).1 (treeNode fn f leaf t (m + 2 ^ t)).1 := rfl

/-- The nodes of level `t`, in order, are `t` levels of adjacent pairs. -/
theorem treeNode_fst_eq_redLevel (fn : RedFn) (f : Fmt) (leaf : Nat → Nat) (t m : Nat) :
    (treeNode fn f leaf t (2 ^ t * m)).1 = redLevel fn f leaf t m := by
  induction t generalizing m with
  | zero => rw [treeNode_zero_fst, Nat.pow_zero, Nat.one_mul, redLevel]
  | succ t ih =>
    have hleft : 2 ^ (t + 1) * m = 2 ^ t * (2 * m) := by rw [Nat.pow_succ, Nat.mul_assoc]
    have hright : 2 ^ t * (2 * m) + 2 ^ t = 2 ^ t * (2 * m + 1) := by rw [Nat.mul_add, Nat.mul_one]
    rw [treeNode_succ_fst, hleft, hright, ih, ih, redLevel, redPairs]

/-! Spans (11 R220). -/

theorem spanFrom_of_lt (fn : RedFn) (f : Fmt) (leaf : Nat → Nat) {b m : Nat} (n : Nat) (acc : Nat × BitVec 5) (h : b < m) :
    spanFrom fn f leaf b n m acc = acc := by
  cases n with
  | zero => rfl
  | succ n => simp only [spanFrom, h, if_true]

theorem spanFrom_succ_of_le (fn : RedFn) (f : Fmt) (leaf : Nat → Nat) {b m : Nat} (n : Nat) (acc : Nat × BitVec 5) (h : m ≤ b) :
    spanFrom fn f leaf b (n + 1) m acc = spanFrom fn f leaf b n (m + 2 ^ blockLevel m b)
      (redStepF fn f acc (treeNode fn f leaf (blockLevel m b) m)) := by
  simp only [spanFrom, Nat.not_lt.2 h, if_false]

theorem spanValue_fst (fn : RedFn) (f : Fmt) (leaf : Nat → Nat) (a b : Nat) :
    (spanValue fn f leaf a b).1 = redCanon f
      (spanFrom fn f leaf b 32 (a + 2 ^ blockLevel a b) (treeNode fn f leaf (blockLevel a b) a)).1 := rfl

theorem spanValue_snd (fn : RedFn) (f : Fmt) (leaf : Nat → Nat) (a b : Nat) :
    (spanValue fn f leaf a b).2 =
      (spanFrom fn f leaf b 32 (a + 2 ^ blockLevel a b) (treeNode fn f leaf (blockLevel a b) a)).2 := rfl

/-- The span of all lanes is the root of the tree. -/
theorem spanFrom_all (fn : RedFn) (f : Fmt) (leaf : Nat → Nat) :
    spanFrom fn f leaf 31 32 (0 + 2 ^ blockLevel 0 31) (treeNode fn f leaf (blockLevel 0 31) 0) = treeNode fn f leaf 5 0 := by
  rw [show blockLevel 0 31 = 5 by decide, spanFrom_of_lt fn f leaf 32 _ (by decide)]

/-- The span of lanes 0 to 6 is lanes 0 to 3, then lanes 4 and 5, then lane 6. -/
theorem spanFrom_to_six (fn : RedFn) (f : Fmt) (leaf : Nat → Nat) :
    spanFrom fn f leaf 6 32 (0 + 2 ^ blockLevel 0 6) (treeNode fn f leaf (blockLevel 0 6) 0) =
      redStepF fn f (redStepF fn f (treeNode fn f leaf 2 0) (treeNode fn f leaf 1 4)) (treeNode fn f leaf 0 6) := by
  rw [show blockLevel 0 6 = 2 by decide, spanFrom_succ_of_le fn f leaf 31 _ (by decide),
    show blockLevel (0 + 2 ^ 2) 6 = 1 by decide, spanFrom_succ_of_le fn f leaf 30 _ (by decide),
    show blockLevel (0 + 2 ^ 2 + 2 ^ 1) 6 = 0 by decide]
  exact spanFrom_of_lt fn f leaf 30 _ (by decide)

/-- A block that begins within a span ends within it. -/
theorem add_two_pow_blockLevel_le {m b : Nat} (h : m ≤ b) : m + 2 ^ blockLevel m b ≤ b + 1 := by
  unfold blockLevel
  refine List.foldlRecOn (motive := fun t => m + 2 ^ t ≤ b + 1) _ _ (by omega) fun acc hacc t _ => ?_
  split
  case isTrue hblock => exact hblock.2
  case isFalse => exact hacc

/-! What combining adjacent spans keeps holds of every span: `R a b v` says of `v` that it reduces the lanes from `a` to `b`. -/

section
variable {fn : RedFn} {f : Fmt} {leaf : Nat → Nat} {R : Nat → Nat → Nat → Prop} (hleaf : ∀ l, R l l (leaf l))
  (hjoin : ∀ a b c x y, a ≤ b → b < c → R a b x → R (b + 1) c y → R a c (redOp fn f x y))
include hleaf hjoin

theorem treeNode_reduces (t m : Nat) : R m (m + 2 ^ t - 1) (treeNode fn f leaf t m).1 := by
  induction t generalizing m with
  | zero => exact hleaf m
  | succ t ih =>
    have hpos : 0 < 2 ^ t := Nat.two_pow_pos t
    have hmid : m + 2 ^ t = m + 2 ^ t - 1 + 1 := by omega
    have hend : m + 2 ^ (t + 1) - 1 = m + 2 ^ t + 2 ^ t - 1 := by omega
    have hright := ih (m + 2 ^ t)
    rw [treeNode_succ_fst, hend]
    rw [hmid] at hright ⊢
    exact hjoin _ _ _ _ _ (by omega) (by omega) (ih m) hright

/-- Every block has a lane, so as much fuel as there are lanes left is enough. -/
theorem spanFrom_reduces {a b : Nat} (n m : Nat) (acc : Nat × BitVec 5) (hfuel : b ≤ m + n) (ham : a ≤ m) (hmb : m ≤ b)
    (hacc : R a m acc.1) : R a b (spanFrom fn f leaf b n (m + 1) acc).1 := by
  induction n generalizing m acc with
  | zero => rwa [show b = m by omega]
  | succ n ih =>
    rcases Nat.lt_or_ge b (m + 1) with hdone | hmore
    · rw [spanFrom_of_lt fn f leaf _ _ hdone, show b = m by omega]
      exact hacc
    · rw [spanFrom_succ_of_le fn f leaf n acc hmore]
      have hend := add_two_pow_blockLevel_le hmore
      have hnode := treeNode_reduces hleaf hjoin (blockLevel (m + 1) b) (m + 1)
      have hpos : 0 < 2 ^ blockLevel (m + 1) b := Nat.two_pow_pos _
      generalize hsize : 2 ^ blockLevel (m + 1) b = size at hend hnode hpos ⊢
      rw [show m + 1 + size = (m + 1 + size - 1) + 1 by omega]
      exact ih _ _ (by omega) (by omega) (by omega) (hjoin _ _ _ _ _ ham (by omega) hacc hnode)

theorem spanValue_reduces (hf : f.isFloat = false) {a b : Nat} (hab : a ≤ b) (hb : b < 32) : R a b (spanValue fn f leaf a b).1 := by
  have hend := add_two_pow_blockLevel_le hab
  have hnode := treeNode_reduces hleaf hjoin (blockLevel a b) a
  have hpos : 0 < 2 ^ blockLevel a b := Nat.two_pow_pos _
  rw [spanValue_fst, redCanon, hf, Bool.false_and, if_neg Bool.false_ne_true]
  generalize hsize : 2 ^ blockLevel a b = size at hend hnode hpos ⊢
  rw [show a + size = (a + size - 1) + 1 by omega]
  exact spanFrom_reduces hleaf hjoin 32 _ _ (by omega) (by omega) (by omega) hnode

end

/-! Associative functions: a span is the fold of its lanes. -/

/-- Lane `a` and the `n` lanes after it, folded from the left. -/
def laneFold (op : Nat → Nat → Nat) (leaf : Nat → Nat) (a n : Nat) : Nat :=
  (List.range n).foldl (fun acc l => op acc (leaf (a + (l + 1)))) (leaf a)

@[simp] theorem laneFold_zero (op : Nat → Nat → Nat) (leaf : Nat → Nat) (a : Nat) : laneFold op leaf a 0 = leaf a := rfl

theorem laneFold_succ (op : Nat → Nat → Nat) (leaf : Nat → Nat) (a n : Nat) :
    laneFold op leaf a (n + 1) = op (laneFold op leaf a n) (leaf (a + (n + 1))) := by
  simp [laneFold, List.range_succ]

theorem laneFold_from_zero (op : Nat → Nat → Nat) (leaf : Nat → Nat) (n : Nat) :
    laneFold op leaf 0 n = (List.range n).foldl (fun acc l => op acc (leaf (l + 1))) (leaf 0) := by
  simp only [laneFold, Nat.zero_add]

/-- A fold may begin with an element that leaves lane 0 as it is. -/
theorem laneFold_eq_foldl {op : Nat → Nat → Nat} {leaf : Nat → Nat} {e : Nat} (he : op e (leaf 0) = leaf 0) (n : Nat) :
    laneFold op leaf 0 n = (List.range (n + 1)).foldl (fun acc l => op acc (leaf l)) e := by
  simp [laneFold_from_zero, List.range_succ_eq_map, List.foldl_map, he]

section
variable {op : Nat → Nat → Nat} (hassoc : ∀ x y z, op (op x y) z = op x (op y z))
include hassoc

theorem op_laneFold_laneFold (leaf : Nat → Nat) (a j k : Nat) :
    op (laneFold op leaf a j) (laneFold op leaf (a + j + 1) k) = laneFold op leaf a (j + 1 + k) := by
  induction k with
  | zero => exact (laneFold_succ op leaf a j).symm
  | succ k ih =>
    rw [laneFold_succ, ← hassoc, ih, ← Nat.add_assoc (j + 1) k 1, laneFold_succ]
    congr 2
    omega

theorem spanValue_eq_laneFold {fn : RedFn} {f : Fmt} (leaf : Nat → Nat) (hop : ∀ x y, redOp fn f x y = op x y)
    (hf : f.isFloat = false) {b : Nat} (hb : b < 32) : (spanValue fn f leaf 0 b).1 = laneFold op leaf 0 b := by
  refine spanValue_reduces (R := fun a b v => v = laneFold op leaf a (b - a)) ?single ?joined hf b.zero_le hb
  case single => intro l; rw [Nat.sub_self, laneFold_zero]
  case joined =>
    rintro a b c x y hab hbc rfl rfl
    obtain ⟨j, rfl⟩ := Nat.exists_eq_add_of_le hab
    obtain ⟨k, rfl⟩ := Nat.exists_eq_add_of_le (show a + j + 1 ≤ c from hbc)
    have hlanes : a + j + 1 + k - a = j + 1 + k := by omega
    rw [hop, Nat.add_sub_cancel_left, Nat.add_sub_cancel_left, op_laneFold_laneFold hassoc, hlanes]

end

/-- Addition modulo `W`. -/
def addMod (W x y : Nat) : Nat := (x + y) % W

theorem addMod_assoc (W x y z : Nat) : addMod W (addMod W x y) z = addMod W x (addMod W y z) := by
  simp only [addMod, Nat.mod_add_mod, Nat.add_mod_mod, Nat.add_assoc]

/-- A value read as a number of the format is the same modulo 2^w. -/
theorem Fmt.num_emod (f : Fmt) (x : Nat) : f.num x % (2 : Int) ^ f.width = (x : Int) % (2 : Int) ^ f.width := by
  unfold Fmt.num signedOf
  split
  case isTrue =>
    dsimp only
    split <;> simp
  case isFalse => simp

theorem redOp_add_of_not_float {f : Fmt} (hf : f.isFloat = false) (x y : Nat) :
    redOp .add f x y = addMod (2 ^ f.width) x y := by
  have hsum : (f.num x + f.num y) % (2 : Int) ^ f.width = ((x + y : Nat) : Int) % (2 : Int) ^ f.width := by
    rw [Int.add_emod, Fmt.num_emod, Fmt.num_emod, ← Int.add_emod, Int.natCast_add]
  rw [redOp, redStep, hf]
  simp only [fit, wrapInt, addMod, Bool.false_eq_true, if_false, hsum]
  exact_mod_cast Int.toNat_natCast _

/-! Least and greatest values: a span is a lane whose key none of its lanes is below. -/

/-- `v` is one of the lanes from `a` to `b`, and no key of these lanes is below its own. -/
def LeastOfLanes (key : Nat → Int) (leaf : Nat → Nat) (a b v : Nat) : Prop :=
  ∃ l, a ≤ l ∧ l ≤ b ∧ v = leaf l ∧ ∀ k, a ≤ k → k ≤ b → key v ≤ key (leaf k)

theorem LeastOfLanes.single (key : Nat → Int) (leaf : Nat → Nat) (l : Nat) : LeastOfLanes key leaf l l (leaf l) :=
  ⟨l, Nat.le_refl l, Nat.le_refl l, rfl, fun k hlk hkl => Int.le_of_eq (by rw [Nat.le_antisymm hlk hkl])⟩

section
variable {fn : RedFn} {f : Fmt} {key : Nat → Int}
  (hop : ∀ x y, redOp fn f x y = x ∧ key x ≤ key y ∨ redOp fn f x y = y ∧ key y ≤ key x)
include hop

theorem LeastOfLanes.join {leaf : Nat → Nat} (a b c x y : Nat) (hab : a ≤ b) (hbc : b < c) (hleft : LeastOfLanes key leaf a b x)
    (hright : LeastOfLanes key leaf (b + 1) c y) : LeastOfLanes key leaf a c (redOp fn f x y) := by
  obtain ⟨l, hal, hlb, hx, hxle⟩ := hleft
  obtain ⟨r, hbr, hrc, hy, hyle⟩ := hright
  rcases hop x y with ⟨hpick, hkey⟩ | ⟨hpick, hkey⟩ <;> rw [hpick]
  · refine ⟨l, hal, Nat.le_trans hlb (Nat.le_of_lt hbc), hx, fun k hak hkc => ?_⟩
    rcases Nat.lt_or_ge b k with hbk | hkb
    · exact Int.le_trans hkey (hyle k hbk hkc)
    · exact hxle k hak hkb
  · refine ⟨r, Nat.le_trans hab (Nat.le_of_succ_le hbr), hrc, hy, fun k hak hkc => ?_⟩
    rcases Nat.lt_or_ge b k with hbk | hkb
    · exact hyle k hbk hkc
    · exact Int.le_trans hkey (hxle k hak hkb)

theorem exists_spanValue_eq_least (leaf : Nat → Nat) (hf : f.isFloat = false) {b : Nat} (hb : b < 32) :
    ∃ l ≤ b, (spanValue fn f leaf 0 b).1 = leaf l ∧ ∀ k ≤ b, key (leaf l) ≤ key (leaf k) := by
  obtain ⟨l, -, hlb, hvalue, hleast⟩ :=
    spanValue_reduces (LeastOfLanes.single key leaf) (LeastOfLanes.join hop) hf b.zero_le hb
  exact ⟨l, hlb, hvalue, fun k hkb => hvalue ▸ hleast k k.zero_le hkb⟩

end

theorem redOp_min_cases {f : Fmt} (hf : f.isFloat = false) (x y : Nat) :
    redOp .min f x y = x ∧ f.num x ≤ f.num y ∨ redOp .min f x y = y ∧ f.num y ≤ f.num x := by
  simp only [redOp, redStep, hf, Bool.false_eq_true, if_false]
  by_cases hlt : f.num x < f.num y
  · exact .inl ⟨if_pos hlt, Int.le_of_lt hlt⟩
  · exact .inr ⟨if_neg hlt, Int.not_lt.1 hlt⟩

theorem redOp_max_cases {f : Fmt} (hf : f.isFloat = false) (x y : Nat) :
    redOp .max f x y = x ∧ -f.num x ≤ -f.num y ∨ redOp .max f x y = y ∧ -f.num y ≤ -f.num x := by
  simp only [redOp, redStep, hf, Bool.false_eq_true, if_false]
  by_cases hlt : f.num x < f.num y
  · exact .inr ⟨if_pos hlt, Int.neg_le_neg (Int.le_of_lt hlt)⟩
  · exact .inl ⟨if_neg hlt, Int.neg_le_neg (Int.not_lt.1 hlt)⟩

/-- Settles O21: the tree by its levels, and each function that does not depend on it by what its combining step keeps. -/
theorem reductionTrees : Obligations.ReductionTrees := by
  unfold Obligations.ReductionTrees
  refine ⟨fun fn f leaf => ⟨?pairs, ?all, ?flags, ?six⟩, fun f leaf hf hleaf b hb => ⟨?add, ?or, ?xor, ?and, ?min, ?max⟩⟩
  case pairs => exact fun m => treeNode_fst_eq_redLevel fn f leaf 1 m
  case all =>
    rw [spanValue_fst, spanFrom_all]
    exact congrArg (redCanon f) (treeNode_fst_eq_redLevel fn f leaf 5 0)
  case flags => rw [spanValue_snd, spanFrom_all]
  case six =>
    rw [spanValue_fst, spanFrom_to_six, redStepF_fst, redStepF_fst]
    have hfour : (treeNode fn f leaf 2 0).1 = redLevel fn f leaf 2 0 := treeNode_fst_eq_redLevel fn f leaf 2 0
    have htwo : (treeNode fn f leaf 1 4).1 = redLevel fn f leaf 1 2 := treeNode_fst_eq_redLevel fn f leaf 1 2
    rw [hfour, htwo]
    rfl
  case add =>
    have hfirst : addMod (2 ^ f.width) 0 (leaf 0) = leaf 0 := by rw [addMod, Nat.zero_add, Nat.mod_eq_of_lt (hleaf 0)]
    exact (spanValue_eq_laneFold (addMod_assoc _) leaf (redOp_add_of_not_float hf) hf hb).trans (laneFold_eq_foldl hfirst b)
  case or => exact (spanValue_eq_laneFold Nat.or_assoc leaf (fun _ _ => rfl) hf hb).trans (laneFold_eq_foldl (Nat.zero_or _) b)
  case xor => exact (spanValue_eq_laneFold Nat.xor_assoc leaf (fun _ _ => rfl) hf hb).trans (laneFold_eq_foldl (Nat.zero_xor _) b)
  case and => exact (spanValue_eq_laneFold Nat.and_assoc leaf (fun _ _ => rfl) hf hb).trans (laneFold_from_zero _ leaf b)
  case min => exact exists_spanValue_eq_least (redOp_min_cases hf) leaf hf hb
  case max =>
    obtain ⟨l, hl, hvalue, hgreatest⟩ := exists_spanValue_eq_least (redOp_max_cases hf) leaf hf hb
    exact ⟨l, hl, hvalue, fun k hk => Int.neg_le_neg_iff.1 (hgreatest k hk)⟩

end Sys2Proof.Machine
end

section
/-! PROOF. A step (04 R81, R86, R91, R96; 07 R141): the event that is due, a word that is a group of its own, a word of a group of
several, a group that completes as a whole, and the statement O2. -/

namespace Sys2Proof.Machine

/-! What comes first (07 R141). -/

theorem step_of_event {s t : State} {i : Instr} (h : s.nextEvent = some (i, t)) : step s = exec i t := by
  simp only [step, h]

theorem step_of_idle {s : State} (hevent : s.nextEvent = none) (hidle : s.choose = none) : step s = .next s.endCycle := by
  simp only [step, hevent, hidle]

theorem step_of_chosen {s t : State} (hevent : s.nextEvent = none) (hchosen : s.choose = some t) : step s = runPlan t.plan := by
  simp only [step, hevent, hchosen]

/-! A word that is a group of its own (04 R86, R91). -/

section
variable {p : BitVec 128} {k : Nat} (hlast : (pktWord p k).getLsbD 31 = false)
include hlast

theorem groupSlots_of_unchained (n : Nat) : groupSlots p (n + 1) k = [k] := by
  simp only [groupSlots, hlast, Bool.and_false, Bool.false_eq_true, if_false]

theorem State.wordAt_of_unchained {s : State} {i : Instr} (hdecode : s.decodeWord (pktWord p k) = .ok i)
    (halone : mustBeAlone i = false ∨ k = 0 ∨ (pktWord p (k - 1)).getLsbD 31 = false) : s.wordAt p k false = .ok i := by
  have hmay : (mustBeAlone i && (decide (0 < k) && (pktWord p (k - 1)).getLsbD 31)) = false := by
    rcases halone with h | rfl | h
    · rw [h, Bool.false_and]
    · exact Bool.and_false _
    · rw [h, Bool.and_false, Bool.and_false]
  simp only [State.wordAt, hdecode, hlast, Bool.and_false, Bool.false_or, hmay, Bool.false_eq_true, if_false]

/-- A word that decodes and is a group of its own issues with its own switch marker. -/
theorem State.planGroup_of_unchained {s : State} {i : Instr} (hslot : s.thread.pc.slot = k) (hword : s.wordAt p k false = .ok i) :
    s.planGroup p = .one i { s with issue := ⟨false, k, pktLit p, (pktWord p k).getLsbD 30, none, none, 0, none, none⟩ } := by
  simp only [State.planGroup, hslot, groupSlots_of_unchained hlast, hword, groupMarker, List.any_cons, List.any_nil,
    Bool.or_false]

end

theorem State.decodeWord_of_decodes {s : State} {w : BitVec 32} {i : Instr}
    (hvalid : templateValid (s.template (w.extractLsb' 23 7).toNat) = true)
    (hdecode : decode ((w.extractLsb' 23 7).toNat == 6) (s.template (w.extractLsb' 23 7).toNat) w = some i) :
    s.decodeWord w = .ok i := by
  simp only [State.decodeWord, hvalid, hdecode, Bool.not_true, Bool.false_eq_true, if_false]

/-! From the chosen thread to its packet (04 R81, R97). -/

theorem State.rest_eq_of {s r : State} (hlate : r.cur.late = s.cur.late) (hwho : r.who = s.who) : r.rest = s.rest := by
  simp only [State.rest, hlate, hwho]

theorem State.holdShared_keeps {β : Type} (part : State → β) (h : ∀ (s : State) x, part { s with tlbs := x } = part s) (s : State)
    (die ctx va : Nat) : part (s.holdShared die ctx va) = part s := by
  unfold State.holdShared
  split
  · rfl
  · exact h _ _

theorem State.hold_keeps {β : Type} (part : State → β) (h : ∀ (s : State) x, part { s with tlbs := x } = part s)
    (hcluster : ∀ (s : State) n c, part (s.setCluster n c) = part s) (s : State) (cl ctx va : Nat) :
    part (s.hold cl ctx va) = part s := by
  unfold State.hold
  split
  · rfl
  · exact (State.holdShared_keeps part h _ _ _ _).trans (hcluster _ _ _)

theorem State.hold_cur (s : State) (cl ctx va : Nat) : (s.hold cl ctx va).cur = s.cur :=
  State.hold_keeps (·.cur) (fun _ _ => rfl) (fun _ _ _ => rfl) s cl ctx va

theorem State.hold_who (s : State) (cl ctx va : Nat) : (s.hold cl ctx va).who = s.who :=
  State.hold_keeps (·.who) (fun _ _ => rfl) (fun _ _ _ => rfl) s cl ctx va

/-- Keeping a packet leaves what the thread has left for later. -/
theorem State.rest_keepPacket (s : State) (p : BitVec 128) : (s.keepPacket p).rest = s.rest := by
  refine State.rest_eq_of ?late ?who
  case late => rw [State.keepPacket, State.late_setThread, State.hold_cur]
  case who => exact s.hold_who _ _ _

/-- A thread with no rest of a group, at a well-formed packet at which it does not arrive, plans the group at its slot. -/
theorem State.plan_of_fetched {s : State} {p : BitVec 128} (hrest : (s.setThread (s.thread.resume s.cycle.toNat)).rest = none)
    (hpacket : (s.setThread (s.thread.resume s.cycle.toNat)).nextPacket = .ok p) (hgood : pktBad p = false)
    (hjoin : ((s.setThread (s.thread.resume s.cycle.toNat)).keepPacket p).joinAt p = none) :
    s.plan = ((s.setThread (s.thread.resume s.cycle.toNat)).keepPacket p).chooseTable.planGroup p := by
  simp only [State.plan, hrest, State.planFetch, hpacket, State.planPacket, hgood, State.rest_keepPacket, hjoin,
    Bool.false_eq_true, if_false]

/-! Groups of several words (04 R86, R87). -/

/-- A word that goes on is followed by the rest of its group, at the packet that it leaves. -/
theorem runGroup_of_next {s t v : State} {p q : BitVec 128} {k : Nat} {rest : List Nat} {moved : Bool} {i : Instr}
    (hword : State.wordAt { s.chooseTable with issue := { s.issue with slot := k } } p k moved = .ok i)
    (hexec : exec i { s.chooseTable with issue := { s.issue with slot := k } } = .next t)
    (hafter : t.afterWord i p (!rest.isEmpty) = (q, v)) (hstop : v.issue.stop = none) :
    runGroup p (k :: rest) moved s = runGroup q rest (moved || transfersControl i) v := by
  simp only [runGroup, hword, hexec, hafter, hstop, Option.isSome_none, Bool.false_eq_true, if_false]

theorem runWords_of_completes {s t : State} {p : BitVec 128} {slots : List Nat} (hrun : runGroup p slots false s = .next t)
    (hstop : t.issue.stop = none) (hcut : t.issue.cut = none) : runWords p slots s = .next (t.closeGroup (slots.getLastD 0)) := by
  simp only [runWords, hrun, hstop, hcut]

/-- Settles O2: what the step turns to first, and what it then makes of the words. -/
theorem stepRunsDecoded : Obligations.StepRunsDecoded := by
  unfold Obligations.StepRunsDecoded
  refine ⟨fun s t i => step_of_event, fun s => step_of_idle, ?one, ?group, fun s t v p q k rest moved i => runGroup_of_next,
    fun s t p slots => runWords_of_completes⟩
  case one =>
    intro s t p i hevent hchosen u v k w x hrest hpacket hgood hjoin hlast hvalid hdecode halone
    have hword : v.wordAt p k false = .ok i :=
      State.wordAt_of_unchained hlast (State.decodeWord_of_decodes hvalid hdecode) halone
    rw [step_of_chosen hevent hchosen, State.plan_of_fetched hrest hpacket hgood hjoin,
      State.planGroup_of_unchained hlast rfl hword, runPlan]
  case group =>
    intro s t u p slots hevent hchosen hplan
    rw [step_of_chosen hevent hchosen, hplan, runPlan]

end Sys2Proof.Machine
end

section
/-! PROOF. Branches, calls and returns (07 R160, R162 to R164): what each word does once its checks pass, and the
statement O34. -/

namespace Sys2Proof.Machine

/-! Uniform branches, calls and returns (07 R162, R164). -/

theorem exec_brS_of_tag {s : State} {r : BitVec 6}
    (htag : s.srcTag (fun t => countTag t || t == .mask || t == .addr) (.s r) = .ok ()) (off : BitVec 16) :
    exec (.brS r off) s = .next (s.closed (if s.sval r.toNat = 0 then s else s.go (s.offsetTarget off))) := by
  change execBrS r off s = _
  simp only [execBrS, htag, stop_ok_bind, State.finish_ok]

theorem State.callTo_of_landing {s : State} {t : W64} (hland : s.landing s.cur t = true) (d : BitVec 6) :
    s.callTo d t = .ok ((s.writeS d.toNat .addr (s.packet + 16)).go t) := by
  simp only [State.callTo, State.needLanding_ok _ hland, stop_ok_bind]

theorem exec_call_of_landing {s : State} {off : BitVec 16} (hland : s.landing s.cur (s.offsetTarget off) = true) (d : BitVec 6) :
    exec (.call d off) s = .next (s.closed ((s.writeS d.toNat .addr (s.packet + 16)).go (s.offsetTarget off))) := by
  change execCall d off s = _
  simp only [execCall, State.callTo_of_landing hland, State.finish_ok]

section
variable {s : State} {a : Src} (htag : s.srcTag addrTag a = .ok ())
include htag

theorem exec_ret_of_aligned (halign : (s.image a).extractLsb' 0 4 = 0) :
    exec (.ret a) s = .next (s.closed (s.go (s.image a))) := by
  change execRet a s = _
  simp only [execRet, htag, halign, beq_self_eq_true, need_true, stop_ok_bind, State.finish_ok]

variable (hland : s.landing s.cur (s.image a) = true)
include hland

theorem exec_callR_of_landing (d : BitVec 6) :
    exec (.callR d a) s = .next (s.closed ((s.writeS d.toNat .addr (s.packet + 16)).go (s.image a))) := by
  change execCallR d a s = _
  simp only [execCallR, htag, State.callTo_of_landing hland, stop_ok_bind, State.finish_ok]

theorem exec_retE_of_landing : exec (.retE a) s = .next (s.closed (s.go (s.image a))) := by
  change execRetE a s = _
  simp only [execRetE, htag, State.needLanding_ok _ hland, stop_ok_bind, State.finish_ok]

end

/-! The vote of BR.p and BR.np (07 R160, R162). -/

/-- The lanes that vote: those active without the popped entry. -/
def State.voters (s : State) : Mask := s.rsys.exec &&& s.seenThread.mask &&& predBase s.seenThread.preds

/-- The lanes that branch: the voters whose predicate is as wanted. -/
def State.takers (s : State) (want : Bool) : Mask := s.voters &&& (if want then s.pred else ~~~s.pred)

/-- The nib core that takes the smaller part of a divided vote, if one does. -/
def State.minorNib (s : State) (taken : Mask) : Option Nat :=
  let rest := s.thread.mask &&& ~~~taken
  (s.setThread (s.thread.popPreds 1)).exports (if taken.count ≤ rest.count then taken else rest)

/-- A divided vote outside transactions divides the thread where there is a way to (07 R160). -/
def State.divideVote (s : State) (off : BitVec 16) (taken : Mask) : Except Stop State := do
  need s.cur.tx.isNone (.abort 8 none)
  need ((s.minorNib taken).isSome || s.canSplit 1 || s.canPend) recFault
  .ok ((s.setThread (s.thread.popPreds 1)).withTransfer (.divide taken ⟨s.offsetTarget off, 0⟩ (s.minorNib taken)))

theorem exec_branch_eq_vote (s : State) (off : BitVec 16) (want : Bool) :
    exec (if want then .brP off else .brNp off) s = s.finish (s.branchVote off want) := by
  cases want <;> rfl

section
variable {s : State} (hpop : s.canPop 1 = true) (off : BitVec 16) (want : Bool)
include hpop

/-- The vote on an entry that may be popped, by the lanes that branch. -/
theorem State.branchVote_of_depth : s.branchVote off want =
    let popped := s.setThread (s.thread.popPreds 1)
    if s.takers want = 0 then .ok popped
    else if s.takers want = s.voters then .ok (popped.go (s.offsetTarget off))
    else s.divideVote off (s.takers want) := by
  simp only [State.branchVote, hpop, need_true, stop_ok_bind]
  rfl

theorem State.branchVote_of_none (hnone : s.takers want = 0) :
    s.branchVote off want = .ok (s.setThread (s.thread.popPreds 1)) := by
  simp only [State.branchVote_of_depth hpop, hnone, if_true]

variable (hsome : s.takers want ≠ 0)
include hsome

theorem State.branchVote_of_all (hall : s.takers want = s.voters) :
    s.branchVote off want = .ok ((s.setThread (s.thread.popPreds 1)).go (s.offsetTarget off)) := by
  simp only [State.branchVote_of_depth hpop, if_neg hsome, if_pos hall]

theorem State.branchVote_of_divided (hdivided : s.takers want ≠ s.voters) (htx : s.cur.tx = none)
    (hroom : (s.minorNib (s.takers want)).isSome = true ∨ s.canSplit 1 = true ∨ s.canPend = true) :
    s.branchVote off want = .ok ((s.setThread (s.thread.popPreds 1)).withTransfer
      (.divide (s.takers want) ⟨s.offsetTarget off, 0⟩ (s.minorNib (s.takers want)))) := by
  have hplace : ((s.minorNib (s.takers want)).isSome || s.canSplit 1 || s.canPend) = true := by
    simpa only [Bool.or_eq_true, or_assoc] using hroom
  simp only [State.branchVote_of_depth hpop, if_neg hsome, if_neg hdivided, State.divideVote, htx, Option.isNone_none, hplace,
    need_true, stop_ok_bind]

end

/-! BRX (07 R163). -/

/-- The targets of the active lanes, rising. -/
def State.targetsOf (s : State) (target : Nat → W64) : List Nat :=
  s.active.toList.foldl (fun acc l => insertRising (target l).toNat acc) []

/-- The active lanes with a target that is no legal landing point. -/
def State.strayLanes (s : State) (target : Nat → W64) : Mask :=
  Mask.ofFn fun l => s.active.has l && !s.landing s.cur (target l)

/-- The active lanes with one target. -/
def State.lanesTo (s : State) (target : Nat → W64) (t : Nat) : Mask :=
  Mask.ofFn fun l => s.active.has l && (target l).toNat == t

/-- A thread whose active lanes point to the targets `targets`: it goes to the one, and to several in splits or in turn. -/
def State.spreadOver (s : State) (target : Nat → W64) (targets : List Nat) : Except Stop State :=
  match targets with
  | [] => .ok s
  | [t] => .ok (s.go (w64 t))
  | t :: others => do
    need s.cur.tx.isNone (.abort 8 none)
    if s.canSplit others.length then
      .ok (s.withTransfer (.fan ⟨w64 t, 0⟩ (others.map fun x => (⟨w64 x, 0⟩, s.lanesTo target x))))
    else
      need s.canPend recFault
      .ok (s.withTransfer (.serial ⟨w64 t, 0⟩ ⟨s.packet, s.slot⟩ (s.active &&& ~~~s.lanesTo target t)))

theorem exec_brx_of_ready {s : State} {a : BitVec 7} (hreg : s.regOk a.toNat = true)
    (htag : s.tagIn (· == .addr) (.v a) = .ok ()) :
    exec (.brx a) s = s.finish (s.branchEach fun l => s.vval a.toNat l) := by
  change execBrx a s = _
  simp only [execBrx, hreg, htag, need_true, stop_ok_bind]

theorem exec_brxTbl_of_ready {s : State} {a : BitVec 7} {base : Src} (hreg : s.regOk a.toNat = true)
    (htag : s.tagIn (· == .idx32) (.v a) = .ok ()) (hbase : s.srcTag addrTag base = .ok ()) :
    exec (.brxTbl a base) s =
      s.finish (s.branchEach fun l => w64 ((s.image base).toNat + 16 * elem 32 (s.vval a.toNat l) 0)) := by
  change execBrxTbl a base s = _
  simp only [execBrxTbl, hreg, htag, hbase, need_true, stop_ok_bind]

theorem State.branchEach_of_noLane {s : State} (h : s.active = 0) (target : Nat → W64) : s.branchEach target = .ok s := by
  simp only [State.branchEach, h, if_true]

/-- Where no lane strays, no lane's packet has to be waited for. -/
theorem State.noTargetAway {s : State} {target : Nat → W64} (h : s.strayLanes target = 0) :
    (s.active.toList.findSome? fun l => s.fetchAway s.cur (target l)) = none := by
  refine List.findSome?_eq_none_iff.2 fun l hl => ?_
  obtain ⟨hrange, hactive⟩ := List.mem_filter.1 hl
  have hgood := Mask.ofFn_eq_zero h (List.mem_range.1 hrange)
  simp only [hactive, Bool.true_and, Bool.not_eq_false'] at hgood
  exact State.fetchAway_of_landing hgood

section
variable {s : State} {target : Nat → W64} (hactive : s.active ≠ 0) (hstray : s.strayLanes target = 0)
include hactive hstray

/-- Where every active lane has a legal target, BRX goes by the targets alone. -/
theorem State.branchEach_of_landing : s.branchEach target = s.spreadOver target (s.targetsOf target) := by
  have haway := State.noTargetAway hstray
  unfold State.strayLanes at hstray
  simp only [State.branchEach, hactive, if_false, haway, stop_ok_bind, hstray, bne_self_eq_false, Bool.false_eq_true]
  rfl

theorem State.branchEach_of_one {t : Nat} (hone : s.targetsOf target = [t]) : s.branchEach target = .ok (s.go (w64 t)) := by
  rw [State.branchEach_of_landing hactive hstray, hone, State.spreadOver]

variable {t u : Nat} {rest : List Nat} (hmany : s.targetsOf target = t :: u :: rest) (htx : s.cur.tx = none)
include hmany htx

theorem State.branchEach_of_room (hroom : s.canSplit (rest.length + 1) = true) : s.branchEach target =
    .ok (s.withTransfer (.fan ⟨w64 t, 0⟩ ((u :: rest).map fun x => (⟨w64 x, 0⟩, s.lanesTo target x)))) := by
  rw [State.branchEach_of_landing hactive hstray, hmany]
  simp only [State.spreadOver, htx, Option.isNone_none, need_true, stop_ok_bind, List.length_cons, hroom, if_true]

theorem State.branchEach_of_pend (hfull : s.canSplit (rest.length + 1) = false) (hpend : s.canPend = true) : s.branchEach target =
    .ok (s.withTransfer (.serial ⟨w64 t, 0⟩ ⟨s.packet, s.slot⟩ (s.active &&& ~~~s.lanesTo target t))) := by
  rw [State.branchEach_of_landing hactive hstray, hmany]
  simp only [State.spreadOver, htx, Option.isNone_none, need_true, stop_ok_bind, List.length_cons, hfull, hpend,
    Bool.false_eq_true, if_false]

end

/-- Settles O34, word by word, the votes by what their lanes answer and BRX by where its lanes point. -/
theorem branchesComplete : Obligations.BranchesComplete := by
  unfold Obligations.BranchesComplete
  refine ⟨⟨fun s off => s.finish_ok _, fun s r off htag => exec_brS_of_tag htag off,
    fun s d off hland => exec_call_of_landing hland d, fun s d a htag hland => exec_callR_of_landing htag hland d,
    fun s a => exec_ret_of_aligned, fun s a => exec_retE_of_landing⟩, ?vote, ?brx, ?table, ?each⟩
  case vote =>
    intro s off want hpop i act taken rest popped nib
    rw [exec_branch_eq_vote]
    refine ⟨fun hnone => ?none, fun hsome hall => ?all, fun hsome hdivided htx hroom => ?divided⟩
    case none => rw [State.branchVote_of_none hpop off want hnone, State.finish_ok]
    case all => rw [State.branchVote_of_all hpop off want hsome hall, State.finish_ok]
    case divided => exact congrArg s.finish (State.branchVote_of_divided hpop off want hsome hdivided htx hroom)
  case brx =>
    intro s t a hreg htag heach
    rw [exec_brx_of_ready hreg htag, heach, State.finish_ok]
  case table =>
    intro s t a base hreg htag hbase heach
    rw [exec_brxTbl_of_ready hreg htag hbase, heach, State.finish_ok]
  case each =>
    intro s target act lanesTo targets
    exact ⟨fun hnone => State.branchEach_of_noLane hnone target, fun hactive hstray =>
      ⟨fun t => State.branchEach_of_one hactive hstray, fun t u rest hmany htx =>
        ⟨State.branchEach_of_room hactive hstray hmany htx, State.branchEach_of_pend hactive hstray hmany htx⟩⟩⟩

end Sys2Proof.Machine
end

section
/-! PROOF. The predicate stack, RECONV, VOTE and EXIT (07 R153, R154, R158, R166, R167; 08 R180): what each word does once its
checks pass, what votes and stacks compute, and the statements O35 and O36. -/

namespace Sys2Proof.Machine

/-! The predicate stack (07 R153, R154). -/

theorem exec_ppush_of_room {s : State} {a : Operand} (hreg : s.opOk a = true) (htag : s.tagIn (conditionTag a) a = .ok ())
    (hroom : s.thread.preds.length < 16) (neg : Bool) :
    exec (.ppush neg a) s = .next (s.closed (s.setThread (s.thread.pushPred
      (s.pred &&& (if neg then ~~~s.condition a else s.condition a))))) := by
  change execPpush neg a s = _
  simp only [execPpush, hreg, htag, decide_eq_true hroom, need_true, stop_ok_bind, State.finish_ok]

theorem exec_pinv_of_depth {s : State} (h : s.canPop 1 = true) :
    exec .pinv s = .next (s.closed (s.setThread { s.thread with
      preds := s.thread.ownBits (predBase s.seenThread.preds &&& ~~~s.pred) s.thread.top :: s.thread.preds.tail })) := by
  change execPinv s = _
  simp only [execPinv, h, need_true, stop_ok_bind, State.finish_ok]

theorem exec_ppop_of_depth {s : State} {n : BitVec 8} (h : s.canPop n.toNat = true) :
    exec (.ppop n) s = .next (s.closed (s.setThread (s.thread.popPreds n.toNat))) := by
  change execPpop n s = _
  simp only [execPpop, h, need_true, stop_ok_bind, State.finish_ok]

/-- A pushed entry has the pushed bits at the thread's own lanes. -/
theorem Thread.top_pushPred_own {t : Thread} {l : Nat} (hown : t.mask.getLsbD l = true) (m : Mask) :
    (t.pushPred m).top.getLsbD l = m.getLsbD l := by
  simp only [Thread.pushPred, Thread.top, Thread.ownBits, BitVec.getLsbD_or, BitVec.getLsbD_and, BitVec.getLsbD_not, hown,
    Bool.and_true, Bool.not_true, Bool.and_false, Bool.or_false]

theorem Thread.preds_popPreds_pushPred (t : Thread) (m : Mask) : ((t.pushPred m).popPreds 1).preds = t.preds := rfl

/-! RECONV (07 R158). -/

/-- RECONV with a free entry takes it for the thread's lanes, on top of the thread's stack. -/
theorem exec_reconv_of_room {s : State} (hroom : s.recs.length < 16) (off : BitVec 16) :
    let e := firstFree 15 (s.recs.map (·.1))
    let r : Rec := { addr := s.offsetTarget off, expect := s.thread.mask, arrived := 0, pend := none, share := 0,
                     pos := s.thread.stack.length, bits := [], depth := none, uneven := false, below := s.thread.stack }
    let t := (s.setRecs (NMap.set s.recs e r)).setThread { s.thread with stack := e :: s.thread.stack }
    exec (.reconv off) s = .next (s.closed { t with cur := t.cur.tidy }) := by
  change execReconv off s = _
  simp only [execReconv, decide_eq_true hroom, need_true, stop_ok_bind, State.finish_ok]

/-! VOTE (07 R166). -/

theorem exec_vote_of_ready {s : State} {a : Option (BitVec 7)} (h : s.voteReady a = .ok ()) (mode : VoteMode) (d : BitVec 6) :
    exec (.vote mode d a) s = .next (s.closed (s.writeS d.toNat (voteResult mode s.active (s.voteBits a)).1
      (voteResult mode s.active (s.voteBits a)).2)) := by
  change execVote mode d a s = _
  simp only [execVote, h, stop_ok_bind, State.finish_ok]

theorem toNat_voteResult_ballot (act bits : Mask) : (voteResult .ballot act bits).2.toNat = bits.toNat :=
  BitVec.toNat_setWidth_of_le (by decide)

theorem Mask.count_le (m : Mask) : m.count ≤ 32 :=
  Nat.le_trans (List.length_filter_le _ _) (Nat.le_of_eq List.length_range)

/-- The count of a vote fits its register. -/
theorem toNat_voteResult_count (act bits : Mask) : (voteResult .count act bits).2.toNat = bits.count :=
  Nat.mod_eq_of_lt (Nat.lt_of_le_of_lt (Mask.count_le bits) (by decide))

/-! EXIT (07 R167, 08 R180). -/

/-- EXIT ends the active lanes, or all where EXEC names none of the lanes at which it looks. -/
theorem exec_exit_of_noRunAhead {s : State} (h : s.noRunAhead = .ok ()) : exec .exit s =
    .next (s.closed (s.withTransfer (if s.rsys.exec &&& s.exitLook = 0 then .exitAll else .exit s.active))) := by
  change execExit s = _
  simp only [execExit, h, stop_ok_bind, State.finish_ok]

theorem State.exitLook_of_sprig {s : State} {p : Sprig} (h : s.sprig? = some p) : s.exitLook = p.lanes := by
  simp only [State.exitLook, h]

theorem State.exec_and_exitLook_of_noSprig {s : State} (h : s.sprig? = none) : s.rsys.exec &&& s.exitLook = s.rsys.exec := by
  simp only [State.exitLook, h, BitVec.and_allOnes]

/-- Settles O35, word by word; EXIT by the lanes at which it looks. -/
theorem stacksAndVotesComplete : Obligations.StacksAndVotesComplete := by
  unfold Obligations.StacksAndVotesComplete
  refine ⟨fun s neg a hreg htag hroom => exec_ppush_of_room hreg htag hroom neg, fun s => exec_pinv_of_depth,
    fun s n => exec_ppop_of_depth, fun s off hroom => exec_reconv_of_room hroom off,
    fun s mode d a hready => exec_vote_of_ready hready mode d, ?wave, ?sprig⟩
  case wave =>
    intro s hahead hsprig
    rw [exec_exit_of_noRunAhead hahead, State.exec_and_exitLook_of_noSprig hsprig]
  case sprig =>
    intro s p hahead hsprig
    rw [exec_exit_of_noRunAhead hahead, State.exitLook_of_sprig hsprig]

/-- Settles O36: the votes by their definition, a ballot and a count by their width, the stack by the entry on its top. -/
theorem voteAndPredicateValues : Obligations.VoteAndPredicateValues := by
  unfold Obligations.VoteAndPredicateValues
  exact ⟨fun act bits => ⟨rfl, rfl, toNat_voteResult_ballot act bits, rfl, toNat_voteResult_count act bits⟩,
    fun t m l _ hown => Thread.top_pushPred_own hown m, Thread.preds_popPreds_pushPred⟩

end Sys2Proof.Machine
end

section
/-! PROOF. SGET, SSET (07 R168 to R170; 08 R175), BLKACQ, BLKREL (03 R71, R72) and PULL (08 R184): what each word does once its
checks pass, and the statement O38. -/

namespace Sys2Proof.Machine

/-! System registers (07 R168 to R170). -/

theorem index_toNat_eq_one_iff {ix : BitVec 12} : ix.toNat = 1 ↔ ix = 1 :=
  ⟨fun h => BitVec.eq_of_toNat_eq h, fun h => h ▸ rfl⟩

theorem State.sgetTo_scalar {s : State} {ix : Nat} (hindex : s.sgetIndex ix = true) (hlane : ix ≠ 1) (fmt : Fmt) (r : BitVec 6) :
    s.sgetTo fmt (.s r) ix = .ok (if sgetVariable ix then s.deferS r fmt (s.sysValue ix)
      else s.writeS r.toNat fmt (s.sysValue ix)) := by
  simp only [State.sgetTo, State.destOk, hindex, Bool.and_self, bne_iff_ne.2 hlane, need_true, stop_ok_bind]

theorem State.sgetTo_vector {s : State} {ix : Nat} {r : BitVec 7} (hreg : s.regOk r.toNat = true) (hindex : s.sgetIndex ix = true)
    (hpart : s.partialReady none (.v r) = .ok ()) (fmt : Fmt) :
    let g (l : Nat) : W64 := if ix = 1 then w64 l else s.sysValue ix
    s.sgetTo fmt (.v r) ix = .ok (if sgetVariable ix then s.defer [(.v r.toNat, fmt, s.active, g)] 0 [] none
      else s.writeV r.toNat fmt s.active g) := by
  simp only [State.sgetTo, State.destOk, hreg, hindex, hpart, Bool.and_self, need_true, stop_ok_bind]

theorem exec_sset_of_inRange {s : State} {ix : BitVec 12} {a : Src} (hindex : ssetIndex ix.toNat = true)
    (hrange : ssetInRange ix.toNat (s.image a) = true) :
    exec (.sset ix a) s = .next (s.closed (s.sysWrite ix.toNat (s.image a))) := by
  change execSset ix a s = _
  simp only [execSset, hindex, hrange, need_true, stop_ok_bind, State.finish_ok]

/-! Register blocks (03 R71, R72). -/

section
variable {s : State} {n : Src} (hsprig : s.noSprig = .ok ()) (htag : s.srcTag countTag n = .ok ()) (hsome : 1 ≤ s.value .n64 n)
  (hmost : s.value .n64 n ≤ 8) (d : BitVec 6)
include hsprig htag hsome hmost

theorem exec_blkacq_of_inRange : exec (.blkacq d n) s =
    .next (s.closed (State.writeS { s with cur := s.granted (s.value .n64 n) } d.toNat .n64
      (w64 (s.granted (s.value .n64 n)).held))) := by
  change execBlkacq d n s = _
  simp only [execBlkacq, hsprig, htag, decide_eq_true hsome, decide_eq_true hmost, Bool.and_self, need_true, stop_ok_bind,
    State.finish_ok]

/-- BLKREL of no more blocks than its count keeps them. -/
theorem exec_blkrel_of_few (hfew : s.cur.held ≤ s.value .n64 n) :
    exec (.blkrel d n) s = .next (s.closed (s.writeS d.toNat .n64 (w64 s.cur.held))) := by
  change execBlkrel d n s = _
  simp only [execBlkrel, hsprig, htag, decide_eq_true hsome, decide_eq_true hmost, Bool.and_self, need_true, stop_ok_bind, hfew,
    if_true, State.finish_ok]

/-- BLKREL gives the blocks above its count back once nothing is outstanding for them. -/
theorem exec_blkrel_of_more (hmore : s.value .n64 n < s.cur.held) (hover : s.over s.cur s.who (.blocks (s.value .n64 n)) = true) :
    let t := s.pushFrom (s.value .n64 n)
    exec (.blkrel d n) s = .next (s.closed (State.writeS
      { t with cur := { t.cur with held := s.value .n64 n, lent := false } } d.toNat .n64 (w64 (s.value .n64 n)))) := by
  change execBlkrel d n s = _
  simp only [execBlkrel, hsprig, htag, decide_eq_true hsome, decide_eq_true hmost, Bool.and_self, need_true, stop_ok_bind,
    Nat.not_le.2 hmore, if_false, hover, State.finish_ok]

end

/-! PULL (08 R184). -/

theorem exec_pull_of_within {s : State} {scalar : Bool} {r : BitVec 7} {n1 : BitVec 5}
    (h : if scalar then r.toNat + (n1.toNat + 1) ≤ 64 else s.regsOk r.toNat (n1.toNat + 1) = true) :
    exec (.pull scalar r n1) s = .next (s.closed (s.pullRegs
      ((List.range (n1.toNat + 1)).map fun k => if scalar then .s (r.toNat + k) else .v (r.toNat + k)))) := by
  have hwithin : (if scalar then decide (r.toNat + (n1.toNat + 1) ≤ 64) else s.regsOk r.toNat (n1.toNat + 1)) = true := by
    cases scalar
    · exact h
    · exact decide_eq_true h
  change execPull scalar r n1 s = _
  simp only [execPull, hwithin, need_true, stop_ok_bind, State.finish_ok]

/-- Settles O38, word by word. -/
theorem systemRegistersAndBlocksComplete : Obligations.SystemRegistersAndBlocksComplete := by
  unfold Obligations.SystemRegistersAndBlocksComplete
  refine ⟨⟨?scalar, ?vector, fun s ix a => exec_sset_of_inRange⟩,
    fun s d n hsprig htag hsome hmost => exec_blkacq_of_inRange hsprig htag hsome hmost d, ?blkrel,
    fun s scalar r n1 => exec_pull_of_within⟩
  case scalar =>
    intro s fmt r ix pinned hindex hlane t
    have hlane' : ix.toNat ≠ 1 := fun h => hlane (index_toNat_eq_one_iff.1 h)
    exact ⟨congrArg s.finish (State.sgetTo_scalar hindex hlane' fmt r),
      congrArg s.finish (State.sgetTo_scalar hindex hlane' .b64 r)⟩
  case vector =>
    intro s fmt r ix pinned hreg hindex hpart g
    have hg : g = fun l => if ix.toNat = 1 then w64 l else s.sysValue ix.toNat := by
      simp only [g, index_toNat_eq_one_iff]
    rw [hg]
    exact congrArg s.finish (State.sgetTo_vector hreg hindex hpart fmt)
  case blkrel =>
    intro s d n hsprig htag k hsome hmost
    exact ⟨exec_blkrel_of_few hsprig htag hsome hmost d, exec_blkrel_of_more hsprig htag hsome hmost d⟩

end Sys2Proof.Machine
end

section
/-! PROOF. The events of one wave (07 R145, R159; 08 R173, R174, R179, R183; 19 R366; 20 R391): what each does where what it needs
holds, and the statement O57. -/

namespace Sys2Proof.Machine

/-! Results (07 R145). -/

theorem exec_variableLatencyResult_of_ready {s : State} {w id : Nat} {x : Wave} {p : Pending} (hwave : s.wave? w = some x)
    (hready : x.readyResult id = some p) :
    exec (.variableLatencyResult w id) s = .next ((s.setWave (x.writeResult p)).resultsChanged w).counted := by
  change execVariableLatencyResult w id s = _
  simp only [execVariableLatencyResult, hwave, hready, State.event_eq_counted]

/-! Sprigs (08 R173, R174, R179, R183). -/

section
variable {s : State} {w j : Nat} {x : Wave} {p : Sprig} (hwave : s.wave? w = some x) (hsprig : NMap.get? x.sprigs j = some p)
include hwave hsprig

/-- A register that a sprig out does not hold comes to it. -/
theorem State.flume_of_lacking {r : RegName} (hout : p.recalled = false) (hlacks : p.held.contains r = false) :
    s.flume w j r = s.setWave { x with sprigs := NMap.set x.sprigs j { p with held := r :: p.held } } := by
  simp only [State.flume, hwave, hsprig, hout, hlacks, Bool.or_self, Bool.false_eq_true, if_false]

/-- A recalled sprig that may leave does so where a nib core has room. -/
theorem exec_sprigReexport_of_room {n : Nat} (hback : p.recalled = true) (hmay : s.mayReexport x j = true)
    (haway : p.th.park ≠ .join 0) (hnib : s.nibFor x.cluster p.lines = some n) :
    exec (.sprigReexport w j) s = .next ((s.select w (.split p.exporter)).reexport j n p).counted := by
  change execSprigReexport w j s = _
  simp only [execSprigReexport, hwave, hsprig, hback, hmay, haway, hnib, Bool.not_true, Bool.false_eq_true, if_false,
    State.event_eq_counted]

/-- A sprig at its home entry rejoins once its results have been written. -/
theorem exec_sprigRejoin_of_home (hhome : p.th.park = .join 0) (hruns : x.stage = .running)
    (hresults : x.pending.any (fun q => q.who == .sprig j) = false) :
    exec (.sprigRejoin w j) s = .next ((s.select w (.split p.exporter)).rejoin j p).counted := by
  change execSprigRejoin w j s = _
  simp only [execSprigRejoin, hwave, hsprig, hhome, hruns, hresults, ne_eq, not_true_eq_false, decide_false, bne_self_eq_false,
    Bool.or_self, Bool.false_eq_true, if_false, State.event_eq_counted]

end

/-! Merges (07 R159). -/

section
variable {s : State} {w e : Nat} {x : Wave} {r : Rec} (hwave : s.wave? w = some x) (hrec : NMap.get? x.recs e = some r)
include hwave hrec

/-- A merge that cannot take place leaves the machine as it is. -/
theorem exec_joinMerge_of_unready (h : x.mergeReady e r = false) : exec (.joinMerge w e) s = .next s.counted := by
  change execJoinMerge w e s = _
  simp only [execJoinMerge, hwave, hrec, h, Bool.not_false, Bool.true_or, if_true, State.event_eq_counted]

/-- A merge of lanes of one depth that can take place does. -/
theorem exec_joinMerge_of_ready {n : Nat} {y : Wave} (hready : x.mergeReady e r = true) (hframe : x.frame = none)
    (hdue : x.due = none) (hruns : x.stage = .running) (hmerge : x.merge e r s.cycle.toNat = some (n, y))
    (heven : r.uneven = false) :
    exec (.joinMerge w e) s = .next ((s.setWave y).select w (.split n)).orderMerge.recheck.counted := by
  change execJoinMerge w e s = _
  simp only [execJoinMerge, hwave, hrec, hready, hframe, hdue, hruns, hmerge, heven, Option.isSome_none, Bool.not_true,
    bne_self_eq_false, Bool.or_self, Bool.false_eq_true, if_false, State.event_eq_counted]

end

/-! Traps that wait (19 R366). -/

theorem exec_trapTake_of_ready {s : State} {w : Nat} {x : Wave} {who : Who} {at_ : PC} {tr : Trap} (hwave : s.wave? w = some x)
    (hdue : x.due = some (who, at_, tr)) (hruns : x.stage = .running) (hready : s.trapReady x = true)
    (hfree : (s.select w who).trapHeld = none) :
    exec (.trapTake w) s = .next ((s.select w who).takeTrap who at_ tr).counted := by
  change execTrapTake w s = _
  simp only [execTrapTake, hwave, hdue, hruns, hready, hfree, bne_self_eq_false, Bool.not_true, Bool.false_eq_true, if_false,
    Option.getD_none, State.event_eq_counted]

/-! Abort tokens (20 R391). -/

theorem Stage.not_ended {g : Stage} (h : g = .running ∨ g = .swapped ∨ g = .retiring) :
    ¬(g ≠ .running ∧ g ≠ .swapped ∧ g ≠ .retiring) :=
  fun ⟨hruns, hswapped, hretires⟩ => h.elim hruns fun h => h.elim hswapped hretires

section
variable {s : State} {w : Nat} {x : Wave} (hwave : s.wave? w = some x)
  (hstage : x.stage = .running ∨ x.stage = .swapped ∨ x.stage = .retiring) (h : BitVec 4) (reason : Byte) (sender : Option Nat)
include hwave hstage

/-- A token that meets another trap or handler mode is held. -/
theorem exec_abortToken_of_trapped (htrapped : x.frame.isSome = true ∨ x.due.isSome = true) :
    exec (.abortToken w h reason sender) s = .next ((s.vacate (x.gidOf h.toNat) sender.toList).setWave
      { x with tokens := x.tokens ++ [(h, reason)] }).counted := by
  change execAbortToken w h reason sender s = _
  simp only [execAbortToken, hwave, Stage.not_ended hstage, Bool.or_eq_true, htrapped, if_false, if_true, State.event_eq_counted]

/-- A token that meets neither is taken; where no token is held, that is all. -/
theorem exec_abortToken_of_free (hframe : x.frame = none) (hdue : x.due = none)
    (hnone : ∀ y, ((s.vacate (x.gidOf h.toNat) sender.toList).takeToken x h reason).wave? w = some y → y.tokens = []) :
    exec (.abortToken w h reason sender) s =
      .next ((s.vacate (x.gidOf h.toNat) sender.toList).takeToken x h reason).counted := by
  change execAbortToken w h reason sender s = _
  simp only [execAbortToken, hwave, Stage.not_ended hstage, hframe, hdue, Option.isSome_none, Bool.or_self,
    Bool.false_eq_true, if_false]
  cases htaken : ((s.vacate (x.gidOf h.toNat) sender.toList).takeToken x h reason).wave? w with
  | none => rfl
  | some y => simp only [hnone y htaken, State.event_eq_counted]

end

/-- Settles O57, event by event. -/
theorem waveEventsComplete : Obligations.WaveEventsComplete := by
  unfold Obligations.WaveEventsComplete
  refine ⟨fun s w id x p => exec_variableLatencyResult_of_ready, ?flume,
    fun s w j n x p hwave hsprig => exec_sprigReexport_of_room hwave hsprig, fun s w j x p => exec_sprigRejoin_of_home,
    fun s w e n x y r hwave hrec => exec_joinMerge_of_ready hwave hrec, fun s w x who at_ tr => exec_trapTake_of_ready, ?token⟩
  case flume =>
    intro s w j r x p hwave hsprig hout hlacks t
    have hflume : (s.flume w j r).event = .next t.counted :=
      congrArg State.event (State.flume_of_lacking hwave hsprig hout hlacks)
    exact ⟨hflume, hflume⟩
  case token =>
    intro s w h reason sender x hwave hstage t
    exact ⟨exec_abortToken_of_trapped hwave hstage h reason sender, exec_abortToken_of_free hwave hstage h reason sender⟩

end Sys2Proof.Machine
end

section
/-! PROOF. What a merge and a result leave (07 R145, R147, R159; 08 R174; 14 R293): the splits and entries after a merge, the
registers and flags after a result, and the statement O58. -/

namespace Sys2Proof.Machine

/-! Keyed lists. -/

section
variable {α β : Type}

theorem nmap_get_eq_none_iff {m : NMap α} {k : Nat} : NMap.get? m k = none ↔ ∀ e ∈ m, e.1 ≠ k := by
  induction m with
  | nil => simp [NMap.get?]
  | cons x rest ih => by_cases h : x.1 = k <;> simp [NMap.get?, h, ih]

theorem nmap_get_filter_none {m : NMap α} {k : Nat} (h : NMap.get? m k = none) (p : Nat × α → Bool) :
    NMap.get? (m.filter p) k = none :=
  nmap_get_eq_none_iff.2 fun e he => nmap_get_eq_none_iff.1 h e (List.mem_filter.1 he).1

theorem nmap_get_map_none {m : NMap α} {k : Nat} (h : NMap.get? m k = none) {f : Nat × α → Nat × β} (hf : ∀ e, (f e).1 = e.1) :
    NMap.get? (m.map f) k = none := by
  refine nmap_get_eq_none_iff.2 fun e he => ?_
  obtain ⟨a, ha, rfl⟩ := List.mem_map.1 he
  exact hf a ▸ nmap_get_eq_none_iff.1 h a ha

/-- A filter that looks at the numbers alone keeps what is at a number that it lets through. -/
theorem nmap_get_filter_key {p : Nat → Bool} {k : Nat} (h : p k = true) (m : NMap α) :
    NMap.get? (m.filter fun e => p e.1) k = NMap.get? m k := by
  induction m with
  | nil => rfl
  | cons x rest ih =>
    by_cases hk : x.1 = k
    · simp [NMap.get?, hk, h]
    · cases hx : p x.1 <;> simp [NMap.get?, hk, hx, ih]

end

/-! Merges (07 R159). -/

/-- A merge can take place exactly where EXPECT has arrived, no PEND is left and no sprig of its lanes is out. -/
theorem Wave.mergeReady_iff {w : Wave} {e : Nat} {r : Rec} : w.mergeReady e r = true ↔
    r.pend = none ∧ r.arrived ≠ 0 ∧ r.expect &&& ~~~r.arrived = 0 ∧
      ∀ p ∈ w.sprigs, p.2.home ≠ e ∧ p.2.lanes &&& r.expect = 0 := by
  simp [Wave.mergeReady, and_assoc]

theorem Wave.mergeReady_eq_false {w : Wave} {e : Nat} {r : Rec} (h : r.pend.isSome = true ∨ r.expect &&& ~~~r.arrived ≠ 0 ∨
    ∃ p ∈ w.sprigs, p.2.home = e ∨ p.2.lanes &&& r.expect ≠ 0) : w.mergeReady e r = false := by
  refine Bool.eq_false_iff.2 fun hready => ?_
  obtain ⟨hpend, -, hexpect, hsprigs⟩ := Wave.mergeReady_iff.1 hready
  rcases h with h | h | ⟨p, hp, h⟩
  · simp [hpend] at h
  · exact h hexpect
  · obtain ⟨hhome, hlanes⟩ := hsprigs p hp
    exact h.elim hhome fun hl => hl hlanes

theorem Wave.splits_tidy (w : Wave) : w.tidy.splits = w.splits := rfl

/-- An entry that is gone stays gone when entries that nobody holds are dropped. -/
theorem Wave.get_recs_tidy_none {w : Wave} {e : Nat} (h : NMap.get? w.recs e = none) : NMap.get? w.tidy.recs e = none := by
  refine nmap_get_filter_none (nmap_get_map_none h ?number) _
  case number => exact fun _ => rfl

/-- The split that the waiting splits `waiting`, of which `t` is the first, become at an entry. -/
def Thread.merged (t : Thread) (r : Rec) (waiting : List (Nat × Thread)) (now : Nat) : Thread :=
  { t.resume now with mask := r.arrived, stack := t.stack.tail, pc := ⟨r.addr, 0⟩, preds := predsOf r.bits t.preds.length,
                      chained := false, holds := waiting.flatMap fun x => x.2.holds }

/-- The splits that do not wait at an entry. -/
def Wave.othersThan (w : Wave) (e : Nat) : NMap Thread :=
  w.splits.filter fun x => !((w.waitingAt e).any fun y => y.1 == x.1)

theorem Wave.merge_of_waiting {w : Wave} {e m : Nat} {t : Thread} {rest : List (Nat × Thread)}
    (h : w.waitingAt e = (m, t) :: rest) (r : Rec) (now : Nat) : w.merge e r now = some (m, Wave.tidy
      { w with splits := NMap.set (w.othersThan e) m (t.merged r ((m, t) :: rest) now), recs := NMap.erase w.recs e }) := by
  simp only [Wave.merge, Wave.othersThan, h, Option.map_some, Thread.merged]

/-! A result in the registers (07 R145, R147). -/

theorem getD_lanesOf (f : Nat → W64) {l : Nat} (h : l < 32) (d : W64) : (lanesOf f).getD l d = f l := by
  simp [lanesOf, h]

/-- A vector register as a result leaves it. -/
def PendReg.written (q : PendReg) (old : VReg) : VReg :=
  ⟨old.tag, lanesOf fun l => if q.lanes.has l then q.image (old.lanes.getD l 0) l else old.lanes.getD l 0⟩

theorem PendReg.lanes_written (q : PendReg) (old : VReg) {l : Nat} (h : l < 32) : (q.written old).lanes.getD l 0 =
    if q.lanes.has l then q.image (old.lanes.getD l 0) l else old.lanes.getD l 0 := by
  rw [PendReg.written, getD_lanesOf _ h]

theorem PendReg.write_vector {q : PendReg} {v : Nat} (h : q.reg = .v v) (scalar : Bool) (f : RegFile) :
    q.write scalar f = { f with vregs := f.vregs.set v (q.written (f.vregs.getD v ⟨.b64, []⟩)) } := by
  simp only [PendReg.write, h, PendReg.written]

theorem PendReg.getD_vregs_write {q : PendReg} {v : Nat} (h : q.reg = .v v) {f : RegFile} (hv : v < f.vregs.length)
    (scalar : Bool) : (q.write scalar f).vregs.getD v ⟨.b64, []⟩ = q.written (f.vregs.getD v ⟨.b64, []⟩) := by
  rw [PendReg.write_vector h]
  simp [hv]

theorem PendReg.write_scalar {q : PendReg} {n : Nat} (h : q.reg = .s n) (scalar : Bool) (f : RegFile) :
    q.write scalar f = if scalar then
      { f with sregs := f.sregs.set n { f.sregs.getD n ⟨.b64, 0⟩ with val := q.image (f.sregs.getD n ⟨.b64, 0⟩).val 0 } }
    else f := by
  simp only [PendReg.write, h]

/-! A result in its wave (07 R145, 08 R174, 14 R293). -/

/-- The wave with the flags of a result: under run-ahead those of a result that was issued there are held apart. -/
def Wave.takeFlags (w : Wave) (p : Pending) : Wave :=
  match p.ahead, w.runAhead with
  | true, some r => { w with runAhead := some { r with flags := r.flags ||| p.flags } }
  | _, _ => { w with sys := { w.sys with flags := w.sys.flags ||| p.flags } }

theorem Wave.takeFlags_of_open {w : Wave} {p : Pending} (h : p.ahead = false ∨ w.runAhead = none) :
    w.takeFlags p = { w with sys := { w.sys with flags := w.sys.flags ||| p.flags } } := by
  unfold Wave.takeFlags
  rcases h with h | h <;> rw [h]
  cases p.ahead <;> rfl

theorem Wave.takeFlags_of_ahead {w : Wave} {p : Pending} {r : RunAhead} (hahead : p.ahead = true) (hrun : w.runAhead = some r) :
    w.takeFlags p = { w with runAhead := some { r with flags := r.flags ||| p.flags } } := by
  simp only [Wave.takeFlags, hahead, hrun]

/-- What neither run-ahead nor the thread registers hold is as before the flags. -/
theorem Wave.takeFlags_keeps {β : Type} (part : Wave → β) (hahead : ∀ (w : Wave) r, part { w with runAhead := r } = part w)
    (hsys : ∀ (w : Wave) x, part { w with sys := x } = part w) (w : Wave) (p : Pending) : part (w.takeFlags p) = part w := by
  unfold Wave.takeFlags
  split
  · exact hahead _ _
  · exact hsys _ _

theorem Wave.file_takeFlags (w : Wave) (p : Pending) : (w.takeFlags p).file = w.file :=
  Wave.takeFlags_keeps (·.file) (fun _ _ => rfl) (fun _ _ => rfl) w p

theorem Wave.sprigs_takeFlags (w : Wave) (p : Pending) : (w.takeFlags p).sprigs = w.sprigs :=
  Wave.takeFlags_keeps (·.sprigs) (fun _ _ => rfl) (fun _ _ => rfl) w p

theorem Wave.pending_takeFlags (w : Wave) (p : Pending) : (w.takeFlags p).pending = w.pending :=
  Wave.takeFlags_keeps (·.pending) (fun _ _ => rfl) (fun _ _ => rfl) w p

/-- The wave with the registers of a result of its own written, in its file and in the files of the sprigs that left before. -/
def Wave.takeRegs (w : Wave) (p : Pending) : Wave :=
  { w with pending := w.pending.filter (·.id != p.id), file := p.write w.file,
           sprigs := w.sprigs.map fun y =>
             (y.1, if p.id < y.2.age then { y.2 with file := p.writeOut y.2.age y.2.file } else y.2) }

/-- A result of the wave is written in its file, in those of the sprigs that left before, and in its flags. -/
theorem Wave.writeResult_of_wave {p : Pending} (h : ∀ j, p.who ≠ .sprig j) (w : Wave) :
    w.writeResult p = (w.takeRegs p).takeFlags p := by
  unfold Wave.writeResult
  cases hwho : p.who with
  | sprig j => exact absurd hwho (h j)
  | split n => rfl
  | handler => rfl

/-- The sprig with a result of its own written. -/
def Sprig.take (y : Sprig) (p : Pending) : Sprig :=
  { y with file := p.write y.file, sys := { y.sys with flags := y.sys.flags ||| p.flags } }

theorem Wave.writeResult_of_sprig {w : Wave} {p : Pending} {j : Nat} {y : Sprig} (hwho : p.who = .sprig j)
    (hsprig : NMap.get? w.sprigs j = some y) : w.writeResult p =
      { w with pending := w.pending.filter (·.id != p.id), sprigs := NMap.set w.sprigs j (y.take p) } := by
  simp only [Wave.writeResult, hwho, hsprig, Sprig.take]

/-- A result that has been written is pending no more, whoever issued it. -/
theorem Wave.pending_writeResult (w : Wave) (p : Pending) : (w.writeResult p).pending = w.pending.filter (·.id != p.id) := by
  cases hwho : p.who with
  | sprig j =>
    unfold Wave.writeResult
    simp only [hwho]
    split <;> rfl
  | split n => rw [Wave.writeResult_of_wave (by simp [hwho]), Wave.pending_takeFlags, Wave.takeRegs]
  | handler => rw [Wave.writeResult_of_wave (by simp [hwho]), Wave.pending_takeFlags, Wave.takeRegs]

/-- Settles O58: the merge by what it makes of the waiting splits, the result register by register and then in its wave. -/
theorem mergesAndResults : Obligations.MergesAndResults := by
  unfold Obligations.MergesAndResults
  refine ⟨?event, ?merge, ?vector, ?scalar, ?result⟩
  case event =>
    intro s w e m x r t rest hwave hrec
    constructor
    · intro hwaiting hframe hdue hruns heven hpend harrived hexpect hsprigs
      have hmerge := Wave.merge_of_waiting hwaiting r s.cycle.toNat
      have hready : x.mergeReady e r = true := Wave.mergeReady_iff.2 ⟨hpend, harrived, hexpect, hsprigs⟩
      exact ⟨_, hmerge, exec_joinMerge_of_ready hwave hrec hready hframe hdue hruns hmerge heven⟩
    · exact fun hunready => exec_joinMerge_of_unready hwave hrec (Wave.mergeReady_eq_false hunready)
  case merge =>
    intro w v e n m now r t hhead hmerge
    obtain ⟨rest, hwaiting⟩ := List.head?_eq_some_iff.1 hhead
    rw [Wave.merge_of_waiting hwaiting, Option.some.injEq, Prod.mk.injEq] at hmerge
    obtain ⟨rfl, rfl⟩ := hmerge
    refine ⟨rfl, Wave.get_recs_tidy_none (nmap_get_erase _ _),
      ⟨t.merged r ((m, t) :: rest) now, nmap_get_set _ _ _, rfl, rfl, rfl⟩, fun k hk hother => ?_⟩
    rw [Wave.splits_tidy, nmap_get_set_other _ _ _ _ hk]
    exact nmap_get_filter_key (p := fun k => !((w.waitingAt e).any fun y => y.1 == k)) (by simp [hother]) w.splits
  case vector =>
    intro f q v scalar hreg hv g lane
    have hwritten : g.vregs.getD v ⟨.b64, []⟩ = q.written (f.vregs.getD v ⟨.b64, []⟩) := PendReg.getD_vregs_write hreg hv scalar
    refine ⟨fun l hl => ?lane, ?tag, fun k hk => ?others, ?sregs⟩
    case lane =>
      change (g.vregs.getD v ⟨.b64, []⟩).lanes.getD l 0 = _
      rw [hwritten, q.lanes_written _ hl]
    case tag => rw [hwritten, PendReg.written]
    case others =>
      change (q.write scalar f).vregs[k]? = _
      rw [PendReg.write_vector hreg, List.getElem?_set_ne (Ne.symm hk)]
    case sregs =>
      change (q.write scalar f).sregs = _
      rw [PendReg.write_vector hreg]
  case scalar =>
    intro f q n hreg _ old
    rw [PendReg.write_scalar hreg, PendReg.write_scalar hreg]
    exact ⟨rfl, rfl, rfl⟩
  case result =>
    intro w p x
    refine ⟨w.pending_writeResult p, fun hwave => ?wave, fun j y hwho hsprig => ?sprig⟩
    case wave =>
      have hx : x = (w.takeRegs p).takeFlags p := Wave.writeResult_of_wave hwave w
      rw [hx]
      refine ⟨Wave.file_takeFlags _ _, Wave.sprigs_takeFlags _ _, fun hopen => ?apart, fun r hahead hrun => ?held⟩
      case apart =>
        rw [Wave.takeFlags_of_open (w := w.takeRegs p) hopen]
        exact ⟨rfl, rfl⟩
      case held =>
        rw [Wave.takeFlags_of_ahead (w := w.takeRegs p) hahead hrun]
        exact ⟨rfl, rfl⟩
    case sprig =>
      have hx : x = { w with pending := w.pending.filter (·.id != p.id), sprigs := NMap.set w.sprigs j (y.take p) } :=
        Wave.writeResult_of_sprig hwho hsprig
      rw [hx]
      exact ⟨rfl, rfl, nmap_get_set _ _ _, fun k hk => nmap_get_set_other _ _ _ _ hk⟩

end Sys2Proof.Machine
end

section
/-! PROOF. Fitting (09 R190), shifts, rotations and bit fields (09 R194, R195): what each gives of one element, and the statements
O13 and O15. -/

namespace Sys2Proof

/-! Widths and ranges (06 R117). -/

theorem Fmt.width_pos (f : Fmt) : 0 < f.width := by cases f <;> decide

theorem Fmt.two_pow_width (f : Fmt) : 2 ^ f.width = 2 * 2 ^ (f.width - 1) := by
  rw [← Nat.pow_succ', Nat.succ_eq_add_one, Nat.sub_add_cancel f.width_pos]

theorem Fmt.least_le_greatest (f : Fmt) : f.least ≤ f.greatest := by
  have hhalf : 0 < 2 ^ (f.width - 1) := Nat.two_pow_pos _
  have hall : 0 < 2 ^ f.width := Nat.two_pow_pos _
  unfold Fmt.least Fmt.greatest
  split <;> omega

/-- The value of a signed pattern is the pattern, less 2^w where the sign bit is set. -/
theorem Fmt.num_of_signed {f : Fmt} (hf : f.isSigned = true) {x : Nat} (hx : x < 2 ^ f.width) :
    f.num x = if x < 2 ^ (f.width - 1) then (x : Int) else (x : Int) - (2 ^ f.width : Nat) := by
  simp [Fmt.num, Machine.signedOf, hf, Nat.mod_eq_of_lt hx]

theorem Fmt.num_of_unsigned {f : Fmt} (hf : f.isSigned = false) {x : Nat} (hx : x < 2 ^ f.width) : f.num x = x := by
  simp [Fmt.num, hf, Nat.mod_eq_of_lt hx]

theorem Fmt.num_mem_range (f : Fmt) {x : Nat} (hx : x < 2 ^ f.width) : f.least ≤ f.num x ∧ f.num x ≤ f.greatest := by
  have hwidth := f.two_pow_width
  cases hf : f.isSigned with
  | true =>
    rw [Fmt.num_of_signed hf hx]
    simp only [Fmt.least, Fmt.greatest, hf, if_true]
    split <;> omega
  | false =>
    rw [Fmt.num_of_unsigned hf hx]
    simp only [Fmt.least, Fmt.greatest, hf, Bool.false_eq_true, if_false]
    omega

end Sys2Proof

namespace Sys2Proof.Machine

/-! Fitting (09 R190). -/

theorem wrapInt_cast (w : Nat) (r : Int) : (wrapInt w r : Int) = r % (2 ^ w : Nat) := by
  have hcast : ((2 ^ w : Nat) : Int) = 2 ^ w := Int.natCast_pow 2 w
  have hpos : (0 : Int) < (2 ^ w : Nat) := Int.natCast_pos.2 (Nat.two_pow_pos w)
  rw [wrapInt, ← hcast, Int.toNat_of_nonneg (Int.emod_nonneg r (Int.ne_of_gt hpos))]

theorem wrapInt_of_nonneg {w : Nat} {r : Int} (hlow : 0 ≤ r) (hhigh : r < (2 ^ w : Nat)) : (wrapInt w r : Int) = r := by
  rw [wrapInt_cast, Int.emod_eq_of_lt hlow hhigh]

theorem wrapInt_of_neg {w : Nat} {r : Int} (hlow : -((2 ^ w : Nat) : Int) ≤ r) (hhigh : r < 0) :
    (wrapInt w r : Int) = r + (2 ^ w : Nat) := by
  rw [wrapInt_cast, ← Int.add_emod_right, Int.emod_eq_of_lt (by omega) (by omega)]

theorem wrapInt_lt (w : Nat) (r : Int) : wrapInt w r < 2 ^ w := by
  have hpos : (0 : Int) < (2 ^ w : Nat) := Int.natCast_pos.2 (Nat.two_pow_pos w)
  rw [← Int.ofNat_lt, wrapInt_cast]
  exact Int.emod_lt_of_pos r hpos

/-- An integer in the signed range is the value of its pattern. -/
theorem signedOf_wrapInt {w : Nat} (hw : 2 ^ w = 2 * 2 ^ (w - 1)) {r : Int} (hlow : -((2 ^ (w - 1) : Nat) : Int) ≤ r)
    (hhigh : r < (2 ^ (w - 1) : Nat)) : signedOf w (wrapInt w r) = r := by
  have hcast : ((2 ^ w : Nat) : Int) = 2 ^ w := Int.natCast_pow 2 w
  simp only [signedOf, Nat.mod_eq_of_lt (wrapInt_lt w r), ← hcast]
  by_cases hneg : r < 0
  · have hpattern := wrapInt_of_neg (w := w) (r := r) (by omega) hneg
    split <;> omega
  · have hpattern := wrapInt_of_nonneg (w := w) (r := r) (Int.not_lt.1 hneg) (by omega)
    split <;> omega

/-- The pattern of a pattern's value is the pattern. -/
theorem wrapInt_num (f : Fmt) {x : Nat} (hx : x < 2 ^ f.width) : wrapInt f.width (f.num x) = x := by
  rw [wrapInt, Fmt.num_emod]
  exact_mod_cast Nat.mod_eq_of_lt hx

theorem clampTo_eq_max_min (f : Fmt) (r : Int) : clampTo f r = max f.least (min r f.greatest) := by
  have hrange := f.least_le_greatest
  unfold clampTo
  split
  · omega
  · split <;> omega

theorem clampTo_of_mem {f : Fmt} {r : Int} (h : f.least ≤ r ∧ r ≤ f.greatest) : clampTo f r = r := by
  rw [clampTo, if_neg (Int.not_lt.2 h.1), if_neg (Int.not_lt.2 h.2)]

/-- Fitting a pattern's value gives the pattern, clamped or not. -/
theorem fit_num (f : Fmt) (sat : Bool) {x : Nat} (hx : x < 2 ^ f.width) : fit f sat (f.num x) = x := by
  rw [fit, clampTo_of_mem (f.num_mem_range hx), ite_self, wrapInt_num f hx]

theorem fit_true (f : Fmt) (r : Int) : fit f true r = wrapInt f.width (max f.least (min r f.greatest)) := by
  rw [fit, if_pos rfl, clampTo_eq_max_min]

/-- Settles O13: a pattern is its integer modulo 2^w, and a clamped integer lies in the range whose patterns give their values
back. -/
theorem fittingWrapsOrClamps : Obligations.FittingWrapsOrClamps := by
  unfold Obligations.FittingWrapsOrClamps
  intro f r
  have hwidth := f.two_pow_width
  have hhalf : 0 < 2 ^ (f.width - 1) := Nat.two_pow_pos _
  refine ⟨wrapInt_cast f.width r, fun hf => ?unsigned, fun hf => ?signed⟩
  case unsigned =>
    simp only [fit_true, Fmt.least, Fmt.greatest, hf, Bool.false_eq_true, if_false]
    exact wrapInt_of_nonneg (by omega) (by omega)
  case signed =>
    simp only [fit_true, Fmt.least, Fmt.greatest, hf, if_true]
    exact signedOf_wrapInt hwidth (by omega) (by omega)

/-! Shifts (09 R194). -/

theorem shlElem_of_width_le {w n : Nat} (h : w ≤ n) (x : Nat) : shlElem w false x n = 0 := by
  rw [shlElem, if_neg Bool.false_ne_true, if_pos h]

theorem shrElem_false (f : Fmt) (x n : Nat) :
    shrElem f false x n = wrapInt f.width (f.num x / (2 ^ Nat.min n f.width : Nat)) := by
  rw [shrElem, if_neg Bool.false_ne_true]

/-- A shift to the right by the width or more leaves the sign in every bit. -/
theorem shrElem_of_width_le {f : Fmt} {x n : Nat} (hn : f.width ≤ n) (hx : x < 2 ^ f.width) :
    shrElem f false x n = if f.isSigned ∧ 2 ^ (f.width - 1) ≤ x then 2 ^ f.width - 1 else 0 := by
  rw [shrElem_false, show Nat.min n f.width = f.width from Nat.min_eq_right hn]
  by_cases hsign : f.isSigned = true ∧ 2 ^ (f.width - 1) ≤ x
  · have hvalue : f.num x / (2 ^ f.width : Nat) = -1 := by
      rw [Fmt.num_of_signed hsign.1 hx, if_neg (Nat.not_lt.2 hsign.2)]
      exact Int.ediv_eq_neg_one_of_neg_of_le (by omega) (by omega)
    have hones := wrapInt_of_neg (w := f.width) (r := -1) (by omega) (by decide)
    rw [hvalue, if_pos hsign]
    omega
  · have hvalue : f.num x / (2 ^ f.width : Nat) = 0 := by
      have hnum : f.num x = x := by
        cases hf : f.isSigned with
        | true => rw [Fmt.num_of_signed hf hx, if_pos (Nat.not_le.1 fun h => hsign ⟨hf, h⟩)]
        | false => exact Fmt.num_of_unsigned hf hx
      rw [hnum]
      exact Int.ediv_eq_zero_of_lt (by omega) (by omega)
    have hzero := wrapInt_of_nonneg (w := f.width) (r := 0) (by omega) (by omega)
    rw [hvalue, if_neg hsign]
    omega

/-! Rotations (09 R194). -/

/-- A rotation to the left by `a` exchanges the upper `a` bits and the `b` bits below them. -/
theorem rotLeft_exchanges {a b n lo : Nat} (hn : n % (a + b) = a) (hlo : lo < 2 ^ b) (hi : Nat) :
    rotLeft (a + b) (hi * 2 ^ b + lo) n = lo * 2 ^ a + hi := by
  have hupper : (hi * 2 ^ b + lo) / 2 ^ b = hi := by
    rw [Nat.mul_comm, Nat.mul_add_div (Nat.two_pow_pos b), Nat.div_eq_of_lt hlo, Nat.add_zero]
  have hlower : (hi * 2 ^ b + lo) * 2 ^ a % 2 ^ (a + b) = lo * 2 ^ a := by
    rw [Nat.add_comm a b, Nat.pow_add, Nat.mul_mod_mul_right, Nat.mul_comm hi, Nat.mul_add_mod, Nat.mod_eq_of_lt hlo]
  rw [rotLeft, hn, Nat.add_sub_cancel_left, hupper, hlower]

theorem rotLeft_of_mod_eq_zero {w n x : Nat} (hn : n % w = 0) (hx : x < 2 ^ w) : rotLeft w x n = x := by
  rw [rotLeft, hn, Nat.pow_zero, Nat.mul_one, Nat.sub_zero, Nat.mod_eq_of_lt hx, Nat.div_eq_of_lt hx, Nat.add_zero]

/-- Rotating on by what is left of the width brings every bit home. -/
theorem rotLeft_rotLeft {w n x : Nat} (hw : 0 < w) (hx : x < 2 ^ w) : rotLeft w (rotLeft w x n) (w - n % w) = x := by
  rcases Nat.eq_zero_or_pos (n % w) with hzero | hpos
  · rw [rotLeft_of_mod_eq_zero hzero hx, hzero, Nat.sub_zero, rotLeft_of_mod_eq_zero (Nat.mod_self w) hx]
  · obtain ⟨b, hb⟩ := Nat.exists_eq_add_of_le (Nat.le_of_lt (Nat.mod_lt n hw))
    generalize hn : n % w = a at hpos hb ⊢
    subst hb
    have hhi : x / 2 ^ b < 2 ^ a := Nat.div_lt_of_lt_mul (by rwa [← Nat.pow_add, Nat.add_comm b a])
    have hback : (a + b - a) % (b + a) = b := by rw [Nat.add_sub_cancel_left, Nat.mod_eq_of_lt (by omega)]
    calc rotLeft (a + b) (rotLeft (a + b) x n) (a + b - a)
        = rotLeft (a + b) (rotLeft (a + b) (x / 2 ^ b * 2 ^ b + x % 2 ^ b) n) (a + b - a) := by rw [Nat.div_add_mod']
      _ = rotLeft (b + a) (x % 2 ^ b * 2 ^ a + x / 2 ^ b) (a + b - a) := by
        rw [rotLeft_exchanges hn (Nat.mod_lt _ (Nat.two_pow_pos b)), Nat.add_comm b a]
      _ = x / 2 ^ b * 2 ^ b + x % 2 ^ b := rotLeft_exchanges hback hhi _
      _ = x := Nat.div_add_mod' x (2 ^ b)

/-! Bit fields (09 R195). -/

/-- BFI keeps the bits above and below its field. -/
theorem bfiElem_eq (pos len x y : Nat) :
    bfiElem pos len x y = 2 ^ pos * (2 ^ len * (x / 2 ^ pos / 2 ^ len) + y % 2 ^ len) + x % 2 ^ pos := by
  have hfield : x = 2 ^ pos * (2 ^ len * (x / 2 ^ pos / 2 ^ len) + bitsOf x pos len) + x % 2 ^ pos := by
    rw [bitsOf, Nat.div_add_mod, Nat.div_add_mod]
  have hrest : x - bitsOf x pos len * 2 ^ pos = 2 ^ pos * (2 ^ len * (x / 2 ^ pos / 2 ^ len)) + x % 2 ^ pos :=
    Nat.sub_eq_of_eq_add (hfield.trans (by
      rw [Nat.mul_add, Nat.mul_comm _ (bitsOf x pos len), Nat.add_right_comm]))
  rw [bfiElem, hrest, Nat.mul_add, Nat.mul_comm _ (y % 2 ^ len), Nat.add_right_comm]

/-- The field that BFI has written. -/
theorem bitsOf_bfiElem (pos len x y : Nat) : bitsOf (bfiElem pos len x y) pos len = y % 2 ^ len := by
  rw [bfiElem_eq, bitsOf, Nat.mul_add_div (Nat.two_pow_pos pos), Nat.div_eq_of_lt (Nat.mod_lt _ (Nat.two_pow_pos pos)),
    Nat.add_zero, Nat.mul_add_mod, Nat.mod_mod]

/-- Settles O15, operation by operation. -/
theorem shiftsAndFields : Obligations.ShiftsAndFields := by
  unfold Obligations.ShiftsAndFields
  refine ⟨fun w x n h => shlElem_of_width_le h x, fun f x n => shrElem_of_width_le,
    fun f x n hx => rotLeft_rotLeft f.width_pos hx, fun f pos len x y hf => ?field⟩
  case field => rw [bfxElem, hf, if_neg Bool.false_ne_true, bitsOf_bfiElem]

end Sys2Proof.Machine
end

section
/-! PROOF. The integer, logic and address instructions (09 R190 to R200): what each word does once its checks pass, and the statements
O11, O12, O14 and O16. -/

namespace Sys2Proof

/-! MOD of an operation of two sources (09 R186). -/

theorem Fields.norm_mod (f : Fields) : f.norm.mod = f.mod := by
  unfold Fields.norm
  dsimp only
  split <;> rfl

theorem Alu2.fields_mod (f : Alu2) (op : BitVec 7) (m : BitVec 4) : (f.fields op m).mod = m ++ f.sel.code := by
  simp [Alu2.fields]

/-- MIN, MAX, AND, OR and XOR have MOD[7:4] 0 (09 R191, R193). -/
theorem fields_of_plain_alu2 {i : Instr} {f : Alu2} (hi : i = .min f ∨ i = .max f ∨ i = .and f ∨ i = .or f ∨ i = .xor f) :
    ∃ op, i.fields = some (f.fields op 0) := by
  rcases hi with rfl | rfl | rfl | rfl | rfl <;> exact ⟨_, rfl⟩

theorem mod_high_of_decode {fixed : Bool} {t : BitVec 64} {w : BitVec 32} {i : Instr} {f : Alu2} {op : BitVec 7}
    {m : BitVec 4} (hdecode : decode fixed t w = some i) (hfields : i.fields = some (f.fields op m)) :
    t.extractLsb' 20 4 = m := by
  obtain ⟨-, -, hnorm⟩ := decode_eq_some_iff.1 hdecode
  have hmod : m ++ f.sel.code = t.extractLsb' 16 8 := by
    rw [← f.fields_mod op m, Option.some.inj (hfields.symm.trans hnorm), Fields.norm_mod, Fields.unpack]
  calc t.extractLsb' 20 4 = (t.extractLsb' 16 8).extractLsb' 4 4 := by
        ext j hj
        simp [show 4 + j < 8 by omega, ← Nat.add_assoc]
    _ = m := by rw [← hmod, field_up _ _ 4 _ 0 rfl, field_all]

end Sys2Proof

namespace Sys2Proof.Machine

/-! Elements (06 R115, 09 R187). -/

theorem State.elemAt_lt (s : State) (f : Fmt) (o : Operand) (l k : Nat) : s.elemAt f o l k < 2 ^ f.width := by
  have hbits (x lo : Nat) : bitsOf x lo f.width < 2 ^ f.width := Nat.mod_lt _ (Nat.two_pow_pos _)
  cases o with
  | v r => exact hbits _ _
  | u x => cases x with
    | s r => exact hbits _ _
    | c e => exact hbits _ _
    | imm _ | lit _ =>
      unfold State.elemAt
      dsimp only
      split <;> exact hbits _ _

/-- Elements are compared as signed for a signed format and as unsigned otherwise (09 R191). -/
def elemLess (f : Fmt) (x y : Nat) : Bool :=
  if f.isSigned then decide (signedOf f.width x < signedOf f.width y) else decide (x < y)

theorem num_lt_num_iff {f : Fmt} {x y : Nat} (hx : x < 2 ^ f.width) (hy : y < 2 ^ f.width) :
    f.num x < f.num y ↔ elemLess f x y = true := by
  cases hf : f.isSigned with
  | true => simp [elemLess, Fmt.num, hf]
  | false => simp [elemLess, Fmt.num_of_unsigned hf, hf, hx, hy]

section
variable (s : State) (f : Fmt) (sat : Bool) (a b : Operand) (l k : Nat)

theorem State.numAt_lt_numAt_iff :
    s.numAt f a l k < s.numAt f b l k ↔ elemLess f (s.elemAt f a l k) (s.elemAt f b l k) = true :=
  num_lt_num_iff (s.elemAt_lt f a l k) (s.elemAt_lt f b l k)

theorem State.fit_numAt : fit f sat (s.numAt f a l k) = s.elemAt f a l k := fit_num f sat (s.elemAt_lt f a l k)

end

/-! Words whose checks pass. -/

theorem State.finish_elementwise {s : State} {f tag : Fmt} {sel : Sel} {d : Dest} {ops : List Operand} {ok : Fmt → Bool}
    (h : s.ready d sel ops ok) (g : Nat → Nat → Nat) :
    s.finish (s.elementwise f tag sel d ops ok g) = .next (s.closed (s.putElems f tag sel d g)) := by
  rw [State.elementwise_ready h, State.finish_ok]

theorem State.finish_alu2 {s : State} {f : Alu2} (h : s.ready f.d f.sel [f.a, f.b] (intTag f.fmt)) (g : Int → Int → Int) :
    s.finish (s.alu2 f g) = .next (s.closed (s.putElems f.fmt f.fmt f.sel f.d fun l k =>
      fit f.fmt f.sat (g (s.numAt f.fmt f.a l k) (s.numAt f.fmt f.b l k)))) :=
  State.finish_elementwise h _

theorem State.finish_bits2 {s : State} {f : Alu2} (h : s.ready f.d f.sel [f.a, f.b] fun _ => true) (g : Nat → Nat → Nat) :
    s.finish (s.bits2 f g) = .next (s.closed (s.putElems f.fmt f.fmt f.sel f.d fun l k =>
      g (s.elemAt f.fmt f.a l k) (s.elemAt f.fmt f.b l k))) :=
  State.finish_elementwise h _

/-- Settles O12: each operation by the exact value that it fits. -/
theorem integerArithmeticCompletes : Obligations.IntegerArithmeticCompletes := by
  unfold Obligations.IntegerArithmeticCompletes
  refine ⟨fun s f h => ⟨?add, ?sub, ?mul, ?mulh, ?min, ?max⟩, fun s f h => ?mad⟩
  case add => exact State.finish_alu2 h fun x y => x + y
  case sub => exact State.finish_alu2 h fun x y => x - y
  case mul => exact State.finish_alu2 h fun x y => x * y
  case mulh => exact State.finish_alu2 h fun x y => x * y / (2 ^ f.fmt.width : Nat)
  case min => exact State.finish_alu2 h fun x y => if x < y then x else y
  case max => exact State.finish_alu2 h fun x y => if x < y then y else x
  case mad => exact State.finish_elementwise h _

/-- Settles O14: each operation by the bits that it gives of one element or two. -/
theorem bitOperationsComplete : Obligations.BitOperationsComplete := by
  unfold Obligations.BitOperationsComplete
  refine ⟨fun s f h => ⟨?and, ?or, ?xor⟩, fun s f h => ⟨?shl, ?shr⟩, fun s f h => ?bfx, fun s f h => ?bfi, fun s f h => ?bitc⟩
  case and => exact State.finish_bits2 h Nat.land
  case or => exact State.finish_bits2 h Nat.lor
  case xor => exact State.finish_bits2 h Nat.xor
  case shl | shr | bfx | bfi | bitc => exact State.finish_elementwise h _

/-! MIN and MAX pick one of two patterns (09 R191). -/

section
variable {s : State} {f : Alu2} (h : s.ready f.d f.sel [f.a, f.b] (intTag f.fmt))
include h

theorem exec_min_of_ready : exec (.min f) s = .next (s.closed (s.putElems f.fmt f.fmt f.sel f.d fun l k =>
    if elemLess f.fmt (s.elemAt f.fmt f.a l k) (s.elemAt f.fmt f.b l k) then s.elemAt f.fmt f.a l k
    else s.elemAt f.fmt f.b l k)) := by
  refine (State.finish_alu2 h fun x y => if x < y then x else y).trans ?_
  simp only [apply_ite (fit f.fmt f.sat), State.fit_numAt, State.numAt_lt_numAt_iff]

theorem exec_max_of_ready : exec (.max f) s = .next (s.closed (s.putElems f.fmt f.fmt f.sel f.d fun l k =>
    if elemLess f.fmt (s.elemAt f.fmt f.a l k) (s.elemAt f.fmt f.b l k) then s.elemAt f.fmt f.b l k
    else s.elemAt f.fmt f.a l k)) := by
  refine (State.finish_alu2 h fun x y => if x < y then y else x).trans ?_
  simp only [apply_ite (fit f.fmt f.sat), State.fit_numAt, State.numAt_lt_numAt_iff]

end

/-- Settles O11: MIN and MAX give back the pattern whose value they pick, the logic operations combine bit by bit, and MOD[7:4] is
read off the fields. -/
theorem minMaxAndLogicTakeBits : Obligations.MinMaxAndLogicTakeBits := by
  unfold Obligations.MinMaxAndLogicTakeBits
  refine ⟨fun s f h => ?pick, fun s f h => ?logic, fun fixed t w i f hdecode hi => ?mod⟩
  case pick =>
    exact ⟨exec_min_of_ready h, exec_max_of_ready h⟩
  case logic =>
    exact ⟨_, _, _, fun _ _ n => Nat.testBit_and _ _ n, fun _ _ n => Nat.testBit_or _ _ n,
      fun _ _ n => Nat.testBit_xor _ _ n, State.finish_bits2 h Nat.land, State.finish_bits2 h Nat.lor,
      State.finish_bits2 h Nat.xor⟩
  case mod =>
    obtain ⟨op, hfields⟩ := fields_of_plain_alu2 hi
    exact mod_high_of_decode hdecode hfields

/-! Comparing, selecting, moving and addresses (09 R192, R197 to R200). -/

theorem exec_cmp_of_ready {s : State} {f : CmpForm} (h : s.ready f.d (maskSel f.sel f.d) [f.a, f.b] (intTag f.fmt)) :
    exec (.cmp f) s = .next (s.closed (s.putMask f.fmt f.sel f.d fun l k =>
      Cond.holds f.cond (s.numAt f.fmt f.a l k) (s.numAt f.fmt f.b l k)
        (Nat.land (s.elemAt f.fmt f.a l k) (s.elemAt f.fmt f.b l k)))) := by
  obtain ⟨hdest, hops, htags, hpart⟩ := h
  change execCmp f s = _
  simp only [execCmp, hdest, hops, htags, hpart, Bool.and_self, need_true, stop_ok_bind, State.finish_ok]

theorem State.tagsIn_singleton (s : State) (ok : Fmt → Bool) (o : Operand) : s.tagsIn ok [o] = s.tagIn ok o := by
  unfold State.tagsIn
  cases s.tagIn ok o <;> rfl

/-- What MOV writes: a whole image, or one element (09 R198). -/
theorem exec_mov_of_ready {s : State} {f : MovForm} (h : s.ready f.d (f.el.map (·.1)) [f.a] fun _ => true) :
    exec (.mov f) s = .next (s.closed (match f.el with
      | none => s.putImages f.fmt f.d (s.laneImage f.a)
      | some (kd, ks) => s.putElems f.fmt f.fmt (some kd) f.d fun l _ => s.elemAt f.fmt f.a l ks.toNat)) := by
  obtain ⟨hdest, hops, -, hpart⟩ := h
  have hop : s.opOk f.a = true := by simpa using hops
  change execMov f s = _
  simp only [execMov, hdest, hop, hpart, Bool.and_self, need_true, stop_ok_bind]
  cases f.el with
  | none => rfl
  | some e => rfl

theorem exec_lea_of_ready {s : State} {f : LeaForm} (h : s.ready f.d none [f.a] addrTag) (hb : s.opOk f.b = true)
    (hindex : s.tagIn (fun t => t == IxKind.fmt f.ix || t == .b64 || (f.ix == .n32 && t == .idx32)) f.b = .ok ()) :
    exec (.lea f) s = .next (s.closed (s.putImages .addr f.d fun l =>
      w64 (wrapInt 58 (leaAddress f l (s.numAt .addr f.a l 0) (s.numAt (IxKind.fmt f.ix) f.b l 0))))) := by
  obtain ⟨hdest, hops, htags, hpart⟩ := h
  have ha : s.opOk f.a = true := by simpa using hops
  have hbase : s.tagIn addrTag f.a = .ok () := s.tagsIn_singleton addrTag f.a ▸ htags
  change execLea f s = _
  simp only [execLea, hdest, ha, hb, hbase, hindex, hpart, Bool.and_self, need_true, stop_ok_bind, State.finish_ok]

/-- Settles O16, instruction by instruction. -/
theorem compareSelectMoveComplete : Obligations.CompareSelectMoveComplete := by
  unfold Obligations.CompareSelectMoveComplete
  exact ⟨fun s f => exec_cmp_of_ready, fun s f h => State.finish_elementwise h _, fun s f => exec_mov_of_ready,
    fun s f => exec_lea_of_ready⟩

end Sys2Proof.Machine
end

section
/-! PROOF. The floating-point, conversion and block-scale instructions (10 R203 to R215) and the cross-lane instructions of variable
latency (11 R218 to R221): what each word does once its checks pass, and the statements O18, O19 and O20. -/

namespace Sys2Proof.Machine

/-! Elements that raise flags (10 R203, R204). -/

theorem State.finish_elementwiseF {s : State} {f tag : Fmt} {sel : Sel} {d : Dest} {ops : List Operand} {ok : Fmt → Bool}
    (h : s.ready d sel ops ok) (g : Nat → Nat → Nat × BitVec 5) : s.finish (s.elementwiseF f tag sel d ops ok g) =
      .next (s.closed ((s.putElems f tag sel d fun l k => (g l k).1).raiseFlags (s.flagsOver f sel d fun l k => (g l k).2))) := by
  rw [State.elementwiseF_ready h, State.finish_ok]

/-- Settles O18, instruction by instruction. -/
theorem floatArithmeticCompletes : Obligations.FloatArithmeticCompletes := by
  unfold Obligations.FloatArithmeticCompletes
  refine ⟨fun s f h => ⟨?fadd, ?fmul⟩, fun s f h => ?fma, fun s f h => ⟨?fmin, ?fmax⟩⟩
  case fadd | fmul | fma | fmin | fmax => exact State.finish_elementwiseF h _

/-! Comparing, converting and dot products (10 R205 to R209, R211). -/

theorem exec_fcmp_of_ready {s : State} {f : FCmpForm} (h : s.ready f.d (maskSel f.sel f.d) [f.a, f.b] (· == f.fmt)) :
    let g (l k : Nat) := FCond.holds f.cond (s.fnum f.fmt f.a l k) (s.fnum f.fmt f.b l k)
    exec (.fcmp f) s = .next (s.closed ((s.putMask f.fmt f.sel f.d fun l k => (g l k).1).raiseFlags
      (s.flagsOver f.fmt f.sel f.d fun l k => (g l k).2))) := by
  obtain ⟨hdest, hops, htags, hpart⟩ := h
  change execFcmp f s = _
  simp only [execFcmp, hdest, hops, htags, hpart, Bool.and_self, need_true, stop_ok_bind, State.finish_ok]

theorem State.ready_singleton {s : State} {d : Dest} {sel : Sel} {o : Operand} {ok : Fmt → Bool} :
    s.ready d sel [o] ok ↔ s.destOk d = true ∧ s.opOk o = true ∧ s.tagIn ok o = .ok () ∧ s.partialReady sel d = .ok () := by
  simp [State.ready, State.tagsIn_singleton]

theorem exec_cvt_of_ready {s : State} {f : CvtForm}
    (h : s.ready f.d (if f.fmt.width < (s.cvtSource f).width then some 0 else none) [f.a]
      (fun t => if f.src == .b64 then t.cvt || t == .b64 else t == f.src))
    (hpair : (f.src != .b64 || !(s.cvtSource f).cvt || cvtPairOk f.fmt (s.cvtSource f) f.part.toNat) = true) :
    let src := s.cvtSource f
    let pairs := cvtPairs src.width f.fmt.width f.part.toNat
    let g (l ks : Nat) := convElem src f.fmt f.rnd f.sat (s.elemAt src f.a l ks)
    exec (.cvt f) s = .next (s.closed ((s.putParts f.fmt.width f.fmt f.d fun l =>
        pairs.map fun (kd, ks) => (kd, (g l ks).1)).raiseFlags
      ((s.lanesFor f.d).foldl (fun acc l => pairs.foldl (fun acc (_, ks) => acc ||| (g l ks).2) acc) 0))) := by
  obtain ⟨hdest, hop, htag, hpart⟩ := State.ready_singleton.1 h
  change execCvt f s = _
  simp only [execCvt, hdest, hop, hpair, htag, hpart, Bool.and_self, need_true, stop_ok_bind, State.finish_ok]

theorem exec_dot_of_ready {s : State} {f : DotForm} (h : s.ready (.v f.d) (some f.k) [f.a, f.b] (· == f.src))
    (hop : s.opOk (f.third.operand (.v f.d)) = true) (htag : s.tagIn (· == f.fmt) (f.third.operand (.v f.d)) = .ok ()) :
    let g (l : Nat) := s.dotLane f (f.third.operand (.v f.d)) l
    exec (.dot f) s = .next (s.closed ((s.putElems f.fmt f.fmt (some f.k) (.v f.d) fun l _ => (g l).1).raiseFlags
      (s.flagsOver f.fmt (some f.k) (.v f.d) fun l _ => (g l).2))) := by
  obtain ⟨hdest, hops, htags, hpart⟩ := h
  have hall : [f.a, f.b, f.third.operand (.v f.d)].all s.opOk = true := by
    simpa [hop] using hops
  change execDot f s = _
  simp only [execDot, hdest, hall, htags, htag, hpart, Bool.and_self, need_true, stop_ok_bind, State.finish_ok]

/-! Blocks (10 R213 to R215). -/

theorem exec_quant_of_ready {s : State} {f : QuantForm} (hd : s.regsOk f.d.toNat 2 = true)
    (ha : s.regsOk f.a.toNat (wideRegs f.src) = true)
    (htags : s.tagsIn (· == f.src) ((List.range (wideRegs f.src)).map fun k => Operand.v (f.a + BitVec.ofNat 7 k)) = .ok ())
    (hsuper : s.superTag f.super = .ok ()) (hcodes : s.partialReady none (.v f.d) = .ok ())
    (hscales : s.partialReady none (.v (f.d + 1)) = .ok ()) : exec (.quant f) s = .next (s.closed (s.quantWrite f)) := by
  change execQuant f s = _
  simp only [execQuant, hd, ha, htags, hsuper, hcodes, hscales, Bool.and_self, need_true, stop_ok_bind, State.finish_ok]

/-- The wait of a form that keeps lanes of several registers passes (10 R202). -/
theorem State.severalReady {s : State} {d n : Nat}
    (h : s.active = 0 ∨ s.active = -1 ∨ ∀ k < n, s.awaits (.v (d + k)) = false) :
    (!(s.active != 0 && s.active != -1) || (List.range n).all fun k => !s.awaits (.v (d + k))) = true := by
  rcases h with hnone | hall | hfree
  · simp [hnone]
  · simp [hall]
  · simp +contextual [hfree]

theorem exec_deq_of_ready {s : State} {f : DeqForm} (hd : s.regsOk f.d.toNat (wideRegs f.fmt) = true)
    (ha : s.regOk f.a.toNat = true) (hb : s.regOk f.b.toNat = true)
    (hcodes : s.tagIn (· == (if f.super.isSome then .nib4 else .mxfp4)) (.v f.a) = .ok ())
    (hscales : s.tagIn (· == (if f.super.isSome then .n8 else .e8m0)) (.v f.b) = .ok ()) (hsuper : s.superTag f.super = .ok ())
    (hfree : s.active = 0 ∨ s.active = -1 ∨ ∀ k < wideRegs f.fmt, s.awaits (.v (f.d.toNat + k)) = false) :
    exec (.deq f) s = .next (s.closed (s.deqWrite f)) := by
  have hparts := State.severalReady hfree
  change execDeq f s = _
  simp only [execDeq, hd, ha, hb, hcodes, hscales, hsuper, hparts, Bool.and_self, need_true, stop_ok_bind, State.finish_ok]

/-- Settles O19, instruction by instruction. -/
theorem conversionsComplete : Obligations.ConversionsComplete := by
  unfold Obligations.ConversionsComplete
  exact ⟨⟨fun s f => exec_fcmp_of_ready, fun s f => exec_cvt_of_ready, fun s f => exec_dot_of_ready⟩,
    fun s f => exec_quant_of_ready, fun s f => exec_deq_of_ready⟩

/-! Results of variable latency (10 R210; 11 R217 to R221). -/

/-- With no active lane a vector form goes on without its effect (11 R218, R220, R221). -/
theorem State.finish_unlessIdle (s t : State) :
    s.finish (if s.active = 0 then .ok s else .ok t) = .next (s.closed (if s.active = 0 then s else t)) := by
  split <;> rfl

theorem exec_sfn_of_ready {s : State} {f : SfnForm} (h : s.ready (.v f.d) f.sel [f.a] (· == f.fmt))
    (hown : s.ownReady f.sel (.v f.d) = .ok ()) :
    let g (l k : Nat) := sfn f.fn f.fmt f.rnd (s.elemAt f.fmt f.a l k)
    exec (.sfn f) s = .next (s.closed (if s.active = 0 then s else
      s.defer [(.v f.d.toNat, f.fmt, s.active, fun l =>
          newImage f.fmt.width f.sel (s.oldImage (.v f.d) l) fun k => (g l k).1)]
        (s.flagsOver f.fmt f.sel (.v f.d) fun l k => (g l k).2) [] none)) := by
  obtain ⟨hdest, hop, htag, hpart⟩ := State.ready_singleton.1 h
  change execSfn f s = _
  simp only [execSfn, hdest, hop, htag, hpart, hown, Bool.and_self, need_true, stop_ok_bind, State.finish_unlessIdle]

theorem exec_shuf_of_ready {s : State} {f : ShufForm} (h : s.ready (.v f.d) f.sel [.v f.a, f.b] fun _ => true)
    (hown : s.ownReady f.sel (.v f.d) = .ok ()) :
    exec (.shuf f) s = .next (s.closed (if s.active = 0 then s else
      s.defer [(.v f.d.toNat, f.fmt, s.active, fun l =>
        newImage f.fmt.width f.sel (s.oldImage (.v f.d) l) fun k =>
          elem f.fmt.width (s.crossLane f.a.toNat (shufLane f.mode (s.laneImage f.b l).toNat l)) k)] 0 [] none)) := by
  obtain ⟨hdest, hops, -, hpart⟩ := h
  have hd : s.regOk f.d.toNat = true := hdest
  obtain ⟨ha, hb⟩ : s.regOk f.a.toNat = true ∧ s.opOk f.b = true := by simpa [State.opOk] using hops
  change execShuf f s = _
  simp only [execShuf, hd, ha, hb, hpart, hown, Bool.and_self, need_true, stop_ok_bind, State.finish_unlessIdle]

theorem exec_scan_of_ready {s : State} {f : ScanForm} (h : s.ready (.v f.d) f.sel [.v f.a] (redTag f.fn f.fmt))
    (hheads : s.srcTag (fun t => t == .mask || t == .n32 || t == .n64 || t == .b64) f.heads = .ok ())
    (hown : s.ownReady f.sel (.v f.d) = .ok ()) :
    let g := s.scanElem f (s.image f.heads)
    exec (.scan f) s = .next (s.closed (if s.active = 0 then s else
      s.defer [(.v f.d.toNat, f.fmt, s.active, fun l =>
          newImage f.fmt.width f.sel (s.oldImage (.v f.d) l) fun k => (g l k).1)]
        (s.flagsOver f.fmt f.sel (.v f.d) (fun l k => (g l k).2) ||| s.redSignals f.fn f.fmt f.sel f.a.toNat) [] none)) := by
  obtain ⟨hdest, hop, htag, hpart⟩ := State.ready_singleton.1 h
  have hd : s.regOk f.d.toNat = true := hdest
  have ha : s.regOk f.a.toNat = true := hop
  change execScan f s = _
  simp only [execScan, hd, ha, htag, hheads, hpart, hown, Bool.and_self, need_true, stop_ok_bind, State.finish_unlessIdle]

/-- The tags that REDW accepts: a pick accepts all (11 R221). -/
def redwTag (f : RedwForm) : Fmt → Bool :=
  match f.fn with
  | .red fn => redTag fn f.fmt
  | .pick _ => fun _ => true

/-- The flags that REDW raises: a pick signals nothing (11 R219, R221). -/
def State.redwFlags (s : State) (f : RedwForm) : BitVec 5 :=
  (f.fmt.elems f.sel).foldl (fun acc k => acc ||| (s.redwElem f k).2) (match f.fn with
    | .red fn => s.redSignals fn f.fmt f.sel f.a.toNat
    | .pick _ => 0)

/-- The state in which REDW has issued its result: one value for every active lane, or for the scalar register (11 R221). -/
def State.redwIssue (s : State) (f : RedwForm) : State :=
  let image (l : Nat) := newImage f.fmt.width f.sel (s.oldImage f.d l) fun k => (s.redwElem f k).1
  match f.d with
  | .v r => if s.active = 0 then s else s.defer [(.v r.toNat, f.fmt, s.active, image)] (s.redwFlags f) [] none
  | .s r => s.defer [(.s r.toNat, f.fmt, -1, fun _ => image 0)] (s.redwFlags f) [] none

theorem exec_redw_of_ready {s : State} {f : RedwForm} (h : s.ready f.d f.sel [.v f.a] (redwTag f))
    (hown : s.ownReady f.sel f.d = .ok ()) : exec (.redw f) s = .next (s.closed (s.redwIssue f)) := by
  obtain ⟨hdest, hop, htag, hpart⟩ := State.ready_singleton.1 h
  have ha : s.regOk f.a.toNat = true := hop
  obtain ⟨fmt, fn, sel, d, a⟩ := f
  change execRedw _ s = _
  cases d with
  | v r =>
    cases fn <;> simp only [redwTag] at htag <;>
      simp only [execRedw, State.redwIssue, State.redwFlags, hdest, ha, htag, hpart, hown, Bool.and_self, need_true,
        stop_ok_bind, State.finish_unlessIdle]
  | s r =>
    cases fn <;> simp only [redwTag] at htag <;>
      simp only [execRedw, State.redwIssue, State.redwFlags, hdest, ha, htag, hpart, hown, Bool.and_self, need_true,
        stop_ok_bind, State.finish_ok]

/-- Settles O20, instruction by instruction. -/
theorem variableLatencyCompletes : Obligations.VariableLatencyCompletes := by
  unfold Obligations.VariableLatencyCompletes
  exact ⟨fun s f => exec_sfn_of_ready, fun s f => exec_shuf_of_ready, fun s f => exec_scan_of_ready, fun s f => exec_redw_of_ready⟩

end Sys2Proof.Machine
end

section
/-! PROOF. Irregular and sparse work (11 R222 to R227; 15 R298 to R309): a long instruction that nothing stops, a mask as the lanes
that it has, what each instruction answers once its checks pass, and the statement O22. -/

namespace Sys2Proof.Machine

theorem Mask.ofFn_has (m : Mask) : Mask.ofFn m.has = m := by
  refine BitVec.eq_of_getLsbD_eq fun l hl => ?_
  change (Mask.ofFn m.has).has l = m.has l
  rw [Mask.has_ofFn, decide_eq_true hl, Bool.true_and]

/-! Long instructions that nothing stops (19 R362, R373, R374). -/

theorem State.closeLong_completes (s t : State) : s.closeLong t none none = .ok t.endLong := rfl

/-- PROG is 0 after a long instruction that nothing stops, and also after one without an active lane (11 R227). -/
theorem State.finish_long (s t : State) : s.finish (if s.active = 0 then .ok s.endLong else s.closeLong t none none) =
    .next (s.closed (if s.active = 0 then s else t).endLong) := by
  split <;> rfl

/-! REBAL (11 R222). -/

section
variable (s : State) (d a : BitVec 7) (b : BitVec 6)

/-- The length of a row as REBAL counts it: that of a lane which is not active is 0. -/
def State.rebalLen (r : Nat) : Nat := if s.active.has r then elem 32 (s.vval a.toNat r) 0 else 0

/-- The number of the item that a lane is dealt: the active lanes take them in turn. -/
def State.rebalDealt (l : Nat) : Nat := (s.sval b.toNat).toNat + (s.active.toList.filter fun j => decide (j < l)).length

/-- The lanes that an earlier issue of REBAL has not written. -/
def State.rebalRest : Mask := Mask.ofFn fun l => s.active.has l && decide (s.cur.prog.toNat ≤ l)

/-- The state in which REBAL has dealt to all its lanes. -/
def State.rebalIssue : State :=
  s.defer [(.v d.toNat, .idx32, s.rebalRest, fun l => rebalItem (s.rebalLen a) (s.rebalDealt b l)),
    (.s b.toNat, .n64, -1, fun _ => w64 ((s.sval b.toNat).toNat +
      (s.active.toList.filter fun l => decide (s.rebalDealt b l < rowStart (s.rebalLen a) 32)).length))] 0 [] none

end

theorem exec_rebal_of_ready {s : State} {d a : BitVec 7} {b : BitVec 6} (hd : s.regOk d.toNat = true) (ha : s.regOk a.toNat = true)
    (hsprig : s.inSprig = false) (htag : s.tagIn (fun t => t == .n32 || t == .idx32 || t == .b64) (.v a) = .ok ())
    (hcount : s.srcTag countTag (.s b) = .ok ()) (hpart : s.partialReady none (.v d) = .ok ())
    (hgoes : s.shortAt s.rebalRest.toList = none) :
    exec (.rebal d a b) s = .next (s.closed (if s.active = 0 then s else s.rebalIssue d a b).endLong) := by
  change execRebal d a b s = _
  rw [← State.finish_long]
  unfold State.rebalRest at hgoes
  simp only [execRebal, hd, ha, hsprig, htag, hcount, hpart, hgoes, Bool.and_self, Bool.not_false, need_true, stop_ok_bind,
    Option.any_none, Bool.and_true, Mask.ofFn_has]
  rfl

/-! TOPK (11 R223). -/

section
variable (s : State) (f : TopkForm)

/-- The value of a candidate. -/
def State.topkVal (c : Nat) : Nat := elem 32 (s.vval f.a.toNat (c / 2)) (c % 2)

/-- The candidates: the elements of the active lanes below the count, where .nz asks for it without the zeros. -/
def State.topkCands : List Nat :=
  (List.range (Nat.min 64 (s.sval f.b.toNat).toNat)).filter fun c => s.active.has (c / 2) &&
    (!f.nz || !(if f.fmt == .f32 then (numOf .f32 (s.topkVal f c)).isZero else s.topkVal f c == 0))

/-- How many slots hold a candidate. -/
def State.topkCount : Nat := Nat.min (f.k1.toNat + 1) (s.topkCands f).length

/-- A lane of one of the two results: of its two slots those from PROG on are written. -/
def State.topkImage (r : Nat) (g : Nat × Nat → Nat) (l : Nat) : W64 :=
  [2 * l, 2 * l + 1].foldl (fun x j =>
    if j < f.k1.toNat + 1 ∧ s.cur.prog.toNat ≤ j then
      setElem 32 x (j % 2) (g (topkSlot f.fmt (s.topkVal f) (s.topkCands f) (s.topkCount f) j)) else x)
    (s.oldImage (.v (BitVec.ofNat 7 r)) l)

/-- The state in which TOPK has filled all its slots. -/
def State.topkIssue : State :=
  s.defer [(.v f.d.toNat, f.fmt, s.active, s.topkImage f f.d.toNat (·.1)),
    (.v (f.d.toNat + 1), .idx32, s.active, s.topkImage f (f.d.toNat + 1) (·.2)),
    (.s f.b.toNat, .n64, -1, fun _ => w64 (s.topkCount f))]
    (flagIf (f.fmt == .f32 && (s.topkCands f).any fun c => (numOf .f32 (s.topkVal f c)).signals) flagIV) [] none

end

theorem exec_topk_of_ready {s : State} {f : TopkForm} (hd : s.regsOk f.d.toNat 2 = true) (ha : s.regOk f.a.toNat = true)
    (hsprig : s.inSprig = false) (htag : s.tagIn (· == f.fmt) (.v f.a) = .ok ()) (hcount : s.srcTag countTag (.s f.b) = .ok ())
    (hvalues : s.awaits (.v f.d.toNat) = false) (hindices : s.awaits (.v (f.d.toNat + 1)) = false)
    (hownValues : s.awaitsOwn (.v f.d.toNat) = false) (hownIndices : s.awaitsOwn (.v (f.d.toNat + 1)) = false)
    (hgoes : s.shortAt ((List.range (f.k1.toNat + 1)).filter fun j => decide (s.cur.prog.toNat ≤ j)) = none) :
    exec (.topk f) s = .next (s.closed (if s.active = 0 then s else s.topkIssue f).endLong) := by
  change execTopk f s = _
  rw [← State.finish_long]
  simp only [execTopk, hd, ha, hsprig, htag, hcount, hvalues, hindices, hownValues, hownIndices, hgoes, Bool.and_self, Bool.not_false,
    need_true, stop_ok_bind]
  rfl

/-! MERGE (11 R225). -/

/-- The loop of MERGE from PROG on, in the state in which its descriptor has been read. -/
def State.mergeRun (s t : State) (f : MergeForm) (d : MergeDesc) : MergeAt :=
  let p := s.cur.prog.toNat
  t.mergeLoop f d (d.alen + d.blen) true ⟨t, p / 2 ^ 42, p / 2 ^ 21 % 2 ^ 21, p % 2 ^ 21, 0, none, false⟩

theorem exec_merge_of_ended {s t : State} {f : MergeForm} {ws : List W64} (hsprig : s.noSprig = .ok ())
    (htag : s.srcTag addrTag f.desc = .ok ()) (hahead : s.noRunAhead = .ok ()) (htx : s.noTx 2 = .ok ())
    (halign : (s.image f.desc).extractLsb' 0 6 = 0) (hwords : s.loadWords (s.image f.desc).toNat 8 = .ok (ws, t))
    (ha : (mergeDesc ws).alen ≤ 2 ^ 20) (hb : (mergeDesc ws).blen ≤ 2 ^ 20) (hlast : ws.getD 7 0 = 0)
    (hbases : mergeMisaligned (mergeDesc ws) (f.fmt.width / 8) = none) (hstop : (s.mergeRun t f (mergeDesc ws)).stop = none)
    (hgoes : (s.mergeRun t f (mergeDesc ws)).short = false) :
    let m := s.mergeRun t f (mergeDesc ws)
    exec (.merge f) s = .next (s.closed ((m.s.defer [(.s f.d.toNat, .n64, -1, fun _ => w64 m.o)] m.flags [] none).endLong)) := by
  change execMerge f s = _
  unfold State.mergeRun at *
  simp only [execMerge, hsprig, htag, hahead, htx, halign, hwords, decide_eq_true ha, decide_eq_true hb, hlast, hbases, hstop, hgoes,
    beq_self_eq_true, Bool.and_self, Option.isNone_none, need_true, stop_ok_bind, Bool.false_eq_true, if_false,
    State.closeLong_completes, State.finish_ok]

/-! LDPRUNE (15 R298). -/

section
variable {s : State} {f : LdpruneForm} (hd : s.regsOk f.d.toNat 8 = true) (hm : s.regsOk f.m.toNat f.pat.metaRegs = true)
  (happart : (decide (f.d.toNat + 8 ≤ f.m.toNat) || decide (f.m.toNat + f.pat.metaRegs ≤ f.d.toNat)) = true)
  (hsprig : s.noSprig = .ok ())
  (htag : s.srcTag (baseTag .global) f.rec_ = .ok ()) (horg : s.orgTag f.org = .ok ()) (htx : s.noTx 2 = .ok ())
include hd hm happart hsprig htag horg htx

theorem exec_ldprune_of_noLane (hnone : s.active = 0) : exec (.ldprune f) s = .next (s.closed s) := by
  change execLdprune f s = _
  simp only [execLdprune, hd, hm, happart, hsprig, htag, horg, htx, hnone, Bool.and_self, need_true, stop_ok_bind, if_true,
    State.finish_ok]

theorem exec_ldprune_of_read {t : State} {ws : List W64} {sh : Shape} {rows : NMap (List (Option ElemAt))} (hsome : s.active ≠ 0)
    (halign : (s.image f.rec_).extractLsb' 0 6 = 0) (hwords : s.loadWords (s.image f.rec_).toNat 8 = .ok (ws, t))
    (hshape : parseShape (s.image f.rec_) ws (· == f.fmt) = .ok sh) (hrows : s.pruneLanes f sh = .ok rows)
    (hready : s.wAllReady (s.wPieces (rowPlaces sh rows)) = .ok ()) :
    exec (.ldprune f) s = .next (s.closed ((t.wTouches (s.wPieces (rowPlaces sh rows))).defer (s.pruneRegs f sh rows) 0 [] none)) := by
  change execLdprune f s = _
  simp only [execLdprune, hd, hm, happart, hsprig, htag, horg, htx, hsome, halign, hwords, hshape, hrows, hready, beq_self_eq_true,
    Bool.and_self, need_true, stop_ok_bind, if_false, State.finish_ok]

end

/-! PATBIND (15 R305). -/

theorem exec_patbind_of_sound {s t : State} {rec_ : Src} {ws : List W64} (slot : BitVec 3) (hsprig : s.noSprig = .ok ())
    (htag : s.srcTag addrTag rec_ = .ok ()) (hahead : s.noRunAhead = .ok ()) (htx : s.noTx 2 = .ok ())
    (halign : (s.image rec_).extractLsb' 0 7 = 0) (hwords : s.loadWords (s.image rec_).toNat 16 = .ok (ws, t))
    (hsound : bindFault (s.image rec_) ws = none) : exec (.patbind slot rec_) s = .next (s.closed
      { t with cur := { t.cur with binds := t.cur.binds.set slot.toNat (some (bindOf ws)) } }) := by
  change execPatbind slot rec_ s = _
  simp only [execPatbind, hsprig, htag, hahead, htx, halign, hwords, hsound, beq_self_eq_true, need_true, stop_ok_bind,
    State.finish_ok]

theorem exec_patbindClear_of_ready {s : State} (slot : BitVec 3) (hsprig : s.noSprig = .ok ()) (hahead : s.noRunAhead = .ok ())
    (htx : s.noTx 2 = .ok ()) : exec (.patbindClear slot) s = .next (s.closed
      { s with cur := { s.cur with binds := s.cur.binds.set slot.toNat none } }) := by
  change execPatbindClear slot s = _
  simp only [execPatbindClear, hsprig, hahead, htx, stop_ok_bind, State.finish_ok]

/-! PATGEN (15 R307 to R309). -/

section
variable {s : State} {f : PatgenForm} {b : Bind} {p : Pat} (hd : s.regOk f.d.toNat = true) (hsprig : s.noSprig = .ok ())
  (hbound : s.boundPattern f.slot.toNat = some (b, p)) (hline : s.srcTag countTag f.a = .ok ())
  (hpos : s.srcTag countTag (.s f.b) = .ok ()) (hwalks : (!f.tr || b.invptr != 0 || p.invertible) = true)
include hd hsprig hbound hline hpos hwalks

theorem exec_patgen_of_noLane (hnone : s.active = 0) : exec (.patgen f) s = .next (s.closed s.endLong) := by
  change execPatgen f s = _
  simp only [execPatgen, hd, hsprig, hbound, hline, hpos, hwalks, hnone, need_true, stop_ok_bind, if_true, State.finish_ok]

/-- PATGEN that no fault and no SAVE stops; it waits for the wave's own accesses only where it walks the inverse table (15 R308). -/
theorem exec_patgen_of_walked (hsome : s.active ≠ 0)
    (hover : (!f.tr || b.invptr == 0 || s.over s.cur s.who .accesses) = true) (hgoes : s.shortAt s.lanesLeft = none)
    (hready : s.wAllReady (s.wPieces (s.patWalk f b p none).places) = .ok ()) (hfault : (s.patWalk f b p none).fault = none) :
    let w := s.patWalk f b p none
    let n := Nat.min 32 (w.length - s.patPos f)
    exec (.patgen f) s = .next (s.closed ((s.wTouches (s.wPieces w.places)).defer [s.patVector f w fun _ => true,
      (.s f.b.toNat, .n64, -1, fun _ => w64 ((s.patPos f + n) % 2 ^ 32 + n * 2 ^ 32))] 0 [] none).endLong) := by
  change execPatgen f s = _
  simp only [execPatgen, hd, hsprig, hbound, hline, hpos, hwalks, hsome, hover, hgoes, hready, hfault, need_true, stop_ok_bind,
    if_false, Option.map_none, Option.none_or, Option.isSome_none, ite_self, State.closeLong_completes, State.finish_ok]

end

/-- Settles O22, instruction by instruction. -/
theorem irregularAndSparseWorkCompletes : Obligations.IrregularAndSparseWorkCompletes := by
  unfold Obligations.IrregularAndSparseWorkCompletes
  refine ⟨⟨fun s d a b => exec_rebal_of_ready, fun s f => exec_topk_of_ready, ?merge⟩, ?ldprune,
    fun s t slot rec_ ws => exec_patbind_of_sound slot, fun s slot => exec_patbindClear_of_ready slot, ?patgen⟩
  case merge =>
    intro s t f ws hsprig htag hahead htx halign hwords d p m
    exact exec_merge_of_ended hsprig htag hahead htx halign hwords
  case ldprune =>
    intro s f hd hm happart hsprig htag horg htx
    have happart : (decide (f.d.toNat + 8 ≤ f.m.toNat) || decide (f.m.toNat + f.pat.metaRegs ≤ f.d.toNat)) = true := by
      simpa using happart
    exact ⟨exec_ldprune_of_noLane hd hm happart hsprig htag horg htx,
      fun ws t sh rows => exec_ldprune_of_read hd hm happart hsprig htag horg htx⟩
  case patgen =>
    intro s f b p hd hsprig hbound hline hpos hwalks
    have hwalks : (!f.tr || b.invptr != 0 || p.invertible) = true := by simpa [or_assoc] using hwalks
    refine ⟨exec_patgen_of_noLane hd hsprig hbound hline hpos hwalks, fun hsome hover hgoes => ?_⟩
    exact exec_patgen_of_walked hd hsprig hbound hline hpos hwalks hsome (by simpa [or_assoc] using hover) hgoes

end Sys2Proof.Machine
end

section
/-! PROOF. The events of caches, homes and mills (12 R240, R242, R246; 13 R260; 17 R326 to R339) and the accesses of the host and
the peers (12 R239; 17 R331 to R340; 03 R76): what each event does under the hypotheses that its guards name. -/

namespace Sys2Proof.Machine

/-! Operations that only write waves and post events leave every other part of the state. -/

section
variable {β : Type} {part : State → β} (hpost : ∀ s i, part (s.postOnce i) = part s)
include hpost

theorem State.sendQueue_keeps (s : State) (c : Nat) : part (s.sendQueue c) = part s :=
  State.foldl_postOnce_keeps part hpost (fun e : QEntry => .homeStore c e.id) _ s

variable (hwave : ∀ s w, part (s.setWave w) = part s)
include hwave

omit hpost in
theorem State.wakeFence_keeps (s : State) (w : Wave) (x : Who × Thread) : part (s.wakeFence w x) = part s := by
  unfold State.wakeFence
  dsimp only
  split
  · rfl
  · split
    · rfl
    · exact hwave ..

theorem State.wakeFences_keeps (s : State) : part s.wakeFences = part s := by
  refine List.foldlRecOn (motive := fun t => part t = part s) _ _ ?_ fun t ht w _ => ?_
  · refine List.foldlRecOn (motive := fun t => part t = part s) _ _ rfl fun t ht w _ => ?_
    exact List.foldlRecOn (motive := fun t => part t = part s) _ _ ht fun t ht x _ =>
      (State.wakeFence_keeps hwave t w x).trans ht
  · split
    · exact (hpost ..).trans ht
    · exact ht

theorem State.fillPending_keeps (s : State) (w id : Nat) (f : Pending → Pending) : part (s.fillPending w id f) = part s := by
  unfold State.fillPending
  split
  · rfl
  · dsimp only
    split
    · exact (hpost ..).trans (hwave ..)
    · exact hwave ..

end

/-! Leases (17 R326, R327). -/

theorem exec_leaseRequest_of_nothing {r : LeaseReq} (h : r.want = 0) (s : State) :
    exec (.leaseRequest r) s = .next (s.freeRange r).counted := by
  change execLeaseRequest r s = _
  simp only [execLeaseRequest, h, if_true, State.event_eq_counted]

theorem exec_leaseRequest_of_free {s : State} {r : LeaseReq} (hwant : r.want ≠ 0)
    (hqueue : atomQueued ((s.cluster r.cluster).queue.filter fun q => !q.sent) .device
      (r.frame * 256 + 8 * r.first) (8 * (r.last + 1 - r.first)) = false)
    (hfree : s.heldAny (wordSectors r.frame (s.wanted r)) (.leaseRequest r) = none) :
    let t := (wordSectors r.frame (s.wanted r)).foldl (fun (t : State) k => t.grant r (s.wanted r) k) s
    exec (.leaseRequest r) s =
      .next (if r.l2only then t else t.post (.leaseReply (t.leaseReplyOf r (s.wanted r)))).counted := by
  change execLeaseRequest r s = _
  simp only [execLeaseRequest, hwant, hqueue, State.lease, hfree, if_false, Bool.false_eq_true, State.event_eq_counted]

/-- A reply touches no memory and no home sector: it fills blocks of the L1 and the results that wait for it. -/
theorem exec_leaseReply_keeps {β : Type} (part : State → β) (hpost : ∀ s i, part (s.postOnce i) = part s)
    (hwave : ∀ s w, part (s.setWave w) = part s) (hcluster : ∀ s n c, part (s.setCluster n c) = part s)
    (hcounted : ∀ s, part s.counted = part s) (s : State) (r : LeaseRep) :
    ∃ t : State, exec (.leaseReply r) s = .next t ∧ part t = part s := by
  refine ⟨_, rfl, (hcounted _).trans ((State.wakeFences_keeps hpost hwave _).trans ?_)⟩
  have hfilled (f : Pending → Pending) : part ((s.install r).fillPending r.wave r.load f) = part s :=
    (State.fillPending_keeps hpost hwave ..).trans (hcluster ..)
  split
  · split
    · exact hfilled _
    · exact (hwave ..).trans (hfilled _)
  · exact hfilled _

/-! Store queues (17 R326, R327; 13 R266). -/

section
variable {s : State} {c id : Nat} {q : QEntry} (hunsent : s.unsent c id = some q)
include hunsent

theorem exec_homeStore_of_sealed (hseal : s.sealRefuses q.wave q.va q.target q.pa q.bytes = true) :
    exec (.homeStore c id) s = .next (s.refuseEntry c q).counted := by
  change execHomeStore c id s = _
  simp only [execHomeStore, hunsent, hseal, if_true, State.event_eq_counted]

theorem exec_homeStore_of_free (hseal : s.sealRefuses q.wave q.va q.target q.pa q.bytes = false)
    (hfree : q.target ≠ .device ∨ s.heldWrite [q.pa / 32] (.wave q.wave) (.homeStore c id) = none) :
    exec (.homeStore c id) s = .next (s.performEntry c q).wakeFences.counted := by
  change execHomeStore c id s = _
  simp only [execHomeStore, hunsent, hseal, Bool.false_eq_true, if_false]
  split
  · rfl
  · rename_i hdevice
    simp only [hfree.resolve_left hdevice, State.event_eq_counted]

end

/-- What an acknowledgement does to the blocks of its cluster leaves memory and the queue of every cluster. -/
theorem State.ackBlocks_keeps {β : Type} {part : State → β}
    (hblocks : ∀ (s : State) n bs, part (s.setCluster n { s.cluster n with blocks := bs }) = part s)
    (hreplies : ∀ (s : State) n f g, part (s.mapReplies n f g) = part s) (s : State) (c : Nat) (q : QEntry) (wts : BitVec 16) :
    part (s.ackBlocks c q wts) = part s := by
  unfold State.ackBlocks
  split
  · exact (hreplies ..).trans (hblocks ..)
  · exact (hreplies ..).trans (hblocks ..)
  · rfl

/-- Writing the blocks of a cluster leaves the queue of every cluster. -/
theorem State.queue_setBlocks (s : State) (n : Nat) (bs : List Block) (c : Nat) :
    ((s.setCluster n { s.cluster n with blocks := bs }).cluster c).queue = (s.cluster c).queue := by
  rcases Decidable.em (c = n) with rfl | hne
  · rw [State.cluster_setCluster]
  · simp only [State.cluster, State.setCluster, NMap.getD, nmap_get_set_other _ _ _ _ hne]

/-- Device memory and the store queue of a cluster. -/
def State.memAndQueue (c : Nat) (s : State) : Memory × List QEntry := (s.mem, (s.cluster c).queue)

theorem State.memAndQueue_postOnce (c : Nat) (s : State) (i : Instr) : (s.postOnce i).memAndQueue c = s.memAndQueue c := by
  simp [State.memAndQueue, State.cluster]

theorem State.memAndQueue_setWave (c : Nat) (s : State) (w : Wave) : (s.setWave w).memAndQueue c = s.memAndQueue c := by
  simp [State.memAndQueue, State.cluster]

theorem State.memAndQueue_counted (c : Nat) (s : State) : s.counted.memAndQueue c = s.memAndQueue c := rfl

theorem State.memAndQueue_ackBlocks (c : Nat) (s : State) (n : Nat) (q : QEntry) (wts : BitVec 16) :
    (s.ackBlocks n q wts).memAndQueue c = s.memAndQueue c :=
  State.ackBlocks_keeps (part := State.memAndQueue c)
    (fun s n bs => Prod.ext rfl (s.queue_setBlocks n bs c)) (fun _ _ _ _ => rfl) s n q wts

/-- An acknowledged entry leaves its queue, and memory is as it was. -/
theorem exec_storeAck_of_queued {s : State} {c id : Nat} (wts : BitVec 16) {q : QEntry}
    (hqueued : (s.cluster c).queue.find? (fun q => q.id == id) = some q) :
    ∃ t : State, exec (.storeAck c id wts) s = .next t ∧
      t.memAndQueue c = (s.mem, (s.cluster c).queue.filter (·.id != id)) := by
  change ∃ t : State, execStoreAck c id wts s = .next t ∧ _
  simp only [execStoreAck, hqueued, State.event_eq_counted]
  refine ⟨_, rfl, ?_⟩
  rw [State.memAndQueue_counted, State.wakeFences_keeps (State.memAndQueue_postOnce c) (State.memAndQueue_setWave c),
    State.sendQueue_keeps (State.memAndQueue_postOnce c)]
  have hleft : (s.setCluster c { s.cluster c with queue := (s.cluster c).queue.filter (·.id != id) }).memAndQueue c =
      (s.mem, (s.cluster c).queue.filter (·.id != id)) := by
    simp [State.memAndQueue]
  split
  · exact (State.memAndQueue_setWave ..).trans ((State.memAndQueue_ackBlocks ..).trans hleft)
  · exact (State.memAndQueue_ackBlocks ..).trans hleft

/-! Sectors that other agents hold (17 R332, R334, R339). -/

theorem exec_fanoutTimeout_of_late {s : State} {sec : Nat} {b : Busy} (hbusy : (s.sector sec).busy = some b)
    (hlate : b.since + micros 2000 ≤ s.time) : exec (.fanoutTimeout sec) s = .next (s.timedOut sec b).counted := by
  change execFanoutTimeout sec s = _
  simp only [execFanoutTimeout, hbusy, Nat.not_lt.2 hlate, if_false, State.event_eq_counted]

theorem exec_recallReturn_of_owned {s : State} {sec : Nat} (ws : List (Nat × W64)) (h : 0x80 ≤ (s.sector sec).owner.toNat) :
    exec (.recallReturn sec ws) s = .next (s.returned sec ws).counted := by
  change execRecallReturn sec ws s = _
  simp only [execRecallReturn, Nat.not_lt.2 h, if_false, State.event_eq_counted]

/-! Stashes and evictions (12 R246; 17 R329, R335). -/

section
variable {s : State} {c team : Nat} {f : FrameName} (wr : Bool) {x : Team} (hteam : NMap.get? s.teams team = some x)
include hteam

theorem exec_stashFill_of_held
    (hhere : ((s.cluster c).stash.any fun k => k.team == team && k.va == f.va && k.frame == f.pa) = true) :
    exec (.stashFill c team f wr) s = .next (s.refillStash c f.pa).counted := by
  change execStashFill c team f wr s = _
  simp only [execStashFill, hteam, hhere, Option.isNone_some, Bool.false_eq_true, if_false, if_true, State.event_eq_counted]

theorem exec_stashFill_of_free
    (haway : ((s.cluster c).stash.any fun k => k.team == team && k.va == f.va && k.frame == f.pa) = false)
    (hfree : s.heldTell (sectorsOf (f.pa * 256) 256) (fun k => (s.sector k).sharers) (.stashFill c team f wr) = none) :
    exec (.stashFill c team f wr) s = .next (s.fillStash c team f.va f.pa).counted := by
  change execStashFill c team f wr s = _
  simp only [execStashFill, hteam, haway, hfree, Option.isNone_some, Bool.false_eq_true, if_false, State.event_eq_counted]

end

/-- An eviction for which nothing holds a copy leaves no sector of its frame in the L2. -/
theorem exec_l2Evict_of_free {s : State} {frame : Nat}
    (hfree : s.heldTell (sectorsOf (frame * 256) 256) (fun k => (s.sector k).sharers) (.l2Evict frame) = none) :
    ∃ t : State, exec (.l2Evict frame) s = .next t ∧ ∀ e ∈ t.sectors, e.1 / 8 ≠ frame := by
  change ∃ t : State, execL2Evict frame s = .next t ∧ _
  simp only [execL2Evict, hfree, State.event_eq_counted]
  refine ⟨_, rfl, fun e he => ?_⟩
  rw [State.counted_sectors, State.foldl_postOnce_keeps State.sectors State.postOnce_sectors
    (fun w : Wave => .txCapacityEvict w.id)] at he
  simpa using (List.mem_filter.1 he).2

/-! Mills (13 R260). -/

theorem exec_millUpdate_of_first {s : State} {id : Nat} {u : MillUpdate} (hsent : s.mills.find? (fun u => u.id == id) = some u)
    (hfirst : s.millFirst u = u) (hseal : s.sealRefuses u.wave (some u.va) .device u.pa 1 = false)
    (hfree : s.heldWrite [u.pa / 32] .outside (.millUpdate u.id) = none) :
    exec (.millUpdate id) s = .next (s.performMill u).wakeFences.counted := by
  change execMillUpdate id s = _
  simp only [execMillUpdate, hsent, hfirst, if_true, hseal, hfree, Bool.false_eq_true, if_false, State.event_eq_counted]

/-! Seals that are opened (17 R337). -/

theorem exec_sealOpeningDrop_of_opening {s : State} {e : Nat} (c : Nat) {x : SealEntry}
    (hentry : NMap.get? s.sealTable e = some x) (hopen : x.opening = true) :
    exec (.sealOpeningDrop e c) s = .next ((s.setCluster c { s.cluster c with
      blocks := (s.cluster c).blocks.filter fun b => b.sealTag != some e }).freeSeal e).counted := by
  change execSealOpeningDrop e c s = _
  simp only [execSealOpeningDrop, hentry, hopen, Bool.not_true, Bool.false_eq_true, if_false, State.event_eq_counted]

/-- Settles O54, event by event. -/
theorem cacheEventsComplete : Obligations.CacheEventsComplete := by
  unfold Obligations.CacheEventsComplete
  refine ⟨fun s r => ⟨fun h => exec_leaseRequest_of_nothing h s, exec_leaseRequest_of_free⟩, ?leaseReply,
    fun s c id q h => ⟨exec_homeStore_of_sealed h, exec_homeStore_of_free h⟩, ?storeAck, fun s sec b => rfl,
    fun s sec b => exec_fanoutTimeout_of_late, fun s sec ws => exec_recallReturn_of_owned ws,
    fun s c team f wr x hteam => ⟨exec_stashFill_of_held wr hteam, exec_stashFill_of_free wr hteam⟩,
    fun s frame => exec_l2Evict_of_free, fun s id u => exec_millUpdate_of_first,
    fun s e c x => exec_sealOpeningDrop_of_opening c⟩
  case leaseReply =>
    intro s r
    obtain ⟨t, ht, hkept⟩ := exec_leaseReply_keeps (fun s => (s.mem, s.sectors)) (by simp) (by simp) (by simp) (by simp) s r
    exact ⟨t, ht, congrArg Prod.fst hkept, congrArg Prod.snd hkept⟩
  case storeAck =>
    intro s c id wts q hqueued
    obtain ⟨t, ht, hleft⟩ := exec_storeAck_of_queued wts hqueued
    refine ⟨t, ht, congrArg Prod.fst hleft, fun e he => ?_⟩
    have hqueue : (t.cluster c).queue = (s.cluster c).queue.filter (·.id != id) := congrArg Prod.snd hleft
    rw [hqueue, List.mem_filter] at he
    exact bne_iff_ne.1 he.2

/-! The host and the peers (17 R331 to R340; 03 R76). -/

section
variable {s : State} {w : Outside}

theorem exec_hostPeerWrite_of_frozen {pa : Nat} {bs : List Byte} (h : s.aborting.contains (outsideKey w) = true) :
    exec (.hostPeerWrite w pa bs) s = .next (s.refuseOutside w).counted := by
  change execHostPeerWrite w pa bs s = _
  simp only [execHostPeerWrite, h, if_true, State.event_eq_counted]

section
variable (hserved : s.aborting.contains (outsideKey w) = false)
include hserved

/-! An address beyond device memory. -/

theorem exec_hostPeerWrite_of_beyond {pa : Nat} {bs : List Byte} (h : inDevice pa bs.length = false) :
    exec (.hostPeerWrite w pa bs) s = .next (s.freezeOutside w).counted := by
  change execHostPeerWrite w pa bs s = _
  simp only [execHostPeerWrite, hserved, h, Bool.not_false, Bool.false_eq_true, if_false, if_true, State.event_eq_counted]

theorem exec_hostPeerRead_of_beyond {pa n : Nat} (h : inDevice pa n = false) :
    exec (.hostPeerRead w pa n) s = .next (s.freezeOutside w).counted := by
  change execHostPeerRead w pa n s = _
  simp only [execHostPeerRead, hserved, h, Bool.not_false, Bool.false_eq_true, if_false, if_true, State.event_eq_counted]

theorem exec_hostPeerOwnRequest_of_beyond {sec : Nat} (h : inDevice (32 * sec) 32 = false) :
    exec (.hostPeerOwnRequest w sec) s = .next (s.freezeOutside w).counted := by
  change execHostPeerOwnRequest w sec s = _
  simp only [execHostPeerOwnRequest, hserved, h, Bool.not_false, Bool.false_eq_true, if_false, if_true, State.event_eq_counted]

/-! Writes (17 R338). -/

section
variable {pa : Nat} {bs : List Byte} (hin : inDevice pa bs.length = true)
include hin

theorem exec_hostPeerWrite_of_sealed (hseal : s.sealedPa pa bs.length = true) :
    exec (.hostPeerWrite w pa bs) s = .next (s.freezeOutside w).counted := by
  change execHostPeerWrite w pa bs s = _
  simp only [execHostPeerWrite, hserved, hin, hseal, Bool.not_true, Bool.false_eq_true, if_false, if_true, State.event_eq_counted]

theorem exec_hostPeerWrite_of_free (hseal : s.sealedPa pa bs.length = false)
    (hfree : s.heldWrite (sectorsOf pa bs.length) .outside (.hostPeerWrite w pa bs) = none) :
    exec (.hostPeerWrite w pa bs) s = .next ((s.homeWrites pa bs 0 .outside).send (.writeDone w pa)).counted := by
  change execHostPeerWrite w pa bs s = _
  simp only [execHostPeerWrite, hserved, hin, hseal, hfree, Bool.not_true, Bool.false_eq_true, if_false,
    State.event_eq_counted, State.performOutsideWrite]

end

/-! Reads (17 R333, R340). -/

section
variable {pa n : Nat} (hin : inDevice pa n = true) (hfree : s.heldAny (sectorsOf pa n) (.hostPeerRead w pa n) = none)
include hin hfree

theorem exec_hostPeerRead_of_poisoned (hpoison : s.poisonedIn pa n = true) :
    exec (.hostPeerRead w pa n) s = .next ((s.count 6 1).send (.readPoison w pa)).counted := by
  change execHostPeerRead w pa n s = _
  simp only [execHostPeerRead, hserved, hin, hfree, hpoison, Bool.not_true, Bool.false_eq_true, if_false, if_true,
    State.event_eq_counted]

theorem exec_hostPeerRead_of_sound (hsound : s.poisonedIn pa n = false) :
    exec (.hostPeerRead w pa n) s =
      .next ((s.share w pa n).send (.readData w pa ((s.share w pa n).seenBytes pa n))).counted := by
  change execHostPeerRead w pa n s = _
  simp only [execHostPeerRead, hserved, hin, hfree, hsound, Bool.not_true, Bool.false_eq_true, if_false, State.event_eq_counted]

end

/-! Ownership (17 R334). -/

theorem exec_hostPeerOwnRequest_of_free {sec : Nat} (hin : inDevice (32 * sec) 32 = true)
    (hseal : s.sealedPa (32 * sec) 32 = false)
    (hfree : s.heldTell [sec] (fun k => (s.sector k).sharers &&& ~~~outsideBit w) (.hostPeerOwnRequest w sec) = none) :
    exec (.hostPeerOwnRequest w sec) s = .next (s.performOwn w sec).counted := by
  change execHostPeerOwnRequest w sec s = _
  simp only [execHostPeerOwnRequest, hserved, hin, hseal, hfree, Bool.not_true, Bool.false_eq_true, if_false,
    State.event_eq_counted]

end

/-! Memory errors (12 R239). -/

theorem exec_eccError_of_corrected {sec : Nat} (hin : inDevice (32 * sec) 32 = true) :
    exec (.eccError sec false) s = .next (s.count 2 (homeStack (32 * sec))).counted := by
  change execEccError sec false s = _
  simp only [execEccError, hin, Bool.not_true, Bool.false_eq_true, if_false, State.event_eq_counted]

theorem exec_eccError_of_sound {sec : Nat} (hin : inDevice (32 * sec) 32 = true) (hsound : s.poison.contains sec = false) :
    exec (.eccError sec true) s = .next ({ s with poison := insertRising sec s.poison }.count 6 0).counted := by
  change execEccError sec true s = _
  simp only [execEccError, hin, hsound, Bool.not_true, Bool.false_eq_true, if_false, if_true, State.event_eq_counted]

theorem exec_eccError_of_beyond {sec : Nat} (u : Bool) (h : inDevice (32 * sec) 32 = false) :
    exec (.eccError sec u) s = .next s.counted := by
  change execEccError sec u s = _
  simp only [execEccError, h, Bool.not_false, if_true, State.event_eq_counted]

end

/-- Settles O55, event by event; a line of host memory that is snooped is dropped without a condition. -/
theorem outsideEventsComplete : Obligations.OutsideEventsComplete := by
  unfold Obligations.OutsideEventsComplete
  refine ⟨fun s w pa bs hin => ⟨exec_hostPeerWrite_of_frozen, fun hserved => exec_hostPeerWrite_of_sealed hserved hin,
      fun hserved => exec_hostPeerWrite_of_free hserved hin⟩,
    fun s w pa n hin hserved hfree =>
      ⟨exec_hostPeerRead_of_poisoned hserved hin hfree, exec_hostPeerRead_of_sound hserved hin hfree⟩,
    fun s w sec hin hserved => exec_hostPeerOwnRequest_of_free hserved hin,
    fun s sec hin => ⟨exec_eccError_of_corrected hin, exec_eccError_of_sound hin⟩, fun s line => rfl,
    fun s w pa n sec bs hserved => ⟨exec_hostPeerWrite_of_beyond hserved, exec_hostPeerRead_of_beyond hserved,
      exec_hostPeerOwnRequest_of_beyond hserved⟩, fun s sec u => exec_eccError_of_beyond u⟩

end Sys2Proof.Machine
end

section
/-! PROOF. Every step keeps the memories in canonical form (12 R228, R229; log entry 1). Few operations write a memory, and
`puts_wf` keeps their bytes canonical; the others only have to be followed. So each function of the model from which a step is
made has one lemma, `State.memoriesOk.f` for `State.f`, whose proof follows the function's body through the lemmas of what it
calls. This part holds the combinators with which they are written. -/

namespace Sys2Proof.Machine

variable {s t : State}

/-! How a state is put together: the combinators through which the lemmas below follow the model's functions. -/

/-- A state with the memories and the teams of another. -/
theorem State.memoriesOk.upd (e : (t.mem, t.hostMem, t.peerMem, t.teams) = (s.mem, s.hostMem, s.peerMem, s.teams))
    (h : s.memoriesOk) : t.memoriesOk := by
  simp only [Prod.mk.injEq] at e
  exact State.memoriesOk_same e h

theorem State.memoriesOk.ite {c : Prop} [Decidable c] (h : s.memoriesOk) (k : t.memoriesOk) :
    (if c then s else t).memoriesOk := by
  split
  · exact h
  · exact k

theorem State.memoriesOk.foldl {α : Type} {f : State → α → State} {xs : List α} (k : ∀ s a, s.memoriesOk → (f s a).memoriesOk)
    (h : s.memoriesOk) : (xs.foldl f s).memoriesOk := State.memoriesOk_foldl f k xs s h

/-- What a computation gives, if it gives something, has `P`. -/
def Gives {ε α : Type} (P : α → Prop) (x : Except ε α) : Prop := ∀ a, x = .ok a → P a

section
variable {ε α β : Type} {P : α → Prop} {Q : β → Prop}

theorem Gives.ok {a : α} (h : P a) : Gives P (.ok a : Except ε α) := fun _ e => Except.ok.inj e ▸ h

theorem Gives.error {e : ε} : Gives P (.error e) := fun _ h => nomatch h

theorem Gives.bind {x : Except ε β} {f : β → Except ε α} (h : Gives Q x) (k : ∀ b, Q b → Gives P (f b)) :
    Gives P (x >>= f) := by
  intro a ha
  cases x with
  | error e => cases ha
  | ok b => exact k b (h b rfl) a ha

theorem Gives.check {x : Except ε β} {f : β → Except ε α} (k : ∀ b, Gives P (f b)) : Gives P (x >>= f) :=
  .bind (Q := fun _ => True) (fun _ _ => trivial) fun b _ => k b

theorem Gives.ite {c : Prop} [Decidable c] {x y : Except ε α} (h : Gives P x) (k : Gives P y) :
    Gives P (if c then x else y) := by
  split
  · exact h
  · exact k

end

/-- The next state, if there is one, has its memories in canonical form. -/
def LeadsOk (o : Host.Outcome State Fault Refusal) : Prop := ∀ t, o = .next t → t.memoriesOk

theorem LeadsOk.next (h : s.memoriesOk) : LeadsOk (.next s) := fun _ e => Host.Outcome.next.inj e ▸ h

theorem LeadsOk.event (h : s.memoriesOk) : LeadsOk s.event := .next h

theorem LeadsOk.ite {c : Prop} [Decidable c] {x y : Host.Outcome State Fault Refusal} (h : LeadsOk x) (k : LeadsOk y) :
    LeadsOk (if c then x else y) := by
  split
  · exact h
  · exact k

/-- What an option holds, if it holds something, has `P`. -/
def Offers {α : Type} (P : α → Prop) (o : Option α) : Prop := ∀ a, o = some a → P a

section
variable {α β : Type} {P : α → Prop} {Q : β → Prop}

theorem Offers.none : Offers P none := fun _ e => nomatch e

theorem Offers.some {a : α} (h : P a) : Offers P (some a) := fun _ e => Option.some.inj e ▸ h

theorem Offers.ite {c : Prop} [Decidable c] {x y : Option α} (h : Offers P x) (k : Offers P y) :
    Offers P (if c then x else y) := by
  split
  · exact h
  · exact k

theorem Offers.bind {o : Option β} {f : β → Option α} (k : ∀ b, Offers P (f b)) : Offers P (o.bind f) := by
  cases o with
  | none => exact .none
  | some b => exact k b

theorem Offers.map {o : Option β} {f : β → α} (k : ∀ b, P (f b)) : Offers P (o.map f) := by
  cases o with
  | none => exact .none
  | some b => exact .some (k b)

theorem Offers.findSome {xs : List β} {f : β → Option α} (k : ∀ b, Offers P (f b)) : Offers P (xs.findSome? f) := by
  intro a ha
  obtain ⟨b, -, hb⟩ := List.exists_of_findSome?_eq_some ha
  exact k b a hb

end

theorem State.memoriesOk.getD {o : Option State} (k : Offers State.memoriesOk o) (h : s.memoriesOk) :
    (o.getD s).memoriesOk := by
  cases o with
  | none => exact h
  | some t => exact k t rfl

/-! The shared memories of teams. -/

/-- The shared memory of a team that is resident is in canonical form. -/
theorem State.memoriesOk.team {n : Nat} {x : Team} (h : s.memoriesOk) (e : NMap.get? s.teams n = some x) :
    x.shared.wf = true := by
  obtain ⟨-, -, -, hteams⟩ := h
  have hall := nmap_getD_all (fun y : Team => y.shared.wf = true) n ⟨0, 0, 0, 0, 0, [], [], [], [], []⟩ rfl _ hteams
  simpa [NMap.getD, e] using hall

theorem State.memoriesOk.setTeam {n : Nat} {x : Team} (h : s.memoriesOk) (k : x.shared.wf = true) :
    { s with teams := NMap.set s.teams n x }.memoriesOk := by
  obtain ⟨hmem, hhost, hpeer, hteams⟩ := h
  exact ⟨hmem, hhost, hpeer, nmap_set_all (fun y : Team => y.shared.wf = true) n x k _ hteams⟩

theorem State.memoriesOk.eraseTeam {n : Nat} (h : s.memoriesOk) : { s with teams := NMap.erase s.teams n }.memoriesOk := by
  obtain ⟨hmem, hhost, hpeer, hteams⟩ := h
  exact ⟨hmem, hhost, hpeer, fun e he => hteams e (List.mem_filter.mp he).1⟩

end Sys2Proof.Machine
end

section
/-! PROOF. Canonical memories through the state's own operations: homes, translation, the threads of a wave, exceptions, issue. -/

namespace Sys2Proof.Machine

variable {s t : State}

/-! Homes, logical time and events (12 R237; 17 R323 to R327). -/

theorem State.memoriesOk.withGt {gt} (h : s.memoriesOk) : (s.withGt gt).memoriesOk :=
  State.memoriesOk_same (s.sameMemories_withGt gt) h

theorem State.memoriesOk.raiseGt {gt} (h : s.memoriesOk) : (s.raiseGt gt).memoriesOk := .withGt h

theorem State.memoriesOk.setSector {n x} (h : s.memoriesOk) : (s.setSector n x).memoriesOk := s.memoriesOk_setSector n x h

theorem State.memoriesOk.setWave {x} (h : s.memoriesOk) : (s.setWave x).memoriesOk := .ite h h

theorem State.memoriesOk.mapWaves {f} (h : s.memoriesOk) : (s.mapWaves f).memoriesOk := h

theorem State.memoriesOk.setCtx {n c} (h : s.memoriesOk) : (s.setCtx n c).memoriesOk := h

theorem State.memoriesOk.setCluster {n c} (h : s.memoriesOk) : (s.setCluster n c).memoriesOk := s.memoriesOk_setCluster n c h

theorem State.memoriesOk.post {i} (h : s.memoriesOk) : (s.post i).memoriesOk := h

theorem State.memoriesOk.postOnce {i} (h : s.memoriesOk) : (s.postOnce i).memoriesOk :=
  State.memoriesOk_same (s.sameMemories_postOnce i) h

theorem State.memoriesOk.soon {i} (h : s.memoriesOk) : (s.soon i).memoriesOk := .ite h h

theorem State.memoriesOk.send {o} (h : s.memoriesOk) : (s.send o).memoriesOk := h

theorem State.memoriesOk.count {x n} (h : s.memoriesOk) : (s.count x n).memoriesOk := s.memoriesOk_count x n h

theorem State.memoriesOk.notifyRange {key a n} (h : s.memoriesOk) : (s.notifyRange key a n).memoriesOk :=
  State.memoriesOk_same (s.sameMemories_notifyRange key a n) h

theorem State.memoriesOk.invalidate {sec x keep} (h : s.memoriesOk) : (s.invalidate sec x keep).memoriesOk :=
  State.memoriesOk_same (s.sameMemories_invalidate sec x keep) h

theorem State.memoriesOk.doom {by_ blk write} (h : s.memoriesOk) : (s.doom by_ blk write).memoriesOk :=
  State.memoriesOk_same (s.sameMemories_doom by_ blk write) h

theorem State.memoriesOk.mapReplies {c frame f} (h : s.memoriesOk) : (s.mapReplies c frame f).memoriesOk := h

theorem State.memoriesOk.forgetWords {c pa n} (h : s.memoriesOk) : (s.forgetWords c pa n).memoriesOk :=
  .mapReplies (.setCluster h)

theorem State.memoriesOk.forgetRange {c pa n} (h : s.memoriesOk) : (s.forgetRange c pa n).memoriesOk :=
  .foldl (fun _ _ => .forgetWords) h

theorem State.memoriesOk.holdLines {t' pa n} (h : s.memoriesOk) : (s.holdLines t' pa n).memoriesOk := by
  unfold State.holdLines
  split
  · exact h
  · exact h
  · exact .foldl (fun _ _ h => h) h

theorem State.memoriesOk.returnSome {sec keep} (h : s.memoriesOk) : (s.returnSome sec keep).memoriesOk :=
  s.memoriesOk_returnSome sec keep h

theorem State.memoriesOk.returnWords {sec} (h : s.memoriesOk) : (s.returnWords sec).memoriesOk := s.memoriesOk_returnWords sec h

theorem State.memoriesOk.dropStash {frame} (h : s.memoriesOk) : (s.dropStash frame).memoriesOk := s.memoriesOk_dropStash frame h

theorem State.memoriesOk.homeParts {sec parts time rep by_} (h : s.memoriesOk) :
    (s.homeParts sec parts time rep by_).memoriesOk :=
  s.memoriesOk_homeParts sec parts time rep by_ h

theorem State.memoriesOk.homeWrite {pa bs time rep by_} (h : s.memoriesOk) : (s.homeWrite pa bs time rep by_).memoriesOk :=
  s.memoriesOk_homeWrite pa bs time rep by_ h

theorem State.memoriesOk.homeWrites {pa bs time by_} (h : s.memoriesOk) : (s.homeWrites pa bs time by_).memoriesOk :=
  s.memoriesOk_homeWrites pa bs time by_ h

theorem State.memoriesOk.physWrite {g pa bs time by_} (h : s.memoriesOk) : (s.physWrite g pa bs time by_).memoriesOk :=
  s.memoriesOk_physWrite g pa bs time by_ h

/-! Translation, seals and code fetch (12 R232 to R235; 13 R266; 04 R79 to R81). -/

theorem State.memoriesOk.holdShared {die ctx va} (h : s.memoriesOk) : (s.holdShared die ctx va).memoriesOk := by
  unfold State.holdShared
  split <;> exact h

theorem State.memoriesOk.hold {cl ctx va} (h : s.memoriesOk) : (s.hold cl ctx va).memoriesOk := by
  unfold State.hold
  split
  · exact h
  · exact .holdShared (.setCluster h)

theorem State.memoriesOk.holdAll {cl ctx vas} (h : s.memoriesOk) : (s.holdAll cl ctx vas).memoriesOk :=
  .foldl (fun _ _ => .hold) h

theorem State.memoriesOk.globalWrite {die ctx va bytes time by_} (h : s.memoriesOk) :
    Gives State.memoriesOk (s.globalWrite die ctx va bytes time by_) := by
  unfold State.globalWrite
  refine .ite .error ?_
  split
  · exact .error
  · exact .ok (.physWrite h)

/-! Registers, threads, stacks, exceptions and the end of a word (04 R82 to R87; 19 R366 to R371). -/

theorem State.memoriesOk.setThread {t'} (h : s.memoriesOk) : (s.setThread t').memoriesOk := h

theorem State.memoriesOk.setFile {f} (h : s.memoriesOk) : (s.setFile f).memoriesOk := by
  unfold State.setFile
  split
  · split <;> exact h
  · exact h

theorem State.memoriesOk.setSys {x} (h : s.memoriesOk) : (s.setSys x).memoriesOk := by
  unfold State.setSys
  split
  · split <;> exact h
  · exact h

theorem State.memoriesOk.setRecs {r} (h : s.memoriesOk) : (s.setRecs r).memoriesOk := by
  unfold State.setRecs
  split
  · split <;> exact h
  · exact h

theorem State.memoriesOk.extendOwn {old more} (h : s.memoriesOk) : (s.extendOwn old more).memoriesOk := .setCluster h

theorem State.memoriesOk.handOver {old new} (h : s.memoriesOk) : (s.handOver old new).memoriesOk := .setCluster h

theorem State.memoriesOk.noteWrote {r} (h : s.memoriesOk) : (s.noteWrote r).memoriesOk := by
  unfold State.noteWrote
  split
  · split
    · exact .ite h h
    · exact h
  · exact h

theorem State.memoriesOk.pushOut {r} (h : s.memoriesOk) : (s.pushOut r).memoriesOk :=
  .ite h (.foldl (fun _ ⟨_, _⟩ h => .ite h (.postOnce h)) h)

theorem State.memoriesOk.beforeWrite {r m} (h : s.memoriesOk) : (s.beforeWrite r m).memoriesOk := .pushOut (.noteWrote h)

theorem State.memoriesOk.writeS {r tag v} (h : s.memoriesOk) : (s.writeS r tag v).memoriesOk := .setFile (.beforeWrite h)

theorem State.memoriesOk.writeV {r tag m f} (h : s.memoriesOk) : (s.writeV r tag m f).memoriesOk :=
  .ite h (.setFile (.beforeWrite h))

theorem State.memoriesOk.writePart {r tag m bits f} (h : s.memoriesOk) : (s.writePart r tag m bits f).memoriesOk :=
  .ite h (.setFile (.pushOut (.noteWrote h)))

theorem State.memoriesOk.setTag {r tag} (h : s.memoriesOk) : (s.setTag r tag).memoriesOk := by
  unfold State.setTag
  split <;> exact .setFile h

theorem State.memoriesOk.defer {rs flags parts sealWait} (h : s.memoriesOk) : (s.defer rs flags parts sealWait).memoriesOk :=
  .post (.upd rfl (.foldl (fun _ ⟨_, _, _, _⟩ h => .setTag (.beforeWrite h)) h))

theorem State.memoriesOk.deferS {d tag v} (h : s.memoriesOk) : (s.deferS d tag v).memoriesOk := .defer h

theorem State.memoriesOk.raiseNow {f} (h : s.memoriesOk) : (s.raiseNow f).memoriesOk := .upd rfl (.setSys h)

theorem State.memoriesOk.raiseFlags {f} (h : s.memoriesOk) : (s.raiseFlags f).memoriesOk := by
  unfold State.raiseFlags
  split
  · exact .ite h (.raiseNow h)
  · exact .raiseNow h

theorem State.memoriesOk.sendTokens {w reason} (h : s.memoriesOk) : (s.sendTokens w reason).memoriesOk := by
  unfold State.sendTokens
  refine .foldl (fun s ⟨_, _⟩ h => ?_) h
  dsimp only
  split
  · exact h
  · refine .postOnce (.postOnce (.upd rfl (.foldl (fun s ⟨_, _⟩ h => .ite h (.ite (.send h) ?_)) h)))
    dsimp only
    split
    · exact h
    · split
      · exact h
      · exact .post h

theorem State.memoriesOk.stopContext {ctx} (h : s.memoriesOk) : (s.stopContext ctx).memoriesOk := .mapWaves h

theorem State.memoriesOk.freeze {ctx cluster path write va} (h : s.memoriesOk) :
    (s.freeze ctx cluster path write va).memoriesOk :=
  .ite h (.stopContext (.foldl (fun _ _ => .sendTokens) (.setCtx h)))

theorem State.memoriesOk.abortTx {status} (h : s.memoriesOk) : (s.abortTx status).memoriesOk := by
  unfold State.abortTx
  split
  · exact h
  · exact .setThread (.writeS h)

theorem State.memoriesOk.recall {j} (h : s.memoriesOk) : (s.recall j).memoriesOk := by
  unfold State.recall
  split <;> exact h

theorem State.memoriesOk.stopLog {resume splits} (h : s.memoriesOk) : (s.stopLog resume splits).memoriesOk := by
  unfold State.stopLog
  split
  · exact h
  · split
    · exact h
    · split
      · exact h
      · dsimp only
        split
        · exact h
        · exact .ite h (.physWrite (.physWrite h))

theorem State.memoriesOk.stopWave {cause resume splits} (h : s.memoriesOk) : (s.stopWave cause resume splits).memoriesOk :=
  .ite (.stopLog (.foldl (fun _ ⟨_, _⟩ => .recall) h)) (.sendTokens (.stopLog (.foldl (fun _ ⟨_, _⟩ => .recall) h)))

theorem State.memoriesOk.quitMma (h : s.memoriesOk) : s.quitMma.memoriesOk := by
  unfold State.quitMma
  split
  · exact h
  · exact .mapWaves h

theorem State.memoriesOk.beforeTrap {who tr} (h : s.memoriesOk) : (s.beforeTrap who tr).memoriesOk :=
  .ite (.count (.upd rfl (.abortTx h))) (.upd rfl (.abortTx h))

/-- What is written to the wave that issues is in no memory. -/
theorem State.memoriesOk.setCur {c} (h : s.memoriesOk) : { s with cur := c }.memoriesOk := h

theorem State.memoriesOk.noteTrap {at_ tr tx} (h : s.memoriesOk) : (s.noteTrap at_ tr tx).memoriesOk := .setCur h

theorem State.memoriesOk.enterHandler {t' resume} (h : s.memoriesOk) : (s.enterHandler t' resume).memoriesOk := by
  unfold State.enterHandler
  refine .upd rfl ?_
  dsimp only
  split
  · exact .recall h
  · exact h

theorem State.memoriesOk.takeTrap {who at_ tr} (h : s.memoriesOk) : (s.takeTrap who at_ tr).memoriesOk := by
  have hbefore : (s.beforeTrap who tr).memoriesOk := .beforeTrap h
  exact .ite hbefore (.ite (.stopWave (.noteTrap (.ite (.quitMma hbefore) hbefore)))
    (.enterHandler (.noteTrap (.ite (.quitMma hbefore) hbefore))))

theorem State.memoriesOk.abortFirst {tr x} (h : s.memoriesOk) (e : s.abortFirst tr = (t, x)) : t.memoriesOk := by
  unfold State.abortFirst at e
  split at e
  · cases e
    exact .abortTx h
  · cases e
    exact h

theorem State.memoriesOk.raise {at_ tr} (h : s.memoriesOk) : (s.raise at_ tr).memoriesOk := by
  unfold State.raise
  refine .ite (.setThread h) ?_
  have h : (s.abortFirst tr).1.memoriesOk := h.abortFirst rfl
  exact .ite (.takeTrap h) (.postOnce (.upd rfl h))

theorem State.memoriesOk.takeHeld (h : s.memoriesOk) : s.takeHeld.memoriesOk := by
  unfold State.takeHeld
  split
  · exact h
  · exact .post h

theorem State.memoriesOk.rewake {w} (h : s.memoriesOk) : (s.rewake w).memoriesOk := by
  unfold State.rewake
  refine .foldl (fun _ ⟨_, _⟩ h => ?_) h
  dsimp only
  split
  · exact .postOnce h
  · exact .postOnce h
  · exact .postOnce h
  · exact .postOnce h
  · split
    · exact .postOnce h
    · exact h
  · exact h

theorem State.memoriesOk.trapReturn {f t' same} (h : s.memoriesOk) : (s.trapReturn f t' same).memoriesOk := by
  unfold State.trapReturn
  refine .takeHeld (.rewake ?_)
  split
  · exact .postOnce (.handOver (.upd rfl (.foldl (fun _ _ => .beforeWrite) h)))
  · exact .handOver (.upd rfl (.foldl (fun _ _ => .beforeWrite) h))

theorem State.memoriesOk.setBars {bs} (h : s.memoriesOk) : (s.setBars bs).memoriesOk := by
  unfold State.setBars
  split
  · exact h
  · split
    next n _ x e =>
      have k : x.shared.wf = true := h.team e
      exact .setTeam h k
    next => exact h

theorem State.memoriesOk.recheckBars (h : s.memoriesOk) : s.recheckBars.memoriesOk :=
  .foldl (fun _ _ h => .ite h (.postOnce h)) (.setBars h)

theorem State.memoriesOk.block {p} (h : s.memoriesOk) : (s.block p).memoriesOk := .setThread h

theorem State.memoriesOk.recheck (h : s.memoriesOk) : s.recheck.memoriesOk := by
  unfold State.recheck
  extract_lets s₁
  have h₁ : s₁.memoriesOk := .foldl (fun _ ⟨_, _⟩ h => .ite (.postOnce h) h) h
  exact .ite (.postOnce (.upd rfl h₁)) h₁

theorem State.memoriesOk.endSprig {j lanes} (h : s.memoriesOk) : (s.endSprig j lanes).memoriesOk := by
  unfold State.endSprig
  split <;> exact h

theorem State.memoriesOk.loseLanes {m} (h : s.memoriesOk) : (s.loseLanes m).memoriesOk :=
  .upd rfl (.setSys (.upd rfl (.setRecs h)))

theorem State.memoriesOk.goHome {j m} (h : s.memoriesOk) : (s.goHome j m).memoriesOk := by
  unfold State.goHome
  split
  · exact h
  · exact .postOnce h

theorem State.memoriesOk.closeSprig {j all} (h : s.memoriesOk) : (s.closeSprig j all).memoriesOk :=
  .ite (.endSprig h) (.goHome h)

theorem State.memoriesOk.trimRecs {stack} (h : s.memoriesOk) : (s.trimRecs stack).memoriesOk := by
  unfold State.trimRecs
  split
  · exact h
  · exact .setRecs h

theorem State.memoriesOk.leaveHandler (h : s.memoriesOk) : s.leaveHandler.memoriesOk := .takeHeld (.rewake h)

theorem State.memoriesOk.exitAll (h : s.memoriesOk) : s.exitAll.memoriesOk := by
  unfold State.exitAll
  split
  · exact .recheck (.recheckBars (.upd rfl (.endSprig (.loseLanes h))))
  · extract_lets mine s₁ out cur t₁ t₂
    have h₁ : s₁.memoriesOk := by
      unfold s₁
      split
      · exact .endSprig h
      · exact h
    have h₂ : t₂.memoriesOk := .recheck (.recheckBars (.upd rfl h₁))
    exact .ite (.leaveHandler h₂) h₂

theorem State.memoriesOk.exitLanes {m} (h : s.memoriesOk) : (s.exitLanes m).memoriesOk := by
  unfold State.exitLanes
  extract_lets t all look handled t' s₀ cur sys s₁ s₂ s₃
  have h₀ : s₀.memoriesOk := .loseLanes h
  have h₁ : s₁.memoriesOk := by
    refine .ite (.setThread h₀) ?_
    split
    · exact .trimRecs (.setThread (.extendOwn (.setRecs h₀)))
    · split
      · exact .upd rfl h₀
      · exact .closeSprig (.upd rfl h₀)
      · split
        · dsimp only
          split
          · exact .upd rfl h₀
          · exact .closeSprig (.upd rfl h₀)
          · exact .upd rfl h₀
        · exact h₀
  have h₃ : s₃.memoriesOk := .recheck (.recheckBars (.upd rfl h₁))
  exact .ite (.exitAll (.setThread h₀)) (.ite (.leaveHandler h₃) h₃)

theorem State.memoriesOk.setPend {pc m} (h : s.memoriesOk) : (s.setPend pc m).memoriesOk := by
  unfold State.setPend
  split
  · exact h
  · split
    · exact .setRecs h
    · exact h

theorem State.memoriesOk.newSplit {m pc} (h : s.memoriesOk) : (s.newSplit m pc).memoriesOk := h

theorem State.memoriesOk.divide {lanes target fall nib} (h : s.memoriesOk) : (s.divide lanes target fall nib).memoriesOk := by
  unfold State.divide
  dsimp only
  split
  · exact .ite (.setThread (.upd rfl h)) (.setThread (.upd rfl h))
  · exact .ite (.newSplit (.setThread h)) (.setThread (.setPend h))

theorem State.memoriesOk.mark (h : s.memoriesOk) : s.mark.memoriesOk := .ite h (.ite (.setThread h) (.ite (.setThread h) h))

theorem State.memoriesOk.seeNow (h : s.memoriesOk) : s.seeNow.memoriesOk := h

theorem State.memoriesOk.settle {slot} (h : s.memoriesOk) : (s.settle slot).memoriesOk := by
  unfold State.settle
  refine .seeNow ?_
  split
  · exact .mark (.setThread (.setThread h))
  · exact .mark (.setThread (.setThread h))
  · exact .divide (.mark (.setThread h))
  · exact .setThread (.foldl (fun _ ⟨_, _⟩ => .newSplit) (.setThread (.mark (.setThread h))))
  · exact .setThread (.mark (.setPend (.setThread h)))
  · exact .exitLanes (.mark (.ite (.abortTx (.setThread h)) (.setThread (.setThread h))))
  · exact .exitAll (.abortTx (.setThread h))
  · exact .mark (.setThread h)

theorem State.memoriesOk.posted {p} (h : s.memoriesOk) : (s.posted p).memoriesOk := by
  unfold State.posted
  split
  · exact .postOnce h
  · exact .postOnce h
  · split
    · exact .postOnce h
    · exact h
  · exact h

theorem State.memoriesOk.awaitMemory {evs} (h : s.memoriesOk) : (s.awaitMemory evs).memoriesOk :=
  .foldl (fun _ _ => .postOnce) (.block h)

theorem State.memoriesOk.trapOrWait {at_ tr} (h : s.memoriesOk) : (s.trapOrWait at_ tr).memoriesOk := by
  unfold State.trapOrWait
  split
  · exact .awaitMemory h
  · exact .raise h

theorem State.memoriesOk.arriveWith {a} (h : s.memoriesOk) : (s.arriveWith a).memoriesOk := by
  unfold State.arriveWith
  split
  · exact h
  · exact .foldl (fun _ _ => .doom) h

theorem State.memoriesOk.halt {slot e} (h : s.memoriesOk) : (s.halt slot e).memoriesOk := by
  unfold State.halt
  extract_lets issue s₁
  have h₁ : s₁.memoriesOk := .upd rfl h
  refine .seeNow ?_
  split
  · exact .trapOrWait h₁
  · exact .block h₁
  · exact .posted (.block (.arriveWith h₁))
  · refine .abortTx ?_
    split
    · exact h₁
    · exact .setCur h₁
  · exact .awaitMemory h₁
  · exact .foldl (fun _ _ => .postOnce) (.block h₁)
  · exact h₁

theorem State.memoriesOk.noteCut (h : s.memoriesOk) : s.noteCut.memoriesOk := h

theorem State.memoriesOk.noteStop {e} (h : s.memoriesOk) : (s.noteStop e).memoriesOk := h

theorem State.memoriesOk.finishWord {r} (h : s.memoriesOk) (k : Gives State.memoriesOk r) : (s.finishWord r).memoriesOk := by
  unfold State.finishWord
  split
  · exact .ite (.noteCut h) (k _ rfl)
  · exact .ite (.noteCut h) (.noteStop h)
  · exact .noteStop h

theorem LeadsOk.finish {r} (h : s.memoriesOk) (k : Gives State.memoriesOk r) : LeadsOk (s.finish r) := by
  refine .next (.ite (.finishWord h k) ?_)
  cases r with
  | ok t => exact .settle (k t rfl)
  | error e => exact .halt h

theorem State.memoriesOk.stopLong {tr} (h : t.memoriesOk) : Gives State.memoriesOk (s.stopLong t tr) :=
  .ite .error (.ite .error (.ok (.raise h)))

/-! Choosing what happens next, joins and groups (07 R141 to R143, R156, R159; 04 R91). -/

theorem State.memoriesOk.select {w who} (h : s.memoriesOk) : (s.select w who).memoriesOk := by
  unfold State.select
  refine .ite h ?_
  split <;> exact h

theorem State.memoriesOk.chooseTable (h : s.memoriesOk) : s.chooseTable.memoriesOk := .ite h (.upd rfl h)

theorem State.memoriesOk.endCycle (h : s.memoriesOk) : s.endCycle.memoriesOk := h

theorem State.memoriesOk.starve {xs chosen} (h : s.memoriesOk) : (s.starve xs chosen).memoriesOk := by
  unfold State.starve
  refine .foldl (fun _ ⟨_, _, _, _, _, _⟩ h => ?_) h
  dsimp only
  split
  · exact h
  · split
    · split
      · exact .setWave h
      · exact h
    · exact .setWave h

theorem State.memoriesOk.choose (h : s.memoriesOk) : Offers State.memoriesOk s.choose := by
  unfold State.choose
  split
  · exact .some (.select h)
  · refine .ite .none ?_
    extract_lets all unit
    split
    · exact .none
    · split
      · exact .none
      · extract_lets who starved s₁ s₂
        have h₂ : s₂.memoriesOk := .select (.upd rfl (.starve h))
        clear_value who
        refine .some ?_
        split
        · exact .setCur h₂
        · exact h₂

theorem State.memoriesOk.nextEvent (h : s.memoriesOk) : Offers (fun x => x.2.memoriesOk) s.nextEvent := by
  unfold State.nextEvent
  split
  · exact .some h
  · exact .ite .none (.map fun _ => h)

theorem State.memoriesOk.mergeOwn {e r} (h : s.memoriesOk) : (s.mergeOwn e r).memoriesOk :=
  .ite (.block (.setRecs h)) (.ite (.setThread h) (.ite (.raise (.setThread (.setRecs h))) (.setThread (.setRecs h))))

theorem State.memoriesOk.arrive {e r} (h : s.memoriesOk) : (s.arrive e r).memoriesOk := by
  unfold State.arrive
  refine .ite (.raise h) ?_
  split
  · exact .setThread (.extendOwn (.setRecs h))
  · split
    · exact .postOnce (.block (.setRecs h))
    · exact .ite (.goHome (.block (.setRecs h))) (.mergeOwn h)
    · exact .mergeOwn h

theorem State.memoriesOk.keepPacket {p} (h : s.memoriesOk) : (s.keepPacket p).memoriesOk := .setThread (.upd rfl (.hold h))

/-- What a plan starts from has its memories in canonical form. -/
def Plan.memoriesOk (p : Plan) : Prop :=
  match p with
  | .settled s => s.memoriesOk
  | .one _ s => s.memoriesOk
  | .group _ _ s => s.memoriesOk

theorem Plan.memoriesOk.ite {c : Prop} [Decidable c] {p q : Plan} (h : p.memoriesOk) (k : q.memoriesOk) :
    (if c then p else q).memoriesOk := by
  split
  · exact h
  · exact k

theorem State.memoriesOk.planGroup {p} (h : s.memoriesOk) : (s.planGroup p).memoriesOk := by
  unfold State.planGroup
  dsimp only
  split
  · split
    · exact h
    · exact State.memoriesOk.halt h
  · exact h

theorem State.memoriesOk.planLate {p l} (h : s.memoriesOk) : (s.planLate p l).memoriesOk := h

theorem State.memoriesOk.endLate {l} (h : s.memoriesOk) : (s.endLate l).memoriesOk := .settle (.setThread h)

theorem State.memoriesOk.planPacket {p} (h : s.memoriesOk) : (s.planPacket p).memoriesOk := by
  unfold State.planPacket
  refine .ite (State.memoriesOk.raise h) ?_
  split
  · exact State.memoriesOk.planLate (.chooseTable h)
  · split
    · exact State.memoriesOk.arrive h
    · exact State.memoriesOk.planGroup (.chooseTable h)

theorem State.memoriesOk.planFetch (h : s.memoriesOk) : s.planFetch.memoriesOk := by
  unfold State.planFetch
  split
  · exact State.memoriesOk.trapOrWait h
  · exact State.memoriesOk.planPacket (.keepPacket h)

theorem State.memoriesOk.plan (h : s.memoriesOk) : s.plan.memoriesOk := by
  unfold State.plan
  dsimp only
  split
  · exact .ite (State.memoriesOk.planFetch (.setThread h)) (State.memoriesOk.endLate (.setThread h))
  · exact State.memoriesOk.planFetch (.setThread h)

theorem State.memoriesOk.closeGroup {last} (h : s.memoriesOk) : (s.closeGroup last).memoriesOk := .settle h

theorem State.memoriesOk.stopGroup {post slot e} (h : s.memoriesOk) : (s.stopGroup post slot e).memoriesOk := .halt h

theorem State.memoriesOk.leaveRest {v transfer marker raised last} (h : s.memoriesOk) :
    (s.leaveRest v transfer marker raised last).memoriesOk :=
  .seeNow h

end Sys2Proof.Machine
end

section
/-! PROOF. Canonical memories through register instructions, accesses, fetch and control. -/

namespace Sys2Proof.Machine

variable {s t : State}

/-! The stop of a long instruction (19 R374). -/

theorem State.memoriesOk.stopShort (h : t.memoriesOk) : Gives State.memoriesOk (s.stopShort t) := .ite .error (.ok (.soon h))

theorem State.memoriesOk.endLong (h : s.memoriesOk) : s.endLong.memoriesOk := h

theorem State.memoriesOk.setProg {p} (h : s.memoriesOk) : (s.setProg p).memoriesOk := h

theorem State.memoriesOk.closeLong {tr cut} (h : t.memoriesOk) : Gives State.memoriesOk (s.closeLong t tr cut) := by
  unfold State.closeLong
  split
  · exact .stopShort (.setProg h)
  · exact .stopLong (.setProg h)
  · exact .ok (.endLong h)

/-! The writing of destinations (06 R115, 09 R186 to R189). -/

theorem State.memoriesOk.putElems {f tag sel d g} (h : s.memoriesOk) : (s.putElems f tag sel d g).memoriesOk := by
  unfold State.putElems
  refine .ite (.writePart h) ?_
  split
  · exact .writeV h
  · exact .writeS h

theorem State.memoriesOk.putParts {w tag d g} (h : s.memoriesOk) : (s.putParts w tag d g).memoriesOk := by
  unfold State.putParts
  refine .ite (.writePart h) ?_
  split
  · exact .writeV h
  · exact .writeS h

theorem State.memoriesOk.putImages {tag d g} (h : s.memoriesOk) : (s.putImages tag d g).memoriesOk := by
  unfold State.putImages
  split
  · exact .writeV h
  · exact .writeS h

theorem State.memoriesOk.elementwise {f tag sel d ops ok g} (h : s.memoriesOk) :
    Gives State.memoriesOk (s.elementwise f tag sel d ops ok g) :=
  .check fun _ => .check fun _ => .check fun _ => .ok (.putElems h)

theorem State.memoriesOk.elementwiseF {f tag sel d ops ok g} (h : s.memoriesOk) :
    Gives State.memoriesOk (s.elementwiseF f tag sel d ops ok g) :=
  .check fun _ => .check fun _ => .check fun _ => .ok (.raiseFlags (.putElems h))

theorem State.memoriesOk.putMask {f sel d g} (h : s.memoriesOk) : (s.putMask f sel d g).memoriesOk := by
  unfold State.putMask
  split
  · exact .putElems h
  · exact .writeS h

/-! Floating-point, conversion and block-scale instructions (10). -/

theorem State.memoriesOk.execFadd {f} (h : s.memoriesOk) : LeadsOk (execFadd f s) := .finish h h.elementwiseF

theorem State.memoriesOk.execFmul {f} (h : s.memoriesOk) : LeadsOk (execFmul f s) := .finish h h.elementwiseF

theorem State.memoriesOk.execFma {f} (h : s.memoriesOk) : LeadsOk (execFma f s) := .finish h h.elementwiseF

theorem State.memoriesOk.execFmin {f} (h : s.memoriesOk) : LeadsOk (execFmin f s) := .finish h h.elementwiseF

theorem State.memoriesOk.execFmax {f} (h : s.memoriesOk) : LeadsOk (execFmax f s) := .finish h h.elementwiseF

theorem State.memoriesOk.execFcmp {f} (h : s.memoriesOk) : LeadsOk (execFcmp f s) :=
  .finish h (.check fun _ => .check fun _ => .check fun _ => .ok (.raiseFlags (.putMask h)))

theorem State.memoriesOk.execCvt {f} (h : s.memoriesOk) : LeadsOk (execCvt f s) :=
  .finish h (.check fun _ => .check fun _ => .check fun _ => .check fun _ => .ok (.raiseFlags (.putParts h)))

theorem State.memoriesOk.execSfn {f} (h : s.memoriesOk) : LeadsOk (execSfn f s) :=
  .finish h (.check fun _ => .check fun _ => .check fun _ => .check fun _ => .ite (.ok h) (.ok (.defer h)))

theorem State.memoriesOk.execDot {f} (h : s.memoriesOk) : LeadsOk (execDot f s) :=
  .finish h (.check fun _ => .check fun _ => .check fun _ => .check fun _ => .ok (.raiseFlags (.putElems h)))

theorem State.memoriesOk.quantWrite {f} (h : s.memoriesOk) : (s.quantWrite f).memoriesOk := .raiseFlags (.writeV (.writeV h))

theorem State.memoriesOk.execQuant {f} (h : s.memoriesOk) : LeadsOk (execQuant f s) :=
  .finish h (.check fun _ => .check fun _ => .check fun _ => .check fun _ => .check fun _ => .ok (.quantWrite h))

theorem State.memoriesOk.deqWrite {f} (h : s.memoriesOk) : (s.deqWrite f).memoriesOk :=
  .raiseFlags (.foldl (fun _ _ => .writeV) h)

theorem State.memoriesOk.execDeq {f} (h : s.memoriesOk) : LeadsOk (execDeq f s) :=
  .finish h (.check fun _ => .check fun _ => .check fun _ => .check fun _ => .check fun _ => .ok (.deqWrite h))

/-! Cross-lane instructions (11). -/

theorem State.memoriesOk.execShuf {f} (h : s.memoriesOk) : LeadsOk (execShuf f s) :=
  .finish h (.check fun _ => .check fun _ => .check fun _ => .ite (.ok h) (.ok (.defer h)))

theorem State.memoriesOk.execScan {f} (h : s.memoriesOk) : LeadsOk (execScan f s) :=
  .finish h (.check fun _ => .check fun _ => .check fun _ => .check fun _ => .check fun _ => .ite (.ok h) (.ok (.defer h)))

theorem State.memoriesOk.execRedw {f} (h : s.memoriesOk) : LeadsOk (execRedw f s) := by
  unfold Machine.execRedw
  refine .finish h (.check fun _ => .check fun _ => .check fun _ => .check fun _ => ?_)
  dsimp only
  split
  · exact .ite (.ok h) (.ok (.defer h))
  · exact .ok (.defer h)

theorem State.memoriesOk.execRebal {d a b} (h : s.memoriesOk) : LeadsOk (execRebal d a b s) :=
  .finish h (.check fun _ => .check fun _ => .check fun _ => .check fun _ => .check fun _ =>
    .ite (.ok (.endLong h)) (State.memoriesOk.closeLong (.defer h)))

theorem State.memoriesOk.execTopk {f} (h : s.memoriesOk) : LeadsOk (execTopk f s) :=
  .finish h (.check fun _ => .check fun _ => .check fun _ => .check fun _ => .check fun _ =>
    .ite (.ok (.endLong h)) (State.memoriesOk.closeLong (.defer h)))

/-! Leases and the blocks of an L1 (12 R241 to R243; 17 R324 to R336). -/

theorem State.memoriesOk.holdCopy {sec words} (h : s.memoriesOk) : (s.holdCopy sec words).memoriesOk := by
  unfold State.holdCopy
  dsimp only
  refine .ite h (.upd rfl (.ite h ?_))
  split
  · exact .upd rfl h
  · exact h

theorem State.memoriesOk.grant {r got sec} (h : s.memoriesOk) : (s.grant r got sec).memoriesOk :=
  .ite h (.ite (.holdCopy (.setSector h)) (.setSector h))

theorem State.memoriesOk.install {r} (h : s.memoriesOk) : (s.install r).memoriesOk := .setCluster h

theorem State.memoriesOk.missNow {frame missed lo hi va} (h : s.memoriesOk) : (s.missNow frame missed lo hi va).memoriesOk :=
  .setSys (.install (.foldl (fun _ _ => .grant) h))

/-! How a wave reaches memory (12 R228 to R231; 13 R251; 17 R326; 18 R357). -/

theorem State.memoriesOk.noteHits {pa n} (h : s.memoriesOk) : (s.noteHits pa n).memoriesOk := .setCluster (.setSys h)

theorem State.memoriesOk.sharedPutAt {n off bs} (h : s.memoriesOk) : (s.sharedPutAt n off bs).memoriesOk := by
  unfold State.sharedPutAt
  split
  · exact h
  · exact .notifyRange (.setTeam h (puts_wf _ _ _ (h.team ‹_›)))

theorem State.memoriesOk.sharedPut {off bs} (h : s.memoriesOk) : (s.sharedPut off bs).memoriesOk := .sharedPutAt h

theorem State.memoriesOk.stashPut {pa bs} (h : s.memoriesOk) : (s.stashPut pa bs).memoriesOk :=
  .ite (.count h) (.notifyRange (.setCluster (.doom h)))

theorem State.memoriesOk.privPut {t' pa bs} (h : s.memoriesOk) : (s.privPut t' pa bs).memoriesOk := h

theorem State.memoriesOk.sendQueue {cl} (h : s.memoriesOk) : (s.sendQueue cl).memoriesOk := .foldl (fun _ _ => .postOnce) h

theorem State.memoriesOk.enqueue {t' pa va op reply} (h : s.memoriesOk) : (s.enqueue t' pa va op reply).memoriesOk :=
  .sendQueue (.setCluster h)

theorem State.memoriesOk.writePiece {p bs} (h : s.memoriesOk) : (s.writePiece p bs).memoriesOk := by
  unfold State.writePiece
  split
  · exact .sharedPut h
  · exact .stashPut h
  · exact .privPut h
  · exact .enqueue h
  · exact .physWrite h

theorem State.memoriesOk.loseTx {w} (h : s.memoriesOk) : (s.loseTx w).memoriesOk := by
  unfold State.loseTx
  split
  · exact h
  · exact .postOnce (.setWave h)

theorem State.memoriesOk.txTouch {blk write} (h : s.memoriesOk) : Gives State.memoriesOk (s.txTouch blk write) := by
  unfold State.txTouch
  split
  · exact .ok h
  · exact .check fun _ => .check fun _ => .ok (.upd rfl (.foldl (fun _ _ => .loseTx) h))

theorem State.memoriesOk.txTouchAll {ps w} (h : s.memoriesOk) : Gives State.memoriesOk (s.txTouchAll ps w) := by
  induction ps generalizing s with
  | nil => exact .ok h
  | cons p rest ih =>
    unfold State.txTouchAll
    split
    · exact .error
    · exact ih (h.txTouch _ ‹_›)

theorem State.memoriesOk.readTouch {pa n} (h : s.memoriesOk) : (s.readTouch pa n).memoriesOk := .ite (.doom h) (.doom (.doom h))

theorem State.memoriesOk.sawHome {t' pa n} (h : s.memoriesOk) : (s.sawHome t' pa n).memoriesOk := by
  unfold State.sawHome
  split
  · exact .foldl (fun _ _ h => .setSys (.setSector h)) (.readTouch h)
  · exact h

theorem State.memoriesOk.wTouch {t' pa n va} (h : s.memoriesOk) : (s.wTouch t' pa n va).memoriesOk := by
  unfold State.wTouch
  split
  · exact .ite (.noteHits (.readTouch h)) (.missNow (.readTouch h))
  · exact .holdLines h

theorem State.memoriesOk.wSaw {p} (h : s.memoriesOk) : (s.wSaw p).memoriesOk := by
  unfold State.wSaw
  refine .hold ?_
  split
  · exact .wTouch h
  · exact .readTouch h

theorem State.memoriesOk.sawWords {va n} (h : s.memoriesOk) : (s.sawWords va n).memoriesOk := by
  induction n generalizing s va with
  | zero => exact h
  | succ n ih =>
    unfold State.sawWords
    split
    · exact h
    · exact ih (.wSaw h)

theorem State.memoriesOk.loadWords {va n} (h : s.memoriesOk) : Gives (fun x => x.2.memoriesOk) (s.loadWords va n) := by
  unfold State.loadWords
  refine .check fun _ => .check fun _ => ?_
  split
  · exact .error
  · exact .ok (.sawWords h)

theorem State.memoriesOk.patchReplies {c pa bs} (h : s.memoriesOk) : (s.patchReplies c pa bs).memoriesOk := .mapReplies h

theorem State.memoriesOk.storeHome {t' pa bs repair} (h : s.memoriesOk) : (s.storeHome t' pa bs repair).memoriesOk := by
  cases t' with
  | device =>
    have hw : (if repair then s.homeWrite pa bs s.sys.pts true (.wave s.cur.id)
        else s.physWrite .device pa bs s.sys.pts (.wave s.cur.id)).memoriesOk := .ite (.homeWrite h) (.physWrite h)
    exact .ite (.forgetWords (.setSys hw)) (.patchReplies (.setCluster (.setSys hw)))
  | host => exact .physWrite h
  | peer => exact .physWrite h

theorem State.memoriesOk.storeNow {t' pa bs} (h : s.memoriesOk) : (s.storeNow t' pa bs).memoriesOk := .storeHome h

theorem State.memoriesOk.txHold {p bs} (h : s.memoriesOk) : (s.txHold p bs).memoriesOk := by
  unfold State.txHold
  split <;> exact h

theorem State.memoriesOk.txRepair {ps} (h : s.memoriesOk) : (s.txRepair ps).memoriesOk := h

/-! NOP, XLOAD and XFENCE (04 R98 to R100). -/

theorem State.memoriesOk.execNop (h : s.memoriesOk) : LeadsOk (execNop s) := .finish h (.ok h)

theorem State.memoriesOk.entryWords {va n} (h : s.memoriesOk) : Gives (fun x => x.2.memoriesOk) (s.entryWords va n) := by
  unfold State.entryWords
  split
  · exact .error
  · exact .error
  · exact .error
  · exact h.loadWords

theorem State.memoriesOk.execXload {first count addr} (h : s.memoriesOk) : LeadsOk (execXload first count addr s) := by
  unfold Machine.execXload
  refine .finish h (.check fun _ => .check fun _ => .check fun _ => .check fun _ => .check fun _ => .check fun _ =>
    .bind h.entryWords fun ⟨_, _⟩ h => ?_)
  dsimp only
  split
  · exact .error
  · exact .ok (.upd rfl h)

theorem State.memoriesOk.execXfence (h : s.memoriesOk) : LeadsOk (execXfence s) := .finish h (.ok (.setThread h))

/-! Branches, calls, votes, predicate and reconvergence stacks, EXIT (07 R154 to R167). -/

theorem State.memoriesOk.withTransfer {t'} (h : s.memoriesOk) : (s.withTransfer t').memoriesOk := h

theorem State.memoriesOk.go {target} (h : s.memoriesOk) : (s.go target).memoriesOk := .withTransfer h

theorem State.memoriesOk.execPpush {neg a} (h : s.memoriesOk) : LeadsOk (execPpush neg a s) :=
  .finish h (.check fun _ => .check fun _ => .check fun _ => .ok (.setThread h))

theorem State.memoriesOk.execPinv (h : s.memoriesOk) : LeadsOk (execPinv s) := .finish h (.check fun _ => .ok (.setThread h))

theorem State.memoriesOk.execPpop {n} (h : s.memoriesOk) : LeadsOk (execPpop n s) :=
  .finish h (.check fun _ => .ok (.setThread h))

theorem State.memoriesOk.execBrAlways {off} (h : s.memoriesOk) : LeadsOk (execBrAlways off s) := .finish h (.ok (.go h))

theorem State.memoriesOk.execBrS {r off} (h : s.memoriesOk) : LeadsOk (execBrS r off s) :=
  .finish h (.check fun _ => .ok (.ite h (.go h)))

theorem State.memoriesOk.branchVote {off want} (h : s.memoriesOk) : Gives State.memoriesOk (s.branchVote off want) :=
  .check fun _ => .ite (.ok (.setThread h)) (.ite (.ok (.go (.setThread h))) (.check fun _ => .check fun _ =>
    .ok (.withTransfer (.setThread h))))

theorem State.memoriesOk.execBrP {off} (h : s.memoriesOk) : LeadsOk (execBrP off s) := .finish h h.branchVote

theorem State.memoriesOk.execBrNp {off} (h : s.memoriesOk) : LeadsOk (execBrNp off s) := .finish h h.branchVote

theorem State.memoriesOk.branchEach {target} (h : s.memoriesOk) : Gives State.memoriesOk (s.branchEach target) := by
  unfold State.branchEach
  refine .ite (.ok h) ?_
  extract_lets bad here _ tr good t₁ _ t₂ _ targets lanesTo jump
  have h₁ : t₁.memoriesOk := .newSplit h
  clear_value targets
  have hjump : ∀ u, Gives State.memoriesOk (jump u) := by
    intro u
    refine .ite (.ite (.ok (.withTransfer (.raise (.upd rfl h₁)))) .error) ?_
    split
    · exact .ok h
    · exact .ok (.go h)
    · exact .check fun _ => .ite (.ok (.withTransfer h)) (.check fun _ => .ok (.withTransfer h))
  split
  · exact .check hjump
  · exact .check hjump

theorem State.memoriesOk.execBrx {a} (h : s.memoriesOk) : LeadsOk (execBrx a s) :=
  .finish h (.check fun _ => .check fun _ => h.branchEach)

theorem State.memoriesOk.execBrxTbl {a base} (h : s.memoriesOk) : LeadsOk (execBrxTbl a base s) :=
  .finish h (.check fun _ => .check fun _ => .check fun _ => h.branchEach)

theorem State.memoriesOk.callTo {d t'} (h : s.memoriesOk) : Gives State.memoriesOk (s.callTo d t') :=
  .check fun _ => .ok (.go (.writeS h))

theorem State.memoriesOk.execCall {d off} (h : s.memoriesOk) : LeadsOk (execCall d off s) := .finish h h.callTo

theorem State.memoriesOk.execCallR {d a} (h : s.memoriesOk) : LeadsOk (execCallR d a s) := .finish h (.check fun _ => h.callTo)

theorem State.memoriesOk.execRet {a} (h : s.memoriesOk) : LeadsOk (execRet a s) :=
  .finish h (.check fun _ => .check fun _ => .ok (.go h))

theorem State.memoriesOk.execRetE {a} (h : s.memoriesOk) : LeadsOk (execRetE a s) :=
  .finish h (.check fun _ => .check fun _ => .ok (.go h))

theorem State.memoriesOk.execReconv {off} (h : s.memoriesOk) : LeadsOk (execReconv off s) :=
  .finish h (.check fun _ => .ok (.upd rfl (.setRecs h)))

theorem State.memoriesOk.execVote {mode d a} (h : s.memoriesOk) : LeadsOk (execVote mode d a s) := by
  unfold Machine.execVote
  refine .finish h (.check fun _ => ?_)
  split
  exact .ok (.writeS h)

theorem State.memoriesOk.execExit (h : s.memoriesOk) : LeadsOk (execExit s) := .finish h (.check fun _ => .ok (.withTransfer h))

end Sys2Proof.Machine
end

section
/-! PROOF. Canonical memories through loads, stores, ranges and the events of coherence. -/

namespace Sys2Proof.Machine

variable {s t : State}

/-! LD, ST, ATOM, CAS and PREF (13 R250 to R256, R261 to R264). -/

theorem State.memoriesOk.holdPieces {ps} (h : s.memoriesOk) : (s.holdPieces ps).memoriesOk := .holdAll h

theorem State.memoriesOk.notePiece {p} (h : s.memoriesOk) : (s.notePiece p).memoriesOk := by
  unfold State.notePiece
  split
  · exact .noteHits (.readTouch h)
  · exact .holdLines h
  · exact .readTouch h
  · exact h

theorem State.memoriesOk.deliver {f ps bytes} (h : s.memoriesOk) : (s.deliver f ps bytes).memoriesOk :=
  .foldl (fun _ _ => .post) (.defer (.upd rfl (.foldl (fun _ ⟨_, _⟩ => .readTouch) (.foldl (fun _ ⟨_, _, _⟩ => .notePiece) h))))

theorem State.memoriesOk.execLd {f} (h : s.memoriesOk) : LeadsOk (execLd f s) := by
  unfold Machine.execLd
  refine .finish h (.check fun _ => .check fun _ => .check fun _ => .check fun _ => .check fun _ => .ite (.ok h) ?_)
  split
  · exact .error
  · split
    · exact .check fun _ => .bind h.txTouchAll fun _ h => .ok (.deliver (.holdPieces (.foldl (fun _ ⟨_, _⟩ => .sawHome) h)))
    · exact .check fun _ => .check fun _ => .check fun _ => .ok (.deliver (.holdPieces h))

theorem State.memoriesOk.repairStores {data} (h : s.memoriesOk) : (s.repairStores data).memoriesOk := by
  unfold State.repairStores
  refine .foldl (fun _ ⟨_, _, _⟩ h => .ite h (.writePiece h)) (.foldl (fun _ _ h => ?_) h)
  split
  · exact .storeHome h
  · exact .enqueue h
  · exact h

theorem State.memoriesOk.execSt {f} (h : s.memoriesOk) : LeadsOk (execSt f s) := by
  unfold Machine.execSt
  refine .finish h (.check fun _ => .check fun _ => .check fun _ => .check fun _ => .check fun _ => .check fun _ =>
    .ite (.ok h) (.check fun _ => ?_))
  split
  · exact .error
  · extract_lets data t jump
    have htx {t : State} (ht : t.memoriesOk) : (data.foldl (fun t x => t.txHold x.2.1 x.2.2) t).memoriesOk :=
      .foldl (fun _ _ => .txHold) ht
    have ht : t.memoriesOk := .holdPieces h
    have hjump : ∀ u, Gives State.memoriesOk (jump u) :=
      fun _ => .ok (.ite (.repairStores ht) (.foldl (fun _ ⟨_, _, _⟩ => .writePiece) ht))
    exact .ite
      (.check fun _ => .bind h.txTouchAll fun _ h => .ok (.ite (.txRepair (htx (.holdPieces h))) (htx (.holdPieces h))))
      (.check fun _ => .ite (.check hjump) (.check hjump))

theorem State.memoriesOk.atomNow {p op} (h : s.memoriesOk) : (s.atomNow p op).1.memoriesOk := by
  unfold State.atomNow
  dsimp only
  split
  · exact .count h
  · split
    · exact .writePiece h
    · exact h

theorem State.memoriesOk.atomTx {p op} (h : s.memoriesOk) : (s.atomTx p op).1.memoriesOk := by
  unfold State.atomTx
  split
  · exact h
  · dsimp only
    split
    · exact .txHold h
    · exact h

theorem State.memoriesOk.runAtoms {ps act} (k : ∀ s l p, s.memoriesOk → (act s l p).1.memoriesOk) (h : s.memoriesOk) :
    (runAtoms ps act s).1.memoriesOk :=
  List.foldlRecOn (motive := fun x : State × NMap Nat => x.1.memoriesOk) ps _ h fun x hx p _ => k x.1 p.1 p.2 hx

theorem State.memoriesOk.atomic {f space d a op} (h : s.memoriesOk) : Gives State.memoriesOk (s.atomic f space d a op) := by
  unfold State.atomic
  refine .check fun _ => .check fun _ => .check fun _ => .ite (.ok h) ?_
  split
  · exact .error
  · extract_lets row result near sent t
    have hresult {u : State} (olds : NMap Nat) (parts : List LoadPart) (hu : u.memoriesOk) :
      (result u olds parts).memoriesOk := by
      unfold result
      split
      · exact hu
      · exact .defer hu
    have htx {t : State} (ps : List (Nat × Piece)) (ht : t.memoriesOk) :
        (Machine.runAtoms ps (fun t l p => t.atomTx p (op l)) t).1.memoriesOk := .runAtoms (fun _ _ _ => .atomTx) ht
    have hnear : near.1.memoriesOk := .runAtoms (fun _ _ _ => .atomNow) (.holdPieces h)
    exact .ite (.check fun _ => .bind h.txTouchAll fun t h => .ok (hresult _ _ (htx _ (.holdPieces h))))
      (.check fun _ => .check fun _ => .ok (.foldl (fun _ ⟨_, _⟩ => .enqueue) (hresult _ _ hnear)))

theorem State.memoriesOk.execAtom {f} (h : s.memoriesOk) : LeadsOk (execAtom f s) :=
  .finish h (.check fun _ => .check fun _ => .check fun _ => h.atomic)

theorem State.memoriesOk.execCas {f} (h : s.memoriesOk) : LeadsOk (execCas f s) :=
  .finish h (.check fun _ => .check fun _ => .check fun _ => h.atomic)

theorem State.memoriesOk.execPref {f} (h : s.memoriesOk) : LeadsOk (execPref f s) :=
  .finish h (.check fun _ => .check fun _ => .ok (.foldl (fun _ _ => .post) h))

/-! GATHER, SCATTER and SRED, FENCE, FLUSH, SEAL and MERGE (13 R257 to R266; 11 R224 to R227; 16 R318 to R320). -/

theorem State.memoriesOk.closeRows {tr cut} (h : t.memoriesOk) : Gives State.memoriesOk (s.closeRows t tr cut) := .closeLong h

theorem State.memoriesOk.rowTags {f} (h : s.memoriesOk) : (s.rowTags f).memoriesOk :=
  .foldl (fun _ _ h => .setTag (.beforeWrite h)) h

theorem State.memoriesOk.execGather {f} (h : s.memoriesOk) : LeadsOk (execGather f s) := by
  unfold Machine.execGather
  refine .finish h (.check fun _ => .check fun _ => .check fun _ => .check fun _ => .check fun _ =>
    .ite (.ok (.endLong h)) (.check fun _ => ?_))
  split
  extract_lets cut lanes rows done t₁ t₂ t₃
  have h₁ : t₁.memoriesOk := .foldl (fun _ _ h => .ite (.readTouch h) h) (.holdPieces h)
  exact .check fun _ => .closeRows (.defer (.ite (.rowTags h₁) h₁))

theorem State.memoriesOk.scatterWord {p v} (h : s.memoriesOk) : (s.scatterWord p v).memoriesOk := .forgetWords (.physWrite h)

theorem State.memoriesOk.execScatter {f} (h : s.memoriesOk) : LeadsOk (execScatter f s) := by
  unfold Machine.execScatter
  refine .finish h (.check fun _ => .check fun _ => .check fun _ => .check fun _ => .check fun _ => .check fun _ =>
    .check fun _ => .ite (.ok (.endLong h)) (.check fun _ => ?_))
  split
  exact .check fun _ => .closeRows (.foldl (fun _ ⟨_, _⟩ => .scatterWord) (.holdPieces h))

theorem State.memoriesOk.sendMill {fn f pa va v} (h : s.memoriesOk) : (s.sendMill fn f pa va v).memoriesOk := .post h

theorem State.memoriesOk.execSred {f} (h : s.memoriesOk) : LeadsOk (execSred f s) := by
  unfold Machine.execSred
  refine .finish h (.check fun _ => .check fun _ => .check fun _ => .check fun _ => .check fun _ => ?_)
  split
  · exact .error
  · exact .ok (.foldl (fun _ ⟨_, _⟩ => .sendMill) (.holdPieces h))

theorem State.memoriesOk.execFence {f} (h : s.memoriesOk) : LeadsOk (execFence f s) :=
  .finish h (.check fun _ => .ite (.ok (.ite (.setSys h) h)) (.ok (.setThread h)))

theorem State.memoriesOk.writeBack {base len} (h : s.memoriesOk) : (s.writeBack base len).memoriesOk :=
  .foldl (fun _ _ h => .foldl (fun _ _ => .returnSome) h) (.foldl (fun _ ⟨_, _, _⟩ => .enqueue) h)

theorem State.memoriesOk.dropCopies {base len} (h : s.memoriesOk) : (s.dropCopies base len).memoriesOk :=
  .foldl (fun _ _ => .dropStash) (.setCluster h)

theorem State.memoriesOk.losePriv {secs} (h : s.memoriesOk) : (s.losePriv secs).memoriesOk :=
  .upd rfl (.foldl (fun _ _ => .count) h)

theorem State.memoriesOk.repairRange {secs} (h : s.memoriesOk) : (s.repairRange secs).memoriesOk :=
  .foldl (fun _ _ h => .forgetWords (.homeWrite h)) h

theorem State.memoriesOk.execFlush {f} (h : s.memoriesOk) : LeadsOk (execFlush f s) := by
  unfold Machine.execFlush
  refine .finish h (.check fun _ => .check fun _ => .check fun _ => .check fun _ => .check fun _ => .check fun _ => ?_)
  split
  · refine .ite (.ok h) (.check fun _ => ?_)
    split
    · exact .ok (.writeBack h)
    · exact .ok (.dropCopies (.writeBack h))
    · split
      · exact .error
      · exact .check fun _ => .check fun _ => .ok (.repairRange (.dropCopies (.writeBack (.losePriv h))))

theorem State.memoriesOk.stashesHome {base len} (h : s.memoriesOk) : (s.stashesHome base len).memoriesOk :=
  .foldl (fun _ _ => .dropStash) h

theorem State.memoriesOk.execSealRange {d base len} (h : s.memoriesOk) : LeadsOk (execSealRange d base len s) :=
  .finish h (.check fun _ => .check fun _ => .check fun _ => .check fun _ => .check fun _ => .check fun _ => .check fun _ =>
    .ite (.ok (.deferS h)) (.ite (.ok (.deferS h)) (.check fun _ => .check fun _ => .ok (.deferS (.upd rfl (.stashesHome h))))))

theorem State.memoriesOk.untag {e} (h : s.memoriesOk) : (s.untag e).memoriesOk := h

theorem State.memoriesOk.freeSeal {e} (h : s.memoriesOk) : (s.freeSeal e).memoriesOk :=
  .ite (.foldl (fun _ _ => .postOnce) (.mapWaves h)) h

theorem State.memoriesOk.execSealOpen {d entry} (h : s.memoriesOk) : LeadsOk (execSealOpen d entry s) := by
  unfold Machine.execSealOpen
  refine .finish h (.check fun _ => .check fun _ => .check fun _ => .check fun _ => ?_)
  dsimp only
  split
  · exact .ok (.deferS h)
  · exact .ite (.ok (.deferS h)) (.ok (.freeSeal (.foldl (fun _ _ => .postOnce) (.defer (.untag h)))))

theorem State.memoriesOk.mergeRead {s₀ va n} (h : s.memoriesOk) :
    Gives (fun x => x.2.memoriesOk) (State.mergeRead s₀ s va n) := by
  unfold State.mergeRead
  split
  · exact .error
  · exact .check fun _ => .ok (.wSaw h)

theorem State.memoriesOk.mergeWrite {va n v} (h : s.memoriesOk) : Gives State.memoriesOk (s.mergeWrite va n v) := by
  unfold State.mergeWrite
  split
  · exact .error
  · refine .check fun _ => .ok (.hold ?_)
    split
    · exact .storeNow h
    · exact .writePiece h

theorem State.memoriesOk.mergeNext {s₀ f d j i} (h : s.memoriesOk) :
    Gives (fun x => x.2.2.2.2.2.memoriesOk) (State.mergeNext s₀ s f d j i) := by
  unfold State.mergeNext
  extract_lets n index fromA fromB
  have hindex {u : State} (more : Bool) (va : Nat) (hu : u.memoriesOk) : Gives (fun x => x.2.memoriesOk) (index u more va) := by
    refine .ite ?_ (.ok hu)
    intro x hx
    cases hr : s₀.mergeRead u va 4 with
    | error e => simp [hr, Except.map] at hx
    | ok r =>
      have hr := State.memoriesOk.mergeRead hu r hr
      simp only [‹s₀.mergeRead u va 4 = _›, Except.map, Except.ok.injEq] at hx
      exact hx ▸ hr
  have hA {u : State} (x : Nat) (hu : u.memoriesOk) : Gives (fun x => x.2.2.2.2.2.memoriesOk) (fromA u x) :=
    .bind hu.mergeRead fun ⟨_, _⟩ h => .ok h
  have hB {u : State} (x : Nat) (hu : u.memoriesOk) : Gives (fun x => x.2.2.2.2.2.memoriesOk) (fromB u x) :=
    .bind hu.mergeRead fun ⟨_, _⟩ h => .ok h
  refine .bind (hindex _ _ h) fun ⟨_, _⟩ h => .bind (hindex _ _ h) fun ⟨_, _⟩ h => ?_
  dsimp only
  split
  · exact hA _ h
  · exact hB _ h
  · exact .ite (hA _ h) (.ite (hB _ h) (.bind h.mergeRead fun ⟨_, _⟩ h => .bind h.mergeRead fun ⟨_, _⟩ h => .ok h))
  · exact .ok h

theorem State.memoriesOk.mergeStep {s₀ f d m} (h : m.s.memoriesOk) : (State.mergeStep s₀ f d m).s.memoriesOk := by
  unfold State.mergeStep
  dsimp only
  split
  · exact h
  · have hnext := h.mergeNext _ ‹_›
    split
    · exact hnext
    · split
      · exact hnext
      · have hindex := State.memoriesOk.mergeWrite hnext _ ‹_›
        split
        · exact hindex
        · exact State.memoriesOk.mergeWrite hindex _ ‹_›

theorem State.memoriesOk.mergeLoop {s₀ f d k first m} (h : m.s.memoriesOk) :
    (State.mergeLoop s₀ f d k first m).s.memoriesOk := by
  induction k generalizing first m with
  | zero => exact h
  | succ k ih =>
    unfold State.mergeLoop
    split
    · exact h
    · split
      · exact h
      · exact ih h.mergeStep

theorem State.memoriesOk.execMerge {f} (h : s.memoriesOk) : LeadsOk (execMerge f s) := by
  unfold Machine.execMerge
  refine .finish h (.check fun _ => .check fun _ => .check fun _ => .check fun _ => .check fun _ => .bind h.loadWords
    fun ⟨_, t⟩ h => .check fun _ => .check fun _ => ?_)
  extract_lets p m part
  have hm : m.s.memoriesOk := .mergeLoop h
  have hpart : part.memoriesOk := .raiseFlags hm
  split
  · exact .closeLong hpart
  · exact .error
  · exact .ite (.closeLong hpart) (.closeLong (.defer hm))

/-! The events of caches, homes and mills, and the accesses of the host and the peers (12 R239, R240; 17). -/

theorem State.memoriesOk.wakeFence {w x} (h : s.memoriesOk) : (s.wakeFence w x).memoriesOk := by
  unfold State.wakeFence
  split
  · refine .ite h ?_
    split
    · exact h
    · exact .setWave h

theorem State.memoriesOk.wakeFences (h : s.memoriesOk) : s.wakeFences.memoriesOk :=
  .foldl (fun _ _ h => .ite (.postOnce h) h) (.foldl (fun _ _ h => .foldl (fun _ _ => .wakeFence) h) h)

theorem State.memoriesOk.waitAt {sec i} (h : s.memoriesOk) : (s.waitAt sec i).memoriesOk := by
  unfold State.waitAt
  dsimp only
  split
  · exact .setSector h
  · exact h

theorem State.memoriesOk.fanOut {sec i targets} (h : s.memoriesOk) : (s.fanOut sec i targets).memoriesOk :=
  .foldl (fun _ _ => .postOnce) (.setSector (.invalidate h))

theorem State.memoriesOk.recallOwner {sec i} (h : s.memoriesOk) : (s.recallOwner sec i).memoriesOk := .send (.setSector h)

theorem State.memoriesOk.makeRoom {secs i} (h : s.memoriesOk) : Offers State.memoriesOk (s.makeRoom secs i) :=
  .map fun ⟨_, _⟩ => .ite (.post (.soon h)) (.soon h)

theorem State.memoriesOk.heldAt {sec i} (h : s.memoriesOk) : Offers State.memoriesOk (s.heldAt sec i) := by
  unfold State.heldAt
  refine .ite (.some (.waitAt h)) (.ite (.some (.recallOwner h)) (.ite (.some (.soon (.dropStash h))) (.ite .none ?_)))
  split
  · exact .some (.waitAt h)
  · exact .none

theorem State.memoriesOk.heldAny {secs i} (h : s.memoriesOk) : Offers State.memoriesOk (s.heldAny secs i) := by
  unfold State.heldAny
  split
  · exact .some (Offers.findSome (fun _ => h.heldAt) _ ‹_›)
  · split
    · exact .none
    · exact h.makeRoom

theorem State.memoriesOk.held {sec i} (h : s.memoriesOk) : Offers State.memoriesOk (s.held sec i) := h.heldAny

theorem State.memoriesOk.heldTell {secs tell i} (h : s.memoriesOk) : Offers State.memoriesOk (s.heldTell secs tell i) := by
  unfold State.heldTell
  split
  · exact .some (h.heldAny _ ‹_›)
  · exact .map fun _ => .fanOut h

theorem State.memoriesOk.heldWrite {secs by_ i} (h : s.memoriesOk) : Offers State.memoriesOk (s.heldWrite secs by_ i) :=
  h.heldTell

theorem State.memoriesOk.heldIO {reads writes by_ i} (h : s.memoriesOk) :
    Offers State.memoriesOk (s.heldIO reads writes by_ i) :=
  h.heldTell

theorem State.memoriesOk.heldAway {cause i} (h : s.memoriesOk) : Offers State.memoriesOk (s.heldAway cause i) :=
  .map fun _ => .getD h.held (.soon h)

theorem State.memoriesOk.fillPending {w id f} (h : s.memoriesOk) : (s.fillPending w id f).memoriesOk := by
  unfold State.fillPending
  split
  · exact h
  · exact .ite (.postOnce (.setWave h)) (.setWave h)

theorem State.memoriesOk.freeRange {r} (h : s.memoriesOk) : (s.freeRange r).memoriesOk :=
  .getD (.ite h.heldWrite h.heldAny) h

theorem State.memoriesOk.lease {r} (h : s.memoriesOk) : (s.lease r).memoriesOk := by
  unfold State.lease
  dsimp only
  split
  · exact h.heldAny _ ‹_›
  · exact .ite (.foldl (fun _ _ => .grant) h) (.post (.foldl (fun _ _ => .grant) h))

theorem State.memoriesOk.execLeaseRequest {r} (h : s.memoriesOk) : LeadsOk (execLeaseRequest r s) :=
  .event (.ite (.freeRange h) (.ite (.post h) (.lease h)))

theorem State.memoriesOk.execLeaseReply {r} (h : s.memoriesOk) : LeadsOk (execLeaseReply r s) := by
  unfold Machine.execLeaseReply
  refine .event (.wakeFences ?_)
  split
  · exact .ite (.fillPending (.install h)) (.setWave (.fillPending (.install h)))
  · exact .fillPending (.install h)

theorem State.memoriesOk.atomReply {q old} (h : s.memoriesOk) : (s.atomReply q old).memoriesOk := by
  unfold State.atomReply
  split
  · exact h
  · exact .fillPending h

theorem State.memoriesOk.performEntry {c q} (h : s.memoriesOk) : (s.performEntry c q).memoriesOk := by
  unfold State.performEntry
  extract_lets k mark s₁ write bad old u s₂ landed
  have h₁ : s₁.memoriesOk := .setCluster h
  have hwrite {u : State} (bs : List Byte) (rep : Bool) (hu : u.memoriesOk) : (write u bs rep).memoriesOk := by
    unfold write
    split
    · exact .homeWrite hu
    · exact .physWrite hu
  have hu : u.memoriesOk := .atomReply h₁
  have h₂ : s₂.memoriesOk := by
    unfold s₂
    split
    · exact hwrite _ _ h₁
    · refine .ite (.atomReply (.count h₁)) ?_
      split
      · exact hwrite _ _ hu
      · exact .doom hu
  exact .upd rfl h₂

theorem State.memoriesOk.refuseWrite {wave who va} (h : s.memoriesOk) : (s.refuseWrite wave who va).memoriesOk := by
  unfold State.refuseWrite
  split
  · exact h
  · refine .ite h ?_
    split
    · exact h
    · exact .raise (.select h)

theorem State.memoriesOk.refuseEntry {c q} (h : s.memoriesOk) : (s.refuseEntry c q).memoriesOk :=
  .wakeFences (.sendQueue (.refuseWrite (.atomReply (.forgetWords (.setCluster h)))))

theorem State.memoriesOk.execHomeStore {c id} (h : s.memoriesOk) : LeadsOk (execHomeStore c id s) := by
  unfold Machine.execHomeStore
  split
  · exact .event h
  · refine .ite (.event (.refuseEntry h)) (.ite (.event (.wakeFences (.performEntry h))) ?_)
    split
    · exact .event (h.heldWrite _ ‹_›)
    · exact .event (.wakeFences (.performEntry h))

theorem State.memoriesOk.ackBlocks {c q wts} (h : s.memoriesOk) : (s.ackBlocks c q wts).memoriesOk := by
  unfold State.ackBlocks
  split
  · exact .patchReplies (.setCluster h)
  · exact .forgetWords h
  · exact h

theorem State.memoriesOk.execStoreAck {c id wts} (h : s.memoriesOk) : LeadsOk (execStoreAck c id wts s) := by
  unfold Machine.execStoreAck
  dsimp only
  split
  · exact .event h
  · refine .event (.wakeFences (.sendQueue ?_))
    split
    · exact .setWave (.ackBlocks (.setCluster h))
    · exact .ackBlocks (.setCluster h)

theorem State.memoriesOk.refuseOutside {w} (h : s.memoriesOk) : (s.refuseOutside w).memoriesOk := .send h

theorem State.memoriesOk.freezeOutside {w} (h : s.memoriesOk) : (s.freezeOutside w).memoriesOk := .refuseOutside h

theorem State.memoriesOk.performOutsideWrite {w pa bytes} (h : s.memoriesOk) : (s.performOutsideWrite w pa bytes).memoriesOk :=
  .send (.homeWrites h)

theorem State.memoriesOk.execHostPeerWrite {w pa bytes} (h : s.memoriesOk) : LeadsOk (execHostPeerWrite w pa bytes s) := by
  unfold Machine.execHostPeerWrite
  refine .ite (.event (.refuseOutside h)) (.ite (.event (.freezeOutside h)) (.ite (.event (.freezeOutside h)) ?_))
  split
  · exact .event (h.heldWrite _ ‹_›)
  · exact .event (.performOutsideWrite h)

theorem State.memoriesOk.share {w pa n} (h : s.memoriesOk) : (s.share w pa n).memoriesOk :=
  .foldl (fun _ _ h => .setSector (.doom h)) h

theorem State.memoriesOk.execHostPeerRead {w pa n} (h : s.memoriesOk) : LeadsOk (execHostPeerRead w pa n s) := by
  unfold Machine.execHostPeerRead
  refine .ite (.event (.refuseOutside h)) (.ite (.event (.freezeOutside h)) ?_)
  split
  · exact .event (h.heldAny _ ‹_›)
  · exact .ite (.event (.send (.count h))) (.event (.send (.share h)))

theorem State.memoriesOk.performOwn {w sec} (h : s.memoriesOk) : (s.performOwn w sec).memoriesOk := .send (.setSector (.doom h))

theorem State.memoriesOk.execHostPeerOwnRequest {w sec} (h : s.memoriesOk) : LeadsOk (execHostPeerOwnRequest w sec s) := by
  unfold Machine.execHostPeerOwnRequest
  refine .ite (.event (.refuseOutside h)) (.ite (.event (.freezeOutside h)) (.ite (.event (.freezeOutside h)) ?_))
  split
  · exact .event (h.heldTell _ ‹_›)
  · exact .event (.performOwn h)

theorem State.memoriesOk.freeBusy {sec} (h : s.memoriesOk) : (s.freeBusy sec).memoriesOk := by
  unfold State.freeBusy
  dsimp only
  split
  · exact h
  · refine .wakeFences (.foldl (fun _ _ => .soon) ?_)
    split
    · split
      · exact .performEntry (.setSector h)
      · exact .setSector h
    · exact .performOwn (.setSector h)
    · exact .soon (.setSector h)

theorem State.memoriesOk.answered {sec sharer} (h : s.memoriesOk) : (s.answered sec sharer).memoriesOk := by
  unfold State.answered
  dsimp only
  split
  · exact h
  · exact .ite h (.ite (.freeBusy (.setSector (.ite h h))) (.setSector (.ite h h)))

theorem State.memoriesOk.execInvalidationAnswer {sec sharer} (h : s.memoriesOk) :
    LeadsOk (execInvalidationAnswer sec sharer s) :=
  .event (.answered h)

theorem State.memoriesOk.returned {sec words} (h : s.memoriesOk) : (s.returned sec words).memoriesOk := by
  unfold State.returned
  extract_lets x s₁ t _ s₂
  have h₁ : s₁.memoriesOk := .setSector h
  have h₂ : s₂.memoriesOk := .ite h₁ (.setSector (.homeParts h₁))
  split
  · exact .ite (.freeBusy h₂) h₂
  · exact h₂

theorem State.memoriesOk.execRecallReturn {sec words} (h : s.memoriesOk) : LeadsOk (execRecallReturn sec words s) :=
  .ite (.event h) (.event (.returned h))

theorem State.memoriesOk.timedOut {sec b} (h : s.memoriesOk) : (s.timedOut sec b).memoriesOk := by
  unfold State.timedOut
  extract_lets x s₁ s₂ late s₃
  have h₁ : s₁.memoriesOk := .setSector h
  have h₃ : s₃.memoriesOk := .count (.ite h₁ (.upd rfl h₁))
  exact .freeBusy (.upd rfl h₃)

theorem State.memoriesOk.execFanoutTimeout {sec} (h : s.memoriesOk) : LeadsOk (execFanoutTimeout sec s) := by
  unfold Machine.execFanoutTimeout
  split
  · exact .event h
  · exact .ite (.event h) (.event (.timedOut h))

theorem State.memoriesOk.execHostSnoop {line} (h : s.memoriesOk) : LeadsOk (execHostSnoop line s) := .event h

theorem State.memoriesOk.fillStash {c team va frame} (h : s.memoriesOk) : (s.fillStash c team va frame).memoriesOk :=
  .setCluster (.foldl (fun _ _ h => .raiseGt (.setSector h)) h)

theorem State.memoriesOk.refillStash {c frame} (h : s.memoriesOk) : (s.refillStash c frame).memoriesOk := .setCluster h

theorem State.memoriesOk.execStashFill {c team frame write} (h : s.memoriesOk) :
    LeadsOk (execStashFill c team frame write s) := by
  unfold Machine.execStashFill
  refine .ite (.event h) (.ite (.event (.refillStash h)) ?_)
  split
  · exact .event (h.heldTell _ ‹_›)
  · exact .event (.fillStash h)

theorem State.memoriesOk.execL2Evict {frame} (h : s.memoriesOk) : LeadsOk (execL2Evict frame s) := by
  unfold Machine.execL2Evict
  dsimp only
  split
  · exact .event (h.heldTell _ ‹_›)
  · exact .event (.foldl (fun _ _ => .postOnce) h)

theorem State.memoriesOk.performMill {u} (h : s.memoriesOk) : (s.performMill u).memoriesOk := by
  unfold State.performMill
  refine .ite (.count h) ?_
  dsimp only
  split
  · exact .forgetWords (.homeWrite h)
  · exact .homeWrite h

theorem State.memoriesOk.execMillUpdate {id} (h : s.memoriesOk) : LeadsOk (execMillUpdate id s) := by
  unfold Machine.execMillUpdate
  split
  · exact .event h
  · refine .ite (.event (.wakeFences (.refuseWrite (.upd rfl (.ite h (.postOnce h)))))) ?_
    split
    · exact .event (State.memoriesOk.heldWrite (.ite h (.postOnce h)) _ ‹_›)
    · exact .event (.wakeFences (.performMill (.ite h (.postOnce h))))

theorem State.memoriesOk.execEccError {sec uncorrectable} (h : s.memoriesOk) : LeadsOk (execEccError sec uncorrectable s) :=
  .ite (.event h) (.ite (.event (.ite h (.count h))) (.event (.count h)))

theorem State.memoriesOk.execSealOpeningDrop {e c} (h : s.memoriesOk) : LeadsOk (execSealOpeningDrop e c s) := by
  unfold Machine.execSealOpeningDrop
  split
  · exact .event h
  · exact .ite (.event h) (.event (.freeSeal (.setCluster h)))

end Sys2Proof.Machine
end

section
/-! PROOF. Canonical memories through traps, sprigs, matrix operations and copies. -/

namespace Sys2Proof.Machine

variable {s t : State}

/-! TRAP, BRK, TFENCE, results of variable latency and abort tokens (19 R366 to R369; 07 R145; 20 R391). -/

theorem State.memoriesOk.execTrap {code} (h : s.memoriesOk) : LeadsOk (execTrap code s) := .finish h .error

theorem State.memoriesOk.execBrk {code} (h : s.memoriesOk) : LeadsOk (execBrk code s) := .finish h .error

theorem State.memoriesOk.returnTo {f t' same} (h : s.memoriesOk) : (s.returnTo f t' same).memoriesOk :=
  .upd rfl (.recheck (.trapReturn h))

theorem State.memoriesOk.execTrapRet (h : s.memoriesOk) : LeadsOk (execTrapRet s) :=
  .finish h (.check fun _ => .check fun _ => .ok (.returnTo h))

theorem State.memoriesOk.execTrapRetTo {a} (h : s.memoriesOk) : LeadsOk (execTrapRetTo a s) :=
  .finish h (.check fun _ => .check fun _ => .check fun _ => .check fun _ => .ok (.returnTo h))

theorem State.memoriesOk.execTfence (h : s.memoriesOk) : LeadsOk (execTfence s) :=
  .finish h (.check fun _ => .check fun _ => .ok h)

theorem State.memoriesOk.resultsChanged {w} (h : s.memoriesOk) : (s.resultsChanged w).memoriesOk := by
  unfold State.resultsChanged
  split
  · exact h
  · exact .ite (.postOnce (.foldl (fun _ ⟨_, _⟩ h => .ite (.postOnce h) h) h)) (.foldl (fun _ ⟨_, _⟩ h => .ite
      (.postOnce h) h) h)

theorem State.memoriesOk.execVariableLatencyResult {w id} (h : s.memoriesOk) : LeadsOk (execVariableLatencyResult w id s) := by
  unfold Machine.execVariableLatencyResult
  split
  · exact .event h
  · split
    · exact .event h
    · exact .event (.resultsChanged (.setWave h))

theorem State.memoriesOk.trapHeld (h : s.memoriesOk) : Offers State.memoriesOk (s.trapHeld) := by
  unfold State.trapHeld
  dsimp only
  split
  · exact h.heldAway
  · refine .ite .none ?_
    split
    · exact h.heldAway
    · exact h.heldWrite

theorem State.memoriesOk.execTrapTake {w} (h : s.memoriesOk) : LeadsOk (execTrapTake w s) := by
  unfold Machine.execTrapTake
  split
  · exact .event h
  · split
    · exact .event h
    · exact .ite (.event h) (.ite (.event (.postOnce h)) (.event (.getD (State.memoriesOk.trapHeld (.select h)) (.takeTrap
        (.select h)))))

theorem State.memoriesOk.stepDone {p v} (h : s.memoriesOk) : (s.stepDone p v).memoriesOk := by
  unfold State.stepDone
  refine .ite h ?_
  split
  · exact h.globalWrite _ ‹_›
  · exact .freeze h

theorem State.memoriesOk.mixDst {n p} (h : s.memoriesOk) : (s.mixDst n p).memoriesOk := by
  unfold State.mixDst
  refine .ite h (.foldl (fun _ _ h => .ite ?_ h) h)
  split
  · exact h.globalWrite _ ‹_›
  · exact h

theorem State.memoriesOk.endFailing {n x} (h : s.memoriesOk) : (s.endFailing n x).memoriesOk := by
  unfold State.endFailing
  dsimp only
  split
  · exact .freeze (.stepDone (.mixDst h))
  · exact .stepDone (.mixDst h)

theorem State.memoriesOk.fail {gid xs} (h : s.memoriesOk) : (s.fail gid xs).memoriesOk := by
  unfold State.fail
  split
  · exact h
  · exact .postOnce h

theorem State.memoriesOk.abortRank {gid rank} (h : s.memoriesOk) : (s.abortRank gid rank).memoriesOk := by
  unfold State.abortRank
  split
  · exact h
  · exact .fail h

theorem State.memoriesOk.tokenTrap {w handle reason} (h : s.memoriesOk) : (s.tokenTrap w handle reason).memoriesOk := by
  unfold State.tokenTrap
  split
  · exact h
  · exact .ite (.raise (.select h)) (.postOnce (.upd rfl (.select h)))

theorem State.memoriesOk.takeToken {w handle reason} (h : s.memoriesOk) : (s.takeToken w handle reason).memoriesOk := by
  unfold State.takeToken
  split
  · exact h
  · split
    · exact h
    · refine .ite h ?_
      dsimp only
      split
      · exact .ite (.abortRank (.setWave h)) (.tokenTrap (.abortRank (.setWave h)))
      · exact .abortRank (.setWave h)

theorem State.memoriesOk.vacate {gid gone} (h : s.memoriesOk) : (s.vacate gid gone).memoriesOk := by
  unfold State.vacate
  split
  · exact h
  · exact .ite h (.postOnce (.postOnce h))

theorem State.memoriesOk.execAbortToken {w handle reason sender} (h : s.memoriesOk) :
    LeadsOk (execAbortToken w handle reason sender s) := by
  unfold Machine.execAbortToken
  split
  · exact .event h
  · refine .ite (.event (.vacate h)) (.ite (.event (.setWave (.vacate h))) (.event ?_))
    split
    · split
      · exact .ite (.takeToken (.vacate h)) (.post (.setWave (.takeToken (.vacate h))))
      · exact .takeToken (.vacate h)
    · exact .takeToken (.vacate h)

/-! The flume and the nib cores, and the merge of splits (08 R172 to R183; 07 R159). -/

theorem State.memoriesOk.flume {w j r} (h : s.memoriesOk) : (s.flume w j r).memoriesOk := by
  unfold State.flume
  split
  · exact h
  · split
    · exact h
    · exact .ite h (.setWave h)

theorem State.memoriesOk.execFlumePull {w j r} (h : s.memoriesOk) : LeadsOk (execFlumePull w j r s) := .event (.flume h)

theorem State.memoriesOk.execFlumePush {w j r} (h : s.memoriesOk) : LeadsOk (execFlumePush w j r s) := .event (.flume h)

theorem State.memoriesOk.reexport {j n p} (h : s.memoriesOk) : (s.reexport j n p).memoriesOk := h

theorem State.memoriesOk.execSprigReexport {w j} (h : s.memoriesOk) : LeadsOk (execSprigReexport w j s) := by
  unfold Machine.execSprigReexport
  split
  · exact .event h
  · split
    · exact .event h
    · refine .ite (.event h) (.ite (.event (.postOnce h)) (.ite (.event (.postOnce h)) ?_))
      split
      · exact .event (.postOnce h)
      · exact .event (.reexport (.select h))

theorem State.memoriesOk.rejoin {j p} (h : s.memoriesOk) : (s.rejoin j p).memoriesOk := by
  unfold State.rejoin
  extract_lets w m recs live s₁
  have h₁ : s₁.memoriesOk := .handOver (.endSprig h)
  exact .recheck (.recheckBars (.upd rfl h₁))

theorem State.memoriesOk.execSprigRejoin {w j} (h : s.memoriesOk) : LeadsOk (execSprigRejoin w j s) := by
  unfold Machine.execSprigRejoin
  split
  · exact .event h
  · split
    · exact .event h
    · exact .ite (.event h) (.event (.rejoin (.select h)))

theorem State.memoriesOk.orderMerge (h : s.memoriesOk) : s.orderMerge.memoriesOk := .setThread h

theorem State.memoriesOk.execJoinMerge {w e} (h : s.memoriesOk) : LeadsOk (execJoinMerge w e s) := by
  unfold Machine.execJoinMerge
  split
  · exact .event h
  · split
    · exact .event h
    · refine .ite (.event h) ?_
      split
      · exact .event h
      · exact .event (.ite (.raise (.recheck (.orderMerge (.select (.setWave h))))) (.recheck (.orderMerge (.select
          (.setWave h)))))

/-! What the engines share (03 R76, R77; 02 R52 to R54). -/

theorem State.memoriesOk.touchSectors {secs write} (h : s.memoriesOk) : (s.touchSectors secs write).memoriesOk :=
  .foldl (fun _ _ => .doom) h

theorem State.memoriesOk.recordTouch {rec_} (h : s.memoriesOk) : (s.recordTouch rec_).memoriesOk := by
  unfold State.recordTouch
  split
  · exact .doom h
  · exact h

theorem State.memoriesOk.engineTouch {reads writes} (h : s.memoriesOk) : (s.engineTouch reads writes).memoriesOk :=
  .touchSectors (.touchSectors h)

theorem State.memoriesOk.locWrite {team l bs t' by_} (h : s.memoriesOk) : (s.locWrite team l bs t' by_).memoriesOk := by
  unfold State.locWrite
  split
  · split
    · exact .sharedPutAt h
    · exact h
  · dsimp only
    split
    · exact .forgetRange (.physWrite h)
    · exact .physWrite h

/-! The matrix engine (14). -/

theorem State.memoriesOk.addOp {op batch} (h : s.memoriesOk) : (s.addOp op batch).memoriesOk := h

theorem State.memoriesOk.shadowTile {t'} (h : s.memoriesOk) : (s.shadowTile t').memoriesOk := by
  unfold State.shadowTile
  refine .ite h ?_
  split
  · exact h
  · exact .addOp h

theorem State.memoriesOk.shadow {ts} (h : s.memoriesOk) : (s.shadow ts).memoriesOk := .foldl (fun _ _ => .shadowTile) h

theorem State.memoriesOk.debit {resumes ecls} (h : s.memoriesOk) : (s.debit resumes ecls).memoriesOk := .ite h h

theorem State.memoriesOk.opsChanged {w} (h : s.memoriesOk) : (s.opsChanged w).memoriesOk := by
  unfold State.opsChanged
  split
  · exact h
  · extract_lets ready acc s₁ s₂ s₃
    have h₁ : s₁.memoriesOk := .ite (.postOnce h) h
    have h₂ : s₂.memoriesOk := .ite (.postOnce h₁) h₁
    have h₃ : s₃.memoriesOk := by
      unfold s₃
      split
      · exact .ite h₂ (.postOnce h₂)
      · exact h₂
    exact .resultsChanged h₃

theorem State.memoriesOk.performOp {w o} (h : s.memoriesOk) : (s.performOp w o).memoriesOk := by
  unfold State.performOp
  extract_lets done
  split
  · exact .setWave h
  · exact h
  · exact .setWave h
  · dsimp only
    split
    · exact .freeze h
    · exact .foldl (fun _ ⟨_, _⟩ => .locWrite) (.setWave h)
  · exact .setWave h

theorem State.memoriesOk.execMatrixOpComplete {w} (h : s.memoriesOk) : LeadsOk (execMatrixOpComplete w s) := by
  unfold Machine.execMatrixOpComplete
  split
  · exact .event h
  · split
    · exact .event h
    · refine .ite (.event h) ?_
      split
      · exact .event (h.heldIO _ ‹_›)
      · exact .event (.opsChanged (.performOp (.engineTouch h)))

theorem State.memoriesOk.execBatchRetire {w} (h : s.memoriesOk) : LeadsOk (execBatchRetire w s) := by
  unfold Machine.execBatchRetire
  split
  · exact .event h
  · split
    · exact .event h
    · exact .ite (.event h) (.event (.opsChanged (.setWave h)))

theorem State.memoriesOk.execMma {f} (h : s.memoriesOk) : LeadsOk (execMma f s) := .finish h (.check fun _ => .error)

theorem State.memoriesOk.execMmg {f} (h : s.memoriesOk) : LeadsOk (execMmg f s) :=
  .finish h (.check fun _ => .check fun _ => .check fun _ => .check fun _ => .check fun _ => .check fun _ => .error)

theorem State.memoriesOk.leaveMma {w} (h : s.memoriesOk) : (s.leaveMma w).memoriesOk := by
  unfold State.leaveMma
  split
  · exact h
  · split
    · exact h
    · exact .setWave h

theorem State.memoriesOk.mmaMismatch {w} (h : s.memoriesOk) : (s.mmaMismatch w).memoriesOk := by
  unfold State.mmaMismatch
  split
  · exact h
  · split
    · exact h
    · exact .raise (.select (.setWave h))

theorem State.memoriesOk.beginMma {as mma w} (h : s.memoriesOk) : (s.beginMma as mma w).memoriesOk := by
  unfold State.beginMma
  split
  · exact h
  · split
    · exact .upd rfl (.foldl (fun _ _ => .addOp) (.shadow (.select (.ite (.count (.setWave h)) h))))
    · exact h

theorem State.memoriesOk.execMmaRendezvous {w} (h : s.memoriesOk) : LeadsOk (execMmaRendezvous w s) := by
  unfold Machine.execMmaRendezvous
  split
  · exact .event h
  · split
    · exact .event h
    · extract_lets waves same t last t'
      have ht : t.memoriesOk := .foldl (fun _ _ => .beginMma) (.upd rfl h)
      have ht' : t'.memoriesOk := .ite (.foldl (fun _ _ => .leaveMma) ht) ht
      exact .ite (.event h) (.ite (.event (.foldl (fun _ _ => .mmaMismatch) h)) (.event (.foldl (fun _ _ => .opsChanged) ht')))

theorem State.memoriesOk.nextTile {w j} (h : s.memoriesOk) : (s.nextTile w j).memoriesOk := by
  unfold State.nextTile
  split
  · exact h
  · split
    · exact .ite h (.ite (.leaveMma (.setWave h)) (.setWave h))
    · exact h

theorem State.memoriesOk.execMmaTileDone {w} (h : s.memoriesOk) : LeadsOk (execMmaTileDone w s) := by
  unfold Machine.execMmaTileDone
  split
  · exact .event h
  · split
    · exact .event h
    · refine .ite (.event h) (.event (.foldl (fun _ _ => .opsChanged) (.foldl (fun _ _ => .nextTile) (.foldl
        (fun _ _ h => ?_) h))))
      split
      · exact .setWave h
      · exact h

theorem State.memoriesOk.issueRows {ecls tr cut} (h : t.memoriesOk) : Gives State.memoriesOk (s.issueRows t ecls tr cut) :=
  .closeLong (.opsChanged (.ite (.debit h) h))

theorem State.memoriesOk.issueLoad {f src nan rows whole} (h : s.memoriesOk) : (s.issueLoad f src nan rows whole).memoriesOk :=
  .addOp (.shadow h)

theorem State.memoriesOk.execMload {f} (h : s.memoriesOk) : LeadsOk (execMload f s) := by
  unfold Machine.execMload
  refine .finish h (.check fun _ => .check fun _ => .check fun _ => .ite (.issueRows (.issueLoad h)) (.check fun _ => ?_))
  dsimp only
  exact .check fun _ => .issueRows (.ite (.recordTouch h) (.issueLoad (.recordTouch h)))

theorem State.memoriesOk.execMstore {f} (h : s.memoriesOk) : LeadsOk (execMstore f s) := by
  unfold Machine.execMstore
  refine .finish h (.check fun _ => .check fun _ => .check fun _ => .check fun _ => .check fun _ =>
    .ite h.issueRows (.check fun _ => ?_))
  split
  · refine .check fun _ => ?_
    dsimp only
    split <;> exact .check fun _ => State.memoriesOk.issueRows (.recordTouch h)

theorem State.memoriesOk.issueMove {f} (h : s.memoriesOk) : (s.issueMove f).memoriesOk := .addOp (.shadow h)

theorem State.memoriesOk.execMmove {f} (h : s.memoriesOk) : LeadsOk (execMmove f s) :=
  .finish h (.check fun _ => .check fun _ => .check fun _ => .check fun _ => .check fun _ =>
    .ok (.opsChanged (.debit (.issueMove h))))

theorem State.memoriesOk.execMbatch {d} (h : s.memoriesOk) : LeadsOk (execMbatch d s) :=
  .finish h (.check fun _ => .check fun _ => .ok (.deferS (.opsChanged h)))

theorem State.memoriesOk.execMwait {n} (h : s.memoriesOk) : LeadsOk (execMwait n s) :=
  .finish h (.check fun _ => .check fun _ => .check fun _ => .check fun _ => .ok h)

theorem State.memoriesOk.execPencil {hold off} (h : s.memoriesOk) : LeadsOk (execPencil hold off s) :=
  .finish h (.check fun _ => .check fun _ => .check fun _ => .check fun _ => .ok h)

theorem State.memoriesOk.commitShadows (h : s.memoriesOk) : s.commitShadows.memoriesOk := by
  unfold State.commitShadows
  refine .foldl (fun _ ⟨_, _⟩ h => ?_) h
  dsimp only
  split
  · exact .addOp h
  · exact h

theorem State.memoriesOk.execInk {a} (h : s.memoriesOk) : LeadsOk (execInk a s) := by
  unfold Machine.execInk
  refine .finish h (.check fun _ => ?_)
  split
  · exact .error
  · exact .check fun _ => .check fun _ => .check fun _ => .ite (.ok (.opsChanged (.raiseFlags (.upd rfl (.commitShadows h)))))
      (.ok (.go h))

/-! COPY, CHWAIT and KVX (13 R267 to R274). -/

theorem State.memoriesOk.copyToReg {r lane bs} (h : s.memoriesOk) : (s.copyToReg r lane bs).memoriesOk := .upd rfl (.pushOut h)

theorem State.memoriesOk.writeUnit {j n u} (h : s.memoriesOk) : (s.writeUnit j n u).memoriesOk := by
  unfold State.writeUnit
  dsimp only
  split
  · exact .copyToReg h
  · exact h
  · split
    · exact .locWrite (.foldl (fun _ ⟨_, _⟩ => .locWrite) h)
    · exact .foldl (fun _ ⟨_, _⟩ => .locWrite) h

theorem State.memoriesOk.chanMoved {w ch} (h : s.memoriesOk) : (s.chanMoved w ch).memoriesOk := by
  unfold State.chanMoved
  split
  · exact h
  · extract_lets s₁ s₂
    have h₁ : s₁.memoriesOk := by
      refine .foldl (fun _ ⟨_, _⟩ h => ?_) h
      dsimp only
      split
      · exact .ite (.postOnce h) h
      · exact h
    have h₂ : s₂.memoriesOk := by
      unfold s₂
      split
      · exact .ite h₁ (.postOnce h₁)
      · exact h₁
    exact .resultsChanged h₂

theorem State.memoriesOk.execCopyProgress {w ch} (h : s.memoriesOk) : LeadsOk (execCopyProgress w ch s) := by
  unfold Machine.execCopyProgress
  split
  · exact .event h
  · split
    · exact .event h
    · refine .ite (.event h) (.ite (.event (.chanMoved (.upd rfl (.select h)))) ?_)
      split
      · exact .event (.getD (State.memoriesOk.heldAway (.select h)) (.freeze (.select h)))
      · split
        · exact .event (State.memoriesOk.heldIO (.select h) _ ‹_›)
        · exact .event (.chanMoved (.upd rfl (.writeUnit (.engineTouch (.select h)))))

theorem State.memoriesOk.copyTags {f bytes} (h : s.memoriesOk) : (s.copyTags f bytes).memoriesOk := by
  unfold State.copyTags
  split
  · exact .foldl (fun _ _ => .setTag) h
  · exact h

theorem State.memoriesOk.queueCopy {ch job} (h : s.memoriesOk) : (s.queueCopy ch job).memoriesOk := h

theorem State.memoriesOk.execCopy {f} (h : s.memoriesOk) : LeadsOk (execCopy f s) :=
  .finish h (.check fun _ => .check fun _ => .check fun _ => .check fun _ => .check fun _ => .check fun _ => .check fun _ =>
    .check fun _ => .check fun _ => .check fun _ => .ok (.deferS (.postOnce (.copyTags (.queueCopy (.recordTouch
    (.recordTouch h)))))))

theorem State.memoriesOk.execChwait {f} (h : s.memoriesOk) : LeadsOk (execChwait f s) :=
  .finish h (.check fun _ => .check fun _ => .check fun _ => .check fun _ => .check fun _ => .ok (.deferS (.ite (.setSys h) h)))

theorem State.memoriesOk.execKvx {scope d desc} (h : s.memoriesOk) : LeadsOk (execKvx scope d desc s) := by
  unfold Machine.execKvx
  refine .finish h (.check fun _ => .check fun _ => .check fun _ => .check fun _ => .check fun _ =>
    .bind h.loadWords fun ⟨_, _⟩ h => .check fun _ => ?_)
  split
  · exact .error
  · exact .ite (.ok (.deferS h)) (.ok (.deferS (.post h)))

theorem State.memoriesOk.kvxWrite {k a bs} (h : s.memoriesOk) : Gives (Offers State.memoriesOk) (s.kvxWrite k a bs) := by
  unfold State.kvxWrite
  refine .ite (.ok (.ite (.some (.physWrite h)) .none)) ?_
  split
  · exact .error
  · have hwritten := h.globalWrite _ ‹_›
    split
    · exact .ok (.some (.forgetRange hwritten))
    · exact .ok (.some hwritten)

theorem State.memoriesOk.kvxMove {k mix src dst n} (h : s.memoriesOk) :
    Gives (fun x => x.1.memoriesOk) (s.kvxMove k mix src dst n) := by
  induction n generalizing s with
  | zero => exact .ok h
  | succ n ih =>
    unfold State.kvxMove
    dsimp only
    split
    · exact .error
    · exact .ok h
    · exact .ok h
    · split
      · exact .error
      · exact .ok h
      · exact ih (h.kvxWrite _ ‹_› _ rfl)

theorem State.memoriesOk.kvxPage {k mix n} (h : s.memoriesOk) : Gives (fun x => x.1.memoriesOk) (s.kvxPage k mix n) := by
  unfold State.kvxPage
  split
  · exact .error
  · split
    · exact .error
    · exact h.kvxMove

theorem State.memoriesOk.kvxEnd {k v} (h : s.memoriesOk) : (s.kvxEnd k v).memoriesOk := by
  unfold State.kvxEnd
  extract_lets s₁
  have h₁ : s₁.memoriesOk := .upd rfl h
  refine .ite h₁ ?_
  split
  · exact h₁.globalWrite _ ‹_›
  · exact .freeze h₁

theorem State.memoriesOk.kvxFail {k code} (h : s.memoriesOk) : (s.kvxFail k code).memoriesOk := by
  unfold State.kvxFail
  refine .post (.upd rfl (.foldl (fun _ _ h => ?_) h))
  split
  · refine .ite h ?_
    split
    · exact h.kvxPage _ ‹_›
    · exact h

theorem State.memoriesOk.pageMoved {id e k n r} (h : s.memoriesOk) (hr : Gives (fun x => x.1.memoriesOk) r) :
    LeadsOk (s.pageMoved id e k n r) := by
  unfold State.pageMoved
  split
  · exact .event (.getD h.heldAway (.freeze h))
  · exact .event (.post (hr _ rfl))
  · exact .event (.kvxFail (hr _ rfl))

theorem State.memoriesOk.movePage {id e k n} (h : s.memoriesOk) : LeadsOk (s.movePage id e k n) := by
  rw [State.movePage]
  generalize s.kvxSectors k n = io
  have h₁ : ((s.touchSectors io.1 false).touchSectors io.2 true).memoriesOk := .touchSectors (.touchSectors h)
  split
  · exact .event (h.heldIO _ ‹_›)
  · exact h.pageMoved h₁.kvxPage

theorem State.memoriesOk.execKvxComplete {id e} (h : s.memoriesOk) : LeadsOk (execKvxComplete id e s) := by
  unfold Machine.execKvxComplete
  split
  · exact .event h
  · exact .ite (.event h) (.ite (.event (.getD h.heldIO (.kvxEnd h))) (.ite (.event (.kvxFail h)) (.ite (.event (.kvxFail h))
      (.ite (.event (.kvxFail h)) h.movePage))))

end Sys2Proof.Machine
end

section
/-! PROOF. Canonical memories through synchronization, transactions, collectives, sparse work and the life of waves. -/

namespace Sys2Proof.Machine

variable {s t : State}

/-! BAR, SIGNAL, WAITV, rings, AWAIT and the logjam detector (18 R343 to R356). -/

theorem State.memoriesOk.execBar {f} (h : s.memoriesOk) : LeadsOk (execBar f s) := by
  unfold Machine.execBar
  refine .finish h (.check fun _ => .check fun _ => .check fun _ => ?_)
  split
  · exact .error
  · exact .check fun _ => .ok (.ite (.postOnce (.setBars h)) (.block (.postOnce (.setBars h))))

theorem State.memoriesOk.execBarPhaseComplete {w id} (h : s.memoriesOk) : LeadsOk (execBarPhaseComplete w id s) := by
  unfold Machine.execBarPhaseComplete
  split
  · exact .event h
  · exact .ite (.event h) (.event (.post (.mapWaves (.setBars (.select h)))))

theorem State.memoriesOk.passOn (h : s.memoriesOk) : s.passOn.memoriesOk := .setThread h

theorem State.memoriesOk.wake (h : s.memoriesOk) (k : t.memoriesOk) : (s.wake t).memoriesOk := .ite (.setThread h) (.passOn k)

theorem State.memoriesOk.parkedTrap {tr} (h : s.memoriesOk) : (s.parkedTrap tr).memoriesOk := .raise h

theorem State.memoriesOk.signal {p op} (h : s.memoriesOk) : (s.signal p op).memoriesOk := by
  unfold State.signal
  split
  · exact .enqueue h
  · exact .atomNow h

theorem State.memoriesOk.execSignal {f} (h : s.memoriesOk) : LeadsOk (execSignal f s) := by
  unfold Machine.execSignal
  refine .finish h (.check fun _ => .check fun _ => .check fun _ => ?_)
  split
  · exact .error
  · exact .check fun _ => .check fun _ => .ok (.foldl (fun _ ⟨_, _⟩ => .signal) h)

theorem State.memoriesOk.sawLoc {l n} (h : s.memoriesOk) : (s.sawLoc l n).memoriesOk := by
  unfold State.sawLoc
  split
  · exact h
  · exact .sawHome h

theorem State.memoriesOk.waitDone {d l word sc} (h : s.memoriesOk) : (s.waitDone d l word sc).memoriesOk :=
  .ite (.setSys (.deferS (.sawLoc h))) (.deferS (.sawLoc h))

theorem State.memoriesOk.execWaitv {f} (h : s.memoriesOk) : LeadsOk (execWaitv f s) := by
  unfold Machine.execWaitv
  refine .finish h (.check fun _ => .check fun _ => .check fun _ => .check fun _ => ?_)
  dsimp only
  split
  · exact .error
  · exact .ok h
  · exact .check fun _ => .check fun _ => .check fun _ => .ite (.ok (.waitDone h)) .error

theorem State.memoriesOk.wordTrap {cause addr} (h : s.memoriesOk) : (s.wordTrap cause addr).memoriesOk := .parkedTrap h

theorem State.memoriesOk.execWaitvRecheck {w who} (h : s.memoriesOk) : LeadsOk (execWaitvRecheck w who s) := by
  unfold Machine.execWaitvRecheck
  split
  · exact .event h
  · split
    · refine .ite (.event h) ?_
      dsimp only
      split
      · exact .event (.getD h.heldAway (.wordTrap (.select h)))
      · split
        · exact .event (h.heldAny _ ‹_›)
        · exact .ite (.event (.wake (.select h) (.waitDone (.select h)))) (.event (.sawLoc (.select h)))
    · exact .event h

theorem State.memoriesOk.ringDone {glob k put} (h : s.memoriesOk) : (s.ringDone glob k put).memoriesOk := h

theorem State.memoriesOk.ringWrite {l v} (h : s.memoriesOk) : (s.ringWrite l v).memoriesOk := by
  unfold State.ringWrite
  split
  · exact .sharedPut h
  · exact .storeNow h

theorem State.memoriesOk.ringCounts {r n head tail} (h : s.memoriesOk) : (s.ringCounts r n head tail).memoriesOk :=
  .ite h (.ringWrite h)

/-- What a ring operation has come to, if it completes, has its memories in canonical form. -/
def RingOk (x : RingStep) : Prop := Gives (Offers fun y => y.2.memoriesOk) x

theorem State.memoriesOk.put {d glob try_ k vals} (h : s.memoriesOk) : RingOk (s.put d glob try_ k vals) := by
  unfold State.put
  split
  · exact .error
  · refine .ite .error (.ite (.ok .none) ?_)
    dsimp only
    split
    · exact .error
    · exact .ok (.some (.deferS (.ringDone (.ringCounts (.foldl (fun _ ⟨_, _⟩ => .ringWrite) (.sawLoc h))))))

theorem State.memoriesOk.take {d glob try_ k lanes sc} (h : s.memoriesOk) : RingOk (s.take d glob try_ k lanes sc) := by
  unfold State.take
  split
  · exact .error
  · refine .ite (.ok .none) ?_
    extract_lets want
    split
    · exact .error
    · extract_lets vs t₁ t₂ t₃ t₄
      have h₂ : t₂.memoriesOk := .ringDone (.ringCounts (.foldl (fun _ _ => .sawLoc) (.sawLoc h)))
      have h₃ : t₃.memoriesOk := by
        unfold t₃
        split
        · exact .deferS h₂
        · exact .defer h₂
      exact .ok (.some (.ite (.setSys h₃) h₃))

theorem State.memoriesOk.ringStep {p} (h : s.memoriesOk) : Offers RingOk (s.ringStep p) := by
  unfold State.ringStep
  split
  · exact .some h.put
  · exact .some h.take
  · exact .none

theorem State.memoriesOk.ringIssue {x p} (h : RingOk x) : Gives State.memoriesOk (s.ringIssue x p) := by
  unfold State.ringIssue
  split
  · exact .error
  · exact .error
  · exact .check fun _ => .check fun _ => .ok (h _ rfl _ rfl)

theorem State.memoriesOk.execQput {f} (h : s.memoriesOk) : LeadsOk (execQput f s) :=
  .finish h (.check fun _ => .check fun _ => .check fun _ => .check fun _ => .check fun _ =>
    .ite (.ok (.deferS h)) (.check fun _ => .ringIssue h.put))

theorem State.memoriesOk.execQtake {f} (h : s.memoriesOk) : LeadsOk (execQtake f s) :=
  .finish h (.check fun _ => .check fun _ => .check fun _ => .check fun _ => .check fun _ =>
    .ite (.ok h) (.check fun _ => .ringIssue h.take))

theorem State.memoriesOk.execRingWake {w who} (h : s.memoriesOk) : LeadsOk (execRingWake w who s) := by
  unfold Machine.execRingWake
  split
  · exact .event h
  · refine .ite (.event h) ?_
    extract_lets t
    have ht : t.memoriesOk := .select h
    split
    · exact .event h
    · exact .event (.getD h.heldAway (.parkedTrap ht))
    · exact .event h
    · have hu := ht.ringStep _ ‹_› _ rfl _ rfl
      split
      · exact .event (h.heldIO _ ‹_›)
      · exact .event (.wake ht hu)

theorem State.memoriesOk.execAwait {f} (h : s.memoriesOk) : LeadsOk (execAwait f s) := by
  unfold Machine.execAwait
  refine .finish h (.check fun _ => .check fun _ => .check fun _ => ?_)
  split
  · exact .error
  · exact .ok h
  · exact .ite (.ok h) .error

theorem State.memoriesOk.hear (h : s.memoriesOk) : s.hear.memoriesOk := by
  unfold State.hear
  split
  · exact .setThread h
  · exact .setThread h
  · exact h

theorem State.memoriesOk.execAwaitWake {w who} (h : s.memoriesOk) : LeadsOk (execAwaitWake w who s) := by
  unfold Machine.execAwaitWake
  split
  · exact .event h
  · split
    · dsimp only
      split
      · exact .event h
      · exact .ite (.event (.postOnce h)) (.ite (.event (.wake (.hear (.select h)) (.select h))) (.event h))
      · exact .event (.ite (.getD h.heldAway (.parkedTrap (.select h))) h)
    · exact .event h

theorem State.memoriesOk.followGen {asid} (h : s.memoriesOk) : (s.followGen asid).memoriesOk :=
  .foldl (fun _ _ => .rewake) (.mapWaves h)

theorem State.memoriesOk.jam {es w} (h : s.memoriesOk) : (s.jam es w).memoriesOk := by
  unfold State.jam
  split
  · exact h
  · dsimp only
    split
    · exact h
    · exact .parkedTrap (.select h)

theorem State.memoriesOk.execLogjamScan (h : s.memoriesOk) : LeadsOk (execLogjamScan s) := .event (.foldl (fun _ _ => .jam) h)

/-! Transactions (18 R357 to R361). -/

theorem State.memoriesOk.execTxbegin {ro d off} (h : s.memoriesOk) : LeadsOk (execTxbegin ro d off s) :=
  .finish h (.check fun _ => .check fun _ => .check fun _ => .ok (.deferS h))

theorem State.memoriesOk.commit {x} (h : s.memoriesOk) : (s.commit x).memoriesOk :=
  .setSys (.foldl (fun _ ⟨_, _⟩ => .storeHome) h)

theorem State.memoriesOk.execTxend (h : s.memoriesOk) : LeadsOk (execTxend s) := by
  unfold Machine.execTxend
  refine .finish h (.check fun _ => .check fun _ => .check fun _ => .check fun _ => ?_)
  dsimp only
  split
  · exact .error
  · exact .check fun _ => .ok (.commit h)

theorem State.memoriesOk.execTxabort {code} (h : s.memoriesOk) : LeadsOk (execTxabort code s) :=
  .finish h (.check fun _ => .check fun _ => .error)

theorem State.memoriesOk.endTx {w x status} (h : s.memoriesOk) : (s.endTx w x status).memoriesOk := .abortTx (.select h)

theorem State.memoriesOk.execTxConflictAbort {w} (h : s.memoriesOk) : LeadsOk (execTxConflictAbort w s) := by
  unfold Machine.execTxConflictAbort
  split
  · exact .event h
  · split
    · exact .event h
    · exact .event (.endTx h)

theorem State.memoriesOk.execTxCapacityEvict {w} (h : s.memoriesOk) : LeadsOk (execTxCapacityEvict w s) := by
  unfold Machine.execTxCapacityEvict
  split
  · exact .event h
  · exact .event (.endTx h)

theorem State.memoriesOk.execTxTimeout {w} (h : s.memoriesOk) : LeadsOk (execTxTimeout w s) := by
  unfold Machine.execTxTimeout
  split
  · exact .event h
  · exact .event (.ite (.endTx h) h)

/-! Collective groups (20 R384 to R393). -/

theorem State.memoriesOk.collRecord {a n} (h : s.memoriesOk) : Gives (fun x => x.2.memoriesOk) (s.collRecord a n) :=
  .check fun _ => .check fun _ => .check fun _ => .check fun _ => .check fun _ => h.loadWords

theorem State.memoriesOk.join {ws v} (h : s.memoriesOk) (e : s.join ws = (v, t)) : t.memoriesOk := by
  have hjoin : (s.join ws).2.memoriesOk := by
    unfold State.join
    extract_lets w rank g a
    split
    · exact h
    · split
      · exact h
      · split
        extract_lets t₁ t₂
        have h₁ : t₁.memoriesOk := .upd rfl h
        have h₂ : t₂.memoriesOk := .ite h₁ (.fail h₁)
        exact .setCur h₂
  rwa [e] at hjoin

theorem State.memoriesOk.execCollJoin {scope d a} (h : s.memoriesOk) : LeadsOk (execCollJoin scope d a s) := by
  unfold Machine.execCollJoin
  refine .finish h (.bind h.collRecord fun ⟨_, _⟩ h => .check fun _ => ?_)
  split
  exact .ok (.deferS (h.join ‹_›))

theorem State.memoriesOk.postStep {h' p} (h : s.memoriesOk) : Gives (fun x => x.2.memoriesOk) (s.postStep h' p) := by
  unfold State.postStep
  split
  · exact .ok h
  · split
    · exact .ok h
    · exact .ite .error (.ite (.ok h) (.ite (.ok h) (.ok (.postOnce h))))

theorem State.memoriesOk.coll {op fn fmt scope d a} (h : s.memoriesOk) : Gives State.memoriesOk (s.coll op fn fmt scope d a) :=
  .bind h.collRecord fun ⟨_, _⟩ h => .check fun _ => .bind h.postStep fun ⟨_, _⟩ h => .ok (.deferS h)

theorem State.memoriesOk.execCollAred {f} (h : s.memoriesOk) : LeadsOk (execCollAred f s) := .finish h h.coll

theorem State.memoriesOk.execCollRsc {f} (h : s.memoriesOk) : LeadsOk (execCollRsc f s) := .finish h h.coll

theorem State.memoriesOk.execCollAgat {fmt scope d a} (h : s.memoriesOk) : LeadsOk (execCollAgat fmt scope d a s) :=
  .finish h h.coll

theorem State.memoriesOk.execCollBcast {fmt scope d a} (h : s.memoriesOk) : LeadsOk (execCollBcast fmt scope d a s) :=
  .finish h h.coll

theorem State.memoriesOk.execCollBar {scope d a} (h : s.memoriesOk) : LeadsOk (execCollBar scope d a s) := .finish h h.coll

theorem State.memoriesOk.arrayWrite {ctx die va e time xs} (h : s.memoriesOk) :
    Gives State.memoriesOk (s.arrayWrite ctx die va e time xs) := by
  induction xs generalizing s va with
  | nil => exact .ok h
  | cons x rest ih =>
    unfold State.arrayWrite
    split
    · exact .error
    · exact ih (h.globalWrite _ ‹_›)

theorem State.memoriesOk.closeStep {gid k} (h : s.memoriesOk) : (s.closeStep gid k).memoriesOk := by
  unfold State.closeStep
  split
  · exact h
  · exact .postOnce h

theorem State.memoriesOk.failAll {gid k g code bad} (h : s.memoriesOk) : (s.failAll gid k g code bad).memoriesOk :=
  .fail (.closeStep h)

theorem State.memoriesOk.stopStep {gid k g ctx write e} (h : s.memoriesOk) : (s.stopStep gid k g ctx write e).memoriesOk := by
  unfold State.stopStep
  split
  · exact .freeze h
  · exact .failAll h
  · exact .failAll h

theorem State.memoriesOk.deliverStep {gid k g posts srcs} (h : s.memoriesOk) :
    (s.deliverStep gid k g posts srcs).memoriesOk := by
  unfold State.deliverStep
  extract_lets written
  have hwritten : Gives State.memoriesOk written := by
    refine List.foldlRecOn posts _ (.ok h) fun acc hacc ⟨_, _, _⟩ _ => ?_
    dsimp only
    split
    · exact .error
    · split
      · exact .error
      · exact .ok ((hacc _ rfl).arrayWrite _ ‹_›)
  clear_value written
  split
  · exact .stopStep h
  · exact .foldl (fun _ ⟨_, _, _⟩ => .stepDone) (.closeStep (hwritten _ rfl))

theorem State.memoriesOk.heldRanges {rs i} (h : s.memoriesOk) : Offers State.memoriesOk (s.heldRanges rs i) := by
  unfold State.heldRanges
  split
  · exact .some (.getD h.held (.soon h))
  · exact h.heldTell

theorem State.memoriesOk.heldStep {n posts i} (h : s.memoriesOk) : Offers State.memoriesOk (s.heldStep n posts i) :=
  h.heldRanges

theorem State.memoriesOk.heldFailing {n x i} (h : s.memoriesOk) : Offers State.memoriesOk (s.heldFailing n x i) :=
  .ite h.heldRanges .none

theorem State.memoriesOk.peersJoined {gid rs} (h : s.memoriesOk) : (s.peersJoined gid rs).memoriesOk := by
  unfold State.peersJoined
  split <;> exact h

theorem State.memoriesOk.dropStopped {gid} (h : s.memoriesOk) : (s.dropStopped gid).memoriesOk := by
  unfold State.dropStopped
  split
  · exact h
  · exact .foldl (fun _ ⟨_, _⟩ => .abortRank) h

theorem State.memoriesOk.runFreeStep {gid k g peers e posts vacant differ} (h : s.memoriesOk) :
    (s.runFreeStep gid k g peers e posts vacant differ).memoriesOk := by
  unfold State.runFreeStep
  refine .ite (.failAll h) (.ite (.failAll h) (.ite (.failAll h) (.ite (.failAll h) (.ite (.failAll h) ?_))))
  dsimp only
  split
  · exact .stopStep (.touchSectors h)
  · exact .deliverStep (.touchSectors h)

theorem State.memoriesOk.runStep {gid k g peers e} (h : s.memoriesOk) : (s.runStep gid k g peers e).memoriesOk := by
  unfold State.runStep
  refine .ite h (.ite h ?_)
  split
  · exact h.heldStep _ ‹_›
  · exact .runFreeStep h

theorem State.memoriesOk.runFailing {gid g x rest again} (h : s.memoriesOk) : (s.runFailing gid g x rest again).memoriesOk := by
  unfold State.runFailing
  split
  · exact h.heldFailing _ ‹_›
  · exact .postOnce (.endFailing h)

theorem State.memoriesOk.execCollStepRun {gid peers gone e} (h : s.memoriesOk) :
    LeadsOk (execCollStepRun gid peers gone e s) := by
  unfold Machine.execCollStepRun
  dsimp only
  split
  · exact .event (.dropStopped (.peersJoined (.vacate h)))
  · split
    · exact .event (.runFailing (.dropStopped (.peersJoined (.vacate h))))
    · exact .event (.dropStopped (.peersJoined (.vacate h)))
    · exact .event (.runStep (.dropStopped (.peersJoined (.vacate h))))

theorem State.memoriesOk.stepagrGives {d v} (h : s.memoriesOk) : (s.stepagrGives d v).memoriesOk := .deferS (.setSys h)

theorem State.memoriesOk.execStepagrRead {d h'} (h : s.memoriesOk) : LeadsOk (execStepagrRead d h' s) := by
  unfold Machine.execStepagrRead
  refine .finish h (.check fun _ => ?_)
  split <;> exact .ok (.stepagrGives h)

theorem State.memoriesOk.execStepagr {d h' x} (h : s.memoriesOk) : LeadsOk (execStepagr d h' x s) := by
  unfold Machine.execStepagr
  refine .finish h (.check fun _ => ?_)
  split
  · exact .ok (.stepagrGives h)
  · exact .error

theorem State.memoriesOk.unwind {gid g a} (h : s.memoriesOk) : (s.unwind gid g a).memoriesOk := .fail h

theorem State.memoriesOk.stepagrDone {w x a} (h : s.memoriesOk) : (s.stepagrDone w x a).memoriesOk :=
  .passOn (.stepagrGives (.setCur (.select h)))

theorem State.memoriesOk.agreeWave {gid a w} (h : s.memoriesOk) : (s.agreeWave gid a w).memoriesOk := by
  unfold State.agreeWave
  split
  · exact h
  · split
    · exact h
    · exact .stepagrDone h

theorem State.memoriesOk.execStepagrAgreed {gid peers gone} (h : s.memoriesOk) :
    LeadsOk (execStepagrAgreed gid peers gone s) := by
  unfold Machine.execStepagrAgreed
  dsimp only
  split
  · exact .event (.peersJoined (.vacate h))
  · split
    · exact .event (.upd rfl (.peersJoined (.vacate h)))
    · exact .event (.postOnce (.foldl (fun _ _ => .agreeWave) (.unwind (.upd rfl (.peersJoined (.vacate h))))))

/-! LDPRUNE, PATBIND and PATGEN (15). -/

theorem State.memoriesOk.wTouches {ps} (h : s.memoriesOk) : (s.wTouches ps).memoriesOk := .foldl (fun _ _ => .wSaw) h

theorem State.memoriesOk.execLdprune {f} (h : s.memoriesOk) : LeadsOk (execLdprune f s) :=
  .finish h (.check fun _ => .check fun _ => .check fun _ => .check fun _ => .check fun _ => .ite (.ok h) (.check fun _ =>
    .bind h.loadWords fun ⟨_, _⟩ h => .check fun _ => .check fun _ => .check fun _ => .ok (.defer (.wTouches h))))

theorem State.memoriesOk.execPatbind {slot rec_} (h : s.memoriesOk) : LeadsOk (execPatbind slot rec_ s) := by
  unfold Machine.execPatbind
  refine .finish h (.check fun _ => .check fun _ => .check fun _ => .check fun _ => .check fun _ => .bind h.loadWords
    fun ⟨_, _⟩ h => ?_)
  dsimp only
  split
  · exact .error
  · exact .ok (.setCur h)

theorem State.memoriesOk.execPatbindClear {slot} (h : s.memoriesOk) : LeadsOk (execPatbindClear slot s) :=
  .finish h (.check fun _ => .check fun _ => .check fun _ => .ok h)

theorem State.memoriesOk.execPatgen {f} (h : s.memoriesOk) : LeadsOk (execPatgen f s) := by
  unfold Machine.execPatgen
  refine .finish h (.check fun _ => .check fun _ => ?_)
  split
  · exact .error
  · exact .check fun _ => .check fun _ => .check fun _ => .ite (.ok (.endLong h)) (.check fun _ => .check fun _ =>
      State.memoriesOk.closeLong (.defer (.wTouches h)))

/-! System registers, register blocks and PULL (07 R168 to R170; 03 R71, R72; 08 R184). -/

theorem State.memoriesOk.sgetTo {fmt d ix} (h : s.memoriesOk) : Gives State.memoriesOk (s.sgetTo fmt d ix) := by
  unfold State.sgetTo
  refine .check fun _ => ?_
  split
  · exact .check fun _ => .ok (.ite (.deferS h) (.writeS h))
  · exact .check fun _ => .ok (.ite (.defer h) (.writeV h))

theorem State.memoriesOk.execSgetFixed {d ix} (h : s.memoriesOk) : LeadsOk (execSgetFixed d ix s) := .finish h h.sgetTo

theorem State.memoriesOk.execSget {fmt d ix pinned} (h : s.memoriesOk) : LeadsOk (execSget fmt d ix pinned s) :=
  .finish h h.sgetTo

theorem State.memoriesOk.sysWrite {ix v} (h : s.memoriesOk) : (s.sysWrite ix v).memoriesOk := by
  unfold State.sysWrite
  dsimp only
  split
  · exact .recheckBars (.setSys h)
  · exact .setSys h
  · exact .setSys h
  · exact .setSys h
  · split <;> exact h
  · exact .setSys h
  · exact h

theorem State.memoriesOk.execSset {ix a} (h : s.memoriesOk) : LeadsOk (execSset ix a s) :=
  .finish h (.check fun _ => .check fun _ => .ok (.sysWrite h))

theorem State.memoriesOk.execBlkacq {d n} (h : s.memoriesOk) : LeadsOk (execBlkacq d n s) :=
  .finish h (.check fun _ => .check fun _ => .check fun _ => .ok (.writeS h))

theorem State.memoriesOk.pushFrom {n} (h : s.memoriesOk) : (s.pushFrom n).memoriesOk := .foldl (fun _ _ => .pushOut) h

theorem State.memoriesOk.execBlkrel {d n} (h : s.memoriesOk) : LeadsOk (execBlkrel d n s) :=
  .finish h (.check fun _ => .check fun _ => .check fun _ => .ite (.ok (.writeS h)) (.check fun _ =>
    .ok (.writeS (.upd rfl (.pushFrom h)))))

theorem State.memoriesOk.pullRegs {rs} (h : s.memoriesOk) : (s.pullRegs rs).memoriesOk := by
  unfold State.pullRegs
  split
  · exact .foldl (fun _ _ h => .ite h (.postOnce h)) h
  · exact h

theorem State.memoriesOk.execPull {scalar r n1} (h : s.memoriesOk) : LeadsOk (execPull scalar r n1 s) :=
  .finish h (.check fun _ => .ok (.pullRegs h))

/-! What becomes free when a wave or a team goes (03 R68, R69; 20 R394, R395). -/

theorem State.memoriesOk.frontWrite {ctx va v} (h : s.memoriesOk) : Offers State.memoriesOk (s.frontWrite ctx va v) := by
  unfold State.frontWrite
  refine .ite .none ?_
  split
  · exact .some (h.globalWrite _ ‹_›)
  · exact .none

theorem State.memoriesOk.freezeFront {ctx write va} (h : s.memoriesOk) : (s.freezeFront ctx write va).memoriesOk := .freeze h

theorem State.memoriesOk.roomMade (h : s.memoriesOk) : s.roomMade.memoriesOk :=
  .foldl (fun _ _ h => .ite (.postOnce h) h) (.postOnce (.postOnce h))

theorem State.memoriesOk.freeTeam {n} (h : s.memoriesOk) : (s.freeTeam n).memoriesOk := by
  unfold State.freeTeam
  split
  · exact h
  · exact .eraseTeam (.foldl (fun _ _ => .dropStash) h)

theorem State.memoriesOk.leaveTeam {w} (h : s.memoriesOk) : (s.leaveTeam w).memoriesOk := by
  unfold State.leaveTeam
  split
  · exact h
  · split
    · exact h
    next x e =>
      have k : x.shared.wf = true := h.team e
      dsimp only
      split
      · exact .freeTeam h
      · exact .foldl (fun _ _ h => .ite h (.postOnce h)) (.setTeam h k)

theorem State.memoriesOk.leaveGroups {w} (h : s.memoriesOk) : (s.leaveGroups w).memoriesOk := by
  unfold State.leaveGroups
  refine .foldl (fun _ ⟨_, _⟩ h => ?_) h
  dsimp only
  split
  · exact h
  · split
    · exact h
    · exact .ite h (.postOnce (.postOnce (.upd rfl h)))

theorem State.memoriesOk.childGone {parent} (h : s.memoriesOk) : (s.childGone parent).memoriesOk := by
  unfold State.childGone
  split
  · exact h
  · refine .foldl (fun _ ⟨_, _⟩ h => ?_) (.setWave h)
    dsimp only
    split
    · exact .postOnce h
    · exact h

theorem State.memoriesOk.removeWave {w} (h : s.memoriesOk) : (s.removeWave w).memoriesOk := .ite h h

theorem State.memoriesOk.checkLaunch {l} (h : s.memoriesOk) : (s.checkLaunch l).memoriesOk := by
  unfold State.checkLaunch
  split
  · exact .ite (.postOnce h) h
  · exact h

theorem State.memoriesOk.launchLeft {l} (h : s.memoriesOk) : (s.launchLeft l).memoriesOk := by
  unfold State.launchLeft
  split
  · exact .checkLaunch h
  · exact h

theorem State.memoriesOk.retire {w} (h : s.memoriesOk) : (s.retire w).memoriesOk :=
  .roomMade (.launchLeft (.removeWave (.leaveTeam (.childGone (.leaveGroups h)))))

theorem State.memoriesOk.execWaveRetire {w} (h : s.memoriesOk) : LeadsOk (execWaveRetire w s) := by
  unfold Machine.execWaveRetire
  split
  · exact .event h
  · exact .ite (.event (.retire h)) (.event h)

theorem State.memoriesOk.writeDone {ctx done status info} (h : s.memoriesOk) :
    (s.writeDone ctx done status info).memoriesOk := by
  unfold State.writeDone
  refine .ite h ?_
  split
  · exact h.frontWrite _ ‹_›
  · exact .freezeFront h

theorem State.memoriesOk.nodeDone {imp n} (h : s.memoriesOk) : (s.nodeDone imp n).memoriesOk := by
  unfold State.nodeDone
  split
  · exact h
  · exact .ite (.postOnce (.foldl (fun _ _ => .postOnce) h)) (.foldl (fun _ _ => .postOnce) h)

theorem State.memoriesOk.launchOver {ctx node} (h : s.memoriesOk) : (s.launchOver ctx node).memoriesOk := by
  unfold State.launchOver
  split
  · exact .ite (.nodeDone h) h
  · exact h

theorem State.memoriesOk.execLaunchComplete {l} (h : s.memoriesOk) : LeadsOk (execLaunchComplete l s) := by
  unfold Machine.execLaunchComplete
  split
  · exact .event h
  · refine .ite (.event h) ?_
    dsimp only
    split
    · exact .event (h.heldWrite _ ‹_›)
    · exact .event (.launchOver (.writeDone h))

end Sys2Proof.Machine
end

section
/-! PROOF. Canonical memories through plates, slots, launches and the events of the device. -/

namespace Sys2Proof.Machine

variable {s t : State}

/-! Plates, kicks and impressions (02 R44 to R51; 03 R62 to R66; 20 R396). -/

theorem State.memoriesOk.setPlate {n p x} (h : s.memoriesOk) : (s.setPlate n p x).memoriesOk := .setCtx h

theorem State.memoriesOk.request {fn} (h : s.memoriesOk) (k : t.memoriesOk) : (s.request fn t).memoriesOk := .ite (.send h) k

theorem State.memoriesOk.dropKick {n v code} (h : s.memoriesOk) : (s.dropKick n v code).memoriesOk := .setCtx h

theorem State.memoriesOk.popKick {n p} (h : s.memoriesOk) : (s.popKick n p).memoriesOk :=
  .ite (.postOnce (.setCtx h)) (.setCtx h)

theorem State.memoriesOk.dropHead {n p k code} (h : s.memoriesOk) : (s.dropHead n p k code).memoriesOk := .dropKick (.popKick h)

theorem State.memoriesOk.setHead {n p k} (h : s.memoriesOk) : (s.setHead n p k).memoriesOk := by
  unfold State.setHead
  dsimp only
  split
  · exact .setCtx h
  · exact h

theorem State.memoriesOk.writeKick {n v} (h : s.memoriesOk) : (s.writeKick n v).memoriesOk :=
  .ite (.dropKick (.setCtx h)) (.ite (.dropKick (.setCtx h)) (.ite (.dropKick (.setCtx h)) (.postOnce (.setCtx (.setCtx h)))))

theorem State.memoriesOk.execKick {n v} (h : s.memoriesOk) : LeadsOk (execKick n v s) := .event (.request h (.writeKick h))

theorem State.memoriesOk.readPatches {n p k h'} (h : s.memoriesOk) : (s.readPatches n p k h').memoriesOk := by
  unfold State.readPatches
  refine .ite (.dropHead h) ?_
  split
  · exact .dropHead h
  · exact .ite (.dropHead h) (.postOnce (.popKick h))

theorem State.memoriesOk.tryKick {n p k} (h : s.memoriesOk) : (s.tryKick n p k).memoriesOk := by
  unfold State.tryKick
  split
  · exact .dropHead h
  · exact .ite (.readPatches h) (.ite (.dropHead h) (.setHead h))

theorem State.memoriesOk.stepKick {n p k ev} (h : s.memoriesOk) : (s.stepKick n p k ev).memoriesOk := by
  unfold State.stepKick
  refine .ite (.dropHead h) (.ite (.postOnce h) ?_)
  split
  · exact h.heldAny _ ‹_›
  · exact .tryKick (.touchSectors h)

theorem State.memoriesOk.execKickValidate {n p} (h : s.memoriesOk) : LeadsOk (execKickValidate n p s) := by
  unfold Machine.execKickValidate
  split
  · exact .event h
  · exact .ite (.event h) (.event (.stepKick h))

theorem State.memoriesOk.execKickRetry {n p} (h : s.memoriesOk) : LeadsOk (execKickRetry n p s) := by
  unfold Machine.execKickRetry
  split
  · exact .event h
  · exact .ite (.event h) (.event (.stepKick h))

theorem State.memoriesOk.registerPlate {n p addr} (h : s.memoriesOk) : (s.registerPlate n p addr).memoriesOk := by
  unfold State.registerPlate
  dsimp only
  split
  · exact .setPlate h
  · exact .ite (.setPlate h) (.setPlate h)

theorem State.memoriesOk.releasePlate {n p} (h : s.memoriesOk) : (s.releasePlate n p).memoriesOk := by
  unfold State.releasePlate
  refine .ite h ?_
  split
  · exact h
  · exact .freeSeal (.setPlate (.untag h))

theorem State.memoriesOk.openPlate {n p addr} (h : s.memoriesOk) : (s.openPlate n p addr).memoriesOk :=
  .setPlate (.releasePlate h)

theorem State.memoriesOk.writeValid1 {n p v} (h : s.memoriesOk) : (s.writeValid1 n p v).memoriesOk :=
  .ite h (.getD (State.memoriesOk.heldAny (.ite h (.openPlate h))) (.registerPlate (.touchSectors (.ite h (.openPlate h)))))

theorem State.memoriesOk.withdraw {gone idle} (h : s.memoriesOk) : (s.withdraw gone idle).memoriesOk := h

theorem State.memoriesOk.stopRegister {n p} (h : s.memoriesOk) : (s.stopRegister n p).memoriesOk := .withdraw h

theorem State.memoriesOk.execPlateRegister {n p v} (h : s.memoriesOk) : LeadsOk (execPlateRegister n p v s) :=
  .event (.request h (.writeValid1 h))

theorem State.memoriesOk.checkPlate {n p} (h : s.memoriesOk) : (s.checkPlate n p).memoriesOk := .ite (.postOnce h) h

theorem State.memoriesOk.killKicks {n p} (h : s.memoriesOk) : (s.killKicks n p).memoriesOk := by
  unfold State.killKicks
  dsimp only
  split
  · exact .ite (.setCtx h) (.dropHead (.setCtx h))
  · exact .setCtx h

theorem State.memoriesOk.writeValid0 {n p v} (h : s.memoriesOk) : (s.writeValid0 n p v).memoriesOk :=
  .checkPlate (.killKicks (.stopRegister (.setPlate h)))

theorem State.memoriesOk.execPlateUnregister {n p v} (h : s.memoriesOk) : LeadsOk (execPlateUnregister n p v s) :=
  .event (.request h (.writeValid0 h))

theorem State.memoriesOk.execPlateSealRelease {n p} (h : s.memoriesOk) : LeadsOk (execPlateSealRelease n p s) :=
  .event (.releasePlate h)

theorem State.memoriesOk.execImpressionStart {n p} (h : s.memoriesOk) : LeadsOk (execImpressionStart n p s) := by
  unfold Machine.execImpressionStart
  split
  · exact .event h
  · exact .ite (.event h) (.event (.foldl (fun _ _ => .postOnce) h))

theorem State.memoriesOk.markStarted {imp n} (h : s.memoriesOk) : (s.markStarted imp n).memoriesOk := by
  unfold State.markStarted
  split <;> exact h

theorem State.memoriesOk.writeNode {imp k ctx x} (h : s.memoriesOk) : (s.writeNode imp k ctx x).memoriesOk := by
  rw [State.writeNode]
  split
  · exact h.heldWrite _ ‹_›
  · split
    · exact .post (State.memoriesOk.frontWrite (.markStarted h) _ ‹_›)
    · exact .freezeFront (.markStarted h)

theorem State.memoriesOk.startNode {imp k x nd} (h : s.memoriesOk) : (s.startNode imp k x nd).memoriesOk := by
  unfold State.startNode
  split
  · exact .post (.markStarted h)
  · exact .nodeDone (.markStarted h)
  · exact .writeNode h

theorem State.memoriesOk.execNodeStart {imp k} (h : s.memoriesOk) : LeadsOk (execNodeStart imp k s) := by
  unfold Machine.execNodeStart
  split
  · exact .event h
  · dsimp only
    split
    · exact .event h
    · exact .ite (.event h) (.event (.startNode h))

theorem State.memoriesOk.execWriteNodeDone {imp k} (h : s.memoriesOk) : LeadsOk (execWriteNodeDone imp k s) := by
  unfold Machine.execWriteNodeDone
  split
  · exact .event h
  · exact .ite (.event (.nodeDone h)) (.event h)

theorem State.memoriesOk.sendVector {fn v} (h : s.memoriesOk) : (s.sendVector fn v).memoriesOk := .ite h (.send h)

theorem State.memoriesOk.execImpressionComplete {imp} (h : s.memoriesOk) : LeadsOk (execImpressionComplete imp s) := by
  unfold Machine.execImpressionComplete
  split
  · exact .event h
  · exact .ite (.event h) (.event (.checkPlate (.postOnce (.postOnce (.upd rfl (.sendVector h))))))

/-! Slots, bumps, teardown and resets of functions (03 R56 to R61, R75, R76; 12 R235, R236). -/

theorem State.memoriesOk.tryBump {asid} (h : s.memoriesOk) : Offers State.memoriesOk (s.tryBump asid) := .ite (.some h) .none

theorem State.memoriesOk.requestBump {n} (h : s.memoriesOk) : (s.requestBump n).memoriesOk := .ite h (.postOnce (.setCtx h))

theorem State.memoriesOk.execBump {n} (h : s.memoriesOk) : LeadsOk (execBump n s) := .event (.request h (.requestBump h))

theorem State.memoriesOk.execBumpComplete {n} (h : s.memoriesOk) : LeadsOk (execBumpComplete n s) := by
  unfold Machine.execBumpComplete
  refine .ite (.event h) ?_
  split
  · exact .event (.followGen (.setCtx (h.tryBump _ ‹_›)))
  · exact .event (.setCtx h)

theorem State.memoriesOk.execScrubPassEnd (h : s.memoriesOk) : LeadsOk (execScrubPassEnd s) := .event h

theorem State.memoriesOk.bumpEach {asids} (h : s.memoriesOk) : (s.bumpEach asids).1.memoriesOk := by
  refine List.foldlRecOn (motive := fun acc : State × List (BitVec 12) => acc.1.memoriesOk) asids _ h fun acc hacc a _ => ?_
  split
  · exact hacc
  · split
    · exact .followGen (hacc.tryBump _ ‹_›)
    · exact hacc

theorem State.memoriesOk.retryAts (h : s.memoriesOk) : s.retryAts.memoriesOk := by
  unfold State.retryAts
  refine .foldl (fun u ⟨p, asids⟩ hu => ?_) (.upd rfl h)
  have hbump : (u.bumpEach asids).1.memoriesOk := .bumpEach hu
  exact .ite (.send hbump) (.upd rfl hbump)

theorem State.memoriesOk.execAtsInvalidate {pasid} (h : s.memoriesOk) : LeadsOk (execAtsInvalidate pasid s) :=
  .event (.retryAts h)

theorem State.memoriesOk.setEnable {n on} (h : s.memoriesOk) : (s.setEnable n on).memoriesOk := by
  unfold State.setEnable
  dsimp only
  split
  · exact .setCtx h
  · exact h
  · exact .setCtx h

theorem State.memoriesOk.execEnable {n on} (h : s.memoriesOk) : LeadsOk (execEnable n on s) :=
  .event (.request h (.setEnable h))

theorem State.memoriesOk.setOwner {n v} (h : s.memoriesOk) : (s.setOwner n v).memoriesOk := .ite h (.setCtx h)

theorem State.memoriesOk.execSlotOwnerWrite {n v} (h : s.memoriesOk) : LeadsOk (execSlotOwnerWrite n v s) :=
  .event (.request h (.setOwner h))

theorem State.memoriesOk.dropFront {n} (h : s.memoriesOk) : (s.dropFront n).memoriesOk :=
  .foldl (fun _ _ h => .checkPlate (.stopRegister h)) (.upd rfl (.foldl (fun _ _ => .dropKick) (.setCtx h)))

theorem State.memoriesOk.dropQueued {n} (h : s.memoriesOk) : (s.dropQueued n).memoriesOk := h

theorem State.memoriesOk.dropWork {n} (h : s.memoriesOk) : (s.dropWork n).memoriesOk := by
  unfold State.dropWork
  extract_lets ws s₁ s₂ c pre s₃
  have h₁ : s₁.memoriesOk := .foldl (fun _ _ => .sendTokens) h
  have h₂ : s₂.memoriesOk := .foldl (fun _ _ h => .removeWave (.leaveTeam h)) h₁
  have h₃ : s₃.memoriesOk := .setCtx h₂
  exact .upd rfl h₃

theorem State.memoriesOk.tearDown {n} (h : s.memoriesOk) : (s.tearDown n).memoriesOk :=
  .ite h (.postOnce (.roomMade (.dropWork (.dropQueued (.dropFront (.setCtx h))))))

theorem State.memoriesOk.execTeardown {n} (h : s.memoriesOk) : LeadsOk (execTeardown n s) := .event (.request h (.tearDown h))

theorem State.memoriesOk.execTeardownComplete {n} (h : s.memoriesOk) : LeadsOk (execTeardownComplete n s) := by
  unfold Machine.execTeardownComplete
  refine .ite (.event h) ?_
  split
  · exact .event (.followGen (.setCtx (h.tryBump _ ‹_›)))
  · exact .event h

theorem State.memoriesOk.execHostFunctionViolation {fn} (h : s.memoriesOk) : LeadsOk (execHostFunctionViolation fn s) :=
  .event (.send h)

theorem State.memoriesOk.execPeerViolation {p} (h : s.memoriesOk) : LeadsOk (execPeerViolation p s) := .event (.send h)

theorem State.memoriesOk.execFunctionLevelReset {fn} (h : s.memoriesOk) : LeadsOk (execFunctionLevelReset fn s) :=
  .event (.foldl (fun _ _ => .tearDown) h)

/-! Launches, the placing of teams and tasks, swapping (03 R67 to R70; 18 R354). -/

theorem State.memoriesOk.refuseLaunch {t' r status info} (h : s.memoriesOk) : (s.refuseLaunch t' r status info).memoriesOk :=
  .launchOver (.writeDone h)

theorem State.memoriesOk.addLaunch {t' r table consts} (h : s.memoriesOk) : (s.addLaunch t' r table consts).memoriesOk :=
  .postOnce h

theorem State.memoriesOk.accept {t'} (h : s.memoriesOk) : (s.accept t').memoriesOk := by
  unfold State.accept
  split
  · exact .freezeFront h
  · split
    · exact .refuseLaunch h
    · refine .ite (.refuseLaunch h) ?_
      split
      · exact .refuseLaunch h
      · exact .refuseLaunch h
      · exact .addLaunch h

theorem State.memoriesOk.execLaunchAccept {k} (h : s.memoriesOk) : LeadsOk (execLaunchAccept k s) := by
  unfold Machine.execLaunchAccept
  split
  · exact .event h
  · refine .ite (.event h) ?_
    split
    · exact .event (h.heldIO _ ‹_›)
    · exact .event (.accept (.upd rfl (.touchSectors h)))

theorem State.memoriesOk.divideSram {c l} (h : s.memoriesOk) : (s.divideSram c l).memoriesOk := .setCluster h

theorem State.memoriesOk.addWaves {ws} (h : s.memoriesOk) : (s.addWaves ws).memoriesOk := .foldl (fun _ _ => .post) h

theorem State.memoriesOk.noteHost {ctx c l} (h : s.memoriesOk) : (s.noteHost ctx c l).memoriesOk := .ite (.setCtx h) h

theorem State.memoriesOk.placeTeam {i l k c core} (h : s.memoriesOk) : (s.placeTeam i l k c core).memoriesOk :=
  .addWaves (.setTeam (.noteHost (.divideSram h)) rfl)

theorem State.memoriesOk.placeTask {i c core quad} (h : s.memoriesOk) : (s.placeTask i c core quad).memoriesOk := .addWaves h

theorem State.memoriesOk.resumeWave {id c core quad} (h : s.memoriesOk) : (s.resumeWave id c core quad).memoriesOk := by
  unfold State.resumeWave
  split
  · exact h
  · exact .foldl (fun _ ⟨_, _⟩ h => .ite (.postOnce h) h) (.foldl (fun _ ⟨_, _⟩ => .postOnce) (.rewake (.setWave h)))

theorem State.memoriesOk.checkBars {w} (h : s.memoriesOk) : (s.checkBars w).memoriesOk := .foldl (fun _ _ => .postOnce) h

theorem State.memoriesOk.placeRestored {i l} (h : s.memoriesOk) : Offers State.memoriesOk (s.placeRestored i l) := by
  unfold State.placeRestored
  extract_lets ws foot done
  clear_value ws
  split
  · exact .some (.upd rfl h)
  · split
    · exact .findSome fun _ => .map fun ⟨_, _⟩ => .checkBars (.resumeWave (.upd rfl h))
    · split
      next x _ e =>
        have k : x.shared.wf = true := h.team e
        have hdone (c : Nat) : ((done s).divideSram c l).memoriesOk := .divideSram (.upd rfl h)
        exact .some (.checkBars (.foldl (fun _ _ => .resumeWave) (.setTeam (.noteHost (hdone _)) k)))
      next => exact .none

theorem State.memoriesOk.placeItem {i} (h : s.memoriesOk) : Offers State.memoriesOk (s.placeItem i) := by
  unfold State.placeItem
  split
  · exact .some h
  · refine .ite h.placeRestored ?_
    split
    · exact .map fun ⟨_, _⟩ => .placeTeam h
    · exact .findSome fun _ => .map fun ⟨_, _⟩ => .placeTask h

theorem State.memoriesOk.execPlaceWork {die} (h : s.memoriesOk) : LeadsOk (execPlaceWork die s) := by
  unfold Machine.execPlaceWork
  split
  · exact .event h
  · exact .event (.postOnce (Offers.bind (fun _ => h.placeItem) _ ‹_›))

theorem State.memoriesOk.execWaveStart {w} (h : s.memoriesOk) : LeadsOk (execWaveStart w s) := by
  unfold Machine.execWaveStart
  split
  · exact .event h
  · refine .ite (.event h) ?_
    dsimp only
    split
    · exact .event (.select (.setWave h))
    · exact .event (.getD h.heldAway (.raise (.select (.setWave h))))

theorem State.memoriesOk.execInkwellRefill (h : s.memoriesOk) : LeadsOk (execInkwellRefill s) := by
  unfold Machine.execInkwellRefill
  extract_lets rate t ctxs u
  have ht : t.memoriesOk := .mapWaves h
  exact .event (.foldl (fun _ _ h => .ite (.postOnce h) h) (.upd rfl ht))

theorem State.memoriesOk.settleMemory {w} (h : s.memoriesOk) : (s.settleMemory w).memoriesOk := by
  unfold State.settleMemory
  refine .foldl (fun _ _ h => .foldl (fun _ _ => .returnWords) h) (.foldl (fun _ ⟨_, _, _⟩ h => .ite (.physWrite h) h) ?_)
  split
  · exact .setWave h
  · exact h

theorem State.memoriesOk.execWaveSwapOut {w} (h : s.memoriesOk) : LeadsOk (execWaveSwapOut w s) := by
  unfold Machine.execWaveSwapOut
  split
  · exact .event h
  · refine .ite (.event h) ?_
    split
    · exact .event (h.heldWrite _ ‹_›)
    · dsimp only
      split
      · exact .event (.settleMemory h)
      · exact .event (.postOnce (.setWave (.settleMemory h)))

theorem State.memoriesOk.execWaveSwapIn {w} (h : s.memoriesOk) : LeadsOk (execWaveSwapIn w s) := by
  unfold Machine.execWaveSwapIn
  split
  · exact .event h
  · extract_lets y t
    have ht : t.memoriesOk := .select (.rewake (.setWave (.upd rfl h)))
    exact .ite (.event h) (.event (.ite (.postOnce ht) (.ite (.takeHeld ht) ht)))

/-! Links and peers (20 R383; 17 R339; 03 R76). -/

theorem State.memoriesOk.execLinkFail {link} (h : s.memoriesOk) : LeadsOk (execLinkFail link s) :=
  .ite (.event h) (.event (.count h))

theorem State.memoriesOk.execLinkRetrained {link} (h : s.memoriesOk) : LeadsOk (execLinkRetrained link s) := .event h

theorem State.memoriesOk.sendFor {p g r} (h : s.memoriesOk) : (s.sendFor p g r).memoriesOk := by
  unfold State.sendFor
  refine .foldl (fun _ ⟨_, _⟩ h => .ite h (.ite (.ite h (.send h)) ?_)) h
  split
  · exact h
  · split
    · exact h
    · exact .post h

theorem State.memoriesOk.loseRanks {p g} (h : s.memoriesOk) : (s.loseRanks p g).memoriesOk :=
  .ite h (.vacate (.foldl (fun _ _ => .sendFor) (.foldl (fun _ _ => .failAll) h)))

theorem State.memoriesOk.execPeerLost {p} (h : s.memoriesOk) : LeadsOk (execPeerLost p s) :=
  .ite (.event h) (.event (.foldl (fun _ ⟨_, _⟩ => .loseRanks) (.foldl (fun _ _ => .postOnce) (.foldl (fun _ _ => .count) h))))

theorem State.memoriesOk.execLinkReset {p} (h : s.memoriesOk) : LeadsOk (execLinkReset p s) :=
  .event (.upd rfl (.foldl (fun _ ⟨_, _⟩ => .answered) h))

/-! TICK (17 R324). -/

theorem State.memoriesOk.execTick (h : s.memoriesOk) : LeadsOk (execTick s) := by
  unfold Machine.execTick
  extract_lets gt s₁ fresh clusters s₂
  have h₁ : s₁.memoriesOk := .mapWaves (.withGt h)
  have h₂ : s₂.memoriesOk := .retryAts (.upd rfl h₁)
  exact .event (.foldl (fun _ _ => .postOnce) (.foldl (fun _ _ => .soon) h₂))

/-! The registers of the front end (03 R56 to R63). -/

theorem State.memoriesOk.writeCtl {n v} (h : s.memoriesOk) : (s.writeCtl n v).memoriesOk :=
  .ite (.tearDown (.ite (.requestBump (.setEnable h)) (.setEnable h))) (.ite (.requestBump (.setEnable h)) (.setEnable h))

theorem State.memoriesOk.writeSpace {fn n v} (h : s.memoriesOk) : (s.writeSpace fn n v).memoriesOk := .ite h (.setCtx h)

theorem State.memoriesOk.writeWindow {fn n off v} (h : s.memoriesOk) : (s.writeWindow fn n off v).memoriesOk :=
  .ite (.writeCtl h) (.ite (.writeSpace h) (.ite (.ite (.setCtx h) h) (.ite (.setCtx h) (.ite (.writeKick h) (.ite (.setCtx h)
    (.ite (.ite (.writeValid1 h) (.writeValid0 h)) h))))))

theorem State.memoriesOk.command {n v} (h : s.memoriesOk) : (s.command n v).memoriesOk :=
  .ite (.post (.setCtx h)) (.post (.setCtx h))

theorem State.memoriesOk.writePrectl {n v} (h : s.memoriesOk) : (s.writePrectl n v).memoriesOk := .ite h (.command h)

theorem State.memoriesOk.writePre {n off v} (h : s.memoriesOk) : (s.writePre n off v).memoriesOk :=
  .ite (.writePrectl h) (.ite (.setCtx h) (.ite (.setCtx h) h))

theorem State.memoriesOk.writeRegister {fn off v} (h : s.memoriesOk) : (s.writeRegister fn off v).memoriesOk := by
  unfold State.writeRegister
  refine .ite ?_ (.ite h (.ite (.setOwner h) (.ite (.writePre h) h)))
  split
  · exact .writeWindow h
  · exact h

theorem State.memoriesOk.execRegisterWrite {fn off v} (h : s.memoriesOk) : LeadsOk (execRegisterWrite fn off v s) :=
  .event (.request h (.writeRegister h))

/-! Integer, logic and address instructions (09 R190 to R200). -/

theorem State.memoriesOk.alu2 {f g} (h : s.memoriesOk) : Gives State.memoriesOk (s.alu2 f g) := h.elementwise

theorem State.memoriesOk.execAdd {f} (h : s.memoriesOk) : LeadsOk (execAdd f s) := .finish h h.alu2

theorem State.memoriesOk.execSub {f} (h : s.memoriesOk) : LeadsOk (execSub f s) := .finish h h.alu2

theorem State.memoriesOk.execMul {f} (h : s.memoriesOk) : LeadsOk (execMul f s) := .finish h h.alu2

theorem State.memoriesOk.execMulh {f} (h : s.memoriesOk) : LeadsOk (execMulh f s) := .finish h h.alu2

theorem State.memoriesOk.execMin {f} (h : s.memoriesOk) : LeadsOk (execMin f s) := .finish h h.alu2

theorem State.memoriesOk.execMax {f} (h : s.memoriesOk) : LeadsOk (execMax f s) := .finish h h.alu2

theorem State.memoriesOk.execMad {f} (h : s.memoriesOk) : LeadsOk (execMad f s) := .finish h h.elementwise

theorem State.memoriesOk.execCmp {f} (h : s.memoriesOk) : LeadsOk (execCmp f s) :=
  .finish h (.check fun _ => .check fun _ => .check fun _ => .ok (.putMask h))

theorem State.memoriesOk.bits2 {f g} (h : s.memoriesOk) : Gives State.memoriesOk (s.bits2 f g) := h.elementwise

theorem State.memoriesOk.execAnd {f} (h : s.memoriesOk) : LeadsOk (execAnd f s) := .finish h h.bits2

theorem State.memoriesOk.execOr {f} (h : s.memoriesOk) : LeadsOk (execOr f s) := .finish h h.bits2

theorem State.memoriesOk.execXor {f} (h : s.memoriesOk) : LeadsOk (execXor f s) := .finish h h.bits2

theorem State.memoriesOk.execShl {f} (h : s.memoriesOk) : LeadsOk (execShl f s) := .finish h h.elementwise

theorem State.memoriesOk.execShr {f} (h : s.memoriesOk) : LeadsOk (execShr f s) := .finish h h.elementwise

theorem State.memoriesOk.execBfx {f} (h : s.memoriesOk) : LeadsOk (execBfx f s) := .finish h h.elementwise

theorem State.memoriesOk.execBfi {f} (h : s.memoriesOk) : LeadsOk (execBfi f s) := .finish h h.elementwise

theorem State.memoriesOk.execBitc {f} (h : s.memoriesOk) : LeadsOk (execBitc f s) := .finish h h.elementwise

theorem State.memoriesOk.execSel {f} (h : s.memoriesOk) : LeadsOk (execSel f s) := .finish h h.elementwise

theorem State.memoriesOk.execMov {f} (h : s.memoriesOk) : LeadsOk (execMov f s) := by
  unfold Machine.execMov
  refine .finish h (.check fun _ => .check fun _ => ?_)
  split
  · exact .ok (.putImages h)
  · exact .ok (.putElems h)

theorem State.memoriesOk.execLea {f} (h : s.memoriesOk) : LeadsOk (execLea f s) :=
  .finish h (.check fun _ => .check fun _ => .check fun _ => .check fun _ => .ok (.putImages h))

/-! The lifetime record, firmware, power and resets of the device (17 R323; 20 R397 to R400). -/

theorem State.memoriesOk.flush (h : s.memoriesOk) : s.flush.memoriesOk := h

theorem State.memoriesOk.execLifetimeFlush (h : s.memoriesOk) : LeadsOk (execLifetimeFlush s) := .event (.flush h)

theorem State.memoriesOk.afterReset (h : s.memoriesOk) : s.afterReset.memoriesOk := by
  obtain ⟨hmem, hhost, hpeer, -⟩ := h
  exact ⟨hmem, hhost, hpeer, fun _ he => nomatch he⟩

theorem State.memoriesOk.execDeviceReset (h : s.memoriesOk) : LeadsOk (execDeviceReset s) := .event (.afterReset h)

theorem State.memoriesOk.powerOff (h : s.memoriesOk) : s.powerOff.memoriesOk := by
  obtain ⟨-, hhost, hpeer, hteams⟩ := State.memoriesOk.afterReset h
  exact ⟨rfl, hhost, hpeer, hteams⟩

theorem State.memoriesOk.execOrderlyPowerDown (h : s.memoriesOk) : LeadsOk (execOrderlyPowerDown s) :=
  .event (.powerOff (.flush h))

theorem State.memoriesOk.execPowerLoss (h : s.memoriesOk) : LeadsOk (execPowerLoss s) := .event (.powerOff h)

theorem State.memoriesOk.execReadHistogram {hist bin} (h : s.memoriesOk) : LeadsOk (execReadHistogram hist bin s) :=
  .ite (.event (.send h)) (.event (.send h))

theorem State.memoriesOk.execLastFlashWrite (h : s.memoriesOk) : LeadsOk (execLastFlashWrite s) := .event (.send h)

theorem State.memoriesOk.execUnknownMctpCommand {cmd} (h : s.memoriesOk) : LeadsOk (execUnknownMctpCommand cmd s) :=
  .event (.send h)

theorem State.memoriesOk.execSpdmRequest {index} (h : s.memoriesOk) : LeadsOk (execSpdmRequest index s) :=
  .ite (.event (.send h)) (.ite (.event (.send h)) (.event (.send h)))

theorem State.memoriesOk.execFirmwareBoot {image version} (h : s.memoriesOk) : LeadsOk (execFirmwareBoot image version s) :=
  .event (.ite h h)

theorem State.memoriesOk.execThrottleStep {down why} (h : s.memoriesOk) : LeadsOk (execThrottleStep down why s) :=
  .ite (.event h) (.event (.count h))

end Sys2Proof.Machine
end

section
/-! PROOF. Canonical memories through SAVE and RESTORE, and the statement on every step (12 R228, R229; log entry 1). -/

namespace Sys2Proof.Machine

variable {s t : State}

/-! SAVE (19 R374 to R376). -/

theorem State.memoriesOk.setPre {n f} (h : s.memoriesOk) : (s.setPre n f).memoriesOk := .setCtx h

theorem State.memoriesOk.endPre {n err} (h : s.memoriesOk) : (s.endPre n err).memoriesOk := .setPre h

theorem State.memoriesOk.endMemberships {w} (h : s.memoriesOk) : (s.endMemberships w).memoriesOk := by
  unfold State.endMemberships
  split
  · exact h
  · extract_lets s₁ s₂
    have h₂ : s₂.memoriesOk := .sendTokens (.foldl (fun _ ⟨_, _⟩ => .abortRank) h)
    split
    · exact h₂
    · exact .ite (.tokenTrap (.setWave h₂)) (.setWave h₂)

theorem State.memoriesOk.endRests {w} (h : s.memoriesOk) : (s.endRests w).memoriesOk :=
  .foldl (fun _ ⟨_, _⟩ h => .ite (.endLate (.select h)) h) h

theorem State.memoriesOk.stopForSave {w} (h : s.memoriesOk) : (s.stopForSave w).memoriesOk := by
  unfold State.stopForSave
  split
  · exact h
  · dsimp only
    split
    · refine .endRests ?_
      split
      · exact .endTx h
      · exact h
    · refine .endMemberships (.setWave (.endRests ?_))
      split
      · exact .endTx h
      · exact h

theorem State.memoriesOk.execSave {n} (h : s.memoriesOk) : LeadsOk (execSave n s) :=
  .ite (.event h) (.ite (.event (.endPre h)) (.ite (.event (.endPre h)) (.event (.post (.foldl (fun _ _ => .stopForSave)
    (.setCtx h))))))

theorem State.memoriesOk.leaveBars (h : s.memoriesOk) : s.leaveBars.memoriesOk := by
  unfold State.leaveBars
  refine .foldl (fun _ ⟨_, _⟩ h => ?_) h
  dsimp only
  split
  · exact .ite (.setCur (.setBars h)) h
  · exact h

theorem State.memoriesOk.readyImage {w} (h : s.memoriesOk) : (s.readyImage w).memoriesOk := by
  unfold State.readyImage
  dsimp only
  split
  · exact .settleMemory (.foldl (fun _ ⟨_, _⟩ h => .ite h (.recall h)) (.leaveBars (.select h)))
  · exact .foldl (fun _ ⟨_, _⟩ h => .ite h (.recall h)) (.leaveBars (.select h))

theorem State.memoriesOk.storePage {n va bs} (h : s.memoriesOk) : (s.storePage n va bs).memoriesOk := by
  unfold State.storePage
  split
  · exact h.globalWrite _ ‹_›
  · exact h

theorem State.memoriesOk.storeSome {n pages} (h : s.memoriesOk) : (s.storeSome n pages).memoriesOk :=
  .foldl (fun _ ⟨_, _⟩ h => .foldl (fun _ _ h => .ite (.storePage h) h) h) h

theorem State.memoriesOk.freeContext {n} (h : s.memoriesOk) : (s.freeContext n).memoriesOk :=
  .roomMade (.foldl (fun _ _ => .checkPlate) (.upd rfl (.foldl (fun _ _ => .freeTeam) (.foldl (fun _ _ => .removeWave) h))))

theorem State.memoriesOk.writeArea {n} (h : s.memoriesOk) : (s.writeArea n).memoriesOk :=
  .ite (.endPre (.setPre (.freeContext (.foldl (fun _ ⟨_, _⟩ => .storePage) h)))) (.endPre (.storeSome h))

theorem State.memoriesOk.execSaveComplete {n} (h : s.memoriesOk) : LeadsOk (execSaveComplete n s) := by
  unfold Machine.execSaveComplete
  refine .ite (.event h) (.ite (.event (.endPre h)) (.ite (.event h) ?_))
  split
  · exact .event (h.heldWrite _ ‹_›)
  · exact .event (.writeArea (.foldl (fun _ _ => .readyImage) h))

/-! RESTORE (19 R379, R380). -/

theorem State.memoriesOk.queueEntry {n b k o} (h : s.memoriesOk) : (s.queueEntry n b k o).memoriesOk := by
  unfold State.queueEntry
  dsimp only
  split <;> exact h

theorem State.memoriesOk.makeArea {n b} (h : s.memoriesOk) : (s.makeArea n b).memoriesOk := by
  unfold State.makeArea
  extract_lets t k waves teamOf s₁ place s₂ s₃
  have h₁ : s₁.memoriesOk := by
    obtain ⟨hmem, hhost, hpeer, hteams⟩ := h
    refine ⟨hmem, hhost, hpeer, ?_⟩
    refine List.foldlRecOn (motive := fun m : NMap Team => ∀ e ∈ m, e.2.shared.wf = true) _ _ hteams fun m hm x _ => ?_
    exact nmap_set_all (fun y : Team => y.shared.wf = true) _ _ (puts_wf _ _ _ rfl) m hm
  have hplace (u : State) (ws : List Wave) (hu : u.memoriesOk) : (place u ws).memoriesOk := by
    unfold place
    split
    · exact hu
    · exact .upd rfl hu
  have h₂ : s₂.memoriesOk := .foldl (fun _ _ => hplace _ _) h₁
  have h₃ : s₃.memoriesOk := .foldl (fun _ x => hplace _ [x.2]) h₂
  exact .foldl (fun _ _ => .queueEntry) h₃

theorem State.memoriesOk.takeArea {n b} (h : s.memoriesOk) : (s.takeArea n b).memoriesOk := by
  unfold State.takeArea
  split
  · exact .endPre h
  · exact .post (.setPre (.makeArea h))

theorem State.memoriesOk.execRestore {n} (h : s.memoriesOk) : LeadsOk (execRestore n s) := by
  unfold Machine.execRestore
  refine .ite (.event h) (.ite (.event (.endPre h)) ?_)
  split
  · exact .event (h.heldAny _ ‹_›)
  · split
    · exact .event (.endPre h)
    · refine .ite (.event (.endPre h)) ?_
      split
      · exact .event (h.heldAny _ ‹_›)
      · split
        · exact .event (.endPre h)
        · exact .event (.takeArea h)

theorem State.memoriesOk.resumeContext {n} (h : s.memoriesOk) : (s.resumeContext n).memoriesOk := by
  unfold State.resumeContext
  extract_lets s₁ s₂ s₃ s₄
  have h₁ : s₁.memoriesOk := .foldl (fun _ _ h => .postOnce (.postOnce h)) h
  have h₂ : s₂.memoriesOk := .foldl (fun _ ⟨_, _⟩ h => .ite (.foldl (fun _ _ => .postOnce) h) h) h₁
  have h₃ : s₃.memoriesOk := .foldl (fun _ ⟨_, _⟩ h => .ite (.postOnce h) h) h₂
  have h₄ : s₄.memoriesOk := .foldl (fun _ ⟨_, _⟩ h => .ite (.postOnce h) h) h₃
  exact .roomMade h₄

theorem State.memoriesOk.execRestoreComplete {n} (h : s.memoriesOk) : LeadsOk (execRestoreComplete n s) :=
  .ite (.event h) (.ite (.event (.endPre h)) (.event (.resumeContext (.endPre (.setCtx h)))))

/-! LAUNCH and SPAWN (03 R73, R74). -/

theorem State.memoriesOk.hand {addr args} (h : s.memoriesOk) : (s.hand addr args).memoriesOk := .post h

theorem State.memoriesOk.execLaunch {d rec_ args} (h : s.memoriesOk) : LeadsOk (execLaunch d rec_ args s) := by
  unfold Machine.execLaunch
  refine .finish h (.check fun _ => .check fun _ => .check fun _ => .check fun _ => .ite (.ok (.deferS h)) (.check fun _ => ?_))
  split
  · exact .error
  · exact .ite (.ok (.deferS h)) (.check fun _ => .ok (.deferS (.hand h)))

theorem State.memoriesOk.queueTask {pc s0 foot} (h : s.memoriesOk) : (s.queueTask pc s0 foot).memoriesOk := .postOnce h

theorem State.memoriesOk.execSpawn {f} (h : s.memoriesOk) : LeadsOk (execSpawn f s) :=
  .finish h (.check fun _ => .check fun _ => .check fun _ => .check fun _ => .ite (.ok (.deferS h)) (.check fun _ =>
    .check fun _ => .ite (.ok (.deferS h)) (.check fun _ => .ok (.deferS (.queueTask h)))))

/-! Every instruction and every event. -/

theorem State.memoriesOk.exec {i} (h : s.memoriesOk) : LeadsOk (exec i s) := by
  cases i with
  | deviceReset => exact h.execDeviceReset
  | registerWrite => exact h.execRegisterWrite
  | slotOwnerWrite => exact h.execSlotOwnerWrite
  | enable => exact h.execEnable
  | teardown => exact h.execTeardown
  | teardownComplete => exact h.execTeardownComplete
  | bump => exact h.execBump
  | bumpComplete => exact h.execBumpComplete
  | scrubPassEnd => exact h.execScrubPassEnd
  | atsInvalidate => exact h.execAtsInvalidate
  | plateRegister => exact h.execPlateRegister
  | plateUnregister => exact h.execPlateUnregister
  | plateSealRelease => exact h.execPlateSealRelease
  | kick => exact h.execKick
  | kickValidate => exact h.execKickValidate
  | kickRetry => exact h.execKickRetry
  | impressionStart => exact h.execImpressionStart
  | nodeStart => exact h.execNodeStart
  | writeNodeDone => exact h.execWriteNodeDone
  | impressionComplete => exact h.execImpressionComplete
  | launchAccept => exact h.execLaunchAccept
  | placeWork => exact h.execPlaceWork
  | waveStart => exact h.execWaveStart
  | waveRetire => exact h.execWaveRetire
  | launchComplete => exact h.execLaunchComplete
  | tick => exact h.execTick
  | inkwellRefill => exact h.execInkwellRefill
  | logjamScan => exact h.execLogjamScan
  | leaseRequest => exact h.execLeaseRequest
  | leaseReply => exact h.execLeaseReply
  | homeStore => exact h.execHomeStore
  | storeAck => exact h.execStoreAck
  | invalidationAnswer => exact h.execInvalidationAnswer
  | fanoutTimeout => exact h.execFanoutTimeout
  | recallReturn => exact h.execRecallReturn
  | stashFill => exact h.execStashFill
  | l2Evict => exact h.execL2Evict
  | millUpdate => exact h.execMillUpdate
  | eccError => exact h.execEccError
  | hostPeerWrite => exact h.execHostPeerWrite
  | hostPeerRead => exact h.execHostPeerRead
  | hostPeerOwnRequest => exact h.execHostPeerOwnRequest
  | hostSnoop => exact h.execHostSnoop
  | hostFunctionViolation => exact h.execHostFunctionViolation
  | peerViolation => exact h.execPeerViolation
  | functionLevelReset => exact h.execFunctionLevelReset
  | linkFail => exact h.execLinkFail
  | peerLost => exact h.execPeerLost
  | linkReset => exact h.execLinkReset
  | sealOpeningDrop => exact h.execSealOpeningDrop
  | variableLatencyResult => exact h.execVariableLatencyResult
  | flumePull => exact h.execFlumePull
  | flumePush => exact h.execFlumePush
  | sprigReexport => exact h.execSprigReexport
  | sprigRejoin => exact h.execSprigRejoin
  | joinMerge => exact h.execJoinMerge
  | trapTake => exact h.execTrapTake
  | abortToken => exact h.execAbortToken
  | mmaRendezvous => exact h.execMmaRendezvous
  | mmaTileDone => exact h.execMmaTileDone
  | batchRetire => exact h.execBatchRetire
  | copyProgress => exact h.execCopyProgress
  | kvxComplete => exact h.execKvxComplete
  | collStepRun => exact h.execCollStepRun
  | barPhaseComplete => exact h.execBarPhaseComplete
  | waitvRecheck => exact h.execWaitvRecheck
  | ringWake => exact h.execRingWake
  | awaitWake => exact h.execAwaitWake
  | waveSwapOut => exact h.execWaveSwapOut
  | waveSwapIn => exact h.execWaveSwapIn
  | txConflictAbort => exact h.execTxConflictAbort
  | txCapacityEvict => exact h.execTxCapacityEvict
  | txTimeout => exact h.execTxTimeout
  | save => exact h.execSave
  | saveComplete => exact h.execSaveComplete
  | restore => exact h.execRestore
  | restoreComplete => exact h.execRestoreComplete
  | lifetimeFlush => exact h.execLifetimeFlush
  | orderlyPowerDown => exact h.execOrderlyPowerDown
  | readHistogram => exact h.execReadHistogram
  | lastFlashWrite => exact h.execLastFlashWrite
  | unknownMctpCommand cmd => exact State.memoriesOk.execUnknownMctpCommand (cmd := cmd) h
  | spdmRequest => exact h.execSpdmRequest
  | firmwareBoot => exact h.execFirmwareBoot
  | throttleStep => exact h.execThrottleStep
  | nop => exact h.execNop
  | xload => exact h.execXload
  | xfence => exact h.execXfence
  | trap => exact h.execTrap
  | trapRet => exact h.execTrapRet
  | trapRetTo => exact h.execTrapRetTo
  | brk => exact h.execBrk
  | exit => exact h.execExit
  | sgetFixed => exact h.execSgetFixed
  | sget fmt d ix pinned => exact State.memoriesOk.execSget (pinned := pinned) h
  | sset => exact h.execSset
  | brAlways => exact h.execBrAlways
  | brP => exact h.execBrP
  | brNp => exact h.execBrNp
  | brS => exact h.execBrS
  | brx => exact h.execBrx
  | brxTbl => exact h.execBrxTbl
  | call => exact h.execCall
  | callR => exact h.execCallR
  | ret => exact h.execRet
  | retE => exact h.execRetE
  | reconv => exact h.execReconv
  | vote => exact h.execVote
  | ppush => exact h.execPpush
  | pinv => exact h.execPinv
  | ppop => exact h.execPpop
  | spawn => exact h.execSpawn
  | launch => exact h.execLaunch
  | await => exact h.execAwait
  | bar => exact h.execBar
  | tfence => exact h.execTfence
  | blkacq => exact h.execBlkacq
  | blkrel => exact h.execBlkrel
  | pencil => exact h.execPencil
  | ink => exact h.execInk
  | add => exact h.execAdd
  | sub => exact h.execSub
  | mul => exact h.execMul
  | mulh => exact h.execMulh
  | mad => exact h.execMad
  | and => exact h.execAnd
  | or => exact h.execOr
  | xor => exact h.execXor
  | shl => exact h.execShl
  | shr => exact h.execShr
  | bfx => exact h.execBfx
  | bfi => exact h.execBfi
  | bitc => exact h.execBitc
  | min => exact h.execMin
  | max => exact h.execMax
  | cmp => exact h.execCmp
  | sel => exact h.execSel
  | mov => exact h.execMov
  | lea => exact h.execLea
  | cvt => exact h.execCvt
  | fadd => exact h.execFadd
  | fmul => exact h.execFmul
  | fma => exact h.execFma
  | fmin => exact h.execFmin
  | fmax => exact h.execFmax
  | fcmp => exact h.execFcmp
  | sfn => exact h.execSfn
  | dot => exact h.execDot
  | quant => exact h.execQuant
  | deq => exact h.execDeq
  | shuf => exact h.execShuf
  | scan => exact h.execScan
  | redw => exact h.execRedw
  | rebal => exact h.execRebal
  | topk => exact h.execTopk
  | merge => exact h.execMerge
  | ld => exact h.execLd
  | st => exact h.execSt
  | gather => exact h.execGather
  | scatter => exact h.execScatter
  | sred => exact h.execSred
  | atom => exact h.execAtom
  | cas => exact h.execCas
  | pref => exact h.execPref
  | fence => exact h.execFence
  | flush => exact h.execFlush
  | sealRange => exact h.execSealRange
  | sealOpen => exact h.execSealOpen
  | copy => exact h.execCopy
  | chwait => exact h.execChwait
  | kvx scope d desc => exact State.memoriesOk.execKvx (scope := scope) h
  | mma => exact h.execMma
  | mmg => exact h.execMmg
  | mload => exact h.execMload
  | mstore => exact h.execMstore
  | mmove => exact h.execMmove
  | mbatch => exact h.execMbatch
  | mwait => exact h.execMwait
  | ldprune => exact h.execLdprune
  | patbind => exact h.execPatbind
  | patbindClear => exact h.execPatbindClear
  | patgen => exact h.execPatgen
  | txbegin => exact h.execTxbegin
  | txend => exact h.execTxend
  | txabort => exact h.execTxabort
  | qput => exact h.execQput
  | qtake => exact h.execQtake
  | signal => exact h.execSignal
  | waitv => exact h.execWaitv
  | pull => exact h.execPull
  | collJoin scope d a => exact State.memoriesOk.execCollJoin (scope := scope) h
  | collAred => exact h.execCollAred
  | collAgat => exact h.execCollAgat
  | collRsc => exact h.execCollRsc
  | collBcast => exact h.execCollBcast
  | collBar => exact h.execCollBar
  | stepagr => exact h.execStepagr
  | stepagrRead => exact h.execStepagrRead
  | matrixOpComplete => exact h.execMatrixOpComplete
  | linkRetrained => exact h.execLinkRetrained
  | stepagrAgreed => exact h.execStepagrAgreed
  | powerLoss => exact h.execPowerLoss

/-! The words of a group (04 R86, R87, R96). -/

theorem State.memoriesOk.afterWord {i p more} (h : s.memoriesOk) : (s.afterWord i p more).2.memoriesOk := by
  unfold State.afterWord
  extract_lets _ next
  have hnext : next.memoriesOk := .upd rfl h
  split
  · split
    · split
      · exact .noteStop hnext
      · exact .upd rfl h
    · exact .noteStop hnext
  · exact h

theorem State.memoriesOk.runGroup {p slots moved} (h : s.memoriesOk) : LeadsOk (runGroup p slots moved s) := by
  induction slots generalizing p moved s with
  | nil => exact .next h
  | cons k rest ih =>
    unfold Machine.runGroup
    extract_lets chosen issue u
    have hu : u.memoriesOk := .upd rfl (.chooseTable h)
    split
    · exact .next (.noteStop hu)
    next i _ =>
      have hexec : LeadsOk (Machine.exec i u) := hu.exec
      generalize Machine.exec i u = o at hexec ⊢
      split
      next t =>
        have ht : (t.afterWord i p (!rest.isEmpty)).2.memoriesOk := .afterWord (hexec t rfl)
        exact .ite (.next ht) (ih ht)
      next => exact hexec

theorem State.memoriesOk.splitGroup {p slots k} (h : s.memoriesOk) : LeadsOk (splitGroup p slots k s) := by
  unfold Machine.splitGroup
  split
  · split
    · exact .next (.stopGroup h)
    · split
      next t e =>
        have ht : t.memoriesOk := h.runGroup t e
        have hu : (t.leaveRest s.view t.issue.transfer t.issue.marker t.issue.raised
          (slots.getLastD k)).memoriesOk := .leaveRest ht
        exact .next (.upd rfl hu)
      next => exact h.runGroup
  · exact h.runGroup

theorem State.memoriesOk.leadGroup {p slots k} (h : s.memoriesOk) : LeadsOk (leadGroup p slots k s) := by
  unfold Machine.leadGroup
  split
  · exact .next (.stopGroup h)
  next i _ =>
    extract_lets issue alone
    have hexec : LeadsOk (Machine.exec i { s with issue := alone }) := State.memoriesOk.exec (.upd rfl h)
    generalize Machine.exec i { s with issue := alone } = o at hexec ⊢
    split
    next t => exact .next (.leaveRest (hexec t rfl))
    next => exact hexec

theorem State.memoriesOk.longGroup {p k} (h : s.memoriesOk) : LeadsOk (longGroup p k s) := by
  unfold Machine.longGroup
  split
  · exact .next (.stopGroup h)
  · exact State.memoriesOk.exec (.upd rfl h)

theorem State.memoriesOk.runWords {p slots} (h : s.memoriesOk) : LeadsOk (runWords p slots s) := by
  unfold Machine.runWords
  split
  next t e =>
    split
    · exact h.longGroup
    · exact .ite h.splitGroup (.next (.stopGroup h))
    · exact .next (.stopGroup h)
    · exact .ite h.splitGroup h.leadGroup
    · exact .next (.closeGroup (h.runGroup t e))
  next => exact h.runGroup

theorem Plan.memoriesOk.runPlan {p} (h : p.memoriesOk) : LeadsOk (runPlan p) := by
  cases p with
  | settled s => exact .next h
  | one i s => exact State.memoriesOk.exec h
  | group p slots s => exact State.memoriesOk.runWords h

/-! A step (07 R141 to R144). -/

theorem State.memoriesOk.step (h : s.memoriesOk) : LeadsOk (step s) := by
  unfold Machine.step
  split
  · exact State.memoriesOk.exec (h.nextEvent _ ‹_›)
  · split
    · exact .next (.endCycle h)
    · exact Plan.memoriesOk.runPlan (State.memoriesOk.plan (h.choose _ ‹_›))

/-- Settles O5: a step is made of operations that each keep the memories canonical. -/
theorem memoriesStayCanonical : Obligations.MemoriesStayCanonical := by
  unfold Obligations.MemoriesStayCanonical
  exact fun s t h => h.step t

end Sys2Proof.Machine
end

section
/-! PROOF. Loads, stores and atomics (13 R250 to R263; 17 R327): what each word answers once its checks pass, and the
statements O24, O25 and O26. -/

namespace Sys2Proof.Machine

/-! LD (13 R253, R254). -/

section
variable {s : State} {f : LdForm} (hd : s.destOk f.d = true) (ha : s.opOk f.a = true) (hb : s.opOk f.b = true)
  (hpair : s.pairOk f.sz f.d = true) (htags : s.addrTags f.space f.a f.b = .ok ()) (hspace : s.txSpace f.space = .ok ())
  (hpart : (f.sel.isNone || !s.awaits (RegName.ofDest f.d)) = true) (hown : s.ownReady f.sel f.d = .ok ())
include hd ha hb hpair htags hspace hpart hown

theorem exec_ld_of_noLane (hnone : s.ldLanes f = []) : exec (.ld f) s = .next (s.closed s) := by
  change execLd f s = _
  simp only [execLd, hd, ha, hb, hpair, htags, hspace, hpart, hown, hnone, Bool.and_self, need_true, stop_ok_bind,
    List.isEmpty_nil, if_true, State.finish_ok]

variable {ps : List (Nat × Piece)} (hsome : (s.ldLanes f).isEmpty = false) (hps : s.ldAccesses f = .ok ps)
include hsome hps

/-- A load outside transactions delivers what the cluster serves at once and asks the homes for the rest. -/
theorem exec_ld_of_ready (htx : s.cur.tx = none) (hready : s.memoryReady .rd ps = .ok ())
    (hbehind : ∀ x ∈ ps, s.behindAtomic x.2 = false ∧ s.behindLoad x.2 = false) :
    exec (.ld f) s = .next (s.closed ((s.holdPieces ps).deliver f ps s.pieceBytes)) := by
  have hatomic : (ps.any fun x => s.behindAtomic x.2) = false := List.any_eq_false.2 fun x hx => by simp [hbehind x hx]
  have hload : (ps.any fun x => s.behindLoad x.2) = false := List.any_eq_false.2 fun x hx => by simp [hbehind x hx]
  change execLd f s = _
  simp only [execLd, hd, ha, hb, hpair, htags, hspace, hpart, hown, hsome, hps, htx, hready, hatomic, hload, Bool.and_self,
    Bool.not_false, need_true, stop_ok_bind, Bool.false_eq_true, if_false, State.finish_ok]

/-- A load in a transaction reads what the transaction sees. -/
theorem exec_ld_of_tx {x : Tx} {t : State} (htx : s.cur.tx = some x) (hready : s.txReady ps = .ok ())
    (htouch : s.txTouchAll ps false = .ok t) :
    exec (.ld f) s = .next (s.closed (((ps.foldl (fun t x => t.sawHome .device x.2.pa x.2.n) t).holdPieces ps).deliver f ps
      fun p => some (s.txBytes x p.pa p.n))) := by
  change execLd f s = _
  simp only [execLd, hd, ha, hb, hpair, htags, hspace, hpart, hown, hsome, hps, htx, hready, htouch, Bool.and_self, need_true,
    stop_ok_bind, Bool.false_eq_true, if_false, State.finish_ok]

end

/-- Settles O24: without an active lane, outside transactions, and in one. -/
theorem loadCompletes : Obligations.LoadCompletes := by
  unfold Obligations.LoadCompletes
  intro s f hd ha hb hpair htags hspace hpart hown
  have hpart : (f.sel.isNone || !s.awaits (RegName.ofDest f.d)) = true := by
    rcases hpart with h | h <;> simp [h]
  refine ⟨exec_ld_of_noLane hd ha hb hpair htags hspace hpart hown, fun ps hsome => ?_, fun ps x t hsome hps => ?_⟩
  · exact exec_ld_of_ready hd ha hb hpair htags hspace hpart hown (List.isEmpty_eq_false_iff.2 hsome)
  · exact exec_ld_of_tx hd ha hb hpair htags hspace hpart hown (List.isEmpty_eq_false_iff.2 hsome) hps

/-! ST (13 R253, R255, R256). -/

section
variable {s : State} {f : StForm} (ha : s.opOk f.a = true) (hb : s.opOk f.b = true) (hdata : (stData f).all s.opOk = true)
  (htags : s.addrTags f.space f.a f.b = .ok ()) (hdataTags : s.tagsIn (fun t => t == f.fmt || t == .b64) (stData f) = .ok ())
  (hahead : s.noRunAhead = .ok ()) (hspace : s.txSpace f.space = .ok ()) (hwrites : s.txWrites = .ok ())
include ha hb hdata htags hdataTags hahead hspace hwrites

theorem exec_st_of_noLane (hnone : s.stLanes f = []) : exec (.st f) s = .next (s.closed s) := by
  change execSt f s = _
  simp only [execSt, ha, hb, hdata, htags, hdataTags, hahead, hspace, hwrites, hnone, Bool.and_self, need_true, stop_ok_bind,
    List.isEmpty_nil, if_true, State.finish_ok]

variable {ps : List (Nat × Piece)} (hsome : (s.stLanes f).isEmpty = false) (hps : s.stAccesses f = .ok ps)
  (hcovers : (!f.repair || repairCovers ((s.stLanes f).flatMap (s.touched f.space f.sz.bytes))) = true)
include hsome hps hcovers

/-- A store outside transactions writes its pieces, or under .repair whole sectors. -/
theorem exec_st_of_ready (htx : s.cur.tx = none) (hloads : s.storesReady ps = .ok ())
    (hready : (if f.repair then s.repairReady ps else s.memoryReady .wr ps) = .ok ()) :
    exec (.st f) s = .next (s.closed (if f.repair then (s.holdPieces ps).repairStores (s.stPieces f ps)
      else (s.stPieces f ps).foldl (fun t x => t.writePiece x.2.1 x.2.2) (s.holdPieces ps))) := by
  change execSt f s = _
  cases hr : f.repair <;> simp only [hr, Bool.false_eq_true, if_false, if_true] at hready hcovers ⊢ <;>
    simp only [execSt, ha, hb, hdata, htags, hdataTags, hahead, hspace, hwrites, hsome, hps, hcovers, hr, htx, hloads, hready,
      Bool.and_self, need_true, stop_ok_bind, Option.isSome_none, Bool.false_eq_true, if_false, if_true, State.finish_ok]

/-- A store in a transaction is held. -/
theorem exec_st_of_tx {t : State} (htx : s.cur.tx.isSome = true) (hready : s.txReady ps = .ok ())
    (htouch : s.txTouchAll ps true = .ok t) :
    let u := (s.stPieces f ps).foldl (fun t x => t.txHold x.2.1 x.2.2) (t.holdPieces ps)
    exec (.st f) s = .next (s.closed (if f.repair then u.txRepair (ps.map (·.2)) else u)) := by
  change execSt f s = _
  simp only [execSt, ha, hb, hdata, htags, hdataTags, hahead, hspace, hwrites, hsome, hps, hcovers, htx, hready, htouch,
    Bool.and_self, need_true, stop_ok_bind, Bool.false_eq_true, if_false, if_true, State.finish_ok]

end

/-- Settles O25: without an active lane, outside transactions, and in one. -/
theorem storeCompletes : Obligations.StoreCompletes := by
  unfold Obligations.StoreCompletes
  intro s f ha hb hdata htags hdataTags hahead hspace hwrites hcovers
  have hcovers : (!f.repair || repairCovers ((s.stLanes f).flatMap (s.touched f.space f.sz.bytes))) = true := by
    cases hr : f.repair
    · rfl
    · simpa using hcovers hr
  refine ⟨exec_st_of_noLane ha hb hdata htags hdataTags hahead hspace hwrites, fun ps hsome hps => ?_, fun ps t hsome hps => ?_⟩
  · exact exec_st_of_ready ha hb hdata htags hdataTags hahead hspace hwrites (List.isEmpty_eq_false_iff.2 hsome) hps hcovers
  · exact exec_st_of_tx ha hb hdata htags hdataTags hahead hspace hwrites (List.isEmpty_eq_false_iff.2 hsome) hps hcovers

/-! ATOM and CAS (13 R261 to R263). -/

theorem exec_atom_of_atomic {s t : State} {f : AtomForm} (hd : f.d.all s.destOk = true) (ha : s.opOk f.a = true)
    (hb : s.opOk f.b = true) (hbase : s.tagIn (baseTag f.space) f.a = .ok ())
    (hvalue : s.tagIn (fun t => t == f.fmt || t == .b64) f.b = .ok ())
    (hdone : s.atomic f.fmt f.space f.d f.a (fun l => .atom f.fn f.fmt (w64 (s.elemAt f.fmt f.b l 0))) = .ok t) :
    exec (.atom f) s = .next (s.closed t) := by
  change execAtom f s = _
  simp only [execAtom, hd, ha, hb, hbase, hvalue, hdone, Bool.and_self, need_true, stop_ok_bind, State.finish_ok]

theorem exec_cas_of_atomic {s t : State} {f : CasForm} (hd : s.destOk f.d = true)
    (hops : [f.a, f.cmp, f.new.operand f.d].all s.opOk = true) (hbase : s.tagIn (baseTag f.space) f.a = .ok ())
    (hvalues : s.tagsIn (· == f.fmt) [f.cmp, f.new.operand f.d] = .ok ())
    (hdone : s.atomic f.fmt f.space (some f.d) f.a (fun l =>
      .cas f.fmt (w64 (s.elemAt f.fmt f.cmp l 0)) (w64 (s.elemAt f.fmt (f.new.operand f.d) l 0))) = .ok t) :
    exec (.cas f) s = .next (s.closed t) := by
  change execCas f s = _
  simp only [execCas, hd, hops, hbase, hvalues, hdone, Bool.and_self, need_true, stop_ok_bind, State.finish_ok]

/-- Settles O26: both words from `State.atomic`, and what `State.atomic` gives outside transactions. -/
theorem atomicsComplete : Obligations.AtomicsComplete := by
  unfold Obligations.AtomicsComplete
  refine ⟨⟨fun s t f => exec_atom_of_atomic, fun s t f => exec_cas_of_atomic⟩, ?outside⟩
  case outside =>
    intro s f space d a op ps hahead hspace hwrites htx hsome hps hloads hready row near sent olds given
    have hsome : (s.atomLanes d a).isEmpty = false := List.isEmpty_eq_false_iff.2 hsome
    simp only [State.atomic, hahead, hspace, hwrites, htx, hsome, hps, hloads, hready, stop_ok_bind, Option.isSome_none,
      Bool.false_eq_true, if_false]
    cases d <;> rfl

end Sys2Proof.Machine
end

section
/-! PROOF. Rows and words of global memory on path G and at the mills (13 R257 to R260), maintenance and sealing (13 R264 to R266;
16 R319, R320; 17 R336, R337): what each word answers once its checks pass, and the statements O27 and O28. -/

namespace Sys2Proof.Machine

/-! GATHER and SCATTER (13 R257, R258). -/

/-- An instruction that nothing stops short serves all its lanes. -/
theorem lanesBelow_none (lanes : List Nat) : lanesBelow lanes none = lanes :=
  List.filter_eq_self.2 fun _ _ => rfl

/-- GATHER and SCATTER that neither a fault nor a SAVE stops end with PROG 0. -/
theorem State.closeRows_completes (s t : State) : s.closeRows t none none = .ok t.endLong := rfl

section
variable {s : State} {f : RowsForm} (hd : s.regsOk f.d.toNat (f.n1.toNat + 1) = true) (hix : s.regOk f.ix.toNat = true)
  (hsprig : s.noSprig = .ok ()) (hbase : s.srcTag (baseTag .global) f.base = .ok ())
  (hindex : s.tagIn (fun t => t == .idx32 || t == .n32 || t == .b64) (.v f.ix) = .ok ()) (htx : s.noTx 2 = .ok ())
include hd hix hsprig hbase hindex htx

theorem exec_gather_of_noLane (hnone : s.active = 0) : exec (.gather f) s = .next (s.closed s.endLong) := by
  change execGather f s = _
  simp only [execGather, hd, hix, hsprig, hbase, hindex, htx, hnone, Bool.and_self, need_true, stop_ok_bind, if_true,
    State.finish_ok]

/-- GATHER of rows that all go through. -/
theorem exec_gather_of_ready (hsome : s.active ≠ 0) (hready : s.gatherReady = .ok ()) (hfault : (s.rowLanes f .rd).2 = none)
    (hgoes : s.shortAt (s.rowLanes f .rd).1 = none)
    (hfree : s.piecesFree (((s.rowLanes f .rd).1.map fun l => (l, s.rowOf f .rd l)).flatMap fun x => x.2) = .ok ()) :
    let lanes := (s.rowLanes f .rd).1
    let rows := lanes.map fun l => (l, s.rowOf f .rd l)
    let ps := rows.flatMap fun x => x.2
    exec (.gather f) s = .next (s.closed ((ps.foldl (fun t p => if p.target = .device then t.readTouch p.pa 8 else t)
        (s.holdPieces (ps.map fun p => (0, p)))).defer
      ((List.range (f.n1.toNat + 1)).map fun j => (.v (f.d.toNat + j), f.fmt, Mask.ofFn (fun l => lanes.contains l),
        fun l => s.gatherWord rows l j)) 0 [] none).endLong) := by
  change execGather f s = _
  simp only [execGather, hd, hix, hsprig, hbase, hindex, htx, hsome, hready, hfault, hgoes, lanesBelow_none, hfree, Bool.and_self,
    need_true, stop_ok_bind, Option.isSome_none, Bool.or_self, Bool.false_eq_true, if_false, State.closeRows_completes,
    State.finish_ok]

variable (hdata : s.tagsIn (fun t => t == f.fmt || t == .b64)
    ((List.range (f.n1.toNat + 1)).map fun j => .v (f.d + BitVec.ofNat 7 j)) = .ok ()) (hahead : s.noRunAhead = .ok ())
include hdata hahead

theorem exec_scatter_of_noLane (hnone : s.active = 0) : exec (.scatter f) s = .next (s.closed s.endLong) := by
  change execScatter f s = _
  simp only [execScatter, hd, hix, hsprig, hbase, hindex, hdata, hahead, htx, hnone, Bool.and_self, need_true, stop_ok_bind,
    if_true, State.finish_ok]

/-- SCATTER of rows that all go through. -/
theorem exec_scatter_of_ready (hsome : s.active ≠ 0) (hready : s.gatherReady = .ok ()) (hfault : (s.rowLanes f .wr).2 = none)
    (hgoes : s.shortAt (s.rowLanes f .wr).1 = none)
    (hclaims : s.claims (bareSectors (((s.rowLanes f .wr).1.flatMap fun l => (s.rowOf f .wr l).map fun p => (l, p)).map
      fun x => x.2)) = .ok ()) :
    let ps := (s.rowLanes f .wr).1.flatMap fun l => (s.rowOf f .wr l).map fun p => (l, p)
    exec (.scatter f) s = .next (s.closed ((s.ordered ps).foldl (fun t x =>
      t.scatterWord x.2 (s.vval (f.d.toNat + x.2.at_ / 8) x.1)) (s.holdPieces ps)).endLong) := by
  change execScatter f s = _
  simp only [execScatter, hd, hix, hsprig, hbase, hindex, hdata, hahead, htx, hsome, hready, hfault, hgoes, lanesBelow_none,
    hclaims, Bool.and_self, need_true, stop_ok_bind, if_false, State.closeRows_completes, State.finish_ok]

end

/-! SRED (13 R259, R260). -/

theorem exec_sred_of_accesses {s : State} {f : SredForm} {ps : List (Nat × Piece)} (ha : s.opOk f.a = true)
    (hb : s.opOk f.b = true) (hbase : s.tagIn (baseTag .global) f.a = .ok ()) (hvalue : s.tagIn (· == f.fmt) f.b = .ok ())
    (hahead : s.noRunAhead = .ok ()) (htx : s.noTx 2 = .ok ()) (hps : s.sredAccesses f = .ok ps) :
    let home (va : Nat) : Nat := ((ps.find? fun x => x.2.va == va).map fun x => x.2.pa).getD 0
    exec (.sred f) s = .next (s.closed ((combine f.fn f.fmt (ps.map fun x => (x.2.va, s.elemAt f.fmt f.b x.1 0))).foldl
      (fun t x => t.sendMill f.fn f.fmt (home x.1) x.1 x.2) (s.holdPieces ps))) := by
  change execSred f s = _
  simp only [execSred, ha, hb, hbase, hvalue, hahead, htx, hps, Bool.and_self, need_true, stop_ok_bind, State.finish_ok]

/-- Settles O27, instruction by instruction. -/
theorem rowsComplete : Obligations.RowsComplete := by
  unfold Obligations.RowsComplete
  refine ⟨fun s f hd hix hsprig hbase hindex htx => ⟨?_, ?_, fun hdata hahead => ⟨?_, ?_⟩⟩, ?_⟩
  · exact exec_gather_of_noLane hd hix hsprig hbase hindex htx
  · exact fun hsome hready hfault hgoes => exec_gather_of_ready hd hix hsprig hbase hindex htx hsome hready hfault hgoes
  · exact exec_scatter_of_noLane hd hix hsprig hbase hindex htx hdata hahead
  · exact fun hsome hready hfault hgoes => exec_scatter_of_ready hd hix hsprig hbase hindex htx hdata hahead hsome hready hfault hgoes
  · exact fun s f ps => exec_sred_of_accesses

/-! PREF, FENCE and FLUSH (13 R264, R265; 16 R319). -/

theorem exec_pref_of_checks {s : State} {f : PrefForm} (ha : s.opOk f.a = true) (hb : s.opOk f.b = true)
    (htags : s.addrTags .global f.a f.b = .ok ()) :
    exec (.pref f) s = .next (s.closed ((framesOf (s.prefPieces f)).foldl (fun t fr =>
      t.post (s.fillRequest 0 f.hint.toNat f.l2 false (s.prefPieces f) fr)) s)) := by
  change execPref f s = _
  simp only [execPref, ha, hb, htags, Bool.and_self, need_true, stop_ok_bind, State.finish_ok]

section
variable {s : State} {f : FenceForm} (htx : s.noTx 2 = .ok ())
include htx

/-- A fence with nothing to wait for is an acquire at once. -/
theorem exec_fence_of_over (hover : s.fenceIds f = []) : exec (.fence f) s =
    .next (s.closed (if f.ord.getLsbD 0 && wideScope f.scope then s.setSys (s.sys.acquire s.gt) else s)) := by
  change execFence f s = _
  simp only [execFence, htx, hover, List.isEmpty_nil, if_true, stop_ok_bind, State.finish_ok]

/-- A fence that waits holds the later accesses on its second set of classes. -/
theorem exec_fence_of_waits (hwaits : s.fenceIds f ≠ []) : exec (.fence f) s = .next (s.closed (s.setThread
    { s.thread with holds := ⟨s.fenceIds f, f.ord.getLsbD 0 && wideScope f.scope, fenceHolds f⟩ :: s.thread.holds })) := by
  change execFence f s = _
  simp only [execFence, htx, List.isEmpty_eq_false_iff.2 hwaits, Bool.false_eq_true, if_false, stop_ok_bind, State.finish_ok]

end

section
variable {s : State} {f : FlushForm} (hbase : s.srcTag addrTag f.base = .ok ()) (hlen : s.srcTag countTag f.len = .ok ())
  (hahead : s.noRunAhead = .ok ()) (htx : s.noTx 2 = .ok ())
  (hin : (s.image f.base).toNat + (s.image f.len).toNat ≤ 2 ^ 58)
include hbase hlen hahead htx hin

theorem exec_flush_of_empty (hempty : (s.image f.len).toNat = 0) : exec (.flush f) s = .next (s.closed s) := by
  rw [hempty] at hin
  change execFlush f s = _
  simp only [execFlush, hbase, hlen, hahead, htx, hempty, Nat.zero_le, decide_true, decide_eq_true hin, need_true, stop_ok_bind,
    if_true, State.finish_ok]

variable (hshort : (s.image f.len).toNat ≤ 2 ^ 32) (hsome : (s.image f.len).toNat ≠ 0)
  (hready : s.rangeReady (s.image f.base).toNat (s.image f.len).toNat = .ok ())
include hshort hsome hready

theorem exec_flush_wb (hop : f.op = .wb) :
    let r := wordRange (s.image f.base).toNat (s.image f.len).toNat
    exec (.flush f) s = .next (s.closed (s.writeBack r.1 r.2)) := by
  change execFlush f s = _
  simp only [execFlush, hbase, hlen, hahead, htx, hready, hop, hsome, decide_eq_true hshort, decide_eq_true hin, need_true,
    stop_ok_bind, if_false, State.finish_ok]

theorem exec_flush_inv (hop : f.op = .inv) :
    let r := wordRange (s.image f.base).toNat (s.image f.len).toNat
    exec (.flush f) s = .next (s.closed ((s.writeBack r.1 r.2).dropCopies r.1 r.2)) := by
  change execFlush f s = _
  simp only [execFlush, hbase, hlen, hahead, htx, hready, hop, hsome, decide_eq_true hshort, decide_eq_true hin, need_true,
    stop_ok_bind, if_false, State.finish_ok]

theorem exec_flush_repair (hop : f.op = .repair) (hfault : s.repairFault (s.image f.base).toNat (s.image f.len).toNat = none)
    (hover : ((s.poisonWithin (s.image f.base).toNat (s.image f.len).toNat).isEmpty || s.over s.cur s.who .accesses) = true)
    (hclaims : s.claims (s.poisonWithin (s.image f.base).toNat (s.image f.len).toNat) = .ok ()) :
    let r := wordRange (s.image f.base).toNat (s.image f.len).toNat
    let secs := s.poisonWithin (s.image f.base).toNat (s.image f.len).toNat
    exec (.flush f) s =
      .next (s.closed ((((s.losePriv secs).writeBack r.1 r.2).dropCopies r.1 r.2).repairRange secs)) := by
  change execFlush f s = _
  simp only [execFlush, hbase, hlen, hahead, htx, hready, hop, hsome, hfault, hover, hclaims, decide_eq_true hshort,
    decide_eq_true hin, need_true, stop_ok_bind, if_false, State.finish_ok]

end

/-! SEAL and SEAL.open (13 R266; 17 R336, R337). -/

section
variable {s : State} {d : BitVec 6} {base len : Src} (hsprig : s.noSprig = .ok ()) (hbase : s.srcTag addrTag base = .ok ())
  (hlen : s.srcTag countTag len = .ok ()) (hahead : s.noRunAhead = .ok ()) (htx : s.noTx 2 = .ok ())
  (halign : (s.image base).toNat % 256 = 0)
  (hsize : (decide ((s.image len).toNat % 256 = 0) && decide (256 ≤ (s.image len).toNat) &&
    decide ((s.image len).toNat ≤ 2 ^ 40)) = true)
include hsprig hbase hlen hahead htx halign hsize

/-- SEAL of a range that overlaps a sealed one has the result 0x101. -/
theorem exec_seal_of_overlap
    (hoverlap : s.sealOverlaps (s.ctx s.cur.ctx).asid (s.image base).toNat (s.image len).toNat = true) :
    exec (.sealRange d base len) s = .next (s.closed (s.deferS d .n64 0x101)) := by
  change execSealRange d base len s = _
  simp only [execSealRange, hsprig, hbase, hlen, hahead, htx, decide_eq_true halign, hsize, hoverlap, need_true, stop_ok_bind,
    if_true, State.finish_ok]

variable (hclear : s.sealOverlaps (s.ctx s.cur.ctx).asid (s.image base).toNat (s.image len).toNat = false)
include hclear

/-- SEAL where the table is full has the result 0x100. -/
theorem exec_seal_of_full (hfull : 64 ≤ s.sealTable.length) :
    exec (.sealRange d base len) s = .next (s.closed (s.deferS d .n64 0x100)) := by
  change execSealRange d base len s = _
  simp only [execSealRange, hsprig, hbase, hlen, hahead, htx, decide_eq_true halign, hsize, hclear, hfull, need_true, stop_ok_bind,
    Bool.false_eq_true, if_false, if_true, State.finish_ok]

/-- SEAL takes the lowest free entry once its thread's accesses are performed and the stashes' words are home. -/
theorem exec_seal_of_room (hroom : s.sealTable.length < 64) (hover : s.over s.cur s.who .allAccesses = true)
    (hready : s.rangeReady (s.image base).toNat (s.image len).toNat = .ok ()) :
    let b := (s.image base).toNat
    let n := (s.image len).toNat
    let e := firstFree 63 (s.sealTable.map (·.1))
    let t := s.stashesHome b n
    exec (.sealRange d base len) s = .next (s.closed (State.deferS
      { t with sealTable := NMap.set t.sealTable e ⟨t.nextId, 0, (s.ctx s.cur.ctx).asid, s.cur.ctx, b, n, false, false⟩,
               nextId := t.nextId + 1 } d .n64 (w64 e))) := by
  change execSealRange d base len s = _
  simp only [execSealRange, hsprig, hbase, hlen, hahead, htx, decide_eq_true halign, hsize, hclear, Nat.not_le.2 hroom, hover,
    hready, need_true, stop_ok_bind, Bool.false_eq_true, if_false, State.finish_ok]

end

section
variable {s : State} {d : BitVec 6} {entry : Src} (hsprig : s.noSprig = .ok ()) (htag : s.srcTag countTag entry = .ok ())
  (hahead : s.noRunAhead = .ok ()) (htx : s.noTx 2 = .ok ())
include hsprig htag hahead htx

/-- SEAL.open of an entry of the context's own: it is opening from now on, and the result waits until it is free. -/
theorem exec_sealOpen_of_own {x : SealEntry} (hentry : NMap.get? s.sealTable (s.image entry).toNat = some x)
    (hctx : x.ctx = s.cur.ctx) (hplate : x.plate = false) :
    let e := (s.image entry).toNat
    let t := (State.defer (State.untag
      { s with sealTable := NMap.set s.sealTable e { x with opening := true, since := s.cycle.toNat } } e)
      [(.s d.toNat, .n64, -1, fun _ => 0)] 0 [] (some e))
    exec (.sealOpen d entry) s = .next (s.closed
      (((t.sealHolders e).foldl (fun t c => t.postOnce (.sealOpeningDrop e c)) t).freeSeal e)) := by
  change execSealOpen d entry s = _
  simp only [execSealOpen, hsprig, htag, hahead, htx, hentry, hctx, hplate, ne_eq, not_true_eq_false, Bool.false_eq_true, or_self,
    if_false, stop_ok_bind, State.finish_ok]

/-- SEAL.open of an entry that is not the context's has the result 0x102. -/
theorem exec_sealOpen_of_foreign
    (hforeign : ∀ x, NMap.get? s.sealTable (s.image entry).toNat = some x → x.ctx ≠ s.cur.ctx ∨ x.plate = true) :
    exec (.sealOpen d entry) s = .next (s.closed (s.deferS d .n64 0x102)) := by
  change execSealOpen d entry s = _
  cases hentry : NMap.get? s.sealTable (s.image entry).toNat with
  | none => simp only [execSealOpen, hsprig, htag, hahead, htx, hentry, stop_ok_bind, State.finish_ok]
  | some x =>
    simp only [execSealOpen, hsprig, htag, hahead, htx, hentry, hforeign x hentry, if_true, stop_ok_bind, State.finish_ok]

end

/-- Settles O28, instruction by instruction. -/
theorem maintenanceAndSealingComplete : Obligations.MaintenanceAndSealingComplete := by
  unfold Obligations.MaintenanceAndSealingComplete
  refine ⟨⟨fun s f => exec_pref_of_checks, ?fence, ?flush⟩, ?sealing, ?opening⟩
  case fence =>
    intro s f htx acq
    exact ⟨exec_fence_of_over htx, exec_fence_of_waits htx⟩
  case flush =>
    intro s f hbase hlen hahead htx base len b n hshort hin hready
    refine ⟨exec_flush_of_empty hbase hlen hahead htx hin, fun hsome => ?_, fun hsome => ?_, fun hsome hop hfault => ?_⟩
    · exact exec_flush_wb hbase hlen hahead htx hin hshort hsome hready
    · exact exec_flush_inv hbase hlen hahead htx hin hshort hsome hready
    · intro secs hover
      exact exec_flush_repair hbase hlen hahead htx hin hshort hsome hready hop hfault
        (by simpa using hover)
  case sealing =>
    intro s d base len hsprig hbase hlen hahead htx b n asid e halign hmult hleast hmost
    have hsize : (decide (n % 256 = 0) && decide (256 ≤ n) && decide (n ≤ 2 ^ 40)) = true := by
      simp only [hmult, hleast, hmost, decide_true, Bool.and_self]
    exact ⟨exec_seal_of_overlap hsprig hbase hlen hahead htx halign hsize,
      exec_seal_of_full hsprig hbase hlen hahead htx halign hsize,
      exec_seal_of_room hsprig hbase hlen hahead htx halign hsize⟩
  case opening =>
    intro s d entry hsprig htag hahead htx e
    exact ⟨fun x => exec_sealOpen_of_own hsprig htag hahead htx, exec_sealOpen_of_foreign hsprig htag hahead htx⟩

end Sys2Proof.Machine
end

section
/-! PROOF. The copy channels and KVX (13 R267 to R274; 20 R382): how the pointer of a channel moves, what COPY, CHWAIT and KVX answer
once their checks pass, how their events go on, and the statements O30, O29 and O31. -/

namespace Sys2Proof.Machine

/-! The pointer of a channel (13 R269, R270). -/

/-- After the last unit of a COPY the pointer stands at its end. -/
theorem Chan.advance_of_last {c : Chan} {j : CopyJob} {rest : List CopyJob} (hjobs : c.jobs = j :: rest)
    (hlast : j.units ≤ j.done + 1) (fresh : Nat) : c.advance fresh = { wp := j.until_, jobs := rest } := by
  simp only [Chan.advance, hjobs, hlast, if_true]

/-- After another unit of a COPY the pointer stands at what has been moved, or where it stood. -/
theorem Chan.advance_of_more {c : Chan} {j : CopyJob} {rest : List CopyJob} (hjobs : c.jobs = j :: rest)
    (hmore : j.done + 1 < j.units) (fresh : Nat) : c.advance fresh =
      { wp := if Config.pointerLags fresh then c.wp else j.from_ + w64 (j.bytesAt (j.done + 1)),
        jobs := { j with done := j.done + 1 } :: rest } := by
  simp only [Chan.advance, hjobs, Nat.not_le.2 hmore, if_false]

/-- Settles O30: the last unit of a COPY, and any other. -/
theorem channelPointer : Obligations.ChannelPointer := by
  unfold Obligations.ChannelPointer
  intro c j rest fresh hjobs
  constructor
  · intro hlast
    simp only [Chan.advance_of_last hjobs hlast, and_self]
  · intro hmore
    rw [Chan.advance_of_more hjobs hmore]
    refine ⟨?_, rfl⟩
    cases Config.pointerLags fresh
    · exact .inr rfl
    · exact .inl rfl

/-! COPY and CHWAIT (13 R267 to R271). -/

theorem exec_copy_of_ready {s : State} {f : CopyForm} {src dst : Shape} (hchan : f.ch.toNat < s.cur.foot.chans)
    (hregs : s.copyRegs f 0 = true) (hsprig : s.noSprig = .ok ()) (hsrcTag : s.srcTag (baseTag .global) f.srec = .ok ())
    (hdstTag : s.copyDstTag f = .ok ()) (hahead : s.noRunAhead = .ok ()) (htx : s.noTx 2 = .ok ())
    (hroom : s.over s.cur s.who (.copyFull f.ch.toNat) = true)
    (hsrc : s.readShape (s.image f.srec) (· == f.src) = .ok src) (hdst : s.copyTarget f src = .ok dst)
    (hfit : s.copyRegs f (copyBytes f.toRegs dst) = true) :
    let ch := f.ch.toNat
    let bytes := copyBytes f.toRegs dst
    let u := (s.recordTouch (s.image f.srec)).recordTouch (s.copyRecord f)
    exec (.copy f) s = .next (s.closed (State.deferS (State.postOnce (State.copyTags
      (u.queueCopy ch ⟨f, src, dst, 0, s.chanEnd ch, s.chanEnd ch + w64 bytes, u.sys.pts⟩) f bytes) (.copyProgress u.cur.id ch))
      f.d .n64 (s.chanEnd ch + w64 bytes))) := by
  change execCopy f s = _
  simp only [execCopy, decide_eq_true hchan, hregs, hsprig, hsrcTag, hdstTag, hahead, htx, hroom, hsrc, hdst, hfit, Bool.and_self,
    need_true, stop_ok_bind, State.finish_ok]

theorem exec_chwait_of_ready {s : State} {f : ChwaitForm} (hnum : s.value .n64 f.ch < 8)
    (hchan : s.value .n64 f.ch < s.cur.foot.chans) (hsprig : s.noSprig = .ok ()) (hchTag : s.srcTag countTag f.ch = .ok ())
    (hvTag : s.srcTag countTag f.v = .ok ())
    (hcome : (f.try_ || s.over s.cur s.who (.chwait (s.value .n64 f.ch) (s.image f.v))) = true) :
    let t := if wideScope f.scope then s.setSys (s.sys.acquire s.gt) else s
    exec (.chwait f) s = .next (s.closed (t.deferS f.d .n64 (s.cur.chans.getD (s.value .n64 f.ch) ⟨0, []⟩).wp)) := by
  have hin : decide (s.value .n64 f.ch < Nat.min 8 s.cur.foot.chans) = true := decide_eq_true (Nat.lt_min.2 ⟨hnum, hchan⟩)
  change execChwait f s = _
  simp only [execChwait, hin, hsprig, hchTag, hvTag, hcome, need_true, stop_ok_bind, State.finish_ok]

/-! The next unit of a channel (13 R269; 03 R76). -/

/-- A channel after another unit of its first COPY, and what waits on it told. -/
def State.chanStepped (t : State) (w ch fresh : Nat) : State :=
  State.chanMoved { t with cur := { t.cur with chans := t.cur.chans.modify ch fun c => c.advance fresh } } w ch

section
variable {s : State} {w ch : Nat} {x : Wave} {c : Chan} {j : CopyJob} {rest : List CopyJob} (hwave : s.wave? w = some x)
  (hchan : x.chans[ch]? = some c) (hjobs : c.jobs = j :: rest) (hruns : s.engineRuns x.ctx = true)
include hwave hchan hjobs hruns

theorem exec_copyProgress_of_empty (hnone : j.units ≤ j.done) :
    exec (.copyProgress w ch) s = .next ((s.select w (.split 0)).chanStepped w ch s.fresh).counted := by
  change execCopyProgress w ch s = _
  simp only [execCopyProgress, hwave, hchan, hjobs, hruns, hnone, Option.bind_some, List.head?_cons, Bool.not_true,
    Bool.false_eq_true, if_false, if_true, State.event_eq_counted, State.chanStepped]

variable (hmore : j.done < j.units)
include hmore

/-- A refusal of an access of a COPY freezes its context. -/
theorem exec_copyProgress_of_refused {e : Nat} {a : W64} {wr : Bool}
    (hunit : (s.select w (.split 0)).copyUnit j j.done = .error (e, a, wr))
    (haway : (s.select w (.split 0)).heldAway e (.copyProgress w ch) = none) :
    exec (.copyProgress w ch) s = .next ((s.select w (.split 0)).freeze x.ctx x.cluster 1 wr a.toNat).counted := by
  change execCopyProgress w ch s = _
  simp only [execCopyProgress, hwave, hchan, hjobs, hruns, Nat.not_le.2 hmore, hunit, haway, Option.bind_some, List.head?_cons,
    Bool.not_true, Bool.false_eq_true, if_false, Option.getD_none, State.event_eq_counted]

/-- A unit that nothing holds up is moved. -/
theorem exec_copyProgress_of_free {u : CopyUnit} (hunit : (s.select w (.split 0)).copyUnit j j.done = .ok u)
    (hfree : (s.select w (.split 0)).heldIO (locSectors u.reads) (locSectors (u.writes j)) (.wave w) (.copyProgress w ch) = none) :
    exec (.copyProgress w ch) s = .next (State.chanStepped
      (((s.select w (.split 0)).engineTouch u.reads (u.writes j)).writeUnit j j.done u) w ch s.fresh).counted := by
  change execCopyProgress w ch s = _
  simp only [execCopyProgress, hwave, hchan, hjobs, hruns, Nat.not_le.2 hmore, hunit, hfree, Option.bind_some, List.head?_cons,
    Bool.not_true, Bool.false_eq_true, if_false, State.event_eq_counted, State.chanStepped]

end

/-- Settles O29: the two words, and the event of a channel in its three cases. -/
theorem copiesComplete : Obligations.CopiesComplete := by
  unfold Obligations.CopiesComplete
  refine ⟨⟨?copy, ?chwait⟩, ?progress⟩
  case copy =>
    intro s f src dst ch bytes u
    exact exec_copy_of_ready
  case chwait =>
    intro s f ch hnum hchan hsprig hchTag hvTag hcome
    exact exec_chwait_of_ready hnum hchan hsprig hchTag hvTag (by simpa using hcome)
  case progress =>
    intro s w ch x c j rest hwave hchan hjobs hruns t moved
    refine ⟨exec_copyProgress_of_empty hwave hchan hjobs hruns, fun hmore e a wr => ?_, fun hmore u => ?_⟩
    · exact exec_copyProgress_of_refused hwave hchan hjobs hruns hmore
    · exact exec_copyProgress_of_free hwave hchan hjobs hruns hmore

/-! KVX (13 R273, R274). -/

section
variable {s t : State} {d : BitVec 6} {desc : Src} {ws : List W64} (hsprig : s.noSprig = .ok ())
  (htag : s.srcTag (baseTag .global) desc = .ok ()) (hahead : s.noRunAhead = .ok ()) (htx : s.noTx 2 = .ok ())
  (halign : (s.image desc).extractLsb' 0 6 = 0) (hwords : s.loadWords (s.image desc).toNat 8 = .ok (ws, t))
  (hfields : kvxFields ws = true) (hlists : kvxMisaligned ws = none)
include hsprig htag hahead htx halign hwords hfields hlists

/-- KVX where 64 transfers of its context wait on its die has the result 1. -/
theorem exec_kvx_of_full (scope : Scope) (hfull : 64 ≤ (s.kvs.filter fun k => k.ctx == s.cur.ctx && k.die == s.die).length) :
    exec (.kvx scope d desc) s = .next (s.closed (t.deferS d .n64 1)) := by
  change execKvx scope d desc s = _
  simp only [execKvx, hsprig, htag, hahead, htx, halign, hwords, hfields, hlists, hfull, beq_self_eq_true, need_true, stop_ok_bind,
    if_true, State.finish_ok]

/-- KVX with room in the queue joins it, with the result 0. -/
theorem exec_kvx_of_room (scope : Scope) (hroom : (s.kvs.filter fun k => k.ctx == s.cur.ctx && k.die == s.die).length < 64) :
    exec (.kvx scope d desc) s = .next (s.closed (State.deferS (State.post
      { t with kvs := t.kvs ++ [t.kvxJob ws], nextId := t.nextId + 1 } (.kvxComplete (t.kvxJob ws).id .done)) d .n64 0)) := by
  change execKvx scope d desc s = _
  simp only [execKvx, hsprig, htag, hahead, htx, halign, hwords, hfields, hlists, Nat.not_le.2 hroom, beq_self_eq_true, need_true,
    stop_ok_bind, if_false, State.finish_ok]

end

/-! A page of a transfer (13 R274; 20 R382). -/

section
variable {s : State} {id : Nat} {e : FabricEnd} {k : Kv} (hfind : s.kvs.find? (fun k => k.id == id) = some k)
  (hruns : s.engineRuns k.ctx = true)
include hfind hruns

/-- A transfer with no page left ends. -/
theorem exec_kvxComplete_of_over (hover : k.left = []) (hfree : s.heldIO []
    (if k.done = 0 then [] else s.rangeSectors k.die k.ctx k.done.toNat 8 .wr) (.die k.die) (.kvxComplete id e) = none) :
    exec (.kvxComplete id e) s = .next (s.kvxEnd k k.doneval).counted := by
  change execKvxComplete id e s = _
  simp only [execKvxComplete, hfind, hruns, hover, hfree, Bool.not_true, Bool.false_eq_true, if_false, List.isEmpty_nil, if_true,
    Option.getD_none, State.event_eq_counted]

variable (hsome : k.left.isEmpty = false)
include hsome

/-- A transfer whose peer or link is lost fails with code 2. -/
theorem exec_kvxComplete_of_lost (hlost : (k.dir != 0 && (e == .linkLost || s.lostPeers.contains k.peer)) = true) :
    exec (.kvxComplete id e) s = .next (s.kvxFail k 2).counted := by
  change execKvxComplete id e s = _
  simp only [execKvxComplete, hfind, hruns, hsome, hlost, Bool.not_true, Bool.false_eq_true, if_false, if_true,
    State.event_eq_counted]

variable (hlives : (k.dir != 0 && (e == .linkLost || s.lostPeers.contains k.peer)) = false)
include hlives

/-- A transfer that its peer refuses fails with code 1. -/
theorem exec_kvxComplete_of_refused (hrefused : (k.dir != 0 && e == .refused) = true) :
    exec (.kvxComplete id e) s = .next (s.kvxFail k 1).counted := by
  change execKvxComplete id e s = _
  simp only [execKvxComplete, hfind, hruns, hsome, hlives, hrefused, Bool.not_true, Bool.false_eq_true, if_false, if_true,
    State.event_eq_counted]

variable (hgrants : (k.dir != 0 && e == .refused) = false)
include hgrants

/-- A transfer whose source at the peer is poisoned fails with code 3. -/
theorem exec_kvxComplete_of_poisoned (hpoison : (k.dir == 2 && e == .poisoned) = true) :
    exec (.kvxComplete id e) s = .next (s.kvxFail k 3).counted := by
  change execKvxComplete id e s = _
  simp only [execKvxComplete, hfind, hruns, hsome, hlives, hgrants, hpoison, Bool.not_true, Bool.false_eq_true, if_false, if_true,
    State.event_eq_counted]

/-- The next page of a transfer that the peer serves is moved. -/
theorem exec_kvxComplete_of_served (hsound : (k.dir == 2 && e == .poisoned) = false) :
    exec (.kvxComplete id e) s = s.movePage id e k (k.left.getD (Config.nextPage s.fresh % k.left.length) 0) := by
  change execKvxComplete id e s = _
  simp only [execKvxComplete, hfind, hruns, hsome, hlives, hgrants, hsound, Bool.not_true, Bool.false_eq_true, if_false]

end

/-- A page whose sectors are free is moved. -/
theorem State.movePage_of_free {s : State} {id : Nat} {e : FabricEnd} {k : Kv} {n : Nat}
    (hfree : s.heldIO (s.kvxSectors k n).1 (s.kvxSectors k n).2 (.die k.die) (.kvxComplete id e) = none) :
    s.movePage id e k n = s.pageMoved id e k n
      (((s.touchSectors (s.kvxSectors k n).1 false).touchSectors (s.kvxSectors k n).2 true).kvxPage k false n) := by
  rw [State.movePage]
  generalize s.kvxSectors k n = io at hfree ⊢
  -- the 4096 bytes of a page's move stay folded
  generalize State.kvxPage _ k false n = r
  simp only [hfree]

theorem State.pageMoved_of_violation {s : State} {id : Nat} {e : FabricEnd} {k : Kv} {n c a : Nat} {wr : Bool}
    (haway : s.heldAway c (.kvxComplete id e) = none) :
    s.pageMoved id e k n (.error (c, a, wr)) = .next (s.freeze k.ctx 0xFF 4 wr a).counted := by
  simp only [State.pageMoved, haway, Option.getD_none, State.event_eq_counted]

theorem State.pageMoved_of_done (s t : State) (id : Nat) (e : FabricEnd) (k : Kv) (n : Nat) :
    s.pageMoved id e k n (.ok (t, 0)) = .next (State.counted (State.post
      { t with kvs := t.kvs.map fun x => if x.id = id then { x with left := x.left.filter (· != n) } else x }
      (.kvxComplete id e))) := rfl

theorem State.pageMoved_of_failed (s t : State) (id : Nat) (e : FabricEnd) (k : Kv) (n : Nat) {c : Nat} (hc : c ≠ 0) :
    s.pageMoved id e k n (.ok (t, c)) = .next (t.kvxFail k c).counted := by
  cases c with
  | zero => exact absurd rfl hc
  | succ c => rfl

/-- A transfer that fails has no page left, and its completion word comes next with its code. -/
theorem State.kvxFail_ends (s : State) (k : Kv) (code : Nat) : ∃ t : State, s.kvxFail k code = t.post (.kvxComplete k.id .done) ∧
    ∀ x ∈ t.kvs, x.id = k.id → x.left = [] ∧ x.doneval = w64 (2 ^ 63 + code) := by
  refine ⟨_, rfl, fun x hx hid => ?_⟩
  obtain ⟨y, -, rfl⟩ := List.mem_map.1 hx
  by_cases hy : y.id = k.id
  · simp only [hy, if_true, and_self]
  · simp only [hy, if_false] at hid

/-- Settles O31: the word, the event of a transfer case by case, and what a failure leaves. -/
theorem pageTransfersComplete : Obligations.PageTransfersComplete := by
  unfold Obligations.PageTransfersComplete
  refine ⟨?word, ?event, fun s k code => s.kvxFail_ends k code⟩
  case word =>
    intro s t scope d desc ws hsprig htag hahead htx halign hwords hfields hlists queued j
    exact ⟨exec_kvx_of_full hsprig htag hahead htx halign hwords hfields hlists scope,
      exec_kvx_of_room hsprig htag hahead htx halign hwords hfields hlists scope⟩
  case event =>
    intro s id e k hfind hruns lost n
    refine ⟨exec_kvxComplete_of_over hfind hruns, fun hsome hlost => ?lost, fun hsome hlives hdir he => ?refused,
      fun hsome hlives hdir he => ?poisoned, fun hsome hlives hgrants hsound => ?moves⟩
    case lost => exact exec_kvxComplete_of_lost hfind hruns (List.isEmpty_eq_false_iff.2 hsome) hlost
    case refused =>
      exact exec_kvxComplete_of_refused hfind hruns (List.isEmpty_eq_false_iff.2 hsome) hlives (by simp [hdir, he])
    case poisoned =>
      exact exec_kvxComplete_of_poisoned hfind hruns (List.isEmpty_eq_false_iff.2 hsome) hlives (by simp [he]) (by simp [hdir, he])
    case moves =>
      intro io hfree r
      have hgrants : (k.dir != 0 && e == .refused) = false := by
        rcases hgrants with h | h <;> simp [h]
      have hsound : (k.dir == 2 && e == .poisoned) = false := by
        rcases hsound with h | h <;> simp [h]
      have hmoved : exec (.kvxComplete id e) s = s.pageMoved id e k n r :=
        (exec_kvxComplete_of_served hfind hruns (List.isEmpty_eq_false_iff.2 hsome) hlives hgrants hsound).trans
          (State.movePage_of_free hfree)
      refine ⟨fun c a wr hr haway => ?_, fun t hr => ?_, fun t c hr hc => ?_⟩ <;> rw [hmoved, hr]
      · exact State.pageMoved_of_violation haway
      · exact s.pageMoved_of_done t id e k n
      · exact s.pageMoved_of_failed t id e k n hc

end Sys2Proof.Machine
end

section
/-! PROOF. Bytes (00 R5; 06 R115): the bytes of a word that has been written in part, of a word made of bytes, and of words in lists;
the first answer along a map in which one number has been written. -/

namespace Sys2Proof.Machine

/-! Bytes of words. -/

/-- A field that lies below a power of two does not see what stands above it. -/
theorem bitsOf_mod_two_pow {lo n w : Nat} (h : lo + n ≤ w) (x : Nat) : bitsOf (x % 2 ^ w) lo n = bitsOf x lo n := by
  refine Nat.eq_of_testBit_eq fun i => ?_
  simp only [bitsOf, Nat.testBit_mod_two_pow, Nat.testBit_div_two_pow]
  by_cases hi : i < n
  · simp [show i + lo < w by omega]
  · simp [hi]

theorem elem_w64 {k : Nat} (hk : k < 8) (x : Nat) : elem 8 (w64 x) k = bitsOf x (8 * k) 8 := by
  rw [elem, w64, BitVec.toNat_ofNat, bitsOf_mod_two_pow (by omega)]

/-- A word with a byte replaced, over that byte's place. -/
theorem setElem_parts (x : W64) (k v : Nat) :
    x.toNat - elem 8 x k * 2 ^ (8 * k) + v % 2 ^ 8 * 2 ^ (8 * k) =
      2 ^ (8 * k) * (2 ^ 8 * (x.toNat / 2 ^ (8 * k) / 2 ^ 8) + v % 2 ^ 8) + x.toNat % 2 ^ (8 * k) := by
  have houter := Nat.div_add_mod x.toNat (2 ^ (8 * k))
  have hinner := Nat.div_add_mod (x.toNat / 2 ^ (8 * k)) (2 ^ 8)
  rw [elem, bitsOf]
  generalize x.toNat / 2 ^ (8 * k) = q at *
  generalize x.toNat % 2 ^ (8 * k) = r at *
  rw [← houter]
  generalize q / 2 ^ 8 = a at *
  generalize q % 2 ^ 8 = e at *
  rw [← hinner, Nat.mul_add, Nat.mul_add]
  have hcomm : e * 2 ^ (8 * k) = 2 ^ (8 * k) * e := Nat.mul_comm _ _
  have hcomm' : v % 2 ^ 8 * 2 ^ (8 * k) = 2 ^ (8 * k) * (v % 2 ^ 8) := Nat.mul_comm _ _
  omega

/-- A byte that has been replaced reads back. -/
theorem elem_setElem_same {k : Nat} (hk : k < 8) (x : W64) (v : Nat) : elem 8 (setElem 8 x k v) k = v % 2 ^ 8 := by
  rw [setElem, elem_w64 hk, setElem_parts, bitsOf, Nat.mul_add_div (Nat.two_pow_pos _),
    Nat.div_eq_of_lt (Nat.mod_lt _ (Nat.two_pow_pos _)), Nat.add_zero, Nat.mul_add_mod, Nat.mod_mod]

/-- The other bytes of a word are as before. -/
theorem elem_setElem_other {j k : Nat} (hj : j < 8) (hne : j ≠ k) (x : W64) (v : Nat) :
    elem 8 (setElem 8 x k v) j = elem 8 x j := by
  rw [setElem, elem_w64 hj, setElem_parts, elem]
  rcases Nat.lt_or_gt_of_ne hne with hlt | hgt
  · rw [← bitsOf_mod_two_pow (w := 8 * k) (by omega), Nat.mul_add_mod, Nat.mod_mod, bitsOf_mod_two_pow (by omega)]
  · have hsplit (n : Nat) : bitsOf n (8 * j) 8 = bitsOf (n / 2 ^ (8 * k) / 2 ^ 8) (8 * (j - k - 1)) 8 := by
      rw [bitsOf, bitsOf, Nat.div_div_eq_div_mul, Nat.div_div_eq_div_mul, ← Nat.pow_add, ← Nat.pow_add,
        show 8 * k + (8 + 8 * (j - k - 1)) = 8 * j by omega]
    rw [hsplit, hsplit x.toNat, Nat.mul_add_div (Nat.two_pow_pos _),
      Nat.div_eq_of_lt (Nat.mod_lt _ (Nat.two_pow_pos _)), Nat.add_zero, Nat.mul_add_div (by decide),
      Nat.div_eq_of_lt (Nat.mod_lt _ (by decide)), Nat.add_zero]

/-- A byte of a number made of bytes. -/
theorem ofBytes_div_mod (bs : List Byte) (k : Nat) : ofBytes bs / 256 ^ k % 256 = (bs.getD k 0).toNat := by
  induction bs generalizing k with
  | nil => simp [ofBytes]
  | cons b rest ih =>
    have hb : b.toNat < 256 := b.isLt
    cases k with
    | zero => simp only [ofBytes, Nat.pow_zero, Nat.div_one, List.getD_cons_zero]; omega
    | succ k =>
      rw [List.getD_cons_succ, ← ih k, ofBytes, Nat.pow_succ', ← Nat.div_div_eq_div_mul]
      congr 2
      omega

/-- A byte of a word made of bytes. -/
theorem byte_w64_ofBytes (bs : List Byte) {k : Nat} (hk : k < 8) :
    BitVec.ofNat 8 (elem 8 (w64 (ofBytes bs)) k) = bs.getD k 0 := by
  rw [elem_w64 hk, bitsOf, Nat.pow_mul]
  refine BitVec.eq_of_toNat_eq ?_
  rw [BitVec.toNat_ofNat, Nat.mod_mod]
  exact ofBytes_div_mod bs k

/-- Bytes placed in a word leave the bytes outside their place. -/
theorem elem_placeBytes_outside (bs : List Byte) {j : Nat} (hj : j < 8) : ∀ (x : W64) (off : Nat),
    (j < off ∨ off + bs.length ≤ j) → elem 8 (placeBytes x off bs) j = elem 8 x j := by
  induction bs with
  | nil => intros; rfl
  | cons b rest ih =>
    intro x off h
    simp only [List.length_cons] at h
    rw [placeBytes, ih _ _ (by omega), elem_setElem_other hj (by omega)]

/-- Bytes placed in a word read back. -/
theorem elem_placeBytes_inside (bs : List Byte) : ∀ (x : W64) (off k : Nat), k < bs.length → off + k < 8 →
    elem 8 (placeBytes x off bs) (off + k) = (bs.getD k 0).toNat := by
  induction bs with
  | nil => intro x off k h; exact absurd h (Nat.not_lt_zero k)
  | cons b rest ih =>
    intro x off k h hin
    rw [placeBytes]
    cases k with
    | zero =>
      rw [elem_placeBytes_outside rest hin _ _ (by omega), Nat.add_zero, elem_setElem_same (by omega), List.getD_cons_zero,
        Nat.mod_eq_of_lt b.isLt]
    | succ k =>
      rw [List.getD_cons_succ, ← ih _ (off + 1) k (by simpa using h) (by omega), show off + (k + 1) = off + 1 + k by omega]

/-! Bytes of words in a list. -/

/-- A byte of a list of words of which a byte of one word has been replaced, at another place. -/
theorem elem_getD_set_other {ws : List W64} {i k j m v : Nat} (hm : m < 8) (h : i ≠ k ∨ m ≠ j) :
    elem 8 ((ws.set k (setElem 8 (ws.getD k 0) j v)).getD i 0) m = elem 8 (ws.getD i 0) m := by
  rw [List.getD_eq_getElem?_getD, List.getElem?_set, List.getD_eq_getElem?_getD (i := i)]
  by_cases hik : k = i
  · subst hik
    by_cases hk : k < ws.length
    · rw [if_pos rfl, if_pos hk, Option.getD_some, elem_setElem_other hm (h.resolve_left (· rfl)), List.getD_eq_getElem?_getD]
    · rw [if_pos rfl, if_neg hk, List.getElem?_eq_none (Nat.not_lt.1 hk)]
  · rw [if_neg hik]

/-! Maps by number. -/

/-- The first answer along a map in which a number has been written: as before where the number answers as it did before, and
otherwise possibly the new one. -/
theorem nmap_findSome_set {α β : Type} {k : Nat} {v : α} {g : Nat × α → Option β} (m : NMap α)
    (hnew : NMap.get? m k = none → g (k, v) = none)
    (hold : ∀ u, NMap.get? m k = some u → (g (k, v)).isSome = (g (k, u)).isSome) :
    (NMap.set m k v).findSome? g = m.findSome? g ∨
      ∃ u, NMap.get? m k = some u ∧ m.findSome? g = g (k, u) ∧ (NMap.set m k v).findSome? g = g (k, v) := by
  unfold NMap.set
  split
  next h =>
    clear hnew
    induction m with
    | nil => exact .inl rfl
    | cons x rest ih =>
      obtain ⟨j, y⟩ := x
      by_cases hj : j = k
      · subst hj
        have hy := hold y (by simp [NMap.get?])
        simp only [NMap.replace, if_true, List.findSome?_cons]
        cases hgy : g (j, y) with
        | none =>
          rw [hgy] at hy
          cases hgv : g (j, v) with
          | none => exact .inl rfl
          | some b => rw [hgv] at hy; cases hy
        | some b =>
          rw [hgy] at hy
          obtain ⟨c, hc⟩ := Option.isSome_iff_exists.1 hy
          rw [hc]
          exact .inr ⟨y, by simp [NMap.get?], hgy.symm, rfl⟩
      · have hget : NMap.get? ((j, y) :: rest) k = NMap.get? rest k := by simp [NMap.get?, hj]
        rw [hget] at h hold ⊢
        simp only [NMap.replace, hj, if_false, List.findSome?_cons]
        cases g (j, y) with
        | none => exact ih hold h
        | some b => exact .inl rfl
  next h =>
    have hnone := hnew (Option.not_isSome_iff_eq_none.1 h)
    clear hold hnew h
    refine .inl ?_
    induction m with
    | nil => simp [NMap.insert, hnone]
    | cons x rest ih =>
      unfold NMap.insert
      split
      · rw [List.findSome?_cons, hnone]
      · rw [List.findSome?_cons, List.findSome?_cons, ih]

end Sys2Proof.Machine
end

section
/-! PROOF. What a read at once sees (12 R229, R231, R247; 17 R326): the parts of the state on which it depends, and the operations
that leave all of them as they were. -/

namespace Sys2Proof.Machine

/-! What a wave and a machine show to a read at once. -/

/-- The registers of a thread of a wave: a sprig's own, or the wave's (08 R174). -/
def Wave.threadRegs (w : Wave) (who : Who) : RegFile × ThreadSys :=
  match who with
  | .sprig j => ((NMap.get? w.sprigs j).map fun p => (p.file, p.sys)).getD (w.file, w.sys)
  | _ => (w.file, w.sys)

/-- What a wave shows to reads: its number, its place, its private words, and the registers of its threads. -/
structure Wave.Sight where
  id : Nat
  stage : Stage
  team : Option Nat
  cluster : Nat
  priv : NMap (W64 × Bool)
  regs : Who → RegFile × ThreadSys

def Wave.sight (w : Wave) : Wave.Sight := ⟨w.id, w.stage, w.team, w.cluster, w.priv, w.threadRegs⟩

/-- What a cluster shows to reads. -/
structure Cluster.Sight where
  blocks : List Block
  queue : List QEntry
  stash : List StashFrame

def Cluster.sight (k : Cluster) : Cluster.Sight := ⟨k.blocks, k.queue, k.stash⟩

/-- What the machine shows to a read at once of the issuing thread, its memories included. -/
structure State.Sight where
  mem : Memory
  hostMem : Memory
  peerMem : NMap Memory
  teams : NMap Team
  poison : List Nat
  lines : NMap (List Byte)
  sealTable : NMap SealEntry
  cycle : BitVec 64
  fresh : Nat
  clusters : Nat → Cluster.Sight
  stashOf : Nat → Option (Nat × StashFrame)
  privAt : Nat → Option W64
  cur : Wave.Sight
  who : Who

def State.sight (s : State) : State.Sight :=
  { mem := s.mem, hostMem := s.hostMem, peerMem := s.peerMem, teams := s.teams, poison := s.poison, lines := s.lines,
    sealTable := s.sealTable, cycle := s.cycle, fresh := s.fresh, clusters := fun c => (s.cluster c).sight,
    stashOf := s.stashOf, privAt := s.privAt, cur := s.cur.sight, who := s.who }

/-- The registers of the issuing thread. -/
theorem State.threadRegs_eq (s : State) : s.cur.threadRegs s.who = (s.file, s.sys) := by
  unfold Wave.threadRegs State.file State.sys State.sprig?
  cases s.who with
  | split n => rfl
  | handler => rfl
  | sprig j =>
    dsimp only
    cases NMap.get? s.cur.sprigs j <;> rfl

section
variable {s r : State} (h : r.sight = s.sight)
include h

theorem State.mem_of_sight : r.mem = s.mem := congrArg State.Sight.mem h
theorem State.hostMem_of_sight : r.hostMem = s.hostMem := congrArg State.Sight.hostMem h
theorem State.peerMem_of_sight : r.peerMem = s.peerMem := congrArg State.Sight.peerMem h
theorem State.teams_of_sight : r.teams = s.teams := congrArg State.Sight.teams h
theorem State.poison_of_sight : r.poison = s.poison := congrArg State.Sight.poison h
theorem State.lines_of_sight : r.lines = s.lines := congrArg State.Sight.lines h
theorem State.sealTable_of_sight : r.sealTable = s.sealTable := congrArg State.Sight.sealTable h
theorem State.cycle_of_sight : r.cycle = s.cycle := congrArg State.Sight.cycle h
theorem State.fresh_of_sight : r.fresh = s.fresh := congrArg State.Sight.fresh h
theorem State.who_of_sight : r.who = s.who := congrArg State.Sight.who h
theorem State.stashOf_of_sight : r.stashOf = s.stashOf := congrArg State.Sight.stashOf h
theorem State.privAt_of_sight : r.privAt = s.privAt := congrArg State.Sight.privAt h
theorem State.blocks_of_sight (c : Nat) : (r.cluster c).blocks = (s.cluster c).blocks :=
  congrArg (fun x => (x.clusters c).blocks) h
theorem State.queue_of_sight (c : Nat) : (r.cluster c).queue = (s.cluster c).queue :=
  congrArg (fun x => (x.clusters c).queue) h
theorem State.stash_of_sight (c : Nat) : (r.cluster c).stash = (s.cluster c).stash :=
  congrArg (fun x => (x.clusters c).stash) h
theorem State.curId_of_sight : r.cur.id = s.cur.id := congrArg (fun x => x.cur.id) h
theorem State.curTeam_of_sight : r.cur.team = s.cur.team := congrArg (fun x => x.cur.team) h
theorem State.curCluster_of_sight : r.cur.cluster = s.cur.cluster := congrArg (fun x => x.cur.cluster) h
theorem State.curPriv_of_sight : r.cur.priv = s.cur.priv := congrArg (fun x => x.cur.priv) h

theorem State.regs_of_sight : (r.file, r.sys) = (s.file, s.sys) := by
  rw [← State.threadRegs_eq, ← State.threadRegs_eq, State.who_of_sight h]
  exact congrArg (fun x => x.cur.regs s.who) h

theorem State.file_of_sight : r.file = s.file := congrArg Prod.fst (State.regs_of_sight h)
theorem State.sys_of_sight : r.sys = s.sys := congrArg Prod.snd (State.regs_of_sight h)

theorem State.atHome_of_sight (pa : Nat) : r.atHome pa = s.atHome pa := by
  rw [State.atHome, State.atHome, State.stashOf_of_sight h, State.mem_of_sight h]

theorem State.overHome_of_sight (t : Target) (pa : Nat) (b : Byte) : r.overHome t pa b = s.overHome t pa b := by
  rw [State.overHome, State.overHome, State.privAt_of_sight h, State.fresh_of_sight h]

theorem State.outByte_of_sight (t : Target) (pa : Nat) (b : Byte) : r.outByte t pa b = s.outByte t pa b := by
  unfold State.outByte
  rw [State.lines_of_sight h]

theorem State.homeByte_of_sight (t : Target) (pa : Nat) : r.homeByte t pa = s.homeByte t pa := by
  cases t <;> simp only [State.homeByte, State.atHome_of_sight h, State.outByte_of_sight h, State.hostMem_of_sight h,
    State.peerMem_of_sight h]

theorem State.outBytes_of_sight (t : Target) (pa n : Nat) : r.outBytes t pa n = s.outBytes t pa n := by
  cases t <;> simp only [State.outBytes, State.outByte_of_sight h, State.hostMem_of_sight h, State.peerMem_of_sight h]

theorem State.poisonedIn_of_sight (pa n : Nat) : r.poisonedIn pa n = s.poisonedIn pa n := by
  rw [State.poisonedIn, State.poisonedIn, State.poison_of_sight h]

theorem State.seenBytes_of_sight (pa n : Nat) : r.seenBytes pa n = s.seenBytes pa n := by
  simp only [State.seenBytes, State.seen, State.atHome_of_sight h, State.overHome_of_sight h]

theorem State.physRead_of_sight (t : Target) (pa n : Nat) : r.physRead t pa n = s.physRead t pa n := by
  cases t with
  | device => rw [State.physRead, State.physRead, State.poisonedIn_of_sight h, State.seenBytes_of_sight h]
  | host c => simp only [State.physRead, State.overHome_of_sight h, State.outBytes_of_sight h]
  | peer p => simp only [State.physRead, State.overHome_of_sight h, State.outBytes_of_sight h]

theorem State.privWord_of_sight (t : Target) (pa : Nat) : r.privWord t pa = s.privWord t pa := by
  simp only [State.privWord, State.curPriv_of_sight h, State.curCluster_of_sight h, State.curId_of_sight h,
    State.queue_of_sight h, State.homeByte_of_sight h]

theorem State.blockLive_of_sight (t : BitVec 16) (b : Block) : r.blockLive t b = s.blockLive t b := by
  unfold State.blockLive State.tick
  rw [State.sealTable_of_sight h, State.cycle_of_sight h]

theorem State.l1Bytes_of_sight (t : BitVec 16) (pa n : Nat) : r.l1Bytes t pa n = s.l1Bytes t pa n := by
  simp only [State.l1Bytes, Cluster.covering, State.curCluster_of_sight h, State.queue_of_sight h, State.blocks_of_sight h,
    State.blockLive_of_sight h]

/-- A read at once depends on what the machine shows alone. -/
theorem State.pieceBytes_of_sight (p : Piece) : r.pieceBytes p = s.pieceBytes p := by
  unfold State.pieceBytes
  split <;> simp only [State.sharedGet, State.teamOf, State.stashFrame, State.privGet, State.teams_of_sight h,
    State.curTeam_of_sight h, State.curCluster_of_sight h, State.stash_of_sight h, State.queue_of_sight h,
    State.privWord_of_sight h, State.sys_of_sight h, State.l1Bytes_of_sight h, State.physRead_of_sight h]

end

/-! Operations that leave what the machine shows. -/

theorem State.sight_postOnce (s : State) (i : Instr) : (s.postOnce i).sight = s.sight := by
  unfold State.postOnce
  split <;> rfl

/-- Waves that show the same are read alike. -/
theorem State.sight_mapWaves (s : State) {f : Wave → Wave} (h : ∀ w, (f w).sight = w.sight) :
    (s.mapWaves f).sight = s.sight := by
  have hcur : (s.mapWaves f).cur.sight = s.cur.sight := by
    unfold State.mapWaves
    dsimp only
    split
    · rfl
    · exact h _
  have hpriv (w : Wave) : (f w).priv = w.priv := congrArg Wave.Sight.priv (h w)
  have hprivAt : (s.mapWaves f).privAt = s.privAt := by
    funext key
    have hstage : (s.mapWaves f).cur.stage = s.cur.stage := congrArg Wave.Sight.stage hcur
    have hkept : (s.mapWaves f).cur.priv = s.cur.priv := congrArg Wave.Sight.priv hcur
    have hwaves : (s.mapWaves f).waves = s.waves.map fun x => (x.1, f x.2) := rfl
    simp only [State.privAt, State.allWaves, hstage, hwaves, List.map_map, List.findSome?_append, List.findSome?_map]
    congr 1
    · split
      · rfl
      · simp only [List.findSome?_cons, hkept]
    · simp only [Function.comp_def, hpriv]
  change { s.sight with cur := (s.mapWaves f).cur.sight, privAt := (s.mapWaves f).privAt } = s.sight
  rw [hcur, hprivAt]
  rfl

theorem Wave.sight_setThread (w : Wave) (who : Who) (t : Thread) : (w.setThread who t).sight = w.sight := by
  have hregs : (w.setThread who t).threadRegs = w.threadRegs := by
    funext v
    cases v with
    | split n => rw [Wave.setThread_eq]; rfl
    | handler => rw [Wave.setThread_eq]; rfl
    | sprig j =>
      by_cases hj : who = .sprig j
      · subst hj
        unfold Wave.threadRegs Wave.setThread
        dsimp only
        split
        case h_1 p hp => simp [hp]
        case h_2 hp => simp [hp]
      · unfold Wave.threadRegs
        dsimp only
        rw [w.sprigs_setThread hj, Wave.setThread_eq]
  rw [Wave.sight, hregs, Wave.setThread_eq]
  rfl

theorem State.sight_notify (s : State) (key : Nat) : (s.notify key).sight = s.sight := by
  unfold State.notify
  refine (State.foldl_postOnce_keeps State.sight State.sight_postOnce id _ _).trans (s.sight_mapWaves fun w => ?_)
  refine List.foldlRecOn (motive := fun v => Wave.sight v = w.sight) _ _ rfl fun v hv x _ => ?_
  dsimp only
  split
  · exact (Wave.sight_setThread v _ _).trans hv
  · exact hv

theorem State.sight_notifyRange (s : State) (key : Nat → Nat) (a n : Nat) : (s.notifyRange key a n).sight = s.sight :=
  List.foldlRecOn (motive := fun t => State.sight t = s.sight) _ _ rfl fun t ht _ _ => (t.sight_notify _).trans ht

theorem State.sight_doom (s : State) (by_ : Writer) (blk : Nat) (write : Bool) : (s.doom by_ blk write).sight = s.sight := by
  unfold State.doom
  refine (State.foldl_postOnce_keeps State.sight State.sight_postOnce id _ _).trans (s.sight_mapWaves fun w => ?_)
  split <;> rfl

theorem State.cluster_setCluster_other (s : State) {n c : Nat} (h : c ≠ n) (k : Cluster) :
    (s.setCluster n k).cluster c = s.cluster c := by
  simp only [State.cluster, State.setCluster, NMap.getD, nmap_get_set_other _ _ _ _ h]

/-- The frame that a stash holds after the frames of a cluster's stash have been changed one by one: itself, or changed. -/
theorem State.stashOf_setCluster (s : State) (n : Nat) {k : Cluster} {g : StashFrame → StashFrame}
    (hk : k.stash = (s.cluster n).stash.map g) (hg : ∀ f, (g f).frame = f.frame) (frame : Nat) :
    (s.setCluster n k).stashOf frame = s.stashOf frame ∨
      ∃ f, s.stashOf frame = some (n, f) ∧ (s.setCluster n k).stashOf frame = some (n, g f) := by
  have hfind : k.stash.find? (fun f => f.frame = frame) =
      ((s.cluster n).stash.find? fun f => f.frame = frame).map g := by
    simp only [hk, List.find?_map, Function.comp_def, hg]
  have hset := nmap_findSome_set (k := n) (v := k) (g := fun x : Nat × Cluster =>
    (x.2.stash.find? fun f => f.frame = frame).map fun f => (x.1, f)) s.clusters ?new ?old
  case new =>
    intro hnone
    dsimp only
    rw [hfind, State.cluster, NMap.getD, hnone]
    rfl
  case old =>
    intro u hu
    dsimp only
    rw [hfind, State.cluster, NMap.getD, hu, Option.getD_some, Option.isSome_map, Option.isSome_map, Option.isSome_map]
  rcases hset with hsame | ⟨u, hu, hbefore, hafter⟩
  · exact .inl hsame
  · have hcluster : s.cluster n = u := by rw [State.cluster, NMap.getD, hu, Option.getD_some]
    dsimp only at hbefore hafter
    rw [hfind, hcluster] at hafter
    cases hf : u.stash.find? fun f => f.frame = frame with
    | none => exact .inl (hafter.trans (by rw [hf]; exact (hbefore.trans (by rw [hf]; rfl)).symm))
    | some f =>
      rw [hf] at hbefore hafter
      exact .inr ⟨f, hbefore, hafter⟩

/-- A cluster that shows the same is read alike. -/
theorem State.sight_setCluster (s : State) (n : Nat) {k : Cluster} (h : k.sight = (s.cluster n).sight) :
    (s.setCluster n k).sight = s.sight := by
  have hclusters : (fun c => ((s.setCluster n k).cluster c).sight) = fun c => (s.cluster c).sight := by
    funext c
    by_cases hc : c = n
    · rw [hc, State.cluster_setCluster, h]
    · rw [s.cluster_setCluster_other hc]
  have hstash : k.stash = (s.cluster n).stash.map id := (congrArg Cluster.Sight.stash h).trans (List.map_id _).symm
  have hstashOf : (s.setCluster n k).stashOf = s.stashOf := by
    funext frame
    rcases s.stashOf_setCluster n hstash (fun _ => rfl) frame with hsame | ⟨f, hbefore, hafter⟩
    · exact hsame
    · exact hafter.trans hbefore.symm
  change { s.sight with clusters := fun c => ((s.setCluster n k).cluster c).sight,
                        stashOf := (s.setCluster n k).stashOf } = s.sight
  rw [hclusters, hstashOf]
  rfl

theorem State.sight_hold (s : State) (cl ctx va : Nat) : (s.hold cl ctx va).sight = s.sight := by
  unfold State.hold
  split
  · rfl
  · exact (State.holdShared_keeps State.sight (fun _ _ => rfl) _ _ _ _).trans (s.sight_setCluster cl rfl)

theorem State.sight_holdPieces (s : State) (ps : List (Nat × Piece)) : (s.holdPieces ps).sight = s.sight :=
  List.foldlRecOn (motive := fun t => State.sight t = s.sight) _ _ rfl fun t ht _ _ => (t.sight_hold _ _ _).trans ht

end Sys2Proof.Machine
end

section
/-! PROOF. Writing a piece at once (12 R229, R231, R247; 17 R326): what it changes of what the machine shows, and which reads at once
then read as before. -/

namespace Sys2Proof.Machine

/-! What a write changes of what the machine shows. -/

/-- The team's shared memory with bytes written. -/
def State.sharedSet (s : State) (off : Nat) (bs : List Byte) : State :=
  match NMap.get? s.teams (s.cur.team.getD 0) with
  | none => s
  | some t => { s with teams := NMap.set s.teams (s.cur.team.getD 0) { t with shared := t.shared.puts off bs } }

theorem State.sight_sharedPut (s : State) (off : Nat) (bs : List Byte) :
    (s.sharedPut off bs).sight = (s.sharedSet off bs).sight := by
  unfold State.sharedPut State.sharedPutAt State.sharedSet
  cases NMap.get? s.teams (s.cur.team.getD 0) with
  | none => rfl
  | some t => exact State.sight_notifyRange _ _ _ _

/-- A frame of a stash after a write of a team into a frame. -/
def StashFrame.put (team : Option Nat) (pa : Nat) (bs : List Byte) (f : StashFrame) : StashFrame :=
  if team == some f.team && f.frame == pa / 256 then f.puts pa bs else f

/-- The stash of the wave's cluster with bytes written. -/
def State.stashSet (s : State) (pa : Nat) (bs : List Byte) : State :=
  s.setCluster s.cur.cluster { s.cluster s.cur.cluster with
    stash := (s.cluster s.cur.cluster).stash.map (StashFrame.put s.cur.team pa bs) }

theorem State.sight_stashPut_of_poisoned {s : State} {pa : Nat} {bs : List Byte} (h : s.poisonedIn pa bs.length = true) :
    (s.stashPut pa bs).sight = s.sight := by
  unfold State.stashPut
  rw [h]
  rfl

/-- Writing a cluster shows the same in states that show the same and have the same clusters. -/
theorem State.sight_setCluster_congr {s r : State} (h : r.sight = s.sight) (hclusters : r.clusters = s.clusters) (n : Nat)
    (k : Cluster) : (r.setCluster n k).sight = (s.setCluster n k).sight := by
  have hkept c : (r.setCluster n k).cluster c = (s.setCluster n k).cluster c := by
    simp only [State.cluster, State.setCluster, hclusters]
  have hstashOf : (r.setCluster n k).stashOf = (s.setCluster n k).stashOf := by
    funext frame
    simp only [State.stashOf, State.setCluster, hclusters]
  change { r.sight with clusters := fun c => ((r.setCluster n k).cluster c).sight,
                        stashOf := (r.setCluster n k).stashOf } = _
  rw [h, hstashOf]
  simp only [hkept]
  rfl

theorem State.sight_stashPut_of_sound {s : State} {pa : Nat} {bs : List Byte} (h : s.poisonedIn pa bs.length = false) :
    (s.stashPut pa bs).sight = (s.stashSet pa bs).sight := by
  have hclusters : (s.doom (.wave s.cur.id) (pa / 64) true).clusters = s.clusters :=
    State.foldl_postOnce_keeps State.clusters State.postOnce_clusters id _ _
  have hteam : (s.doom (.wave s.cur.id) (pa / 64) true).cur.team = s.cur.team :=
    State.curTeam_of_sight (s.sight_doom _ _ _)
  have hcluster : (s.doom (.wave s.cur.id) (pa / 64) true).cur.cluster = s.cur.cluster :=
    State.curCluster_of_sight (s.sight_doom _ _ _)
  unfold State.stashPut State.stashSet
  simp only [h, Bool.false_eq_true, if_false, hteam, hcluster]
  exact (State.sight_notifyRange _ _ _ _).trans (State.sight_setCluster_congr (s.sight_doom _ _ _) hclusters _ _)

/-- The entry of the store queue that a store of the issuing thread takes. -/
def State.storeEntry (s : State) (t : Target) (pa va : Nat) (bs : List Byte) : QEntry :=
  { id := s.nextId, wave := s.cur.id, who := s.who, own := s.thread.mask, time := s.sys.pts, target := t, pa := pa, va := some va,
    op := .store bs false, sent := false, reply := none }

/-- The blocks of an L1 after a store to a target. -/
def storedBlocks (t : Target) (pa : Nat) (bs : List Byte) (blocks : List Block) : List Block :=
  match t with
  | .device => blocks.map fun b => b.store pa bs
  | _ => blocks

/-- The L1 of the wave's cluster with a store taken. -/
def State.queueSet (s : State) (t : Target) (pa va : Nat) (bs : List Byte) : State :=
  s.setCluster s.cur.cluster { s.cluster s.cur.cluster with
    queue := (s.cluster s.cur.cluster).queue ++ [s.storeEntry t pa va bs],
    blocks := storedBlocks t pa bs (s.cluster s.cur.cluster).blocks }

theorem State.sight_enqueue (s : State) (t : Target) (pa va : Nat) (bs : List Byte) :
    (s.enqueue t pa (some va) (.store bs false) none).sight = (s.queueSet t pa va bs).sight := by
  unfold State.enqueue
  refine (State.sendQueue_keeps State.sight_postOnce _ _).trans ?_
  cases t <;> rfl

/-- What writing a piece changes: nothing else of what the machine shows. -/
def State.written (s : State) (p : Piece) (bs : List Byte) : State :=
  match p.spot with
  | .shared => s.sharedSet p.pa bs
  | .stash => if s.poisonedIn p.pa bs.length then s else s.stashSet p.pa bs
  | .priv t => s.privPut t p.pa bs
  | .home t => s.queueSet t p.pa p.va bs
  | .bare _ => s

theorem State.sight_writePiece {s : State} {p : Piece} (h : ∀ t, p.spot ≠ .bare t) (bs : List Byte) :
    (s.writePiece p bs).sight = (s.written p bs).sight := by
  unfold State.writePiece State.written
  cases hs : p.spot with
  | home t => exact s.sight_enqueue t p.pa p.va bs
  | bare t => exact absurd hs (h t)
  | stash =>
    dsimp only
    split
    next hpoison => exact State.sight_stashPut_of_poisoned hpoison
    next hpoison => exact State.sight_stashPut_of_sound (Bool.eq_false_iff.2 hpoison)
  | shared => exact s.sight_sharedPut p.pa bs
  | priv t => rfl

end Sys2Proof.Machine
end

section
/-! PROOF. Reads at once beside a write (12 R229, R231, R247; 17 R326): a piece that is apart from what is written reads as before. -/

namespace Sys2Proof.Machine

/-! Shared memory (12 R229). -/

theorem State.sharedGet_sharedSet_outside (s : State) {off a n : Nat} {bs : List Byte} (h : off + bs.length ≤ a ∨ a + n ≤ off) :
    (s.sharedSet off bs).sharedGet a n = s.sharedGet a n := by
  unfold State.sharedSet
  split
  · rfl
  next t ht =>
    unfold State.sharedGet State.teamOf
    dsimp only
    cases hteam : s.cur.team with
    | none => rfl
    | some k =>
      rw [hteam] at ht
      simp only [Option.getD_some] at ht ⊢
      rw [Option.bind_some, Option.bind_some, nmap_get_set, ht]
      refine List.map_congr_left fun i hi => ?_
      rw [get_puts_outside _ _ _ _ (by have := List.mem_range.1 hi; omega)]

theorem State.sharedGet_sharedSet_same {s : State} (hm : s.memoriesOk) (hteam : (s.teamOf s.cur).isSome = true) (off : Nat)
    (bs : List Byte) : (s.sharedSet off bs).sharedGet off bs.length = bs := by
  obtain ⟨t, ht⟩ := Option.isSome_iff_exists.1 hteam
  obtain ⟨k, hk, hget⟩ := Option.bind_eq_some_iff.1 ht
  have hset : s.sharedSet off bs = { s with teams := NMap.set s.teams k { t with shared := t.shared.puts off bs } } := by
    unfold State.sharedSet
    rw [hk, Option.getD_some, hget]
  rw [hset]
  unfold State.sharedGet State.teamOf
  dsimp only
  rw [hk, Option.bind_some, nmap_get_set]
  refine List.ext_getElem (by simp [Memory.gets]) fun i hi _ => ?_
  simp only [Option.map_some, Option.getD_some, Memory.gets, List.getElem_map, List.getElem_range]
  rw [get_puts_inside bs _ _ _ (hm.team hget) (by simpa using ‹i < bs.length›), List.getD_eq_getElem?_getD,
    List.getElem?_eq_getElem ‹_›, Option.getD_some]

/-- A write of shared memory is seen by reads of shared memory alone. -/
theorem State.pieceBytes_sharedSet (s : State) {off : Nat} {bs : List Byte} {q : Piece}
    (h : q.spot = .shared → off + bs.length ≤ q.pa ∨ q.pa + q.n ≤ off) :
    (s.sharedSet off bs).pieceBytes q = s.pieceBytes q := by
  by_cases hq : q.spot = .shared
  · unfold State.pieceBytes
    rw [hq]
    exact congrArg some (s.sharedGet_sharedSet_outside (h hq))
  · unfold State.sharedSet
    split
    · rfl
    · unfold State.pieceBytes
      obtain ⟨spot, pa, at_, n, va⟩ := q
      dsimp only at hq ⊢
      cases spot with
      | shared => exact absurd rfl hq
      | home t => cases t <;> rfl
      | bare t => cases t <;> rfl
      | stash => rfl
      | priv t => rfl

/-! Stashes (12 R246, R247). -/

theorem StashFrame.frame_puts (bs : List Byte) : ∀ (f : StashFrame) (pa : Nat), (f.puts pa bs).frame = f.frame := by
  induction bs with
  | nil => intros; rfl
  | cons b rest ih => intro f pa; rw [StashFrame.puts, ih]

theorem StashFrame.team_puts (bs : List Byte) : ∀ (f : StashFrame) (pa : Nat), (f.puts pa bs).team = f.team := by
  induction bs with
  | nil => intros; rfl
  | cons b rest ih => intro f pa; rw [StashFrame.puts, ih]

/-- The byte of a frame at an address. -/
def StashFrame.byte (f : StashFrame) (a : Nat) : Byte := BitVec.ofNat 8 (elem 8 (f.words.getD (a / 8 % 32) 0) (a % 8))

/-- A write within a frame leaves its other bytes. -/
theorem StashFrame.byte_puts_outside (bs : List Byte) {a : Nat} : ∀ (f : StashFrame) (pa : Nat),
    (∀ i < bs.length, (pa + i) / 256 = a / 256 ∧ pa + i ≠ a) → (f.puts pa bs).byte a = f.byte a := by
  induction bs with
  | nil => intros; rfl
  | cons b rest ih =>
    intro f pa h
    have hhead := h 0 (Nat.zero_lt_succ _)
    rw [StashFrame.puts, ih _ _ fun i hi => by
      have := h (i + 1) (Nat.succ_lt_succ hi)
      rwa [show pa + 1 + i = pa + (i + 1) by omega]]
    exact congrArg _ (elem_getD_set_other (Nat.mod_lt _ (by decide)) (by omega))

/-- A write within a frame makes no other word of it dirty. -/
theorem StashFrame.dirty_puts_outside (bs : List Byte) {a : Nat} : ∀ (f : StashFrame) (pa : Nat),
    (∀ i < bs.length, (pa + i) / 256 = a / 256 ∧ (pa + i) / 8 ≠ a / 8) →
    (f.puts pa bs).dirty.getLsbD (a / 8 % 32) = f.dirty.getLsbD (a / 8 % 32) := by
  induction bs with
  | nil => intros; rfl
  | cons b rest ih =>
    intro f pa h
    have hhead := h 0 (Nat.zero_lt_succ _)
    rw [StashFrame.puts, ih _ _ fun i hi => by
      have := h (i + 1) (Nat.succ_lt_succ hi)
      rwa [show pa + 1 + i = pa + (i + 1) by omega]]
    have hlane : (Mask.lane (pa / 8 % 32)).getLsbD (a / 8 % 32) = false := by
      rw [Mask.lane, BitVec.getLsbD_ofNat, Nat.testBit_two_pow_of_ne (by omega), Bool.and_false]
    rw [BitVec.getLsbD_or, hlane, Bool.or_false]

section
variable {team : Option Nat} {pa a : Nat} {bs : List Byte} {f : StashFrame} (hfit : pa % 256 + bs.length ≤ 256)

theorem StashFrame.frame_put (team : Option Nat) (pa : Nat) (bs : List Byte) (f : StashFrame) :
    (f.put team pa bs).frame = f.frame := by
  unfold StashFrame.put
  split
  · exact f.frame_puts bs pa
  · rfl

theorem StashFrame.team_put (team : Option Nat) (pa : Nat) (bs : List Byte) (f : StashFrame) :
    (f.put team pa bs).team = f.team := by
  unfold StashFrame.put
  split
  · exact f.team_puts bs pa
  · rfl

include hfit

theorem StashFrame.byte_put_outside (hframe : f.frame = a / 256) (h : a < pa ∨ pa + bs.length ≤ a) :
    (f.put team pa bs).byte a = f.byte a := by
  unfold StashFrame.put
  split
  next hput =>
    simp only [Bool.and_eq_true, beq_iff_eq] at hput
    exact f.byte_puts_outside bs pa fun i hi => by omega
  · rfl

theorem StashFrame.dirty_put_outside (hframe : f.frame = a / 256) (h : a < pa / 8 * 8 ∨ (pa + bs.length + 7) / 8 * 8 ≤ a) :
    (f.put team pa bs).dirty.getLsbD (a / 8 % 32) = f.dirty.getLsbD (a / 8 % 32) := by
  unfold StashFrame.put
  split
  next hput =>
    simp only [Bool.and_eq_true, beq_iff_eq] at hput
    exact f.dirty_puts_outside bs pa fun i hi => by omega
  · rfl

end

theorem State.frame_of_stashOf {s : State} {frame c : Nat} {f : StashFrame} (h : s.stashOf frame = some (c, f)) :
    f.frame = frame := by
  obtain ⟨x, -, hx⟩ := List.exists_of_findSome?_eq_some h
  obtain ⟨g, hg, heq⟩ := Option.map_eq_some_iff.1 hx
  obtain ⟨-, rfl⟩ := Prod.mk.inj heq
  simpa using List.find?_some hg

/-! What reads past the stashes and the L1 depend on. -/

/-- The byte of the wave's private memory at an address: of a word that the wave holds, or the home's with the wave's own queued
stores (12 R231). -/
def State.privByte (s : State) (t : Target) (a : Nat) : Byte :=
  match NMap.get? s.cur.priv (wordKey t a) with
  | some (w, _) => BitVec.ofNat 8 (elem 8 w (a % 8))
  | none => (queuedByte ((s.cluster s.cur.cluster).queue.filter fun q => q.wave == s.cur.id) t a).getD (s.homeByte t a)

theorem State.byte_privWord (s : State) (t : Target) (a : Nat) :
    BitVec.ofNat 8 (elem 8 (s.privWord t a) (a % 8)) = s.privByte t a := by
  unfold State.privWord State.privByte
  cases NMap.get? s.cur.priv (wordKey t a) with
  | some x => rfl
  | none =>
    have ha : a / 8 * 8 + a % 8 = a := Nat.div_add_mod' a 8
    have hlt : a % 8 < 8 := Nat.mod_lt _ (by decide)
    simp only [byte_w64_ofBytes _ hlt]
    rw [List.getD_eq_getElem?_getD, List.getElem?_map, List.getElem?_range hlt, Option.map_some, Option.getD_some, ha]

theorem State.privGet_eq (s : State) (t : Target) (pa n : Nat) :
    s.privGet t pa n = (List.range n).map fun i => s.privByte t (pa + i) :=
  List.map_congr_left fun i _ => s.byte_privWord t (pa + i)

section
variable {s r : State}

/-- A read of private memory depends on its bytes. -/
theorem State.privGet_congr {t : Target} {pa n : Nat} (h : ∀ a, pa ≤ a → a < pa + n → r.privByte t a = s.privByte t a) :
    r.privGet t pa n = s.privGet t pa n := by
  rw [State.privGet_eq, State.privGet_eq]
  refine List.map_congr_left fun i hi => h _ (by omega) ?_
  have := List.mem_range.1 hi
  omega

/-- A read of device memory at its home depends on its bytes there, over what waves hold of them. -/
theorem State.physRead_device_congr {pa n : Nat} (hpoison : r.poison = s.poison)
    (h : ∀ a, pa ≤ a → a < pa + n → r.seen a = s.seen a) : r.physRead .device pa n = s.physRead .device pa n := by
  have hbytes : r.seenBytes pa n = s.seenBytes pa n := List.map_congr_left fun i hi => h _ (by omega) (by
    have := List.mem_range.1 hi
    omega)
  rw [State.physRead, State.physRead, State.poisonedIn, State.poisonedIn, hpoison, hbytes]

/-- A read of host or peer memory depends on its bytes there, over what waves hold of them. -/
theorem State.physRead_out_congr {t : Target} {pa n : Nat} (ht : t ≠ .device) (hout : r.outBytes t pa n = s.outBytes t pa n)
    (h : ∀ a b, pa ≤ a → a < pa + n → r.overHome t a b = s.overHome t a b) : r.physRead t pa n = s.physRead t pa n := by
  have hover : (((List.range n).zip (s.outBytes t pa n)).map fun x => r.overHome t (pa + x.1) x.2) =
      ((List.range n).zip (s.outBytes t pa n)).map fun x => s.overHome t (pa + x.1) x.2 := by
    refine List.map_congr_left fun x hx => h _ _ (by omega) ?_
    have := List.mem_range.1 (List.of_mem_zip hx).1
    omega
  cases t with
  | device => exact absurd rfl ht
  | host c => rw [State.physRead, State.physRead, hout]; exact congrArg _ hover; all_goals exact nofun
  | peer k => rw [State.physRead, State.physRead, hout]; exact congrArg _ hover; all_goals exact nofun

end

end Sys2Proof.Machine
end

section
/-! PROOF. Reads at once beside a write to a stash (12 R246, R247): a piece that is apart from what is written reads as before. -/

namespace Sys2Proof.Machine

/-- A part of the clusters that a write of one of them leaves is as before. -/
theorem State.part_setCluster {α : Type} (part : Cluster → α) (s : State) {n : Nat} {k : Cluster}
    (h : part k = part (s.cluster n)) (c : Nat) : part ((s.setCluster n k).cluster c) = part (s.cluster c) := by
  by_cases hc : c = n
  · rw [hc, State.cluster_setCluster, h]
  · rw [s.cluster_setCluster_other hc]

section
variable (s : State) {pa : Nat} {bs : List Byte}

theorem State.queue_stashSet (c : Nat) : ((s.stashSet pa bs).cluster c).queue = (s.cluster c).queue :=
  State.part_setCluster Cluster.queue s (by rfl) c

theorem State.blocks_stashSet (c : Nat) : ((s.stashSet pa bs).cluster c).blocks = (s.cluster c).blocks :=
  State.part_setCluster Cluster.blocks s (by rfl) c

theorem State.l1Bytes_stashSet (t : BitVec 16) (a n : Nat) : (s.stashSet pa bs).l1Bytes t a n = s.l1Bytes t a n := by
  have hcur : (s.stashSet pa bs).cur = s.cur := rfl
  have hlive (b : Block) : (s.stashSet pa bs).blockLive t b = s.blockLive t b := rfl
  simp only [State.l1Bytes, Cluster.covering, hcur, hlive, s.queue_stashSet, s.blocks_stashSet]

variable (hfit : pa % 256 + bs.length ≤ 256)
include hfit

theorem State.atHome_stashSet {a : Nat} (h : a < pa / 8 * 8 ∨ (pa + bs.length + 7) / 8 * 8 ≤ a) :
    (s.stashSet pa bs).atHome a = s.atHome a := by
  have hmem : (s.stashSet pa bs).mem = s.mem := rfl
  have hput := s.stashOf_setCluster s.cur.cluster (g := StashFrame.put s.cur.team pa bs)
    (k := { s.cluster s.cur.cluster with
      stash := (s.cluster s.cur.cluster).stash.map (StashFrame.put s.cur.team pa bs) }) rfl
    (fun f => f.frame_put _ _ _) (a / 256)
  unfold State.atHome
  rcases hput with hsame | ⟨f, hbefore, hafter⟩
  · rw [show (s.stashSet pa bs).stashOf (a / 256) = s.stashOf (a / 256) from hsame, hmem]
  · have hframe : f.frame = a / 256 := State.frame_of_stashOf hbefore
    have hbyte := f.byte_put_outside (team := s.cur.team) hfit hframe (by omega)
    unfold StashFrame.byte at hbyte
    rw [show (s.stashSet pa bs).stashOf (a / 256) = _ from hafter, hbefore]
    dsimp only
    rw [f.dirty_put_outside hfit hframe h, hbyte, hmem]

theorem State.stashFrame_stashSet {a n : Nat} (hn : a % 256 + n ≤ 256) (h : pa + bs.length ≤ a ∨ a + n ≤ pa) :
    ((s.stashSet pa bs).stashFrame a).map (fun f => f.gets a n) = (s.stashFrame a).map fun f => f.gets a n := by
  have hfind : (s.stashSet pa bs).stashFrame a = (s.stashFrame a).map (StashFrame.put s.cur.team pa bs) := by
    have hcur : (s.stashSet pa bs).cur = s.cur := rfl
    unfold State.stashFrame
    rw [hcur, State.stashSet, State.cluster_setCluster, List.find?_map]
    simp only [Function.comp_def, StashFrame.frame_put, StashFrame.team_put]
  rw [hfind, Option.map_map]
  refine Option.map_congr fun f hf => List.map_congr_left fun i hi => ?_
  have hi := List.mem_range.1 hi
  have hframe : f.frame = a / 256 := by
    have := List.find?_some hf
    simp only [Bool.and_eq_true, beq_iff_eq] at this
    exact this.2
  exact f.byte_put_outside hfit (a := a + i) (by omega) (by omega)

/-- A write to the stash is seen by reads of its bytes there, and of its words in device memory past the L1, alone. -/
theorem State.pieceBytes_stashSet {q : Piece} (hq : q.placed)
    (hstash : q.spot = .stash → pa + bs.length ≤ q.pa ∨ q.pa + q.n ≤ pa)
    (hdevice : q.spot = .priv .device ∨ q.spot = .bare .device →
      (pa + bs.length + 7) / 8 * 8 ≤ q.pa ∨ q.pa + q.n ≤ pa / 8 * 8) :
    (s.stashSet pa bs).pieceBytes q = s.pieceBytes q := by
  obtain ⟨-, -, hframe⟩ := hq
  have hcur : (s.stashSet pa bs).cur = s.cur := rfl
  have hsys : (s.stashSet pa bs).sys = s.sys := rfl
  obtain ⟨spot, a, at_, n, va⟩ := q
  dsimp only at hstash hdevice hframe
  unfold State.pieceBytes
  cases spot with
  | shared => rfl
  | stash => exact s.stashFrame_stashSet hfit (hframe rfl) (hstash rfl)
  | priv t =>
    dsimp only
    refine congrArg some (State.privGet_congr fun b hlo hhi => ?_)
    unfold State.privByte
    rw [hcur, s.queue_stashSet]
    have hhome : (s.stashSet pa bs).homeByte t b = s.homeByte t b := by
      cases t with
      | device =>
        have := hdevice (.inl rfl)
        exact s.atHome_stashSet hfit (by omega)
      | host c => rfl
      | peer k => rfl
    rw [hhome]
  | home t =>
    cases t with
    | device => exact (congrArg (State.l1Bytes _ · a n) (congrArg ThreadSys.pts hsys)).trans (s.l1Bytes_stashSet _ _ _)
    | host c => dsimp only; rw [hcur, s.queue_stashSet]; rfl
    | peer k => dsimp only; rw [hcur, s.queue_stashSet]; rfl
  | bare t =>
    dsimp only
    refine congrArg Except.toOption ?_
    cases t with
    | device =>
      refine State.physRead_device_congr rfl fun b hlo hhi => ?_
      have := hdevice (.inr rfl)
      rw [State.seen, State.seen, s.atHome_stashSet hfit (by omega)]
      rfl
    | host c => rfl
    | peer k => rfl

end

end Sys2Proof.Machine
end

section
/-! PROOF. Reads at once beside a write to private memory (12 R231) or past the L1 (17 R326): a piece that is apart from what is
written reads as before. -/

namespace Sys2Proof.Machine

/-! Private memory. -/

theorem wordKey_eq_iff {t u : Target} {a b : Nat} (ht : t.memory < 31) (hu : u.memory < 31) :
    wordKey t a = wordKey u b ↔ t.memory = u.memory ∧ a / 8 = b / 8 := by
  unfold wordKey
  omega

section
variable (s : State) {t : Target} {pa : Nat} {bs : List Byte}

theorem State.privWord_congr {a b : Nat} (h : a / 8 = b / 8) : s.privWord t a = s.privWord t b := by
  simp only [State.privWord, wordKey, h]

theorem State.privAt_privPut {key : Nat} (h : key ≠ wordKey t pa) : (s.privPut t pa bs).privAt key = s.privAt key := by
  have hget := nmap_get_set_other s.cur.priv _ _ (placeBytes (s.privWord t pa) (pa % 8) bs, true) h
  have hstage : (s.privPut t pa bs).cur.stage = s.cur.stage := rfl
  have hwaves : (s.privPut t pa bs).waves = s.waves := rfl
  have hpriv : (s.privPut t pa bs).cur.priv =
    NMap.set s.cur.priv (wordKey t pa) (placeBytes (s.privWord t pa) (pa % 8) bs, true) := rfl
  unfold State.privAt State.allWaves
  rw [hstage, hwaves]
  split
  · rfl
  · simp only [List.findSome?_append, List.findSome?_cons, List.findSome?_nil, hpriv, hget]

/-- The bytes of another word are as before. -/
theorem State.privByte_privPut_other {u : Target} {a : Nat} (h : wordKey u a ≠ wordKey t pa) :
    (s.privPut t pa bs).privByte u a = s.privByte u a := by
  have hpriv : (s.privPut t pa bs).cur.priv =
    NMap.set s.cur.priv (wordKey t pa) (placeBytes (s.privWord t pa) (pa % 8) bs, true) := rfl
  unfold State.privByte
  rw [hpriv, nmap_get_set_other _ _ _ _ h]
  cases u <;> rfl

theorem State.privByte_privPut_same {a : Nat} (h : a / 8 = pa / 8) :
    (s.privPut t pa bs).privByte t a = BitVec.ofNat 8 (elem 8 (placeBytes (s.privWord t pa) (pa % 8) bs) (a % 8)) := by
  have hpriv : (s.privPut t pa bs).cur.priv =
    NMap.set s.cur.priv (wordKey t pa) (placeBytes (s.privWord t pa) (pa % 8) bs, true) := rfl
  have hkey : wordKey t a = wordKey t pa := by rw [wordKey, wordKey, h]
  unfold State.privByte
  rw [hpriv, hkey, nmap_get_set]

/-- The bytes beside those written are as before. -/
theorem State.privByte_privPut_outside {a : Nat} (h : a < pa ∨ pa + bs.length ≤ a) :
    (s.privPut t pa bs).privByte t a = s.privByte t a := by
  by_cases hword : a / 8 = pa / 8
  · rw [s.privByte_privPut_same hword, elem_placeBytes_outside bs (Nat.mod_lt _ (by decide)) _ _ (by omega),
      ← s.privWord_congr hword, State.byte_privWord]
  · exact s.privByte_privPut_other (by unfold wordKey; omega)

theorem State.privByte_privPut_inside {i : Nat} (hi : i < bs.length) (h : pa % 8 + bs.length ≤ 8) :
    (s.privPut t pa bs).privByte t (pa + i) = bs.getD i 0 := by
  rw [s.privByte_privPut_same (by omega), show (pa + i) % 8 = pa % 8 + i by omega,
    elem_placeBytes_inside bs _ _ _ hi (by omega), BitVec.ofNat_toNat, BitVec.setWidth_eq]

/-- A write of private memory is seen by reads of its bytes there, and of its word in another way than through the L1, alone. -/
theorem State.pieceBytes_privPut {q : Piece} {n : Nat} (hlen : bs.length ≤ n) (hn : 0 < n) (hq : q.placed) (ht : t.memory < 31)
    (hsame : q.spot = .priv t → pa + n ≤ q.pa ∨ q.pa + q.n ≤ pa)
    (hother : q.spot.memory = some t.memory → q.spot ≠ .priv t → q.spot ≠ .home .device →
      (pa + n + 7) / 8 * 8 ≤ q.pa ∨ q.pa + q.n ≤ pa / 8 * 8) :
    (s.privPut t pa bs).pieceBytes q = s.pieceBytes q := by
  obtain ⟨-, hmem, -⟩ := hq
  obtain ⟨spot, a, at_, m, va⟩ := q
  dsimp only at hsame hother hmem
  have hkey (u : Target) (hu : spot.memory = some u.memory) (hne : spot ≠ .priv t) (hl1 : spot ≠ .home .device) (b : Nat)
      (hlo : a ≤ b) (hhi : b < a + m) : wordKey u b ≠ wordKey t pa := by
    rw [Ne, wordKey_eq_iff (hmem _ hu) ht]
    rintro ⟨heq, hword⟩
    have := hother (heq ▸ hu) hne hl1
    omega
  have hover (u : Target) (hu : spot.memory = some u.memory) (hne : spot ≠ .priv t) (hl1 : spot ≠ .home .device) (b : Nat)
      (x : Byte) (hlo : a ≤ b) (hhi : b < a + m) : (s.privPut t pa bs).overHome u b x = s.overHome u b x := by
    have hfresh : (s.privPut t pa bs).fresh = s.fresh := rfl
    unfold State.overHome
    rw [s.privAt_privPut (hkey u hu hne hl1 b hlo hhi), hfresh]
  have hread (u : Target) (hu : spot.memory = some u.memory) (hne : spot ≠ .priv t) (hl1 : spot ≠ .home .device) :
      (s.privPut t pa bs).physRead u a m = s.physRead u a m := by
    cases u with
    | device => exact State.physRead_device_congr rfl fun b hlo hhi => hover _ hu hne hl1 b _ hlo hhi
    | host c => exact State.physRead_out_congr nofun rfl fun b x hlo hhi => hover _ hu hne hl1 b x hlo hhi
    | peer k => exact State.physRead_out_congr nofun rfl fun b x hlo hhi => hover _ hu hne hl1 b x hlo hhi
  unfold State.pieceBytes
  cases spot with
  | shared => rfl
  | stash => rfl
  | priv u =>
    dsimp only
    refine congrArg some (State.privGet_congr fun b hlo hhi => ?_)
    by_cases hu : u = t
    · subst hu
      have := hsame rfl
      exact s.privByte_privPut_outside (by omega)
    · exact s.privByte_privPut_other (hkey u rfl (fun h => hu (Spot.priv.inj h)) nofun b hlo hhi)
  | bare u =>
    dsimp only
    rw [hread u rfl nofun nofun]
  | home u =>
    cases u with
    | device => rfl
    | host c =>
      dsimp only
      rw [hread _ rfl nofun nofun]
      rfl
    | peer k =>
      dsimp only
      rw [hread _ rfl nofun nofun]
      rfl

end

/-! The L1 and its store queue. -/

/-- The bytes that a store adds to a queue are the last. -/
theorem queuedByte_append_store (queue : List QEntry) {e : QEntry} {bs : List Byte} {x : Bool} (he : e.op = .store bs x)
    (t : Target) (a : Nat) : queuedByte (queue ++ [e]) t a =
      if e.target = t ∧ e.pa ≤ a ∧ a < e.pa + bs.length then bs[a - e.pa]? else queuedByte queue t a := by
  simp only [queuedByte, List.foldl_append, List.foldl_cons, List.foldl_nil, he, Bool.and_eq_true, beq_iff_eq,
    decide_eq_true_eq, and_assoc]

theorem atomQueued_append_store (queue : List QEntry) {e : QEntry} {bs : List Byte} {x : Bool} (he : e.op = .store bs x)
    (t : Target) (a n : Nat) : atomQueued (queue ++ [e]) t a n = atomQueued queue t a n := by
  simp [atomQueued, he]

/-- A store to a block changes bytes of its words alone, and of these those it writes. -/
theorem Block.store_eq (bs : List Byte) : ∀ (b : Block) (pa : Nat),
    ∃ ws, b.store pa bs = { b with words := ws } ∧ ws.length = b.words.length ∧
      ∀ a, a / 256 = b.frame → b.first ≤ a / 8 % 32 → (a < pa ∨ pa + bs.length ≤ a) →
        elem 8 (ws.getD (a / 8 % 32 - b.first) 0) (a % 8) = elem 8 (b.words.getD (a / 8 % 32 - b.first) 0) (a % 8) := by
  induction bs with
  | nil => exact fun b pa => ⟨b.words, rfl, rfl, fun _ _ _ _ => rfl⟩
  | cons x rest ih =>
    intro b pa
    unfold Block.store
    dsimp only
    split
    next hin =>
      obtain ⟨hframe, hfirst, -⟩ := hin
      obtain ⟨ws, heq, hlen, hbytes⟩ := ih { b with
        words := b.words.set (pa / 8 % 32 - b.first) (setElem 8 (b.words.getD (pa / 8 % 32 - b.first) 0) (pa % 8) x.toNat) }
        (pa + 1)
      refine ⟨ws, heq, by simpa using hlen, fun a haframe hafirst ha => ?_⟩
      rw [List.length_cons] at ha
      have hother : a / 8 % 32 - b.first ≠ pa / 8 % 32 - b.first ∨ a % 8 ≠ pa % 8 := by omega
      rw [hbytes a haframe hafirst (by omega)]
      exact elem_getD_set_other (Nat.mod_lt _ (by decide)) hother
    next =>
      obtain ⟨ws, heq, hlen, hbytes⟩ := ih b (pa + 1)
      refine ⟨ws, heq, hlen, fun a haframe hafirst ha => hbytes a haframe hafirst ?_⟩
      rw [List.length_cons] at ha
      omega

theorem mapM_option_congr {α β : Type} {f g : α → Option β} {l : List α} (h : ∀ x ∈ l, f x = g x) : l.mapM f = l.mapM g := by
  induction l with
  | nil => rfl
  | cons x rest ih =>
    rw [List.mapM_cons, List.mapM_cons, h x List.mem_cons_self, ih fun y hy => h y (List.mem_cons_of_mem x hy)]

section
variable (s : State) {t : Target} {pa va : Nat} {bs : List Byte}

theorem State.stash_queueSet (c : Nat) : ((s.queueSet t pa va bs).cluster c).stash = (s.cluster c).stash :=
  State.part_setCluster Cluster.stash s (by rfl) c

theorem State.queue_queueSet : ((s.queueSet t pa va bs).cluster s.cur.cluster).queue =
    (s.cluster s.cur.cluster).queue ++ [s.storeEntry t pa va bs] := by
  rw [State.queueSet, State.cluster_setCluster]

theorem State.blocks_queueSet : ((s.queueSet t pa va bs).cluster s.cur.cluster).blocks =
    storedBlocks t pa bs (s.cluster s.cur.cluster).blocks := by
  rw [State.queueSet, State.cluster_setCluster]

theorem State.stashOf_queueSet (frame : Nat) : (s.queueSet t pa va bs).stashOf frame = s.stashOf frame := by
  rcases s.stashOf_setCluster s.cur.cluster (g := id)
    (k := { s.cluster s.cur.cluster with
      queue := (s.cluster s.cur.cluster).queue ++ [s.storeEntry t pa va bs],
      blocks := storedBlocks t pa bs (s.cluster s.cur.cluster).blocks }) (List.map_id _).symm (fun _ => rfl) frame
    with hsame | ⟨f, hbefore, hafter⟩
  · exact hsame
  · exact hafter.trans hbefore.symm

theorem State.atHome_queueSet (a : Nat) : (s.queueSet t pa va bs).atHome a = s.atHome a := by
  rw [State.atHome, State.atHome, s.stashOf_queueSet]
  rfl

theorem State.homeByte_queueSet (u : Target) (a : Nat) : (s.queueSet t pa va bs).homeByte u a = s.homeByte u a := by
  cases u with
  | device => exact s.atHome_queueSet a
  | host c => rfl
  | peer k => rfl

theorem State.physRead_queueSet (u : Target) (a n : Nat) : (s.queueSet t pa va bs).physRead u a n = s.physRead u a n := by
  cases u with
  | device =>
    refine State.physRead_device_congr rfl fun b _ _ => ?_
    rw [State.seen, State.seen, s.atHome_queueSet]
    rfl
  | host c => rfl
  | peer k => rfl

/-- A queued store is seen at its own bytes alone. -/
theorem queuedByte_storeEntry_outside (queue : List QEntry) {u : Target} {a : Nat} (h : u = t → a < pa ∨ pa + bs.length ≤ a) :
    queuedByte (queue ++ [s.storeEntry t pa va bs]) u a = queuedByte queue u a := by
  rw [queuedByte_append_store queue (e := s.storeEntry t pa va bs) rfl]
  refine if_neg ?_
  rintro ⟨htarget, hlo, hhi⟩
  have := h htarget.symm
  have hpa : (s.storeEntry t pa va bs).pa = pa := rfl
  omega

theorem queuedByte_storeEntry_inside (queue : List QEntry) {i : Nat} (hi : i < bs.length) :
    queuedByte (queue ++ [s.storeEntry t pa va bs]) t (pa + i) = some (bs.getD i 0) := by
  have hpa : (s.storeEntry t pa va bs).pa = pa := rfl
  rw [queuedByte_append_store queue (e := s.storeEntry t pa va bs) rfl, hpa,
    if_pos ⟨rfl, Nat.le_add_right _ _, Nat.add_lt_add_left hi _⟩, Nat.add_sub_cancel_left, List.getElem?_eq_getElem hi,
    List.getD_eq_getElem?_getD, List.getElem?_eq_getElem hi, Option.getD_some]

/-- The block that covers a word is the same after a store, and its bytes beside those stored are as before. -/
theorem covering_store {k k' : Cluster} (hk : k'.blocks = k.blocks.map fun b => b.store pa bs) {a : Nat}
    (ha : a < pa ∨ pa + bs.length ≤ a) :
    (k'.covering (a / 256) (a / 8 % 32) = none ∧ k.covering (a / 256) (a / 8 % 32) = none) ∨
      ∃ b c, k'.covering (a / 256) (a / 8 % 32) = some c ∧ k.covering (a / 256) (a / 8 % 32) = some b ∧
        (∀ u, s.blockLive u c = s.blockLive u b) ∧
        elem 8 (c.words.getD (a / 8 % 32 - c.first) 0) (a % 8) = elem 8 (b.words.getD (a / 8 % 32 - b.first) 0) (a % 8) := by
  have hfind : k'.covering (a / 256) (a / 8 % 32) =
      (k.covering (a / 256) (a / 8 % 32)).map fun b => b.store pa bs := by
    unfold Cluster.covering
    rw [hk, List.find?_map]
    congr 2
    funext b
    obtain ⟨ws, heq, hlen, -⟩ := Block.store_eq bs b pa
    simp only [Function.comp_apply, heq, hlen]
  cases hb : k.covering (a / 256) (a / 8 % 32) with
  | none => exact .inl ⟨by rw [hfind, hb]; rfl, rfl⟩
  | some b =>
    have hin := List.find?_some hb
    simp only [Bool.and_eq_true, beq_iff_eq, decide_eq_true_eq] at hin
    obtain ⟨⟨hframe, hfirst⟩, -⟩ := hin
    obtain ⟨ws, heq, -, hbytes⟩ := Block.store_eq bs b pa
    refine .inr ⟨b, { b with words := ws }, ?_, rfl, fun u => rfl, hbytes a hframe.symm hfirst ha⟩
    rw [hfind, hb, Option.map_some, heq]

theorem State.l1Bytes_queueSet (ts : BitVec 16) {a n : Nat} (h : t = .device → pa + bs.length ≤ a ∨ a + n ≤ pa) :
    (s.queueSet t pa va bs).l1Bytes ts a n = s.l1Bytes ts a n := by
  have hcur : (s.queueSet t pa va bs).cur = s.cur := rfl
  have hlive (b : Block) : (s.queueSet t pa va bs).blockLive ts b = s.blockLive ts b := rfl
  unfold State.l1Bytes
  dsimp only
  rw [hcur, s.queue_queueSet, atomQueued_append_store _ (e := s.storeEntry t pa va bs) rfl]
  split
  · rfl
  refine mapM_option_congr fun i hi => ?_
  have hi := List.mem_range.1 hi
  rw [queuedByte_storeEntry_outside s _ fun ht => by have := h ht.symm; omega]
  cases queuedByte (s.cluster s.cur.cluster).queue .device (a + i) with
  | some b => rfl
  | none =>
    dsimp only
    by_cases ht : t = .device
    · subst ht
      have := h rfl
      rcases covering_store s (k' := (s.queueSet .device pa va bs).cluster s.cur.cluster) s.blocks_queueSet (a := a + i) (by omega)
        with ⟨hafter, hbefore⟩ | ⟨b, c, hafter, hbefore, hsame, hbyte⟩
      · rw [hafter, hbefore]
      · rw [hafter, hbefore]
        simp only [hlive, hsame, hbyte]
    · have hblocks : storedBlocks t pa bs (s.cluster s.cur.cluster).blocks = (s.cluster s.cur.cluster).blocks := by
        cases t with
        | device => exact absurd rfl ht
        | host c => rfl
        | peer k => rfl
      simp only [Cluster.covering, s.blocks_queueSet, hblocks, hlive]

/-- A queued store is seen by reads of its bytes alone. -/
theorem State.pieceBytes_queueSet {q : Piece} (h : q.spot.memory = some t.memory → pa + bs.length ≤ q.pa ∨ q.pa + q.n ≤ pa) :
    (s.queueSet t pa va bs).pieceBytes q = s.pieceBytes q := by
  have hcur : (s.queueSet t pa va bs).cur = s.cur := rfl
  obtain ⟨spot, a, at_, n, va'⟩ := q
  dsimp only at h
  have hqueued (u : Target) (hu : spot.memory = some u.memory) (queue : List QEntry) (b : Nat) (hlo : a ≤ b) (hhi : b < a + n) :
      queuedByte (queue ++ [s.storeEntry t pa va bs]) u b = queuedByte queue u b :=
    queuedByte_storeEntry_outside s queue fun ht => by
      have := h (ht ▸ hu)
      omega
  unfold State.pieceBytes
  cases spot with
  | shared => rfl
  | stash => dsimp only; simp only [State.stashFrame, hcur, s.stash_queueSet]
  | bare u => dsimp only; rw [s.physRead_queueSet]
  | priv u =>
    dsimp only
    refine congrArg some (State.privGet_congr fun b hlo hhi => ?_)
    have hmine : [s.storeEntry t pa va bs].filter (fun e => e.wave == s.cur.id) = [s.storeEntry t pa va bs] :=
      List.filter_cons_of_pos (beq_self_eq_true s.cur.id)
    unfold State.privByte
    rw [hcur, s.queue_queueSet, s.homeByte_queueSet, List.filter_append, hmine,
      hqueued u rfl _ b hlo hhi]
  | home u =>
    have hsys : (s.queueSet t pa va bs).sys = s.sys := rfl
    have hgets (hu : (Spot.home u).memory = some u.memory) (base : List Byte) : ((List.range n).map fun i =>
        (queuedByte ((s.queueSet t pa va bs).cluster s.cur.cluster).queue u (a + i)).getD (base.getD i 0)) =
        (List.range n).map fun i => (queuedByte (s.cluster s.cur.cluster).queue u (a + i)).getD (base.getD i 0) := by
      refine List.map_congr_left fun i hi => ?_
      have := List.mem_range.1 hi
      rw [s.queue_queueSet, hqueued u rfl _ _ (by omega) (by omega)]
    cases u with
    | device =>
      dsimp only
      rw [hsys]
      exact s.l1Bytes_queueSet _ fun ht => h (ht ▸ rfl)
    | host c => dsimp only; rw [hcur, s.physRead_queueSet]; exact congrArg some (hgets rfl _)
    | peer k => dsimp only; rw [hcur, s.physRead_queueSet]; exact congrArg some (hgets rfl _)

end

end Sys2Proof.Machine
end

section
/-! PROOF. Stores (13 R250 to R256): the pieces of a store, what it leaves, and which bytes read as before and which read back. -/

namespace Sys2Proof.Machine

/-! Where the pieces of a store lie. -/

theorem State.globalPiece_spot {s : State} {need : Need} {spot : Target → Spot} {at_ n va : Nat} {p : Piece}
    (h : s.globalPiece need spot at_ n va = .ok p) : ∃ t, p.spot = spot t := by
  unfold State.globalPiece at h
  split at h
  · cases h
  next t pa _ =>
    dsimp only at h
    split at h
    · cases h
    split at h
    · cases h
    cases h
    exact ⟨t, rfl⟩

theorem State.wPiece_not_bare {s : State} {need : Need} {at_ n va : Nat} {p : Piece} (h : s.wPiece need at_ n va = .ok p)
    (t : Target) : p.spot ≠ .bare t := by
  unfold State.wPiece at h
  split at h
  · obtain ⟨u, hu⟩ := State.globalPiece_spot h
    rw [hu, State.spotOf]
    split <;> exact nofun
  next f _ =>
    dsimp only at h
    split at h
    · cases h
    split at h
    · cases h
    split at h
    · cases h
    cases h
    exact nofun

theorem State.pieces_not_bare {s : State} {space : Space} {lane a n : Nat} {need : Need} {p : Piece}
    (h : .ok p ∈ s.pieces space lane a n need) (t : Target) : p.spot ≠ .bare t := by
  unfold State.pieces at h
  split at h
  · exact absurd (List.mem_singleton.1 h) nofun
  cases space with
  | global =>
    obtain ⟨_, _, hx⟩ := List.mem_map.1 h
    exact State.wPiece_not_bare hx t
  | shared =>
    obtain ⟨_, _, hx⟩ := List.mem_map.1 h
    dsimp only at hx
    split at hx <;> cases hx
    exact nofun
  | stash =>
    obtain ⟨_, _, hx⟩ := List.mem_map.1 h
    dsimp only at hx
    split at hx
    · cases hx
    · exact State.wPiece_not_bare hx t
  | priv =>
    obtain ⟨_, _, hx⟩ := List.mem_map.1 h
    dsimp only at hx
    split at hx
    · cases hx
    · obtain ⟨u, hu⟩ := State.globalPiece_spot hx
      rw [hu]
      exact nofun

/-- The accesses of lanes are what each lane's address gives. -/
theorem mem_laneAccesses {scalar write : Bool} {lanes : List (Nat × W64)} {f : Nat → Nat → List (Except Nat Piece)}
    {ps : List (Nat × Piece)} (h : laneAccesses scalar write lanes f = .ok ps) {x : Nat × Piece} (hx : x ∈ ps) :
    ∃ l a, .ok x.2 ∈ f l a := by
  unfold laneAccesses at h
  dsimp only at h
  split at h
  case h_2 => cases h
  cases h
  obtain ⟨⟨l, a, xs⟩, hy, hmem⟩ := List.mem_flatMap.1 hx
  obtain ⟨z, _, hz⟩ := List.mem_map.1 hy
  cases hz
  obtain ⟨y, hpiece, heq⟩ := List.mem_filterMap.1 hmem
  cases y with
  | error c => cases heq
  | ok p => cases heq; exact ⟨_, _, hpiece⟩

theorem State.stAccesses_not_bare {s : State} {f : StForm} {ps : List (Nat × Piece)} (h : s.stAccesses f = .ok ps)
    {x : Nat × Piece} (hx : x ∈ ps) (t : Target) : x.2.spot ≠ .bare t := by
  unfold State.stAccesses at h
  cases haccesses : laneAccesses (oneAddress f.a f.b) true (s.stLanes f) fun l a => s.pieces f.space l a f.sz.bytes .wr with
  | error e => rw [haccesses] at h; cases h
  | ok qs =>
    rw [haccesses] at h
    cases h
    obtain ⟨l, a, hmem⟩ := mem_laneAccesses haccesses hx
    exact State.pieces_not_bare hmem t

theorem mem_insertPiece {fresh : Nat} {x y : Nat × Piece} :
    ∀ {xs : List (Nat × Piece)}, y ∈ insertPiece fresh x xs → y = x ∨ y ∈ xs
  | [], h => .inl (List.mem_singleton.1 h)
  | z :: rest, h => by
    unfold insertPiece at h
    split at h
    · exact List.mem_cons.1 h
    · rcases List.mem_cons.1 h with h | h
      · exact .inr (h ▸ List.mem_cons_self)
      · exact (mem_insertPiece h).imp id (List.mem_cons_of_mem z)

theorem State.mem_ordered {s : State} {ps : List (Nat × Piece)} {x : Nat × Piece} (h : x ∈ s.ordered ps) : x ∈ ps := by
  have hfold : ∀ qs : List (Nat × Piece), x ∈ qs.foldr (insertPiece s.fresh) [] → x ∈ qs := by
    intro qs
    induction qs with
    | nil => exact id
    | cons y rest ih =>
      intro hx
      rcases mem_insertPiece hx with rfl | hx
      · exact List.mem_cons_self
      · exact List.mem_cons_of_mem y (ih hx)
  unfold State.ordered at h
  split at h
  · exact h
  · exact hfold ps h

/-- The pieces of a store are its accesses, each with no more bytes than it has. -/
theorem State.mem_stPieces {s : State} {f : StForm} {ps : List (Nat × Piece)} (h : s.stAccesses f = .ok ps)
    {x : Nat × Piece × List Byte} (hx : x ∈ s.stPieces f ps) : (∀ t, x.2.1.spot ≠ .bare t) ∧ x.2.2.length ≤ x.2.1.n := by
  obtain ⟨y, hy, rfl⟩ := List.mem_map.1 hx
  exact ⟨State.stAccesses_not_bare h (State.mem_ordered hy), List.length_take_le _ _⟩

/-! The ways in which a store ends. -/

/-- What a store leaves outside transactions. -/
def State.stored (s : State) (f : StForm) (ps : List (Nat × Piece)) : State :=
  if f.repair then (s.holdPieces ps).repairStores (s.stPieces f ps)
  else (s.stPieces f ps).foldl (fun t x => t.writePiece x.2.1 x.2.2) (s.holdPieces ps)

/-- What a store leaves in a transaction that has touched its blocks. -/
def State.storeHeld (s u : State) (f : StForm) (ps : List (Nat × Piece)) : State :=
  let r := (s.stPieces f ps).foldl (fun t x => t.txHold x.2.1 x.2.2) (u.holdPieces ps)
  if f.repair then r.txRepair (ps.map (·.2)) else r

theorem exec_st_cases {s t : State} {f : StForm} {ps : List (Nat × Piece)} (hps : s.stAccesses f = .ok ps)
    (h : exec (.st f) s = .next t) :
    (∃ e, t = s.halted e) ∨ t = s.closed s ∨ (s.cur.tx = none ∧ t = s.closed (s.stored f ps)) ∨
      (s.cur.tx.isSome = true ∧ ∃ u, s.txTouchAll ps true = .ok u ∧ t = s.closed (s.storeHeld u f ps)) := by
  change execSt f s = _ at h
  unfold execSt at h
  rw [hps] at h
  rcases State.finish_cases h with ⟨e, -, rfl⟩ | ⟨u, hu, rfl⟩
  · exact .inl ⟨e, rfl⟩
  refine .inr ?_
  suffices hends : Gives (fun u => u = s ∨ (s.cur.tx = none ∧ u = s.stored f ps) ∨
      (s.cur.tx.isSome = true ∧ ∃ v, s.txTouchAll ps true = .ok v ∧ u = s.storeHeld v f ps)) _ by
    rcases hends u hu with rfl | ⟨htx, rfl⟩ | ⟨htx, v, hv, rfl⟩
    · exact .inl rfl
    · exact .inr (.inl ⟨htx, rfl⟩)
    · exact .inr (.inr ⟨htx, v, hv, rfl⟩)
  refine .check fun _ => .check fun _ => .check fun _ => .check fun _ => .check fun _ => .check fun _ =>
    .ite (.ok (.inl rfl)) (.check fun _ => ?_)
  dsimp only
  split
  next htx =>
    refine .check fun _ => .bind (Q := fun v => s.txTouchAll ps true = .ok v) (fun v hv => hv) fun v hv => .ok ?_
    exact .inr (.inr ⟨htx, v, hv, rfl⟩)
  next htx =>
    have hnone : s.cur.tx = none := by simpa using htx
    exact .check fun _ => .ite (.check fun _ => .ok (.inr (.inl ⟨hnone, rfl⟩))) (.check fun _ => .ok (.inr (.inl ⟨hnone, rfl⟩)))

/-! A plain store. -/

/-- A write at once leaves the registers, and the memories at home. -/
theorem State.written_keeps (s : State) (p : Piece) (bs : List Byte) :
    (s.written p bs).file = s.file ∧ (s.written p bs).sys = s.sys ∧ (s.written p bs).mem = s.mem ∧
      (s.written p bs).hostMem = s.hostMem ∧ (s.written p bs).peerMem = s.peerMem := by
  unfold State.written
  cases p.spot with
  | shared => dsimp only; unfold State.sharedSet; split <;> exact ⟨rfl, rfl, rfl, rfl, rfl⟩
  | stash => dsimp only; split <;> exact ⟨rfl, rfl, rfl, rfl, rfl⟩
  | priv t => exact ⟨rfl, rfl, rfl, rfl, rfl⟩
  | home t => exact ⟨rfl, rfl, rfl, rfl, rfl⟩
  | bare t => exact ⟨rfl, rfl, rfl, rfl, rfl⟩

/-- A piece that is apart from what is written reads as before. -/
theorem State.pieceBytes_written (s : State) {p q : Piece} {bs : List Byte} (hp : p.placed) (hq : q.placed)
    (hlen : bs.length ≤ p.n) (h : p.apart q) : (s.written p bs).pieceBytes q = s.pieceBytes q := by
  obtain ⟨hn, hmem, hframe⟩ := hp
  have hbytes (heq : q.spot.memory = p.spot.memory) : p.pa + p.n ≤ q.pa ∨ q.pa + q.n ≤ p.pa :=
    (h.resolve_left fun hne => hne heq.symm).1
  have hwords (heq : q.spot.memory = p.spot.memory) (hby : p.spot.byWord = true) (hne : q.spot ≠ p.spot)
      (hl1 : q.spot ≠ .home .device) : (p.pa + p.n + 7) / 8 * 8 ≤ q.pa ∨ q.pa + q.n ≤ p.pa / 8 * 8 :=
    (h.resolve_left fun hne => hne heq.symm).2 hby hne hl1
  unfold State.written
  cases hspot : p.spot with
  | shared =>
    refine s.pieceBytes_sharedSet fun hshared => ?_
    have := hbytes (by rw [hshared, hspot])
    omega
  | stash =>
    have hfit := hframe hspot
    dsimp only
    split
    · rfl
    · refine s.pieceBytes_stashSet (by omega) hq (fun hstash => ?_) fun hdevice => ?_
      · have := hbytes (by rw [hstash, hspot])
        omega
      · have := hwords (by rcases hdevice with hd | hd <;> rw [hd, hspot] <;> rfl) (by rw [hspot]; rfl)
          (by rcases hdevice with hd | hd <;> rw [hd, hspot] <;> exact nofun) (by rcases hdevice with hd | hd <;> rw [hd] <;> exact nofun)
        omega
  | priv t =>
    refine s.pieceBytes_privPut hlen hn hq (hmem _ (by rw [hspot]; rfl)) (fun hpriv => ?_) fun hsame hne hl1 => ?_
    · exact hbytes (by rw [hpriv, hspot])
    · exact hwords (by rw [hsame, hspot]; rfl) (by rw [hspot]; rfl) (hspot ▸ hne) hl1
  | home t =>
    refine s.pieceBytes_queueSet fun hsame => ?_
    have := hbytes (by rw [hsame, hspot]; rfl)
    omega
  | bare t => rfl

/-- What a list of writes leaves: the registers, device memory at home, and the bytes of every piece apart from them. -/
theorem State.foldl_writePiece_keeps (data : List (Nat × Piece × List Byte)) : ∀ s : State,
    (∀ x ∈ data, (∀ t, x.2.1.spot ≠ .bare t) ∧ x.2.2.length ≤ x.2.1.n ∧ x.2.1.placed) →
    let r := data.foldl (fun t x => t.writePiece x.2.1 x.2.2) s
    r.file = s.file ∧ r.sys = s.sys ∧ r.mem = s.mem ∧
      ∀ q : Piece, q.placed → (∀ x ∈ data, x.2.1.apart q) → r.pieceBytes q = s.pieceBytes q := by
  induction data with
  | nil => exact fun s _ => ⟨rfl, rfl, rfl, fun _ _ _ => rfl⟩
  | cons x rest ih =>
    intro s hdata
    obtain ⟨hbare, hlen, hplaced⟩ := hdata x List.mem_cons_self
    have hsight := s.sight_writePiece hbare x.2.2
    obtain ⟨hfile', hsys', hmem', -⟩ := s.written_keeps x.2.1 x.2.2
    obtain ⟨hfile, hsys, hmem, hread⟩ := ih (s.writePiece x.2.1 x.2.2) fun y hy => hdata y (List.mem_cons_of_mem x hy)
    refine ⟨?_, ?_, ?_, fun q hq hapart => ?_⟩
    · exact hfile.trans ((State.file_of_sight hsight).trans hfile')
    · exact hsys.trans ((State.sys_of_sight hsight).trans hsys')
    · exact hmem.trans ((State.mem_of_sight hsight).trans hmem')
    · refine (hread q hq fun y hy => hapart y (List.mem_cons_of_mem x hy)).trans ?_
      exact (State.pieceBytes_of_sight hsight q).trans (s.pieceBytes_written hplaced hq hlen (hapart x List.mem_cons_self))

/-- A plain store outside transactions leaves the registers, device memory at home, and every piece apart from its own. -/
theorem State.stored_keeps {s : State} {f : StForm} {ps : List (Nat × Piece)} (hps : s.stAccesses f = .ok ps)
    (hplain : f.repair = false) (hplaced : ∀ x ∈ s.stPieces f ps, x.2.1.placed) :
    (s.stored f ps).file = s.file ∧ (s.stored f ps).sys = s.sys ∧ (s.stored f ps).mem = s.mem ∧
      ∀ q : Piece, q.placed → (∀ x ∈ s.stPieces f ps, x.2.1.apart q) → (s.stored f ps).pieceBytes q = s.pieceBytes q := by
  have hheld := s.sight_holdPieces ps
  obtain ⟨hfile, hsys, hmem, hread⟩ := State.foldl_writePiece_keeps (s.stPieces f ps) (s.holdPieces ps) fun x hx => by
    obtain ⟨hbare, hlen⟩ := State.mem_stPieces hps hx
    exact ⟨hbare, hlen, hplaced x hx⟩
  unfold State.stored
  rw [hplain]
  refine ⟨hfile.trans (State.file_of_sight hheld), hsys.trans (State.sys_of_sight hheld),
    hmem.trans (State.mem_of_sight hheld), fun q hq hapart => ?_⟩
  exact (hread q hq hapart).trans (State.pieceBytes_of_sight hheld q)

/-! What is written reads back. -/

theorem map_getD_range (bs : List Byte) : ((List.range bs.length).map fun i => bs.getD i 0) = bs := by
  refine List.ext_getElem (by simp) fun i hi _ => ?_
  rw [List.getElem_map, List.getElem_range, List.getD_eq_getElem?_getD, List.getElem?_eq_getElem ‹_›, Option.getD_some]

section
variable {s : State} {t : Target} {pa va : Nat} {bs : List Byte}

theorem State.privGet_privPut_same (h : pa % 8 + bs.length ≤ 8) : (s.privPut t pa bs).privGet t pa bs.length = bs := by
  rw [State.privGet_eq]
  refine Eq.trans (List.map_congr_left fun i hi => ?_) (map_getD_range bs)
  exact s.privByte_privPut_inside (List.mem_range.1 hi) h

theorem State.l1Bytes_queueSet_same (ts : BitVec 16)
    (hatom : atomQueued (s.cluster s.cur.cluster).queue .device pa bs.length = false) :
    (s.queueSet .device pa va bs).l1Bytes ts pa bs.length = some bs := by
  have hcur : (s.queueSet .device pa va bs).cur = s.cur := rfl
  unfold State.l1Bytes
  dsimp only
  rw [hcur, s.queue_queueSet, atomQueued_append_store _ (e := s.storeEntry .device pa va bs) rfl, hatom]
  refine (mapM_option_congr (g := fun i => pure (bs.getD i 0)) fun i hi => ?_).trans ?_
  · rw [queuedByte_storeEntry_inside s _ (List.mem_range.1 hi)]
    rfl
  · rw [List.mapM_pure, map_getD_range]
    rfl

theorem State.queued_queueSet_same (base : List Byte) : ((List.range bs.length).map fun i =>
    (queuedByte ((s.queueSet t pa va bs).cluster s.cur.cluster).queue t (pa + i)).getD (base.getD i 0)) = bs := by
  refine Eq.trans (List.map_congr_left fun i hi => ?_) (map_getD_range bs)
  rw [s.queue_queueSet, queuedByte_storeEntry_inside s _ (List.mem_range.1 hi), Option.getD_some]

end

theorem State.pieceBytes_written_same {s : State} {p : Piece} {bs : List Byte} (hm : s.memoriesOk) (hn : p.n = bs.length)
    (hstash : p.spot ≠ .stash) (hbare : ∀ t, p.spot ≠ .bare t)
    (hword : (∃ t, p.spot = .priv t) → p.pa % 8 + p.n ≤ 8) (hteam : p.spot = .shared → (s.teamOf s.cur).isSome = true)
    (hatom : p.spot = .home .device → atomQueued (s.cluster s.cur.cluster).queue .device p.pa p.n = false) :
    (s.written p bs).pieceBytes p = some bs := by
  obtain ⟨spot, pa, at_, n, va⟩ := p
  dsimp only at hn hstash hbare hword hteam hatom
  subst hn
  unfold State.written State.pieceBytes
  cases spot with
  | shared => exact congrArg some (State.sharedGet_sharedSet_same hm (hteam rfl) pa bs)
  | stash => exact absurd rfl hstash
  | priv t => exact congrArg some (State.privGet_privPut_same (hword ⟨t, rfl⟩))
  | bare t => exact absurd rfl (hbare t)
  | home t =>
    cases t with
    | device => exact State.l1Bytes_queueSet_same _ (hatom rfl)
    | host c => exact congrArg some (State.queued_queueSet_same _)
    | peer k => exact congrArg some (State.queued_queueSet_same _)

/-- A piece written to shared or private memory or past the L1 reads back. -/
theorem State.pieceBytes_writePiece_same {s : State} {p : Piece} {bs : List Byte} (hm : s.memoriesOk) (hn : p.n = bs.length)
    (hstash : p.spot ≠ .stash) (hbare : ∀ t, p.spot ≠ .bare t)
    (hword : (∃ t, p.spot = .priv t) → p.pa % 8 + p.n ≤ 8) (hteam : p.spot = .shared → (s.teamOf s.cur).isSome = true)
    (hatom : p.spot = .home .device → atomQueued (s.cluster s.cur.cluster).queue .device p.pa p.n = false) :
    (s.writePiece p bs).pieceBytes p = some bs :=
  (State.pieceBytes_of_sight (s.sight_writePiece hbare bs) p).trans
    (State.pieceBytes_written_same hm hn hstash hbare hword hteam hatom)

end Sys2Proof.Machine
end

section
/-! PROOF. Stores in a transaction (18 R358): what they leave, and what they hold. -/

namespace Sys2Proof.Machine

/-! What touching the blocks leaves. -/

theorem State.sameMemories_loseTx (s : State) (w : Wave) : s.sameMemories (s.loseTx w) := by
  unfold State.loseTx
  split
  · exact s.sameMemories_refl
  · exact State.sameMemories_trans ⟨by simp, by simp, by simp, by simp⟩ (State.sameMemories_postOnce _ _)

/-- Touching a block leaves the memories, and what the transaction holds. -/
theorem State.txTouch_keeps {s t : State} {x : Tx} (hx : s.cur.tx = some x) {blk : Nat} {write : Bool}
    (h : s.txTouch blk write = .ok t) : s.sameMemories t ∧ ∃ y, t.cur.tx = some y ∧ y.held = x.held := by
  have hgives : Gives (fun t => s.sameMemories t ∧ ∃ y, t.cur.tx = some y ∧ y.held = x.held) (s.txTouch blk write) := by
    unfold State.txTouch
    rw [hx]
    exact .check fun _ => .check fun _ => .ok ⟨State.sameMemories_foldl _ State.sameMemories_loseTx _ _, _, rfl, rfl⟩
  exact hgives t h

theorem State.txTouchAll_keeps {ps : List (Nat × Piece)} {write : Bool} : ∀ {s t : State} {x : Tx}, s.cur.tx = some x →
    s.txTouchAll ps write = .ok t → s.sameMemories t ∧ ∃ y, t.cur.tx = some y ∧ y.held = x.held := by
  induction ps with
  | nil =>
    intro s t x hx h
    cases h
    exact ⟨s.sameMemories_refl, x, hx, rfl⟩
  | cons p rest ih =>
    intro s t x hx h
    unfold State.txTouchAll at h
    split at h
    case h_1 => cases h
    case h_2 u hu =>
    obtain ⟨hmem, y, hy, hheld⟩ := State.txTouch_keeps hx hu
    obtain ⟨hmem', z, hz, hheld'⟩ := ih hy h
    exact ⟨State.sameMemories_trans hmem hmem', z, hz, hheld'.trans hheld⟩

/-! What the transaction holds. -/

theorem State.tx_holdPieces (s : State) (ps : List (Nat × Piece)) : (s.holdPieces ps).cur.tx = s.cur.tx :=
  List.foldlRecOn (motive := fun t : State => t.cur.tx = s.cur.tx) _ _ rfl fun t ht _ _ =>
    (State.hold_keeps (fun s => s.cur.tx) (fun _ _ => rfl) (fun _ _ _ => rfl) t _ _ _).trans ht

/-- The state with the transaction of its wave replaced. -/
def State.withTx (s : State) (y : Tx) : State := { s with cur := { s.cur with tx := some y } }

theorem State.withTx_self {s : State} {x : Tx} (h : s.cur.tx = some x) : s.withTx x = s := by
  unfold State.withTx
  rw [← h]

/-- Bytes held at other addresses are as before. -/
theorem held_of_bytes_outside {pa a : Nat} {bs : List Byte} (h : a < pa ∨ pa + bs.length ≤ a) (m : NMap Byte) :
    NMap.get? (((List.range bs.length).zip bs).foldl (fun m (x : Nat × Byte) => NMap.set m (pa + x.1) x.2) m) a = NMap.get? m a :=
  List.foldlRecOn (motive := fun n : NMap Byte => NMap.get? n a = NMap.get? m a) _ _ rfl fun n hn x hx => by
    have := List.mem_range.1 (List.of_mem_zip hx).1
    rw [nmap_get_set_other _ _ _ _ (by omega), hn]

theorem State.txHold_withTx {s : State} {p : Piece} {bs : List Byte} (hlen : bs.length ≤ p.n) (x : Tx) :
    ∃ y, (s.withTx x).txHold p bs = s.withTx y ∧ ∀ a, (a < p.pa ∨ p.pa + p.n ≤ a) → NMap.get? y.held a = NMap.get? x.held a :=
  ⟨_, rfl, fun _ ha => held_of_bytes_outside (by omega) _⟩

theorem State.foldl_txHold_withTx {s : State} (data : List (Nat × Piece × List Byte)) : ∀ x : Tx,
    (∀ z ∈ data, z.2.2.length ≤ z.2.1.n) →
    ∃ y, data.foldl (fun t z => t.txHold z.2.1 z.2.2) (s.withTx x) = s.withTx y ∧
      ∀ a, (∀ z ∈ data, a < z.2.1.pa ∨ z.2.1.pa + z.2.1.n ≤ a) → NMap.get? y.held a = NMap.get? x.held a := by
  induction data with
  | nil => exact fun x _ => ⟨x, rfl, fun _ _ => rfl⟩
  | cons z rest ih =>
    intro x hlen
    obtain ⟨y, hy, hheld⟩ := State.txHold_withTx (s := s) (hlen z List.mem_cons_self) x
    obtain ⟨w, hw, hheld'⟩ := ih y fun v hv => hlen v (List.mem_cons_of_mem z hv)
    refine ⟨w, by rw [List.foldl_cons, hy, hw], fun a ha => ?_⟩
    exact (hheld' a fun v hv => ha v (List.mem_cons_of_mem z hv)).trans (hheld a (ha z List.mem_cons_self))

/-- A store in a transaction changes nothing but the transaction, which holds other bytes at its pieces alone. -/
theorem State.storeHeld_eq {s u : State} {f : StForm} {ps : List (Nat × Piece)} {x : Tx} (hps : s.stAccesses f = .ok ps)
    (hx : u.cur.tx = some x) :
    ∃ y, s.storeHeld u f ps = (u.holdPieces ps).withTx y ∧
      ∀ a, (∀ z ∈ s.stPieces f ps, a < z.2.1.pa ∨ z.2.1.pa + z.2.1.n ≤ a) → NMap.get? y.held a = NMap.get? x.held a := by
  have hself := State.withTx_self ((u.tx_holdPieces ps).trans hx)
  obtain ⟨y, hy, hheld⟩ := State.foldl_txHold_withTx (s := u.holdPieces ps) (s.stPieces f ps) x fun z hz =>
    (State.mem_stPieces hps hz).2
  rw [hself] at hy
  unfold State.storeHeld
  rw [hy]
  cases f.repair with
  | false => exact ⟨y, rfl, hheld⟩
  | true => exact ⟨_, rfl, hheld⟩

/-- What a store in a transaction leaves. -/
theorem State.storeHeld_keeps {s u : State} {f : StForm} {ps : List (Nat × Piece)} {x : Tx} (hps : s.stAccesses f = .ok ps)
    (hx : s.cur.tx = some x) (hu : s.txTouchAll ps true = .ok u) :
    let r := s.storeHeld u f ps
    ∃ y, r.file = u.file ∧ r.sys = u.sys ∧ r.mem = s.mem ∧ r.hostMem = s.hostMem ∧ r.peerMem = s.peerMem ∧
      r.teams = s.teams ∧ r.cur.tx = some y ∧
      ∀ a, (∀ z ∈ s.stPieces f ps, a < z.2.1.pa ∨ z.2.1.pa + z.2.1.n ≤ a) → NMap.get? y.held a = NMap.get? x.held a := by
  obtain ⟨⟨hmem, hhost, hpeer, hteams⟩, w, hw, hsame⟩ := State.txTouchAll_keeps hx hu
  obtain ⟨y, hy, hheld⟩ := State.storeHeld_eq hps hw
  have hsight := u.sight_holdPieces ps
  have hfile : ((u.holdPieces ps).withTx y).file = (u.holdPieces ps).file := rfl
  have hsys : ((u.holdPieces ps).withTx y).sys = (u.holdPieces ps).sys := rfl
  dsimp only
  rw [hy]
  exact ⟨y, hfile.trans (State.file_of_sight hsight), hsys.trans (State.sys_of_sight hsight), (State.mem_of_sight hsight).trans hmem,
    (State.hostMem_of_sight hsight).trans hhost, (State.peerMem_of_sight hsight).trans hpeer,
    (State.teams_of_sight hsight).trans hteams, rfl, fun a ha => (hheld a ha).trans (by rw [hsame])⟩

end Sys2Proof.Machine
end

section
/-! PROOF. Stores under .repair (13 R255; 17 R326, R332): where in device memory they write, and O10. -/

namespace Sys2Proof.Machine

/-- An operation leaves the issuing thread's registers, host and peer memory, and device memory at home at the addresses of `P`. -/
structure State.Beyond (P : Nat → Prop) (s r : State) : Prop where
  file : r.file = s.file
  hostMem : r.hostMem = s.hostMem
  peerMem : r.peerMem = s.peerMem
  mem : ∀ a, P a → r.mem.get a = s.mem.get a

section
variable {P : Nat → Prop} {s r t : State}

theorem State.Beyond.refl (P : Nat → Prop) (s : State) : State.Beyond P s s := ⟨rfl, rfl, rfl, fun _ _ => rfl⟩

theorem State.Beyond.trans (h : State.Beyond P s r) (k : State.Beyond P r t) : State.Beyond P s t :=
  ⟨k.file.trans h.file, k.hostMem.trans h.hostMem, k.peerMem.trans h.peerMem, fun a ha => (k.mem a ha).trans (h.mem a ha)⟩

theorem State.Beyond.foldl {α : Type} {f : State → α → State} {xs : List α} (h : ∀ t, ∀ x ∈ xs, State.Beyond P t (f t x))
    (s : State) : State.Beyond P s (xs.foldl f s) :=
  List.foldlRecOn (motive := fun t => State.Beyond P s t) _ _ (.refl P s) fun t ht x hx => ht.trans (h t x hx)

theorem State.Beyond.of_sight (h : r.sight = s.sight) : State.Beyond P s r :=
  ⟨State.file_of_sight h, State.hostMem_of_sight h, State.peerMem_of_sight h, fun _ _ => by rw [State.mem_of_sight h]⟩

/-- An operation that leaves the registers and all memories. -/
theorem State.Beyond.of_memories (hfile : r.file = s.file) (h : s.sameMemories r) : State.Beyond P s r := by
  obtain ⟨hmem, hhost, hpeer, -⟩ := h
  exact ⟨hfile, hhost, hpeer, fun _ _ => by rw [hmem]⟩

theorem State.beyond_setCluster (s : State) (n : Nat) (k : Cluster) : State.Beyond P s (s.setCluster n k) :=
  ⟨rfl, rfl, rfl, fun _ _ => rfl⟩

theorem State.beyond_setSector (s : State) (n : Nat) (x : Sector) : State.Beyond P s (s.setSector n x) :=
  ⟨rfl, rfl, rfl, fun _ _ => rfl⟩

theorem State.beyond_mapReplies (s : State) (c frame : Nat) (f : LeaseRep → LeaseRep) : State.Beyond P s (s.mapReplies c frame f) :=
  ⟨rfl, rfl, rfl, fun _ _ => rfl⟩

theorem State.Beyond.putMem {u : State} (h : State.Beyond P s u) {m : Memory} (hm : ∀ a, P a → m.get a = s.mem.get a) {n : Nat}
    {k : Cluster} : State.Beyond P s ({ u with mem := m }.setCluster n k) :=
  ⟨h.file, h.hostMem, h.peerMem, hm⟩

/-! Writes at the home. -/

theorem State.beyond_raiseGt (s : State) (x : BitVec 16) : State.Beyond P s (s.raiseGt x) := by
  refine .of_memories ?_ (s.sameMemories_raiseGt x)
  unfold State.raiseGt State.withGt
  split <;> rfl

theorem State.beyond_newTimes (s : State) (sec : Nat) (words : BitVec 4) (time : BitVec 16) (repair : Bool) (by_ : Writer) :
    State.Beyond P s (s.newTimes sec words time repair by_) := by
  have hinvalidate (x : Sector) (keep : BitVec 16) : State.Beyond P s (s.invalidate sec x keep) := by
    unfold State.invalidate
    refine .foldl (fun t b _ => ?_) s
    exact ⟨rfl, rfl, rfl, fun _ _ => rfl⟩
  have hcount (t : State) : State.Beyond P t (t.countRepair sec repair) := by
    unfold State.countRepair
    split <;> exact ⟨rfl, rfl, rfl, fun _ _ => rfl⟩
  have hcopy (t : State) (kept : Bool) (wts : BitVec 16) : State.Beyond P t (t.writeCopy sec kept wts) := by
    unfold State.writeCopy
    split <;> exact ⟨rfl, rfl, rfl, fun _ _ => rfl⟩
  have hclear (t : State) : State.Beyond P t (t.cleared sec repair) := ⟨rfl, rfl, rfl, fun _ _ => rfl⟩
  have htimes (t : State) (kept : Bool) (wts : BitVec 16) :
      State.Beyond P t (((t.writeCopy sec kept wts).cleared sec repair).raiseGt wts) :=
    (hcopy _ _ _).trans ((hclear _).trans (State.beyond_raiseGt _ _))
  exact (hinvalidate _ _).trans ((hcount _).trans ((State.beyond_setSector _ _ _).trans (htimes _ _ _)))

theorem State.file_mapWaves (s : State) {f : Wave → Wave} (h : ∀ w, (f w).file = w.file ∧ (f w).sprigs = w.sprigs) :
    (s.mapWaves f).file = s.file := by
  have hcur : (s.mapWaves f).cur.file = s.cur.file ∧ (s.mapWaves f).cur.sprigs = s.cur.sprigs := by
    unfold State.mapWaves
    dsimp only
    split
    · exact ⟨rfl, rfl⟩
    · exact h _
  obtain ⟨hfile, hsprigs⟩ := hcur
  have hwho : (s.mapWaves f).who = s.who := rfl
  simp only [State.file, State.sprig?, hfile, hsprigs, hwho]

theorem State.beyond_overPriv (s : State) (u : Target) (pa n : Nat) : State.Beyond P s (s.overPriv u pa n) := by
  refine .foldl (fun t k _ => ?_) s
  dsimp only
  split
  · exact .of_memories (t.file_mapWaves fun _ => ⟨rfl, rfl⟩) ⟨rfl, rfl, rfl, rfl⟩
  · exact .refl P t

theorem State.beyond_putHome (s : State) {pa : Nat} {bs : List Byte} (h : ∀ a, P a → a < pa ∨ pa + bs.length ≤ a) :
    State.Beyond P s (s.putHome pa bs) := by
  have hput : State.Beyond P s { s with mem := s.mem.puts pa bs } :=
    ⟨rfl, rfl, rfl, fun a ha => get_puts_outside _ _ _ _ (h a ha)⟩
  exact hput.trans ((State.beyond_overPriv _ _ _ _).trans (.of_sight (State.sight_notifyRange _ _ _ _)))

/-- Words that a stash gives up go to their frame. -/
theorem State.beyond_returnSome (s : State) {sec : Nat} (keep : Nat → Bool) (h : ∀ a, P a → a / 256 ≠ sec / 8) :
    State.Beyond P s (s.returnSome sec keep) := by
  unfold State.returnSome
  split
  · exact .refl P s
  next c f hf =>
    have hframe : f.frame = sec / 8 := State.frame_of_stashOf hf
    have hmem (ws : List Nat) (hws : ∀ k ∈ ws, k < 32) (m : Memory) (a : Nat) (ha : P a) :
        (ws.foldl (fun m k => m.puts (f.frame * 256 + 8 * k) (bytesOf 8 (f.words.getD k 0).toNat)) m).get a = m.get a :=
      List.foldlRecOn (motive := fun n : Memory => n.get a = m.get a) _ _ rfl fun n hn k hk => by
        have := hws k hk
        have := h a ha
        rw [get_puts_outside _ _ _ _ (by rw [bytesOf_length]; omega), hn]
    have hwords (keep : Nat → Bool) : ∀ k ∈ ((List.range 4).map (sec % 8 * 4 + ·)).filter keep, k < 32 := by
      intro k hk
      obtain ⟨j, hj, rfl⟩ := List.mem_map.1 (List.mem_filter.1 hk).1
      have := List.mem_range.1 hj
      omega
    dsimp only
    split
    · exact .refl P s
    cases hp : s.poison.contains sec with
    | true =>
      simp only [if_true]
      exact .putMem (s := s) (u := s.count 6 3) (m := s.mem) ⟨rfl, rfl, rfl, fun _ _ => rfl⟩ fun _ _ => rfl
    | false =>
      simp only [Bool.false_eq_true, if_false]
      exact .putMem ((s.beyond_setSector _ _).trans (State.beyond_raiseGt _ _)) fun a ha => hmem _ (hwords _) _ a ha

theorem State.beyond_dropStash (s : State) {frame : Nat} (h : ∀ a, P a → a / 256 ≠ frame) :
    State.Beyond P s (s.dropStash frame) := by
  unfold State.dropStash
  split
  · exact .refl P s
  · have hfold := State.Beyond.foldl (P := P) (xs := List.range 8) (f := fun (s : State) k =>
      (s.returnWords (frame * 8 + k)).setSector (frame * 8 + k)
        { (s.returnWords (frame * 8 + k)).sector (frame * 8 + k) with owner := 0 }) (fun t k hk => by
      have hk := List.mem_range.1 hk
      have hwords : State.Beyond P t (t.returnWords (frame * 8 + k)) :=
        t.beyond_returnSome _ fun a ha => by
          have := h a ha
          omega
      exact hwords.trans (State.beyond_setSector _ _ _)) s
    exact hfold.trans (State.beyond_setCluster _ _ _)

theorem State.beyond_homeWrite (s : State) {pa : Nat} {bs : List Byte} (time : BitVec 16) (repair : Bool) (by_ : Writer)
    (h : ∀ a, P a → (a < pa ∨ pa + bs.length ≤ a) ∧ a / 256 ≠ pa / 32 / 8) :
    State.Beyond P s (s.homeWrite pa bs time repair by_) := by
  have hdrop : State.Beyond P s ((s.dropStash (pa / 32 / 8)).doom by_ (pa / 32 / 2) true) :=
    (s.beyond_dropStash fun a ha => (h a ha).2).trans (.of_sight (State.sight_doom _ _ _ _))
  unfold State.homeWrite State.homeParts
  dsimp only
  split
  · exact hdrop.trans ⟨rfl, rfl, rfl, fun _ _ => rfl⟩
  · exact hdrop.trans ((State.beyond_newTimes _ _ _ _ _ _).trans (State.beyond_putHome _ fun a ha => (h a ha).1))

/-! What a store under .repair does, sector by sector and piece by piece. -/

theorem State.beyond_setSys (s : State) (x : ThreadSys) : State.Beyond P s (s.setSys x) := by
  unfold State.setSys
  cases hwho : s.who with
  | split n => exact .of_memories (by simp only [State.file, State.sprig?, hwho]) ⟨rfl, rfl, rfl, rfl⟩
  | handler => exact .of_memories (by simp only [State.file, State.sprig?, hwho]) ⟨rfl, rfl, rfl, rfl⟩
  | sprig j =>
    dsimp only
    split
    next p hp => exact .of_memories (by simp [State.file, State.sprig?, hwho, hp]) ⟨rfl, rfl, rfl, rfl⟩
    · exact .refl P s

theorem State.beyond_storeHome (s : State) {pa : Nat} {bs : List Byte}
    (h : ∀ a, P a → (a < pa ∨ pa + bs.length ≤ a) ∧ a / 256 ≠ pa / 32 / 8) :
    State.Beyond P s (s.storeHome .device pa bs true) := by
  unfold State.storeHome
  dsimp only
  rw [if_pos rfl]
  have hwrite := s.beyond_homeWrite s.sys.pts true (.wave s.cur.id) h
  generalize s.homeWrite pa bs s.sys.pts true (.wave s.cur.id) = r at hwrite ⊢
  refine hwrite.trans (.trans (r := r.setSys { r.sys with pts := timeMax r.sys.pts (r.sector (pa / 32)).wts })
    (r.beyond_setSys _) ?_)
  split
  · exact (State.beyond_setCluster _ _ _).trans (State.beyond_mapReplies _ _ _ _)
  · exact (State.beyond_setCluster _ _ _).trans (State.beyond_mapReplies _ _ _ _)

theorem State.beyond_enqueue (s : State) (u : Target) (pa : Nat) (va : Option Nat) (op : HomeOp) (reply : Option (Nat × Nat × Nat)) :
    State.Beyond P s (s.enqueue u pa va op reply) := by
  unfold State.enqueue
  refine State.Beyond.trans (r := _) ?_ (.of_sight (State.sendQueue_keeps State.sight_postOnce _ _))
  exact ⟨rfl, rfl, rfl, fun _ _ => rfl⟩

theorem State.beyond_writePiece (s : State) {p : Piece} (h : ∀ u, p.spot ≠ .bare u) (bs : List Byte) :
    State.Beyond P s (s.writePiece p bs) := by
  obtain ⟨hfile, -, hmem, hhost, hpeer⟩ := s.written_keeps p bs
  have hwritten : State.Beyond P s (s.written p bs) := ⟨hfile, hhost, hpeer, fun _ _ => by rw [hmem]⟩
  exact hwritten.trans (.of_sight (s.sight_writePiece h bs))

end

/-- The addresses in no sector of the pieces, and in no frame of a piece in a stash. -/
def besideRepair (data : List (Nat × Piece × List Byte)) (a : Nat) : Prop :=
  ∀ x ∈ data, a / 32 ≠ x.2.1.pa / 32 ∧ (x.2.1.spot = .stash → a / 256 ≠ x.2.1.pa / 256)

theorem State.beyond_repairStores (s : State) {data : List (Nat × Piece × List Byte)}
    (h : ∀ x ∈ data, ∀ u, x.2.1.spot ≠ .bare u) : State.Beyond (besideRepair data) s (s.repairStores data) := by
  unfold State.repairStores
  extract_lets far bytes secs first s'
  have hsectors : State.Beyond (besideRepair data) s s' := by
    refine .foldl (fun t x _ => ?_) s
    dsimp only
    split
    next pa at_ n va hfirst =>
      obtain ⟨⟨l, p, bs⟩, hfind, hp⟩ := Option.map_eq_some_iff.1 hfirst
      have hmem := List.mem_of_find?_eq_some hfind
      have hsec := List.find?_some hfind
      simp only [Bool.and_eq_true, beq_iff_eq] at hsec
      refine t.beyond_storeHome fun a ha => ?_
      obtain ⟨hbeside, hframe⟩ := ha _ hmem
      have := hframe (congrArg Piece.spot hp)
      dsimp only at hbeside this
      rw [List.length_map, List.length_range]
      omega
    · exact State.beyond_enqueue _ _ _ _ _ _
    · exact .refl _ t
  refine hsectors.trans (.foldl (fun t x hx => ?_) s')
  dsimp only
  split
  · exact .refl _ t
  · exact t.beyond_writePiece (h x hx) _

/-- A store under .repair writes device memory at home in the sectors of its pieces and the frames of those in a stash alone. -/
theorem State.stored_beyond {s : State} {f : StForm} {ps : List (Nat × Piece)} (hps : s.stAccesses f = .ok ps)
    (hrepair : f.repair = true) : State.Beyond (besideRepair (s.stPieces f ps)) s (s.stored f ps) := by
  unfold State.stored
  rw [if_pos hrepair]
  exact State.Beyond.trans (.of_sight (s.sight_holdPieces ps)) (State.beyond_repairStores _ fun x hx => (State.mem_stPieces hps hx).1)

/-- Settles O10: a plain store, a store under .repair, a store in a transaction, and what reads back. -/
theorem storesKeepOtherBytes : Obligations.StoresKeepOtherBytes := by
  unfold Obligations.StoresKeepOtherBytes
  refine ⟨fun s t f ps hps htx hplain hplaced h => ?_, fun s t f ps hps htx hrepair _ h => ?_, fun s t u f ps x hps htx hu h => ?_,
    fun s p bs hm hn _ hstash hbare hword hteam hatom => State.pieceBytes_writePiece_same hm hn hstash hbare hword hteam hatom⟩
  · rcases exec_st_cases hps h with hstop | rfl | ⟨-, rfl⟩ | ⟨hsome, -⟩
    · exact .inl hstop
    · exact .inr ⟨s, rfl, rfl, rfl, rfl, fun _ _ _ => rfl⟩
    · exact .inr ⟨_, rfl, State.stored_keeps hps hplain hplaced⟩
    · rw [htx] at hsome
      cases hsome
  · rcases exec_st_cases hps h with hstop | rfl | ⟨-, rfl⟩ | ⟨hsome, -⟩
    · exact .inl hstop
    · exact .inr ⟨s, rfl, rfl, rfl, rfl, fun _ _ => rfl⟩
    · have hbeyond := State.stored_beyond hps hrepair
      exact .inr ⟨_, rfl, hbeyond.file, hbeyond.hostMem, hbeyond.peerMem, hbeyond.mem⟩
    · rw [htx] at hsome
      cases hsome
  · rcases exec_st_cases hps h with hstop | rfl | ⟨hnone, -⟩ | ⟨-, v, hv, rfl⟩
    · exact .inl hstop
    · exact .inr (.inl rfl)
    · rw [htx] at hnone
      cases hnone
    · cases hu.symm.trans hv
      obtain ⟨y, hkept⟩ := State.storeHeld_keeps hps htx hu
      exact .inr (.inr ⟨_, y, rfl, hkept⟩)

end Sys2Proof.Machine
end

section
/-! PROOF. MMA and MMG (14 R280 to R284): the arrival at a rendezvous, the beginning of its operation, the writing of a tile, and
the statement O32. -/

namespace Sys2Proof.Machine

/-! An arrival at a rendezvous (14 R281; 18 R359). -/

/-- What changes of each wave its transaction alone changes of the issuing wave its transaction alone. -/
theorem State.cur_mapWaves_of_tx (s : State) {f : Wave → Wave} (h : ∀ w : Wave, ∃ tx, f w = { w with tx := tx }) :
    ∃ tx, (s.mapWaves f).cur = { s.cur with tx := tx } := by
  unfold State.mapWaves
  dsimp only
  split
  · exact ⟨s.cur.tx, rfl⟩
  · exact h s.cur

theorem State.cur_doom (s : State) (by_ : Writer) (blk : Nat) (write : Bool) :
    ∃ tx, (s.doom by_ blk write).cur = { s.cur with tx := tx } := by
  refine (s.cur_mapWaves_of_tx fun w => ?_).imp fun tx h =>
    (State.foldl_postOnce_keeps State.cur State.postOnce_cur id _ _).trans h
  split
  · exact ⟨_, rfl⟩
  · exact ⟨w.tx, rfl⟩

theorem State.who_doom (s : State) (by_ : Writer) (blk : Nat) (write : Bool) : (s.doom by_ blk write).who = s.who :=
  State.foldl_postOnce_keeps State.who State.postOnce_who id _ _

/-- An arrival writes the wave's arrival record, and of its other fields at most its transaction. -/
theorem State.cur_arriveWith (s : State) (a : Arrival) :
    ∃ tx, (s.arriveWith (some a)).cur = { s.cur with arrival := some a, tx := tx } := by
  refine List.foldlRecOn (motive := fun t => ∃ tx, State.cur t = { s.cur with arrival := some a, tx := tx }) _ _
    ⟨s.cur.tx, rfl⟩ fun t ht k _ => ?_
  obtain ⟨tx, ht⟩ := ht
  obtain ⟨tx', hdoom⟩ := t.cur_doom .outside (k / 2) false
  exact ⟨tx', by rw [hdoom, ht]⟩

theorem State.who_arriveWith (s : State) (a : Arrival) : (s.arriveWith (some a)).who = s.who :=
  List.foldlRecOn (motive := fun t => State.who t = s.who) _ _ rfl fun t ht _ _ => (t.who_doom _ _ _).trans ht

theorem State.threadExists_arriveWith {s : State} (a : Arrival) (h : s.threadExists) : (s.arriveWith (some a)).threadExists := by
  obtain ⟨tx, hcur⟩ := s.cur_arriveWith a
  unfold State.threadExists at h ⊢
  rw [s.who_arriveWith, hcur]
  exact h

theorem Wave.arrival_setThread (w : Wave) (who : Who) (t : Thread) : (w.setThread who t).arrival = w.arrival := by
  rw [Wave.setThread_eq]

theorem Wave.id_setThread (w : Wave) (who : Who) (t : Thread) : (w.setThread who t).id = w.id := by
  rw [Wave.setThread_eq]

/-- Blocking a thread that exists parks it. -/
theorem State.park_block {s : State} (h : s.threadExists) (p : Park) : (s.block p).thread.park = p := by
  unfold State.block
  rw [State.thread_setThread _ _ h]

/-- A thread that waits at its rendezvous is parked, its wave holds what it has arrived with, and the rendezvous is looked at. -/
theorem State.posted_rendezvous {r : State} (h : r.threadExists) :
    let t := (r.block .rendezvous).posted .rendezvous
    t.cur.arrival = r.cur.arrival ∧ t.thread.park = .rendezvous ∧ Instr.mmaRendezvous r.cur.id ∈ t.agenda := by
  have hcur : ((r.block .rendezvous).posted .rendezvous).cur = (r.block .rendezvous).cur := State.postOnce_cur _ _
  have hwho : ((r.block .rendezvous).posted .rendezvous).who = (r.block .rendezvous).who := State.postOnce_who _ _
  have hid : (r.block .rendezvous).cur.id = r.cur.id := Wave.id_setThread _ _ _
  refine ⟨?arrival, ?park, ?agenda⟩
  case arrival =>
    rw [hcur]
    exact Wave.arrival_setThread _ _ _
  case park =>
    rw [State.thread, hcur, hwho]
    exact State.park_block h _
  case agenda =>
    rw [← hid]
    exact State.mem_postOnce _ _

/-- An MMA or MMG alone in its group parks its thread at the rendezvous with what it has read. -/
theorem State.halted_at_rendezvous {s : State} (a : Arrival) (halone : s.issue.multi = false) (h : s.threadExists) :
    let t := s.halted (.park .rendezvous (some a))
    t.cur.arrival = some a ∧ t.thread.park = .rendezvous ∧ Instr.mmaRendezvous s.cur.id ∈ t.agenda := by
  have hhalt : s.halted (.park .rendezvous (some a)) =
      State.seeNow (((s.groupStopped.arriveWith (some a)).block .rendezvous).posted .rendezvous) := by
    rw [State.halted, halone]
    rfl
  obtain ⟨tx, hcur⟩ := s.groupStopped.cur_arriveWith a
  have hposted := State.posted_rendezvous (State.threadExists_arriveWith (s := s.groupStopped) a h)
  rw [hcur] at hposted
  rw [hhalt]
  exact hposted

/-! MMA and MMG (14 R281, R284). -/

theorem exec_mma_of_ready {s : State} {f : MmaForm} (hready : s.mmaReady f = .ok ()) :
    exec (.mma f) s = .next (s.halted (.park .rendezvous (some (s.mmaArrival f)))) := by
  change execMma f s = _
  rw [execMma, hready, stop_ok_bind, State.finish_error]

/-- What a wave arrives with at an MMG whose rows of A are `rows`. -/
def State.mmgArrival (s : State) (f : MmgForm) (sh : Shape) (rows : List (Option (List (Option ElemAt)))) : Arrival :=
  { s.arrival f.asMma ((rows.map (s.mmgLane f sh)).map (·.1)) ((rows.map (s.mmgLane f sh)).map (·.2)) with
    read := s.mmgReads f sh rows }

theorem exec_mmg_of_read {s : State} {f : MmgForm} {sh : Shape} {rows : List (Option (List (Option ElemAt)))}
    (hchecks : s.mmaChecks f.asMma (s.regOk f.a.toNat) (s.tagIn (fun t => t == .idx32 || t == .b64) (.v f.a)) = .ok ())
    (htx : s.noTx 2 = .ok ()) (hstored : s.over s.cur s.who .stores = true)
    (hshape : s.readShape (s.image (.c f.ent)) (· == f.src) = .ok sh) (hrows : s.mmgRows sh (mmaK f.src false) f.a = .ok rows)
    (hfree : s.locsFree (mmgPlaces sh rows) = .ok ()) :
    exec (.mmg f) s = .next (s.halted (.park .rendezvous (some (s.mmgArrival f sh rows)))) := by
  change execMmg f s = _
  simp only [execMmg, hchecks, htx, hstored, hshape, hrows, hfree, need_true, stop_ok_bind, State.finish_error, State.mmgArrival]

/-! The rendezvous (14 R281 to R283). -/

/-- The arrivals name one template and one PROG, those of the wave `x` (14 R281). -/
def Wave.meetsAlike (x : Wave) (as : List Arrival) : Bool :=
  as.all fun a => a.template == (x.arrival.map (·.template)).getD 0 && a.prog == (x.arrival.map (·.prog)).getD 0

/-- The operation has begun in each wave, and those on their last tile have gone on (14 R282, R283). -/
def State.mmaBegun (s : State) (ws : List Wave) : State :=
  let as := ws.filterMap (·.arrival)
  let t := ws.foldl (fun t y => t.beginMma as s.nextId y.id) { s with nextId := s.nextId + 1 }
  if as.all fun a => decide (a.span ≤ a.prog + 1) then ws.foldl (fun t y => t.leaveMma y.id) t else t

/-- Neither its budget nor its context holds up a wave of the rendezvous. -/
theorem State.any_held_eq_false {s : State} {ws : List Wave} (h : ∀ y ∈ ws, s.spent y = false ∧ s.engineRuns y.ctx = true) :
    (ws.any fun y => s.spent y || !s.engineRuns y.ctx) = false :=
  List.any_eq_false.2 fun y hy => by simp [h y hy]

section
variable {s : State} {w : Nat} {x : Wave} {ws : List Wave} (hwave : s.wave? w = some x) (hmeet : s.rendezvous x = some ws)
  (hfree : ∀ y ∈ ws, s.spent y = false ∧ s.engineRuns y.ctx = true)
include hwave hmeet hfree

/-- Where all have arrived alike the operation begins. -/
theorem exec_mmaRendezvous_of_alike (halike : x.meetsAlike (ws.filterMap (·.arrival)) = true) : exec (.mmaRendezvous w) s =
    .next (ws.foldl (fun t y => t.opsChanged y.id) (s.mmaBegun ws)).counted := by
  unfold Wave.meetsAlike at halike
  change execMmaRendezvous w s = _
  simp only [execMmaRendezvous, hwave, hmeet, State.any_held_eq_false hfree, halike, Bool.not_true, Bool.false_eq_true,
    if_false, State.event_eq_counted, State.mmaBegun]

/-- Unlike words raise 0x09 in each wave. -/
theorem exec_mmaRendezvous_of_unlike (hunlike : x.meetsAlike (ws.filterMap (·.arrival)) = false) : exec (.mmaRendezvous w) s =
    .next (ws.foldl (fun t y => t.mmaMismatch y.id) s).counted := by
  unfold Wave.meetsAlike at hunlike
  change execMmaRendezvous w s = _
  simp only [execMmaRendezvous, hwave, hmeet, State.any_held_eq_false hfree, hunlike, Bool.not_false, Bool.false_eq_true,
    if_false, if_true, State.event_eq_counted]

end

/-- Tile `j` of operation `m` written in each of some waves that it is ready in (14 R282). -/
def State.tileWritten (s : State) (ws : List Wave) (m j : Nat) : State :=
  ws.foldl (fun t y => match y.accReady m j with
    | some o => t.setWave (y.writeAcc o)
    | none => t) s

/-- A tile that nothing holds up in any wave of its operation is written in all of them. -/
theorem exec_mmaTileDone_of_ready {s : State} {w m j : Nat} {x : Wave} (hwave : s.wave? w = some x)
    (hop : x.accOp = some (m, j)) (hruns : s.engineRuns x.ctx = true)
    (hready : ∀ y ∈ s.allWaves.filter fun y => y.owesTile m j, (y.accReady m j).isSome = true) :
    let ws := s.allWaves.filter fun y => y.owesTile m j
    exec (.mmaTileDone w) s = .next (ws.foldl (fun t y => t.opsChanged y.id)
      (ws.foldl (fun t y => t.nextTile y.id j) (s.tileWritten ws m j))).counted := by
  have hgo : ((s.allWaves.filter fun y => y.owesTile m j).any fun y => (y.accReady m j).isNone) = false :=
    List.any_eq_false.2 fun y hy => by simp [Option.isSome_iff_ne_none.1 (hready y hy)]
  change execMmaTileDone w s = _
  simp only [execMmaTileDone, hwave, hop, hruns, hgo, Bool.not_true, Bool.or_self, Bool.false_eq_true, if_false,
    State.event_eq_counted]
  rfl

/-- Settles O32: the two words through the arrival that each parks with, and the two events. -/
theorem matrixMultiplyCompletes : Obligations.MatrixMultiplyCompletes := by
  unfold Obligations.MatrixMultiplyCompletes
  refine ⟨⟨?mma, ?mmg⟩, ?meet, ?tile⟩
  case mma =>
    intro s f hready
    have hexec := exec_mma_of_ready hready
    exact ⟨hexec, fun halone hex => ⟨_, hexec, State.halted_at_rendezvous _ halone hex⟩⟩
  case mmg =>
    intro s f sh rows hchecks htx hstored hshape hrows hfree codes a
    have hexec := exec_mmg_of_read hchecks htx hstored hshape hrows hfree
    exact ⟨hexec, fun halone hex => ⟨_, hexec, State.halted_at_rendezvous _ halone hex⟩⟩
  case meet =>
    intro s w x ws hwave hmeet hfree as alike
    exact ⟨exec_mmaRendezvous_of_alike hwave hmeet hfree, exec_mmaRendezvous_of_unlike hwave hmeet hfree⟩
  case tile =>
    intro s w m j x hwave hop hruns ws hready
    exact exec_mmaTileDone_of_ready hwave hop hruns hready

end Sys2Proof.Machine
end

section
/-! PROOF. MLOAD, MSTORE and MMOVE (14 R285 to R288; 07 R148), batches (14 R289), PENCIL and INK (14 R292 to R294): what each
word and each event does where nothing stops it, and the statement O33. -/

namespace Sys2Proof.Machine

/-! MLOAD and MSTORE (14 R285 to R287). -/

/-- The end of MLOAD or MSTORE in the state `t` with its rows issued, from the state `r` that pays: the debit, the wave's
operations looked at, and PROG at 0 (07 R148, 19 R373). -/
def State.rowsPaid (r t : State) (ecls : BitVec 2) : State :=
  ((t.debit r.cur.resumesLong ecls.toNat).opsChanged r.cur.id).endLong

theorem State.issueRows_completes (r t : State) (ecls : BitVec 2) : r.issueRows t ecls none none = .ok (r.rowsPaid t ecls) := rfl

section
variable {s : State} {f : MloadForm} (hchecks : s.tileChecks f.d.toNat (s.shadowsOk [f.d.toNat]) f.rec_ f.org = .ok ())
  (htx : s.noTx 2 = .ok ()) (hink : s.inkFree = true)
include hchecks htx hink

theorem exec_mload_of_noRow (hnone : s.active = 0) :
    exec (.mload f) s = .next (s.closed (s.rowsPaid (s.issueLoad f f.fmt false [] true) f.ecls)) := by
  change execMload f s = _
  simp only [execMload, hchecks, htx, hink, hnone, need_true, stop_ok_bind, if_true, State.issueRows_completes, State.finish_ok]

theorem exec_mload_of_rows {sh : Shape} {rows : NMap (List (Option ElemAt))} (hsome : s.active ≠ 0)
    (hshape : s.readShape (s.image f.rec_) (mloadFmt f.fmt) = .ok sh) (hgoes : s.shortAt s.lanesLeft = none)
    (hrows : s.tileRows sh f.shared f.t .rd (s.origin f.org).1 (s.origin f.org).2 none = (rows, none))
    (hfree : s.locsFree (rowPlaces sh rows) = .ok ()) :
    let u := s.recordTouch (s.image f.rec_)
    exec (.mload f) s = .next (s.closed (u.rowsPaid (u.issueLoad f sh.fmt sh.nanOob rows true) f.ecls)) := by
  change execMload f s = _
  simp only [execMload, hchecks, htx, hink, hsome, hshape, hgoes, hrows, hfree, need_true, stop_ok_bind, if_false,
    Option.isSome_none, Option.isNone_none, Bool.and_false, Bool.and_self, Bool.false_eq_true, State.issueRows_completes,
    State.finish_ok]

end

section
variable {s : State} {f : MstoreForm} (hchecks : s.tileChecks f.m.toNat true f.rec_ f.org = .ok ())
  (htag : s.cur.tagAt (s.placeOf f.m.toNat) = f.src) (hahead : s.noRunAhead = .ok ()) (htx : s.noTx 2 = .ok ())
  (hink : s.inkFree = true)
include hchecks htag hahead htx hink

theorem exec_mstore_of_noRow (hnone : s.active = 0) : exec (.mstore f) s = .next (s.closed (s.rowsPaid s f.ecls)) := by
  change execMstore f s = _
  simp only [execMstore, hchecks, htag, hahead, htx, hink, hnone, beq_self_eq_true, need_true, stop_ok_bind, if_true,
    State.issueRows_completes, State.finish_ok]

theorem exec_mstore_of_rows {sh : Shape} {rows : NMap (List (Option ElemAt))} (hsome : s.active ≠ 0)
    (hshape : s.readShape (s.image f.rec_) (· == f.fmt) = .ok sh) (hblocks : f.fmt = .mxfp4 → (s.origin f.org).1 % 32 = 0)
    (hgoes : s.shortAt s.lanesLeft = none)
    (hrows : s.tileRows sh f.shared f.t .wr (s.origin f.org).1 (s.origin f.org).2 none = (rows, none))
    (hfree : s.locsFree (rowPlaces sh rows) = .ok ()) :
    let u := s.recordTouch (s.image f.rec_)
    exec (.mstore f) s = .next (s.closed (u.rowsPaid (if rows = [] then u
      else u.addOp (.store f.m.toNat f.src f.fmt f.rnd f.sat u.sys.pts rows) u.cur.openBatch) f.ecls)) := by
  have halign : (f.fmt != .mxfp4 || (s.origin f.org).1 % 32 == 0) = true := by
    by_cases hfmt : f.fmt = .mxfp4
    · simp [hblocks hfmt]
    · simp [hfmt]
  change execMstore f s = _
  simp only [execMstore, hchecks, htag, hahead, htx, hink, hsome, hshape, halign, hgoes, hrows, hfree, beq_self_eq_true,
    need_true, stop_ok_bind, if_false, List.isEmpty_iff, State.issueRows_completes, State.finish_ok]

end

/-! MMOVE (14 R288). -/

theorem exec_mmove_of_ready {s : State} {f : MmoveForm} (hd : s.tilesOk f.d.toNat 1 = true)
    (hsrc : f.op.tiles.all (fun t => s.tilesOk t 1) = true) (hshadow : s.shadowsOk [f.d.toNat] = true)
    (hsprig : s.noSprig = .ok ()) (hfill : s.fillTag f = .ok ()) (htags : s.tileTags f.fmt f.op.tiles = .ok ())
    (hink : s.inkFree = true) :
    exec (.mmove f) s = .next (s.closed (((s.issueMove f).debit false f.ecls.toNat).opsChanged s.cur.id)) := by
  change execMmove f s = _
  simp only [execMmove, hd, hsrc, hshadow, hsprig, hfill, htags, hink, Bool.and_self, need_true, stop_ok_bind, State.finish_ok]

/-! Batches (14 R289). -/

theorem exec_mbatch_of_room {s : State} (d : BitVec 6) (hsprig : s.noSprig = .ok ()) (hroom : s.over s.cur s.who .mbatch = true) :
    let n := s.cur.openBatch
    exec (.mbatch d) s = .next (s.closed (State.deferS (State.opsChanged
      { s with cur := { s.cur with batch := n, closed := s.cur.closed ++ [n] } } s.cur.id) d .n64 n)) := by
  change execMbatch d s = _
  simp only [execMbatch, hsprig, hroom, need_true, stop_ok_bind, State.finish_ok]

theorem exec_mwait_of_few {s : State} {n : Src} (hsprig : s.noSprig = .ok ()) (htag : s.srcTag countTag n = .ok ())
    (hbound : s.value .n64 n ≤ 15) (hfew : s.over s.cur s.who (.mwait (s.value .n64 n)) = true) :
    exec (.mwait n) s = .next (s.closed s) := by
  change execMwait n s = _
  simp only [execMwait, hsprig, htag, decide_eq_true hbound, hfew, need_true, stop_ok_bind, State.finish_ok]

/-- An operation that neither an earlier one nor a sector holds up is carried out. -/
theorem exec_matrixOpComplete_of_free {s : State} {w : Nat} {x : Wave} {o : Outstanding} (hwave : s.wave? w = some x)
    (hnext : x.nextOp s.fresh = some o) (hruns : s.engineRuns x.ctx = true)
    (hfree : s.heldIO (locSectors o.op.io.1) (locSectors o.op.io.2) (.wave w) (.matrixOpComplete w) = none) :
    let t := s.engineTouch o.op.io.1 o.op.io.2
    exec (.matrixOpComplete w) s = .next ((t.performOp ((t.wave? w).getD x) o).opsChanged w).counted := by
  change execMatrixOpComplete w s = _
  simp only [execMatrixOpComplete, hwave, hnext, hruns, hfree, Bool.not_true, Bool.false_eq_true, if_false, State.event_eq_counted]

theorem exec_batchRetire_of_empty {s : State} {w : Nat} {x : Wave} {b : W64} {rest : List W64} (hwave : s.wave? w = some x)
    (hclosed : x.closed = b :: rest) (hempty : x.ops.any (fun o => o.batch == b) = false) :
    exec (.batchRetire w) s = .next ((s.setWave { x with closed := rest }).opsChanged w).counted := by
  change execBatchRetire w s = _
  simp only [execBatchRetire, hwave, hclosed, hempty, Bool.false_eq_true, if_false, State.event_eq_counted]

/-! Run-ahead (14 R292 to R294). -/

theorem State.noSprig_of_alone {s : State} (h : s.alone = .ok ()) : s.noSprig = .ok () := by
  unfold State.alone at h
  cases hsprig : s.noSprig with
  | ok u => rfl
  | error e => simp [hsprig] at h

theorem exec_pencil_of_alone {s : State} (hold : Bool) (off : BitVec 16) (hclosed : s.cur.runAhead = none)
    (hhandler : s.inHandler = false) (hpencils : 0 < s.cur.foot.pencils) (halone : s.alone = .ok ()) (htx : s.noTx 2 = .ok ()) :
    exec (.pencil hold off) s =
      .next (s.closed { s with cur := { s.cur with runAhead := some ⟨hold, s.offsetTarget off, 0⟩ } }) := by
  change execPencil hold off s = _
  simp only [execPencil, State.noSprig_of_alone halone, hclosed, hhandler, decide_eq_true hpencils, halone, htx,
    Option.isNone_none, Bool.not_false, Bool.and_self, need_true, stop_ok_bind, State.finish_ok]

section
variable {s : State} {a : Src} {r : RunAhead} (hopen : s.cur.runAhead = some r) (hhandler : s.inHandler = false)
  (halone : s.alone = .ok ()) (htag : s.srcTag (fun t => countTag t || t == .mask || t == .addr) a = .ok ())
include hopen hhandler halone htag

/-- INK with a value other than 0 commits the shadows and releases the flags that were held apart. -/
theorem exec_ink_of_commit (hvalue : s.image a ≠ 0) :
    let t := s.commitShadows
    exec (.ink a) s = .next (s.closed
      ((State.raiseFlags { t with cur := t.cur.closeAhead .wave } r.flags).opsChanged s.cur.id)) := by
  change execInk a s = _
  simp only [execInk, State.noSprig_of_alone halone, hopen, hhandler, halone, htag, hvalue, Bool.not_false, need_true,
    stop_ok_bind, ne_eq, not_false_eq_true, if_true, State.finish_ok]

/-- INK with 0 drops the shadows and goes to the other path. -/
theorem exec_ink_of_drop (hvalue : s.image a = 0) :
    exec (.ink a) s = .next (s.closed (State.go { s with cur := s.cur.closeAhead .drop } r.alt)) := by
  change execInk a s = _
  simp only [execInk, State.noSprig_of_alone halone, hopen, hhandler, halone, htag, hvalue, Bool.not_false, need_true,
    stop_ok_bind, ne_eq, not_true_eq_false, if_false, State.finish_ok]

end

/-- Settles O33, word by word and event by event. -/
theorem tilesBatchesAndRunAheadComplete : Obligations.TilesBatchesAndRunAheadComplete := by
  unfold Obligations.TilesBatchesAndRunAheadComplete
  refine ⟨⟨?mload, ?mstore, ?mmove⟩, ⟨?mbatch, ?mwait, ?complete, ?retire⟩, ?pencil, ?ink⟩
  case mload =>
    intro s f hchecks htx hink u paid
    exact ⟨exec_mload_of_noRow hchecks htx hink, fun sh rows => exec_mload_of_rows hchecks htx hink⟩
  case mstore =>
    intro s f hchecks htag hahead htx hink u paid
    exact ⟨exec_mstore_of_noRow hchecks htag hahead htx hink, fun sh rows => exec_mstore_of_rows hchecks htag hahead htx hink⟩
  case mmove => exact fun s f => exec_mmove_of_ready
  case mbatch => exact fun s d => exec_mbatch_of_room d
  case mwait => exact fun s n => exec_mwait_of_few
  case complete => exact fun s w x o => exec_matrixOpComplete_of_free
  case retire => exact fun s w x b rest => exec_batchRetire_of_empty
  case pencil => exact fun s hold off => exec_pencil_of_alone hold off
  case ink =>
    intro s a r hopen hhandler halone htag
    exact ⟨exec_ink_of_commit hopen hhandler halone htag, exec_ink_of_drop hopen hhandler halone htag⟩

end Sys2Proof.Machine
end

section
/-! PROOF. Writes at the home of a sector (17 R324, R327, R332, R340): the times, the sharers and the bytes that a write leaves, and
the statement O56. -/

namespace Sys2Proof.Machine

/-! What the homes show: their times, their bytes and their poison. -/

/-- The parts of the machine on which the state of a home sector and its bytes depend. -/
structure State.Homes where
  mem : Memory
  gt : BitVec 16
  cycle : BitVec 64
  sectors : NMap Sector
  floors : NMap (BitVec 16 × Nat)
  poison : List Nat

def State.homes (s : State) : State.Homes := ⟨s.mem, s.gt, s.cycle, s.sectors, s.floors, s.poison⟩

theorem State.sector_of_homes {s r : State} (h : r.homes = s.homes) (n : Nat) : r.sector n = s.sector n := by
  have hgt : r.gt = s.gt := congrArg State.Homes.gt h
  have hcycle : r.cycle = s.cycle := congrArg State.Homes.cycle h
  have hsectors : r.sectors = s.sectors := congrArg State.Homes.sectors h
  have hfloors : r.floors = s.floors := congrArg State.Homes.floors h
  unfold State.sector State.readTime State.tick
  rw [hgt, hcycle, hsectors, hfloors]

theorem State.homes_postOnce (s : State) (i : Instr) : (s.postOnce i).homes = s.homes := by
  unfold State.postOnce
  split <;> rfl

theorem State.homes_doom (s : State) (by_ : Writer) (blk : Nat) (write : Bool) : (s.doom by_ blk write).homes = s.homes :=
  State.foldl_postOnce_keeps State.homes State.homes_postOnce id _ _

theorem State.homes_notify (s : State) (key : Nat) : (s.notify key).homes = s.homes :=
  State.foldl_postOnce_keeps State.homes State.homes_postOnce id _ _

theorem State.homes_notifyRange (s : State) (key : Nat → Nat) (a n : Nat) : (s.notifyRange key a n).homes = s.homes :=
  List.foldlRecOn (motive := fun t => State.homes t = s.homes) _ _ rfl fun t ht _ _ => (t.homes_notify _).trans ht

theorem State.homes_overPriv (s : State) (t : Target) (pa n : Nat) : (s.overPriv t pa n).homes = s.homes :=
  List.foldlRecOn (motive := fun u => State.homes u = s.homes) _ _ rfl fun u hu _ _ => by
    dsimp only
    split <;> exact hu

/-- Bytes put at their home change memory alone of what the homes show. -/
theorem State.homes_putHome (s : State) (pa : Nat) (bs : List Byte) :
    (s.putHome pa bs).homes = { s.homes with mem := s.mem.puts pa bs } :=
  (State.homes_notifyRange _ _ _ _).trans (State.homes_overPriv _ _ _ _)

/-! The waves that a write dooms stay where they are. -/

theorem nmap_get_map {α β : Type} (f : α → β) (m : NMap α) (k : Nat) :
    NMap.get? (m.map fun e => (e.1, f e.2)) k = (NMap.get? m k).map f := by
  induction m with
  | nil => rfl
  | cons e rest ih => by_cases h : e.1 = k <;> simp [NMap.get?, h, ih]

theorem State.wave?_mapWaves (s : State) {f : Wave → Wave} (h : ∀ w, (f w).id = w.id ∧ (f w).stage = w.stage) (n : Nat) :
    (s.mapWaves f).wave? n = (s.wave? n).map f := by
  have hwaves : (s.mapWaves f).waves = s.waves.map fun e => (e.1, f e.2) := rfl
  have hcur : (s.mapWaves f).cur.id = s.cur.id ∧ (s.mapWaves f).cur.stage = s.cur.stage := by
    unfold State.mapWaves
    dsimp only
    split
    · exact ⟨rfl, rfl⟩
    · exact h _
  unfold State.wave?
  rw [hcur.1, hcur.2, hwaves, nmap_get_map]
  split
  next hlive => simp only [State.mapWaves, hlive.2, if_false, Option.map_some]
  · rfl

theorem State.wave?_postOnce (s : State) (i : Instr) (n : Nat) : (s.postOnce i).wave? n = s.wave? n := by
  unfold State.postOnce
  split <;> rfl

theorem State.ownDie_doom (s : State) (by_ : Writer) (blk : Nat) (write : Bool) (v : Writer) :
    (s.doom by_ blk write).ownDie v = s.ownDie v := by
  cases v with
  | die d => rfl
  | outside => rfl
  | wave n =>
    have hwave : (s.doom by_ blk write).wave? n = (State.mapWaves s _).wave? n :=
      State.foldl_postOnce_keeps (fun t => t.wave? n) (fun t i => t.wave?_postOnce i n) id _ _
    rw [State.wave?_mapWaves _ fun w => by split <;> exact ⟨rfl, rfl⟩] at hwave
    simp only [State.ownDie, hwave, Option.map_map]
    congr 2
    funext w
    dsimp only [Function.comp]
    split <;> rfl

/-! The times of a write (17 R324, R327). -/

theorem timeMax_cases (a b : BitVec 16) : timeMax a b = a ∨ timeMax a b = b := by
  unfold timeMax
  split
  · exact .inr rfl
  · exact .inl rfl

theorem raiseTime_self (t : BitVec 16) : raiseTime t t = t := by simp [raiseTime]

theorem State.gt_raiseGt (s : State) (t : BitVec 16) : (s.raiseGt t).gt = timeMax s.gt t := by
  unfold State.raiseGt State.withGt
  split
  next h => exact h.symm
  · rfl

/-- A sector that has just been given a time keeps it where GT rises to it. -/
theorem State.get_sectors_raiseGt {s : State} {sec : Nat} {x : Sector} {t : BitVec 16} (h : NMap.get? s.sectors sec = some x)
    (hwts : x.wts = t) (hrts : x.rts = t) : NMap.get? (s.raiseGt t).sectors sec = some x := by
  unfold State.raiseGt State.withGt
  split
  · exact h
  next hrises =>
    have hmax : timeMax s.gt t = t := (timeMax_cases s.gt t).resolve_left hrises
    dsimp only
    rw [hmax]
    refine (nmap_get_map (fun x : Sector => { x with wts := raiseTime t x.wts, rts := raiseTime t x.rts }) s.sectors sec).trans ?_
    rw [h, Option.map_some, hwts, hrts, raiseTime_self]
    cases x with
    | mk =>
      cases hwts
      cases hrts
      rfl

theorem State.homes_invalidate (s : State) (sec : Nat) (x : Sector) (keep : BitVec 16) :
    (s.invalidate sec x keep).homes = s.homes :=
  List.foldlRecOn (motive := fun t => State.homes t = s.homes) _ _ rfl fun _ ht _ _ => ht

theorem State.homes_countRepair (s : State) (sec : Nat) (rep : Bool) : (s.countRepair sec rep).homes = s.homes := by
  unfold State.countRepair
  split <;> rfl

theorem State.homes_writeCopy (s : State) (sec : Nat) (kept : Bool) (wts : BitVec 16) :
    (s.writeCopy sec kept wts).homes = s.homes := by
  unfold State.writeCopy
  split <;> rfl

theorem State.poison_raiseGt (s : State) (t : BitVec 16) : (s.raiseGt t).poison = s.poison := by
  unfold State.raiseGt State.withGt
  split <;> rfl

/-- The state of a sector that a write has given its times (17 R327, R332). -/
def State.writtenSector (s : State) (sec : Nat) (words : BitVec 4) (time : BitVec 16) (by_ : Writer) : Sector :=
  let x := s.sector sec
  { (x.written (timeMax time (x.rts + 1)) s.tick).holding words with sharers := x.sharers &&& s.ownDie by_, owner := 0 }

theorem State.homes_cleared (s : State) (sec : Nat) (rep : Bool) : (s.cleared sec rep).homes =
    { s.homes with poison := if rep then s.homes.poison.filter (· != sec) else s.homes.poison } := rfl

theorem State.homes_setSector (s : State) (sec : Nat) (x : Sector) :
    (s.setSector sec x).homes = { s.homes with sectors := NMap.set s.homes.sectors sec x } := rfl

/-- A sector takes the times of a write, GT rises to them, and a repair clears its poison. -/
theorem State.newTimes_shows (s : State) (sec : Nat) (words : BitVec 4) (time : BitVec 16) (rep : Bool) (by_ : Writer) :
    let t := s.newTimes sec words time rep by_
    t.mem = s.mem ∧ t.gt = timeMax s.gt (timeMax time ((s.sector sec).rts + 1)) ∧
    NMap.get? t.sectors sec = some (s.writtenSector sec words time by_) ∧
    t.poison = if rep then s.poison.filter (· != sec) else s.poison := by
  obtain ⟨u, hu, hshows⟩ : ∃ u : State, s.newTimes sec words time rep by_ = u.raiseGt (timeMax time ((s.sector sec).rts + 1)) ∧
      u.homes = { s.homes with sectors := NMap.set s.sectors sec (s.writtenSector sec words time by_),
                               poison := if rep then s.poison.filter (· != sec) else s.poison } := by
    refine ⟨_, rfl, ?_⟩
    have hbefore : ((s.invalidate sec (s.sector sec) (s.ownDie by_)).countRepair sec rep).homes = s.homes :=
      (State.homes_countRepair _ _ _).trans (State.homes_invalidate _ _ _ _)
    generalize (s.invalidate sec (s.sector sec) (s.ownDie by_)).countRepair sec rep = r at hbefore
    have htick : r.tick = s.tick := congrArg (fun x : State.Homes => x.cycle.toNat / 64) hbefore
    rw [State.homes_cleared, State.homes_writeCopy, State.homes_setSector, hbefore, htick]
    rfl
  have hgt : u.gt = s.gt := congrArg State.Homes.gt hshows
  have hsectors : u.sectors = NMap.set s.sectors sec (s.writtenSector sec words time by_) := congrArg State.Homes.sectors hshows
  dsimp only
  rw [hu, State.gt_raiseGt, State.poison_raiseGt, hgt]
  exact ⟨(s.sameMemories_newTimes sec words time rep by_).1 ▸ hu ▸ rfl, rfl,
    State.get_sectors_raiseGt (by rw [hsectors, nmap_get_set]) rfl rfl, congrArg State.Homes.poison hshows⟩

/-! A write that no stash meets. -/

section
variable {s : State} {pa : Nat} (hstash : s.stashOf (pa / 256) = none)
include hstash

theorem State.dropStash_of_none : s.dropStash (pa / 32 / 8) = s := by
  rw [show pa / 32 / 8 = pa / 256 by omega]
  simp only [State.dropStash, hstash]

/-- A write to a poisoned sector is dropped and counted (17 R340). -/
theorem State.homeWrite_of_poisoned (hpoison : s.poison.contains (pa / 32) = true) (bs : List Byte) (time : BitVec 16)
    (by_ : Writer) : s.homeWrite pa bs time false by_ = (s.doom by_ (pa / 32 / 2) true).count 6 3 := by
  have hdoomed : (s.doom by_ (pa / 32 / 2) true).poison = s.poison := congrArg State.Homes.poison (s.homes_doom _ _ _)
  simp only [State.homeWrite, State.homeParts, State.dropStash_of_none hstash, hdoomed, hpoison, Bool.not_false, Bool.and_self,
    if_true]

/-- A write to a sound sector, or a repair, gives the sector its times and lands. -/
theorem State.homeWrite_of_sound {rep : Bool} (hsound : s.poison.contains (pa / 32) = false ∨ rep = true) (bs : List Byte)
    (time : BitVec 16) (by_ : Writer) : s.homeWrite pa bs time rep by_ =
      ((s.doom by_ (pa / 32 / 2) true).newTimes (pa / 32) (sectorWords pa bs.length) time rep by_).putHome pa bs := by
  have hdoomed : (s.doom by_ (pa / 32 / 2) true).poison = s.poison := congrArg State.Homes.poison (s.homes_doom _ _ _)
  have hland : (s.poison.contains (pa / 32) && !rep) = false := by
    rcases hsound with h | h <;> simp only [h, Bool.false_and, Bool.not_true, Bool.and_false]
  have hwords : (0 : BitVec 4) ||| sectorWords pa bs.length = sectorWords pa bs.length := BitVec.zero_or
  simp only [State.homeWrite, State.homeParts, State.dropStash_of_none hstash, hdoomed, hland, Bool.false_eq_true, if_false,
    List.foldl_cons, List.foldl_nil, hwords]

/-- What the homes show after a write that lands (17 R327, R332). -/
theorem State.homeWrite_shows {rep : Bool} (hsound : s.poison.contains (pa / 32) = false ∨ rep = true) (bs : List Byte)
    (time : BitVec 16) (by_ : Writer) :
    let t := s.homeWrite pa bs time rep by_
    t.mem = s.mem.puts pa bs ∧ t.gt = timeMax s.gt (timeMax time ((s.sector (pa / 32)).rts + 1)) ∧
    NMap.get? t.sectors (pa / 32) = some (s.writtenSector (pa / 32) (sectorWords pa bs.length) time by_) ∧
    t.poison = if rep then s.poison.filter (· != pa / 32) else s.poison := by
  rw [State.homeWrite_of_sound hstash hsound]
  have hdoomed := s.homes_doom by_ (pa / 32 / 2) true
  have hdie := s.ownDie_doom by_ (pa / 32 / 2) true by_
  generalize s.doom by_ (pa / 32 / 2) true = r at hdoomed hdie
  obtain ⟨hmem, hgt, hsectors, hpoison⟩ := r.newTimes_shows (pa / 32) (sectorWords pa bs.length) time rep by_
  have hput := State.homes_putHome (r.newTimes (pa / 32) (sectorWords pa bs.length) time rep by_) pa bs
  have htick : r.tick = s.tick := congrArg (fun x : State.Homes => x.cycle.toNat / 64) hdoomed
  simp only [State.writtenSector, State.sector_of_homes hdoomed, hdie, htick] at hsectors
  rw [State.sector_of_homes hdoomed, show r.gt = s.gt from congrArg State.Homes.gt hdoomed] at hgt
  rw [show r.poison = s.poison from congrArg State.Homes.poison hdoomed] at hpoison
  rw [show r.mem = s.mem from congrArg State.Homes.mem hdoomed] at hmem
  exact ⟨(congrArg State.Homes.mem hput).trans (congrArg (Memory.puts · pa bs) hmem), (congrArg State.Homes.gt hput).trans hgt,
    (congrArg (NMap.get? · (pa / 32)) (congrArg State.Homes.sectors hput)).trans hsectors,
    (congrArg State.Homes.poison hput).trans hpoison⟩

end

/-- Settles O56: a write to a sound sector or a repair takes effect, and a write to a poisoned sector is dropped. -/
theorem homeWritesAreVisible : Obligations.HomeWritesAreVisible := by
  unfold Obligations.HomeWritesAreVisible
  intro s pa bs time rep by_ hm hstash hin hne t
  refine ⟨s.memoriesOk_homeWrite pa bs time rep by_ hm, fun hsound => ?_, fun hpoison hrep => ?_⟩
  · obtain ⟨hmem, hgt, hsector, hpoison⟩ := State.homeWrite_shows hstash hsound bs time by_
    refine ⟨fun k hk => ?_, fun a ha => ?_, ⟨_, hsector, rfl, rfl, rfl, rfl⟩, hgt, fun hrep => ?_⟩
    · rw [hmem, get_puts_inside _ _ _ _ hm.1 hk, List.getElem?_eq_getElem hk, List.getD_eq_getElem _ _ hk]
    · rw [hmem, get_puts_outside _ _ _ _ ha]
    · rw [hpoison, hrep, if_pos rfl]
      simp
  · subst hrep
    have hdrops : t = _ := State.homeWrite_of_poisoned hstash hpoison bs time by_
    have hdoomed := s.homes_doom by_ (pa / 32 / 2) true
    rw [hdrops]
    exact ⟨congrArg State.Homes.mem hdoomed, congrArg State.Homes.poison hdoomed⟩

end Sys2Proof.Machine
end

section
/-! PROOF. Device reset (17 R323, R327; 03 R58, R60, R62; 12 R236), and the statement O1. -/

namespace Sys2Proof.Machine

theorem State.memoriesOk_reset : State.reset.memoriesOk := ⟨rfl, rfl, List.forall_mem_nil _, List.forall_mem_nil _⟩

/-- A sector that the L2 does not hold starts from its slice's FLOOR, which reset leaves at 0. -/
theorem State.sector_reset (k : Nat) : (State.reset.sector k).wts = 0 ∧ (State.reset.sector k).rts = 0 ∧
    (State.reset.sector k).sharers = 0 ∧ (State.reset.sector k).owner = 0 := by
  have hfloor : State.reset.readTime 0 0 = 0 := by decide
  exact ⟨hfloor, hfloor, rfl, rfl⟩

theorem State.plate_reset (n p : Nat) : State.reset.plate n p = Plate.reset := by
  change (List.replicate 16 Plate.reset).getD p Plate.reset = Plate.reset
  rw [List.getD_eq_getElem?_getD, List.getElem?_replicate]
  split <;> rfl

/-- Settles O1, part by part of the state after reset. -/
theorem resetState : Obligations.ResetState := by
  unfold Obligations.ResetState
  refine ⟨rfl, rfl, State.memoriesOk_reset, rfl, rfl, State.sector_reset, fun n => ⟨rfl, rfl, rfl⟩, fun n p => ?_, fun a => rfl,
    fun a => rfl⟩
  rw [State.plate_reset]
  rfl

end Sys2Proof.Machine
end

section
/-! PROOF. The events of the device (17 R323, R324, R339; 20 R383, R388, R397 to R400; 12 R236; 01 R17): time, links and peers, resets,
the lifetime record, attestation, firmware and power, and the statement O59. -/

namespace Sys2Proof.Machine

theorem State.foldl_keeps {α β : Type} {part : State → β} {f : State → α → State} (h : ∀ s x, part (f s x) = part s)
    (xs : List α) (s : State) : part (xs.foldl f s) = part s :=
  List.foldlRecOn (motive := fun t => part t = part s) _ _ rfl fun t ht x _ => (h t x).trans ht

/-! TICK (17 R324). -/

/-- What a tick gives a time to, and what it leaves. -/
structure State.TickView where
  gt : BitVec 16
  cycle : BitVec 64
  mem : Memory
  clusters : NMap Cluster
  sys : ThreadSys

def State.tickView (s : State) : State.TickView := ⟨s.gt, s.cycle, s.mem, s.clusters, s.cur.sys⟩

theorem State.tickView_postOnce (s : State) (i : Instr) : (s.postOnce i).tickView = s.tickView := by
  unfold State.postOnce
  split <;> rfl

theorem State.tickView_soon (s : State) (i : Instr) : (s.soon i).tickView = s.tickView := by
  unfold State.soon
  split <;> rfl

theorem State.tickView_mapWaves (s : State) {f : Wave → Wave} (h : ∀ w, (f w).sys = w.sys) :
    (s.mapWaves f).tickView = s.tickView := by
  have hsys : (s.mapWaves f).cur.sys = s.cur.sys := by
    unfold State.mapWaves
    dsimp only
    split
    · rfl
    · exact h _
  change (⟨s.gt, s.cycle, s.mem, s.clusters, (s.mapWaves f).cur.sys⟩ : State.TickView) = _
  rw [hsys]
  rfl

theorem Wave.sys_setThread (w : Wave) (who : Who) (t : Thread) : (w.setThread who t).sys = w.sys := by rw [Wave.setThread_eq]

theorem State.tickView_rewake (s : State) (w : Wave) : (s.rewake w).tickView = s.tickView := by
  refine State.foldl_keeps (fun t x => ?_) _ _
  dsimp only
  split
  case h_5 =>
    split
    · exact t.tickView_postOnce _
    · rfl
  case h_6 => rfl
  all_goals exact t.tickView_postOnce _

theorem State.tickView_followGen (s : State) (asid : BitVec 12) : (s.followGen asid).tickView = s.tickView := by
  unfold State.followGen
  refine (State.foldl_keeps State.tickView_rewake _ _).trans (s.tickView_mapWaves fun w => ?_)
  split
  · refine List.foldlRecOn (motive := fun v => Wave.sys v = w.sys) _ _ rfl fun v hv x _ => ?_
    exact (Wave.sys_setThread v _ _).trans hv
  · rfl

theorem State.tickView_tryBump (s : State) (asid : BitVec 12) :
    Offers (fun t : State => t.tickView = s.tickView) (s.tryBump asid) := .ite (.some rfl) .none

theorem State.tickView_bumpEach (s : State) (asids : List (BitVec 12)) : (s.bumpEach asids).1.tickView = s.tickView := by
  refine List.foldlRecOn (motive := fun acc : State × List (BitVec 12) => acc.1.tickView = s.tickView) asids _ rfl
    fun acc hacc a _ => ?_
  split
  · exact hacc
  · split
    next t ht => exact (State.tickView_followGen _ _).trans ((State.tickView_tryBump _ _ t ht).trans hacc)
    · exact hacc

theorem State.tickView_retryAts (s : State) : s.retryAts.tickView = s.tickView := by
  unfold State.retryAts
  refine (State.foldl_keeps (part := State.tickView) (fun t x => ?_) _ _).trans rfl
  have hbump := t.tickView_bumpEach x.2
  dsimp only
  split <;> exact hbump

/-- The block of a cluster stays at a tick (17 R324 rule 4). -/
def Block.staysAt (tick : Nat) (b : Block) : Bool := b.sealTag.isSome || decide (tick - b.stamp ≤ 16384)

/-- GT and the times of the homes and the waves one tick later. -/
def State.timed (s : State) : State := (s.withGt (s.gt + 1)).mapWaves fun w => w.tickTimes (s.gt + 1)

/-- The blocks that a cluster keeps at a tick. -/
def Cluster.kept (tick : Nat) (k : Cluster) : Cluster := { k with blocks := k.blocks.filter (Block.staysAt tick) }

/-- The machine one tick later, without the blocks that are too old. -/
def State.ticked (s : State) : State :=
  { s.timed with clusters := s.timed.clusters.map fun e => (e.1, e.2.kept s.timed.tick) }

theorem exec_tick (s : State) : exec .tick s = .next (State.counted (s.ticked.retryAts.due.foldl State.postOnce
    (s.ticked.retryAts.lateDrops.foldl State.soon s.ticked.retryAts))) := rfl

theorem State.tickView_timed (s : State) : s.timed.tickView = { s.tickView with
    gt := s.gt + 1, sys := if s.cur.stage = .none then s.cur.sys else (s.cur.tickTimes (s.gt + 1)).sys } := by
  have hgt : (s.withGt (s.gt + 1)).tickView = { s.tickView with gt := s.gt + 1 } ∧ (s.withGt (s.gt + 1)).cur = s.cur := by
    unfold State.withGt
    split
    next h => exact ⟨by rw [h]; rfl, rfl⟩
    · exact ⟨rfl, rfl⟩
  obtain ⟨hview, hcur⟩ := hgt
  have hsys : s.timed.cur.sys = if s.cur.stage = .none then s.cur.sys else (s.cur.tickTimes (s.gt + 1)).sys := by
    unfold State.timed State.mapWaves
    dsimp only
    rw [hcur]
    split <;> rfl
  rw [← hsys]
  exact congrArg (fun v : State.TickView => { v with sys := s.timed.cur.sys }) hview

/-- TICK: GT is one later, a wave's PTS follows, and no block without a seal is too old. -/
theorem tick_completes (s : State) : ∃ t : State, exec .tick s = .next t ∧ t.gt = s.gt + 1 ∧ t.cycle = s.cycle ∧ t.mem = s.mem ∧
    (s.cur.stage ≠ .none → t.cur.sys = { s.cur.sys with pts := tickPts (s.gt + 1) s.cur.sys.pts }) ∧
    ∀ e ∈ t.clusters, ∀ b ∈ e.2.blocks, b.sealTag.isSome = true ∨ t.tick - b.stamp ≤ 16384 := by
  refine ⟨_, exec_tick s, ?_⟩
  have hlast (t : State) : (State.counted (t.due.foldl State.postOnce (t.lateDrops.foldl State.soon t))).tickView = t.tickView :=
    (State.foldl_keeps State.tickView_postOnce _ _).trans (State.foldl_keeps State.tickView_soon _ _)
  have hview := (hlast s.ticked.retryAts).trans s.ticked.tickView_retryAts
  generalize State.counted (s.ticked.retryAts.due.foldl State.postOnce
    (s.ticked.retryAts.lateDrops.foldl State.soon s.ticked.retryAts)) = t at hview
  have htimed := s.tickView_timed
  have hcycle : t.cycle = s.cycle := (congrArg State.TickView.cycle hview).trans (congrArg State.TickView.cycle htimed)
  refine ⟨(congrArg State.TickView.gt hview).trans (congrArg State.TickView.gt htimed), hcycle,
    (congrArg State.TickView.mem hview).trans (congrArg State.TickView.mem htimed), fun hlive => ?_, fun e he b hb => ?_⟩
  · refine (congrArg State.TickView.sys hview).trans ((congrArg State.TickView.sys htimed).trans ?_)
    exact if_neg hlive
  · have hclusters : t.clusters = s.ticked.clusters := congrArg State.TickView.clusters hview
    rw [hclusters] at he
    obtain ⟨k, -, rfl⟩ := List.mem_map.1 he
    have htick : t.tick = s.timed.tick := by
      rw [State.tick, hcycle, ← show s.timed.cycle = s.cycle from congrArg State.TickView.cycle htimed, ← State.tick]
    rw [htick]
    simpa [Block.staysAt] using (List.mem_filter.1 hb).2

/-! The peers that are lost: no other event of the links changes them (20 R383, R388, R391). -/

theorem State.lostPeers_count (s : State) (h bin : Nat) : (s.count h bin).lostPeers = s.lostPeers := rfl

theorem State.lostPeers_vacate (s : State) (gid : Nat) (gone : List Nat) : (s.vacate gid gone).lostPeers = s.lostPeers := by
  unfold State.vacate
  split
  · rfl
  · dsimp only
    split
    · rfl
    · simp only [State.postOnce_lostPeers]

theorem State.lostPeers_failAll (s : State) (gid k : Nat) (g : Group) (code : Nat) (bad : List (Nat × Nat)) :
    (s.failAll gid k g code bad).lostPeers = s.lostPeers := by
  have hfail (t : State) (xs : List Failing) : (t.fail gid xs).lostPeers = t.lostPeers := by
    unfold State.fail
    split <;> simp only [State.postOnce_lostPeers]
  have hclose : (s.closeStep gid k).lostPeers = s.lostPeers := by
    unfold State.closeStep
    split <;> simp only [State.postOnce_lostPeers]
  exact (hfail _ _).trans hclose

theorem State.lostPeers_sendFor (s : State) (p : Nat) (g : Group) (r : Nat) : (s.sendFor p g r).lostPeers = s.lostPeers := by
  refine State.foldl_keeps (fun t x => ?_) _ _
  dsimp only
  split
  · rfl
  · split
    · split <;> rfl
    · split
      · rfl
      · split <;> rfl

theorem State.lostPeers_loseRanks (s : State) (p : Nat) (g : Group) : (s.loseRanks p g).lostPeers = s.lostPeers := by
  unfold State.loseRanks
  dsimp only
  split
  · rfl
  · refine (State.lostPeers_vacate _ _ _).trans ((State.foldl_keeps (fun t r => t.lostPeers_sendFor p g r) _ _).trans ?_)
    exact State.foldl_keeps (fun t k => t.lostPeers_failAll _ k g 2 []) _ _

/-- PEER_LOST of a peer none of whose links works. -/
theorem peerLost_completes {s : State} {p : Nat} (hreached : s.lostPeers.contains p = false) (hdead : s.peerDead p = true) :
    ∃ t : State, exec (.peerLost p) s = .next t ∧ t.lostPeers = insertRising p s.lostPeers := by
  have hguard : (s.lostPeers.contains p || !s.peerDead p) = false := by simp only [hreached, hdead, Bool.not_true, Bool.or_self]
  refine ⟨_, (if_neg (by rw [hguard]; exact Bool.false_ne_true)).trans (State.event_eq_counted _), ?_⟩
  refine (State.foldl_keeps (fun t (x : Nat × Group) => t.lostPeers_loseRanks p x.2) _ _).trans ?_
  refine (State.foldl_keeps (fun t k => State.postOnce_lostPeers t _) _ _).trans ?_
  exact State.foldl_keeps (fun t l => t.lostPeers_count 3 l) _ _

/-! Stores that go on at their homes leave the lost peers as they are. -/

theorem State.lostPeers_soon (s : State) (i : Instr) : (s.soon i).lostPeers = s.lostPeers := by
  unfold State.soon
  split <;> rfl

theorem State.lostPeers_wakeFences (s : State) : s.wakeFences.lostPeers = s.lostPeers :=
  State.wakeFences_keeps State.postOnce_lostPeers State.setWave_lostPeers s

theorem State.lostPeers_raiseGt (s : State) (x : BitVec 16) : (s.raiseGt x).lostPeers = s.lostPeers := by
  unfold State.raiseGt State.withGt
  split <;> rfl

theorem State.lostPeers_returnSome (s : State) (sec : Nat) (keep : Nat → Bool) : (s.returnSome sec keep).lostPeers = s.lostPeers := by
  unfold State.returnSome
  split
  · rfl
  · dsimp only
    split
    · rfl
    · rw [State.setCluster_lostPeers]
      dsimp only
      split
      · rfl
      · exact State.lostPeers_raiseGt _ _

theorem State.lostPeers_dropStash (s : State) (frame : Nat) : (s.dropStash frame).lostPeers = s.lostPeers := by
  unfold State.dropStash
  split
  · rfl
  · refine State.foldl_keeps (part := State.lostPeers) (fun t k => ?_) _ _
    exact t.lostPeers_returnSome _ _

theorem State.lostPeers_doom (s : State) (by_ : Writer) (blk : Nat) (write : Bool) :
    (s.doom by_ blk write).lostPeers = s.lostPeers :=
  State.foldl_postOnce_keeps State.lostPeers State.postOnce_lostPeers id _ _

theorem State.lostPeers_newTimes (s : State) (sec : Nat) (words : BitVec 4) (time : BitVec 16) (rep : Bool) (by_ : Writer) :
    (s.newTimes sec words time rep by_).lostPeers = s.lostPeers := by
  have hcopy (t : State) (kept : Bool) (wts : BitVec 16) : (t.writeCopy sec kept wts).lostPeers = t.lostPeers := by
    unfold State.writeCopy
    split <;> rfl
  have hcount (t : State) : (t.countRepair sec rep).lostPeers = t.lostPeers := by
    unfold State.countRepair
    split <;> rfl
  have htell (x : Sector) (keep : BitVec 16) : (s.invalidate sec x keep).lostPeers = s.lostPeers := by
    refine State.foldl_keeps (fun t b => ?_) _ _
    exact t.send_lostPeers _
  exact (State.lostPeers_raiseGt _ _).trans ((hcopy _ _ _).trans ((hcount _).trans (htell _ _)))

theorem State.lostPeers_notifyRange (s : State) (key : Nat → Nat) (a n : Nat) : (s.notifyRange key a n).lostPeers = s.lostPeers := by
  refine State.foldl_keeps (fun t k => ?_) _ _
  exact State.foldl_postOnce_keeps State.lostPeers State.postOnce_lostPeers id _ _

theorem State.lostPeers_overPriv (s : State) (t : Target) (pa n : Nat) : (s.overPriv t pa n).lostPeers = s.lostPeers :=
  State.foldl_keeps (fun _ _ => by dsimp only; split <;> rfl) _ _

theorem State.lostPeers_putHome (s : State) (pa : Nat) (bs : List Byte) : (s.putHome pa bs).lostPeers = s.lostPeers :=
  (State.lostPeers_notifyRange _ _ _ _).trans (State.lostPeers_overPriv _ _ _ _)

theorem State.lostPeers_homeWrite (s : State) (pa : Nat) (bs : List Byte) (time : BitVec 16) (rep : Bool) (by_ : Writer) :
    (s.homeWrite pa bs time rep by_).lostPeers = s.lostPeers := by
  have hbefore : ((s.dropStash (pa / 32 / 8)).doom by_ (pa / 32 / 2) true).lostPeers = s.lostPeers :=
    (State.lostPeers_doom _ _ _ _).trans (State.lostPeers_dropStash _ _)
  unfold State.homeWrite State.homeParts
  dsimp only
  split
  · exact hbefore
  · exact (State.lostPeers_putHome _ _ _).trans ((State.lostPeers_newTimes _ _ _ _ _ _).trans hbefore)

theorem State.lostPeers_putLines (t : Target) (bs : List Byte) :
    ∀ (s : State) (pa : Nat), (s.putLines t pa bs).lostPeers = s.lostPeers := by
  induction bs with
  | nil => exact fun _ _ => rfl
  | cons b rest ih =>
    intro s pa
    unfold State.putLines
    refine (ih _ _).trans ?_
    split <;> rfl

theorem State.lostPeers_physWrite (s : State) (t : Target) (pa : Nat) (bs : List Byte) (time : BitVec 16) (by_ : Writer) :
    (s.physWrite t pa bs time by_).lostPeers = s.lostPeers := by
  cases t with
  | device => exact State.foldl_keeps (part := State.lostPeers) (fun u k => u.lostPeers_homeWrite _ _ _ _ _) _ _
  | host c =>
    exact (State.lostPeers_notifyRange _ _ _ _).trans ((State.lostPeers_overPriv _ _ _ _).trans (State.lostPeers_putLines _ _ _ _))
  | peer p =>
    exact (State.lostPeers_notifyRange _ _ _ _).trans ((State.lostPeers_overPriv _ _ _ _).trans (State.lostPeers_putLines _ _ _ _))

theorem State.lostPeers_atomReply (s : State) (q : QEntry) (old : Nat) : (s.atomReply q old).lostPeers = s.lostPeers := by
  unfold State.atomReply
  split
  · rfl
  · exact State.fillPending_keeps State.postOnce_lostPeers State.setWave_lostPeers _ _ _ _

theorem State.lostPeers_performEntry (s : State) (c : Nat) (q : QEntry) : (s.performEntry c q).lostPeers = s.lostPeers := by
  unfold State.performEntry
  extract_lets k mark s₁ write bad old u s₂ landed
  have hwrite (v : State) (bs : List Byte) (rep : Bool) : (write v bs rep).lostPeers = v.lostPeers := by
    unfold write
    split
    · exact State.lostPeers_homeWrite _ _ _ _ _ _
    · exact State.lostPeers_physWrite _ _ _ _ _ _
  have hold : u.lostPeers = s.lostPeers := State.lostPeers_atomReply s₁ q old
  change s₂.lostPeers = s.lostPeers
  unfold s₂
  split
  · exact hwrite _ _ _
  · split
    · exact State.lostPeers_atomReply _ _ _
    · split
      · exact (hwrite _ _ _).trans hold
      · exact (State.lostPeers_doom _ _ _ _).trans hold

theorem State.lostPeers_freeBusy (s : State) (sec : Nat) : (s.freeBusy sec).lostPeers = s.lostPeers := by
  unfold State.freeBusy
  dsimp only
  split
  · rfl
  · refine (State.lostPeers_wakeFences _).trans ((State.foldl_keeps State.lostPeers_soon _ _).trans ?_)
    split
    · split
      · exact State.lostPeers_performEntry _ _ _
      · rfl
    · exact State.lostPeers_doom _ _ _ _
    · exact State.lostPeers_soon _ _

theorem State.lostPeers_answered (s : State) (sec sharer : Nat) : (s.answered sec sharer).lostPeers = s.lostPeers := by
  unfold State.answered
  dsimp only
  split
  · rfl
  · split
    · rfl
    · have hcopies : (if sharer < 2 then { s with copies := NMap.erase s.copies sec } else s).lostPeers = s.lostPeers := by
        split <;> rfl
      split
      · exact (State.lostPeers_freeBusy _ _).trans hcopies
      · exact hcopies

theorem State.answered_of_free {s : State} {sec : Nat} (h : (s.sector sec).busy = none) (sharer : Nat) :
    s.answered sec sharer = s := by
  simp only [State.answered, h]

/-- What a map holds under a number stands in its list. -/
theorem nmap_mem_of_get {α : Type} {m : NMap α} {k : Nat} {v : α} (h : NMap.get? m k = some v) : (k, v) ∈ m := by
  induction m with
  | nil => cases h
  | cons e rest ih =>
    by_cases hk : e.1 = k
    · simp only [NMap.get?, hk, if_true, Option.some.injEq] at h
      subst hk h
      exact List.mem_cons_self ..
    · simp only [NMap.get?, hk, if_false] at h
      exact List.mem_cons_of_mem _ (ih h)

theorem State.sector_busy_of_free {s : State} (h : ∀ e ∈ s.sectors, e.2.busy = none) (n : Nat) : (s.sector n).busy = none := by
  unfold State.sector
  split
  next x hx => exact h (n, x) (nmap_mem_of_get hx)
  · rfl

/-- A sector without the peer's copy. -/
def Sector.forget (p : Nat) (x : Sector) : Sector :=
  { x with sharers := x.sharers &&& ~~~outsideBit (.peer p), owner := if x.owner = outsideOwner (.peer p) then 0 else x.owner }

/-- No code of a peer's OWNER is the code of no owner (17 R330). -/
theorem outsideOwner_peer_ne_zero {p : Nat} (h : p ≤ 13) : outsideOwner (.peer p) ≠ 0 := by
  intro e
  have hnum : (0x80 + p) % 256 = 0 := congrArg BitVec.toNat e
  omega

theorem Sector.forget_clears {p : Nat} (h : p ≤ 13) (x : Sector) :
    (x.forget p).sharers &&& outsideBit (.peer p) = 0 ∧ (x.forget p).owner ≠ outsideOwner (.peer p) := by
  refine ⟨?_, ?_⟩
  · change x.sharers &&& ~~~outsideBit (.peer p) &&& outsideBit (.peer p) = 0
    rw [BitVec.and_assoc]
    ext i hi
    simp
  · change (if x.owner = outsideOwner (.peer p) then 0 else x.owner) ≠ _
    split
    · exact (outsideOwner_peer_ne_zero h).symm
    next hne => exact hne

/-- The machine after LINK_RESET of a peer before its sectors forget the peer: writes that waited for it wait no longer. -/
def State.unlinked (s : State) (p : Nat) : State :=
  { s with lostPeers := s.lostPeers.filter (· != p), aborting := s.aborting.filter (· != outsideKey (.peer p)),
           linksDown := s.linksDown.filter fun x => !(s.linksOf p).contains x.1,
           lines := s.lines.filter fun x => !(x.1 % 32 == (Target.peer p).memory) }

theorem exec_linkReset (s : State) (p : Nat) : exec (.linkReset p) s = .next (State.counted
    (let t := (s.unlinked p).sectors.foldl (fun (t : State) e => t.answered e.1 (2 + p)) (s.unlinked p)
     { t with sectors := t.sectors.map fun e => (e.1, e.2.forget p) })) := rfl

/-- LINK_RESET: the peer is served again, and no sector names it. -/
theorem linkReset_completes (s : State) {p : Nat} (hp : p ≤ 13) : ∃ t : State, exec (.linkReset p) s = .next t ∧
    t.lostPeers = s.lostPeers.filter (· != p) ∧ ((∀ e ∈ s.sectors, e.2.busy = none) → t.mem = s.mem) ∧
    ∀ e ∈ t.sectors, e.2.sharers &&& outsideBit (.peer p) = 0 ∧ e.2.owner ≠ outsideOwner (.peer p) := by
  refine ⟨_, exec_linkReset s p, ?_, fun hfree => ?_, fun e he => ?_⟩
  · exact State.foldl_keeps (part := State.lostPeers) (fun t e => t.lostPeers_answered _ _) _ (s.unlinked p)
  · have hsame : (s.unlinked p).sectors.foldl (fun (t : State) e => t.answered e.1 (2 + p)) (s.unlinked p) = s.unlinked p :=
      List.foldlRecOn (motive := fun t => t = s.unlinked p) _ _ rfl fun t ht e _ =>
        (State.answered_of_free (ht ▸ State.sector_busy_of_free (s := s.unlinked p) hfree e.1) _).trans ht
    dsimp only
    rw [hsame]
    rfl
  · obtain ⟨k, -, rfl⟩ := List.mem_map.1 he
    exact Sector.forget_clears hp k.2

theorem exec_linkFail_of_working {s : State} {l : Nat} (h : NMap.get? s.linksDown l = none) :
    exec (.linkFail l) s = .next ({ s with linksDown := NMap.set s.linksDown l s.time }.count 3 l).counted := by
  change execLinkFail l s = _
  simp only [execLinkFail, h, Option.isSome_none, Bool.false_eq_true, if_false, State.event_eq_counted]

/-! The lifetime record, attestation and power (20 R397 to R400). -/

theorem exec_readHistogram_of_beyond {h : Nat} (hh : 7 ≤ h) (b : Nat) (s : State) :
    exec (.readHistogram h b) s = .next (s.send .mctpError).counted := if_pos hh

theorem exec_readHistogram_of_held {h : Nat} (hh : h < 7) (b : Nat) (s : State) : exec (.readHistogram h b) s =
    .next (s.send (.bins ((List.range (Nat.min 64 (binsOf h - b))).map fun k => s.binValue h (b + k)))).counted :=
  if_neg (Nat.not_le.2 hh)

theorem exec_spdmRequest_measurement {n : Nat} (h1 : 1 ≤ n) (h3 : n ≤ 3) (s : State) :
    exec (.spdmRequest n) s = .next (s.send (.measurement n (s.measurement n))).counted :=
  (if_neg (Nat.one_le_iff_ne_zero.1 h1)).trans (if_pos h3)

theorem exec_spdmRequest_of_beyond {n : Nat} (h : 3 < n) (s : State) :
    exec (.spdmRequest n) s = .next (s.send .mctpError).counted :=
  (if_neg (Nat.ne_zero_of_lt h)).trans (if_neg (Nat.not_le.2 h))

theorem exec_throttleStep_down {s : State} (h : s.throttle < 13) (why : Throttle) : exec (.throttleStep true why) s =
    .next ({ s with throttle := s.throttle + 1 }.count 5 (Throttle.bin why)).counted := by
  have hstep : Nat.min 13 (s.throttle + 1) = s.throttle + 1 := Nat.min_eq_right h
  change execThrottleStep true why s = _
  simp only [execThrottleStep, if_true, hstep, Nat.succ_ne_self, if_false, State.event_eq_counted]

theorem exec_throttleStep_up {s : State} (h : 0 < s.throttle) (why : Throttle) : exec (.throttleStep false why) s =
    .next ({ s with throttle := s.throttle - 1 }.count 5 (Throttle.bin why)).counted := by
  have hstep : s.throttle - 1 ≠ s.throttle := by omega
  change execThrottleStep false why s = _
  simp only [execThrottleStep, Bool.false_eq_true, if_false, hstep, State.event_eq_counted]

/-- Settles O59, event by event. -/
theorem deviceEventsComplete : Obligations.DeviceEventsComplete := by
  unfold Obligations.DeviceEventsComplete
  refine ⟨tick_completes, fun s l => exec_linkFail_of_working, fun s l => rfl, fun s p => peerLost_completes,
    fun s p => linkReset_completes s, fun s => ⟨rfl, rfl, rfl, rfl, rfl⟩, fun s h b => ?histogram, fun s c => rfl,
    fun s n => ?spdm, fun s image version => rfl, fun s why => ?throttle⟩
  case histogram => exact ⟨fun hh => exec_readHistogram_of_beyond hh b s, fun hh => exec_readHistogram_of_held hh b s⟩
  case spdm =>
    exact ⟨fun h1 h3 => exec_spdmRequest_measurement h1 h3 s, fun h => exec_spdmRequest_of_beyond h s, fun h => if_pos h⟩
  case throttle => exact ⟨fun h => exec_throttleStep_down h why, fun h => exec_throttleStep_up h why⟩

end Sys2Proof.Machine
end

section
/-! PROOF. Barriers, SIGNAL and WAITV (18 R343 to R347): when a phase completes and how the next begins, what each word and each event
does where nothing stops it, and the statements O41 and O40. -/

namespace Sys2Proof.Machine

/-! The phases of a barrier (18 R344). -/

theorem Bar.complete_iff_of_all {b : Bar} (h : b.mode = some none) (waves : List Nat) :
    b.complete waves = true ↔ b.full ≠ [] ∧ waves.length ≤ b.full.length := by
  simp [Bar.complete, h]

theorem Bar.complete_iff_of_count {b : Bar} {n : Nat} (h : b.mode = some (some n)) (waves : List Nat) :
    b.complete waves = true ↔ b.full ≠ [] ∧ n ≤ b.full.length := by
  simp [Bar.complete, h]

theorem Bar.complete_of_no_arrival {b : Bar} (h : b.mode = none) (waves : List Nat) : b.complete waves = false := by
  simp [Bar.complete, h]

theorem Bar.mem_full_advance (b : Bar) (live : List Nat) (w : Nat) :
    w ∈ (b.advance live).full ↔ w ∉ live ∧ ∃ m, (w, m) ∈ b.nextArrived := by
  simp [Bar.advance, and_comm]

/-- Settles O41, clause by clause. -/
theorem barrierPhases : Obligations.BarrierPhases := by
  unfold Obligations.BarrierPhases
  exact fun b waves live => ⟨fun h => Bar.complete_iff_of_all h waves, fun n h => Bar.complete_iff_of_count h waves,
    fun h => Bar.complete_of_no_arrival h waves, rfl, rfl, Bar.mem_full_advance b live⟩

/-! BAR (18 R343, R344). -/

theorem exec_bar_of_arrival {s : State} {f : BarForm} {next : Bool} {b : Bar} (htag : s.barTag f = .ok ())
    (hcount : ∀ k, (f.cnt.map fun n => (s.image n).toNat) = some k → 1 ≤ k ∧ k ≤ 32) (htx : s.noTx 2 = .ok ())
    (harrive : ((s.bars s.cur).getD f.id.toNat Bar.blank).arrive s.cur (f.cnt.map fun n => (s.image n).toNat) s.active =
      some (next, b))
    (hover : s.over s.cur s.who .accesses = true) :
    let t := (s.setBars ((s.bars s.cur).set f.id.toNat b)).postOnce (.barPhaseComplete s.cur.id f.id.toNat)
    exec (.bar f) s = .next (s.closed (if f.arrive then t else t.block (.bar f.id.toNat next f.scope))) := by
  have hn : (f.cnt.map fun n => (s.image n).toNat).all (fun n => decide (1 ≤ n) && decide (n ≤ 32)) = true := by
    cases hcnt : f.cnt.map fun n => (s.image n).toNat with
    | none => rfl
    | some k => simpa using hcount k hcnt
  change execBar f s = _
  simp only [execBar, htag, need_of_true hn, htx, harrive, need_of_true hover, stop_ok_bind, State.finish_ok]

theorem exec_barPhaseComplete_of_complete {s : State} {w id : Nat} {x : Wave} (hwave : s.wave? w = some x) :
    let ids := s.barWaves x
    let waves := ids.filterMap s.wave?
    let b := waves.foldl (fun (b : Bar) w => b.mark w) ((s.bars x).getD id Bar.blank)
    let c := waves.foldl (fun (b : Bar) w => b.mark w) (b.advance ids)
    let t := s.select w (.split 0)
    let u := t.setBars ((t.bars t.cur).set id c)
    b.complete ids = true →
    exec (.barPhaseComplete w id) s = .next (State.counted (State.post
      (u.mapWaves fun v => if ids.contains v.id then v.passBar id s.gt s.cycle.toNat else v) (.barPhaseComplete w id))) := by
  intro ids waves b c t u hcomplete
  change execBarPhaseComplete w id s = _
  unfold execBarPhaseComplete
  rw [hwave]
  exact (if_neg (by rw [hcomplete]; exact Bool.false_ne_true)).trans (State.event_eq_counted _)

/-! SIGNAL (18 R345). -/

theorem exec_signal_of_accesses {s : State} {f : SignalForm} {ps : List (Nat × Piece)}
    (htag : s.srcTag (baseTag (syncSpace f.shared)) f.a = .ok ()) (hahead : s.noRunAhead = .ok ()) (htx : s.noTx 2 = .ok ())
    (hps : s.wordAccesses (syncSpace f.shared) f.a .rmw = .ok ps) (hover : ps = [] ∨ s.over s.cur s.who .accesses = true)
    (hready : s.memoryReady .rmw ps = .ok ()) :
    exec (.signal f) s = .next (s.closed (ps.foldl (fun t x =>
      t.signal x.2 (.atom (if f.add then .red .add else .exch) .n64 (s.image f.v))) s)) := by
  have hreleased : (ps.isEmpty || s.over s.cur s.who .accesses) = true := by simpa [or_comm] using hover
  change execSignal f s = _
  simp only [execSignal, htag, hahead, htx, hps, need_of_true hreleased, hready, stop_ok_bind, State.finish_ok]

/-! WAITV (18 R346, R347). -/

section
variable {s : State} {f : WaitvForm} (hsprig : s.noSprig = .ok ()) (haddr : s.srcTag (baseTag (syncSpace f.shared)) f.a = .ok ())
  (hval : s.srcTag countTag f.v = .ok ()) (htx : s.noTx 2 = .ok ())
include hsprig haddr hval htx

theorem exec_waitv_of_noLane (hnone : s.wordAccesses (syncSpace f.shared) f.a .rd = .ok []) :
    exec (.waitv f) s = .next (s.closed s) := by
  change execWaitv f s = _
  simp only [execWaitv, hsprig, haddr, hval, htx, hnone, stop_ok_bind, State.finish_ok]

variable {k : Nat} {p : Piece} {rest : List (Nat × Piece)}
  (hps : s.wordAccesses (syncSpace f.shared) f.a .rd = .ok ((k, p) :: rest)) (hover : s.over s.cur s.who .accesses = true)
  (hfree : s.locsFree [(s.waitLoc f p, 8)] = .ok ()) (hsound : s.locPoison (s.waitLoc f p) 8 = false)
include hps hover hfree hsound

theorem exec_waitv_of_met (hmet : waitHolds f.cond (w64 (s.locNum s.cur.team (s.waitLoc f p) 8)) (s.image f.v) = true) :
    exec (.waitv f) s =
      .next (s.closed (s.waitDone f.d (s.waitLoc f p) (w64 (s.locNum s.cur.team (s.waitLoc f p) 8)) f.scope)) := by
  change execWaitv f s = _
  simp only [execWaitv, hsprig, haddr, hval, htx, hps, hover, hfree, hsound, hmet, Bool.not_false, need_true, stop_ok_bind, if_true,
    State.finish_ok]

theorem exec_waitv_of_unmet (hunmet : waitHolds f.cond (w64 (s.locNum s.cur.team (s.waitLoc f p) 8)) (s.image f.v) = false) :
    exec (.waitv f) s = .next (s.halted
      (.park (.waitv f.d f.cond (s.locKey (s.waitLoc f p)) (s.wordAddr f.a) (s.image f.v) f.scope) none)) := by
  change execWaitv f s = _
  simp only [execWaitv, hsprig, haddr, hval, htx, hps, hover, hfree, hsound, hunmet, Bool.not_false, need_true, stop_ok_bind,
    Bool.false_eq_true, if_false, State.finish_error]

end

section
variable {s : State} {w key : Nat} {addr : W64} {who : Who} {x : Wave} {d : BitVec 6} {c : WaitCond} {v : W64} {sc : Scope}
  (hwave : s.wave? w = some x) (hpark : (x.thread who).park = .waitv d c key addr v sc) (hhears : x.hears who = true)
include hwave hpark hhears

section
variable {l : Loc} (hloc : (s.select w who).locate (keyShared key) .rd addr 8 = .ok l)
  (hfree : s.heldAny (locSectors [(l, 8)]) (.waitvRecheck w who) = none)
include hloc hfree

theorem exec_waitvRecheck_of_met
    (hmet : waitHolds c (w64 ((s.select w who).locNum (s.select w who).cur.team l 8)) v = true) :
    let t := s.select w who
    exec (.waitvRecheck w who) s = .next (t.wake (t.waitDone d l (w64 (t.locNum t.cur.team l 8)) sc)).counted := by
  change execWaitvRecheck w who s = _
  simp only [execWaitvRecheck, hwave, hpark, hhears, hloc, hfree, hmet, Bool.not_true, Bool.false_eq_true, if_false, if_true,
    State.event_eq_counted]

theorem exec_waitvRecheck_of_unmet
    (hunmet : waitHolds c (w64 ((s.select w who).locNum (s.select w who).cur.team l 8)) v = false) :
    exec (.waitvRecheck w who) s = .next ((s.select w who).sawLoc l 8).counted := by
  change execWaitvRecheck w who s = _
  simp only [execWaitvRecheck, hwave, hpark, hhears, hloc, hfree, hunmet, Bool.not_true, Bool.false_eq_true, if_false,
    State.event_eq_counted]

end

theorem exec_waitvRecheck_of_fault {e : Nat} {a : W64} (hloc : (s.select w who).locate (keyShared key) .rd addr 8 = .error (e, a))
    (hfree : s.heldAway e (.waitvRecheck w who) = none) :
    exec (.waitvRecheck w who) s = .next ((s.select w who).wordTrap e a).counted := by
  change execWaitvRecheck w who s = _
  simp only [execWaitvRecheck, hwave, hpark, hhears, hloc, hfree, Bool.not_true, Bool.false_eq_true, if_false, Option.getD_none,
    State.event_eq_counted]

end

/-- Settles O40, word by word and event by event. -/
theorem barriersAndSignalsComplete : Obligations.BarriersAndSignalsComplete := by
  unfold Obligations.BarriersAndSignalsComplete
  refine ⟨⟨?bar, ?phase⟩, ?signal, ?waitv, ?recheck⟩
  case bar => exact fun s f next b htag hcount htx harrive hover => exec_bar_of_arrival htag hcount htx harrive hover
  case phase => exact fun s w id x hwave => exec_barPhaseComplete_of_complete hwave
  case signal => exact fun s f ps => exec_signal_of_accesses
  case waitv =>
    intro s f hsprig haddr hval htx
    refine ⟨exec_waitv_of_noLane hsprig haddr hval htx, ?_⟩
    intro k p rest hps l word hover hfree hsound
    exact ⟨exec_waitv_of_met hsprig haddr hval htx hps hover hfree hsound,
      exec_waitv_of_unmet hsprig haddr hval htx hps hover hfree hsound⟩
  case recheck =>
    intro s w key addr who x d c v sc hwave hpark hhears t
    refine ⟨?_, fun e a => exec_waitvRecheck_of_fault hwave hpark hhears⟩
    intro l hloc hfree word
    exact ⟨exec_waitvRecheck_of_met hwave hpark hhears hloc hfree, exec_waitvRecheck_of_unmet hwave hpark hhears hloc hfree⟩

end Sys2Proof.Machine
end

section
/-! PROOF. Rings and AWAIT (18 R348 to R356): what a put and a take of the ring unit come to, what QPUT, QTAKE and AWAIT answer once
their checks pass, and the statements O43 and O42. -/

namespace Sys2Proof.Machine

/-! Puts (18 R351). -/

theorem State.put_of_room {s : State} {glob try_ : Bool} {k : Nat} {vals : List W64} {r : Ring} {ls : List Loc}
    (hring : s.ring glob k .rmw = .ok r) (hempty : vals.contains emptyValue = false)
    (hroom : try_ = true ∨ vals.length ≤ r.cap - r.held)
    (hplaces : s.ringElems glob r .wr r.tail (vals.take (r.cap - r.held)).length = .ok ls) (d : BitVec 6) :
    let vs := vals.take (r.cap - r.held)
    let t := (ls.zip vs).foldl (fun t x => t.ringWrite x.1 x.2) (s.sawLoc r.hdr 16)
    s.put d glob try_ k vals = .ok (some (([(r.hdr, 16)], r.written vs.length ++ ls.map (·, 8)),
      ((t.ringCounts r vs.length r.head (r.tail + vs.length)).ringDone glob k true).deferS d .n64 (w64 vs.length))) := by
  have hfits : (!try_ && decide (r.cap < vals.length)) = false ∧ (!try_ && decide (r.cap - r.held < vals.length)) = false := by
    rcases hroom with htry | hlen
    · simp only [htry, Bool.not_true, Bool.false_and, and_self]
    · simp only [decide_eq_false (show ¬ r.cap < vals.length by omega),
        decide_eq_false (show ¬ r.cap - r.held < vals.length by omega), Bool.and_false, and_self]
  simp only [State.put, hring, hempty, hfits.1, hfits.2, hplaces, Bool.or_self, Bool.false_eq_true, if_false]

theorem State.put_of_full {s : State} {glob : Bool} {k : Nat} {vals : List W64} {r : Ring} (hring : s.ring glob k .rmw = .ok r)
    (hempty : vals.contains emptyValue = false) (hcap : vals.length ≤ r.cap) (hfull : r.cap - r.held < vals.length)
    (d : BitVec 6) : s.put d glob false k vals = .ok none := by
  simp only [State.put, hring, hempty, decide_eq_false (Nat.not_lt.2 hcap), decide_eq_true hfull, Bool.not_false, Bool.and_false,
    Bool.or_self, Bool.and_self, Bool.false_eq_true, if_false, if_true]

/-! Takes (18 R352). -/

/-- The destination of a take receives the elements taken. -/
def State.giveTaken (t : State) (d : Dest) (lanes : Mask) (vs : List W64) : State :=
  match d with
  | .s x => t.deferS x .b64 (vs.headD emptyValue)
  | .v x => t.defer [(.v x.toNat, .b64, lanes, takenAt lanes vs)] 0 [] none

/-- A take from a global ring under a wide scope is an acquire. -/
def State.takeAcquires (t : State) (sc : Scope) (glob : Bool) : State :=
  if wideScope sc && glob then t.setSys (t.sys.acquire t.gt) else t

/-- The elements that a take asks for. -/
def elemsWanted (d : Dest) (lanes : Mask) : Nat :=
  match d with
  | .s _ => 1
  | .v _ => lanes.count

section
variable {s : State} {glob : Bool} {k : Nat} {r : Ring} (hring : s.ring glob k .rmw = .ok r)
include hring

theorem State.take_of_empty (hheld : r.held = 0) (d : Dest) (lanes : Mask) (sc : Scope) :
    s.take d glob false k lanes sc = .ok none := by
  simp only [State.take, hring, hheld, Bool.not_false, beq_self_eq_true, Bool.and_self, if_true]

theorem State.take_of_elems {d : Dest} {try_ : Bool} {lanes : Mask} {ls : List Loc} (hgoes : try_ = true ∨ r.held ≠ 0)
    (hplaces : s.ringElems glob r .rd r.head (Nat.min (elemsWanted d lanes) r.held) = .ok ls) (sc : Scope) :
    let vs := ls.map fun l => w64 (s.locNum s.cur.team l 8)
    let t := ls.foldl (fun t l => t.sawLoc l 8) (s.sawLoc r.hdr 16)
    s.take d glob try_ k lanes sc = .ok (some (((r.hdr, 16) :: ls.map (·, 8), r.written vs.length),
      (((t.ringCounts r vs.length (r.head + vs.length) r.tail).ringDone glob k false).giveTaken d lanes vs).takeAcquires sc glob)) := by
  have hwaits : (!try_ && r.held == 0) = false := by
    rcases hgoes with h | h <;> simp [h]
  cases d <;> simp only [elemsWanted] at hplaces <;>
    simp only [State.take, hring, hwaits, hplaces, Bool.false_eq_true, if_false] <;> rfl

theorem State.take_of_try {d : Dest} (hheld : r.held = 0) (lanes : Mask) (sc : Scope) : s.take d glob true k lanes sc =
    .ok (some (([(r.hdr, 16)], []), (((s.sawLoc r.hdr 16).ringDone glob k false).giveTaken d lanes []).takeAcquires sc glob)) := by
  have hplaces : s.ringElems glob r .rd r.head (Nat.min (elemsWanted d lanes) r.held) = .ok [] := by
    rw [hheld, show Nat.min (elemsWanted d lanes) 0 = 0 from Nat.min_zero _]
    rfl
  exact State.take_of_elems hring (.inl rfl) hplaces sc

end

theorem takenAt_nil (lanes : Mask) (l : Nat) : takenAt lanes [] l = emptyValue := rfl

/-- The lanes of a mask below one of them. -/
theorem Mask.toList_filter_lt (m : Mask) {l : Nat} (hl : l < 32) :
    (m.toList.filter fun k => decide (k < l)) = (List.range l).filter m.has := by
  have hsplit : List.range 32 = List.range l ++ (List.range (32 - l)).map (l + ·) := by
    rw [← List.range_add, Nat.add_sub_cancel' (Nat.le_of_lt hl)]
  have hlow : ((List.range l).filter fun k => decide (k < l)) = List.range l :=
    List.filter_eq_self.2 fun k hk => decide_eq_true (List.mem_range.1 hk)
  have hhigh : (((List.range (32 - l)).map (l + ·)).filter fun k => decide (k < l)) = [] :=
    List.filter_eq_nil_iff.2 fun k hk => by
      obtain ⟨j, -, rfl⟩ := List.mem_map.1 hk
      simp
  rw [Mask.toList, List.filter_comm, hsplit, List.filter_append, hlow, hhigh, List.append_nil]

/-- A lane that is served receives the element of its place among the lanes. -/
theorem takenAt_of_served {lanes : Mask} {vs : List W64} {l : Nat} (hlane : lanes.has l = true) (hl : l < 32)
    (hcount : lanes.count ≤ vs.length) : takenAt lanes vs l = vs.getD ((List.range l).filter lanes.has).length 0 := by
  have hbelow : ((List.range l).filter lanes.has).length < lanes.count := by
    have hupto : ((List.range (l + 1)).filter lanes.has).length = ((List.range l).filter lanes.has).length + 1 := by
      simp [List.range_succ, hlane]
    have hsub : ((List.range (l + 1)).filter lanes.has).Sublist lanes.toList :=
      (List.range_sublist.2 hl).filter _
    have hlen := hsub.length_le
    rw [hupto] at hlen
    exact hlen
  have hplace := Nat.lt_of_lt_of_le hbelow hcount
  rw [takenAt, Mask.toList_filter_lt lanes hl, List.getD_eq_getElem _ _ hplace, List.getD_eq_getElem _ _ hplace]

/-- Settles O43, put by put and take by take. -/
theorem ringUnit : Obligations.RingUnit := by
  unfold Obligations.RingUnit
  refine ⟨?put, ?full, ?empty, ?take, takenAt_nil, fun lanes vs l => takenAt_of_served⟩
  case put =>
    intro s d glob try_ k vals r ls hring hempty hroom vs hplaces
    exact State.put_of_room hring hempty hroom hplaces d
  case full => exact fun s d glob k vals r hring hempty hcap hfull => State.put_of_full hring hempty hcap hfull d
  case empty => exact fun s d glob k lanes sc r hring hheld => State.take_of_empty hring hheld d lanes sc
  case take =>
    intro s d glob try_ k lanes sc r hring give acquire
    refine ⟨fun hheld => ?_, fun ls hheld hplaces => ?_⟩
    · rw [State.take_of_try hring hheld]
      cases d <;> rfl
    · cases d with
      | s x => exact State.take_of_elems (d := .s x) (lanes := lanes) hring (.inr hheld) hplaces sc
      | v x => exact State.take_of_elems (d := .v x) hring (.inr hheld) hplaces sc

/-! QPUT, QTAKE and RING_WAKE (18 R351, R352). -/

theorem State.ringIssue_of_step {s t : State} {reads writes : List (Loc × Nat)} (hfree : s.locsFree reads = .ok ())
    (hclaims : s.claims (locSectors writes) = .ok ()) (p : Park) :
    s.ringIssue (.ok (some ((reads, writes), t))) p = .ok t := by
  simp only [State.ringIssue, hfree, hclaims, stop_ok_bind]

section
variable {s : State} {f : QputForm} (hv : s.opOk f.v = true) (hsprig : s.noSprig = .ok ()) (htag : s.srcTag countTag f.k = .ok ())
  (hahead : s.noRunAhead = .ok ()) (htx : s.noTx 2 = .ok ())
include hv hsprig htag hahead htx

theorem exec_qput_of_nothing (hnone : s.putValues f = []) : exec (.qput f) s = .next (s.closed (s.deferS f.d .n64 0)) := by
  change execQput f s = _
  simp only [execQput, hv, hsprig, htag, hahead, htx, hnone, need_true, stop_ok_bind, List.isEmpty_nil, if_true, State.finish_ok]

theorem exec_qput_of_step (hsome : s.putValues f ≠ []) (hover : s.over s.cur s.who .accesses = true)
    {reads writes : List (Loc × Nat)} {t : State}
    (hstep : s.put f.d f.glob f.try_ (s.image f.k).toNat (s.putValues f) = .ok (some ((reads, writes), t)))
    (hfree : s.locsFree reads = .ok ()) (hclaims : s.claims (locSectors writes) = .ok ()) :
    exec (.qput f) s = .next (s.closed t) := by
  have hvals : (s.putValues f).isEmpty = false := by simpa using hsome
  change execQput f s = _
  simp only [execQput, hv, hsprig, htag, hahead, htx, hvals, hover, hstep, State.ringIssue_of_step hfree hclaims, need_true,
    stop_ok_bind, Bool.false_eq_true, if_false, State.finish_ok]

end

section
variable {s : State} {f : QtakeForm} (hd : s.destOk f.d = true) (hsprig : s.noSprig = .ok ())
  (htag : s.srcTag countTag f.k = .ok ()) (hahead : s.noRunAhead = .ok ()) (htx : s.noTx 2 = .ok ())
include hd hsprig htag hahead htx

theorem exec_qtake_of_noLane (hnone : s.active = 0) : exec (.qtake f) s = .next (s.closed s) := by
  change execQtake f s = _
  simp only [execQtake, hd, hsprig, htag, hahead, htx, hnone, need_true, stop_ok_bind, if_true, State.finish_ok]

theorem exec_qtake_of_step (hsome : s.active ≠ 0) (hover : s.over s.cur s.who .accesses = true)
    {reads writes : List (Loc × Nat)} {t : State}
    (hstep : s.take f.d f.glob f.try_ (s.image f.k).toNat s.active f.scope = .ok (some ((reads, writes), t)))
    (hfree : s.locsFree reads = .ok ()) (hclaims : s.claims (locSectors writes) = .ok ()) :
    exec (.qtake f) s = .next (s.closed t) := by
  change execQtake f s = _
  simp only [execQtake, hd, hsprig, htag, hahead, htx, hsome, hover, hstep, State.ringIssue_of_step hfree hclaims, need_true,
    stop_ok_bind, if_false, State.finish_ok]

end

theorem exec_ringWake_of_step {s u : State} {w : Nat} {who : Who} {x : Wave} {reads writes : List (Loc × Nat)}
    (hwave : s.wave? w = some x) (hhears : x.hears who = true)
    (hstep : (s.select w who).ringStep (s.select w who).thread.park = some (.ok (some ((reads, writes), u))))
    (hfree : s.heldIO (locSectors reads) (locSectors writes) (.wave w) (.ringWake w who) = none) :
    exec (.ringWake w who) s = .next ((s.select w who).wake u).counted := by
  change execRingWake w who s = _
  simp only [execRingWake, hwave, hhears, hstep, hfree, Bool.not_true, Bool.false_eq_true, if_false, State.event_eq_counted]

/-! AWAIT (18 R353, R354). -/

section
variable {s : State} {f : AwaitForm} {c : AwaitCond} (hnames : s.awaitNames f = true) (hsprig : s.noSprig = .ok ())
  (hcond : s.awaitCond f = .ok c)
include hnames hsprig hcond

theorem exec_await_of_met (hmet : s.awaitHolds c = .ok true) : exec (.await f) s = .next (s.closed s) := by
  change execAwait f s = _
  simp only [execAwait, hnames, hsprig, hcond, hmet, need_true, stop_ok_bind, State.finish_ok]

variable (hunmet : s.awaitHolds c = .ok false)
include hunmet

theorem exec_await_of_heard (hheard : s.heardNow c = true) : exec (.await f) s = .next (s.closed s) := by
  change execAwait f s = _
  simp only [execAwait, hnames, hsprig, hcond, hunmet, hheard, need_true, stop_ok_bind, if_true, State.finish_ok]

theorem exec_await_of_unheard (hunheard : s.heardNow c = false) :
    exec (.await f) s = .next (s.halted (.park (.await c) none)) := by
  change execAwait f s = _
  simp only [execAwait, hnames, hsprig, hcond, hunmet, hunheard, need_true, stop_ok_bind, Bool.false_eq_true, if_false,
    State.finish_error]

end

section
variable {s : State} {w : Nat} {who : Who} {x : Wave} {c : AwaitCond} (hwave : s.wave? w = some x)
  (hpark : (x.thread who).park = .await c) (hmet : (s.select w who).awaitHolds c = .ok true)
include hwave hpark hmet

theorem exec_awaitWake_of_swapped (hstage : x.stage = .swapped) :
    exec (.awaitWake w who) s = .next (s.postOnce (.waveSwapIn w)).counted := by
  change execAwaitWake w who s = _
  simp only [execAwaitWake, hwave, hpark, hmet, hstage, if_true, State.event_eq_counted]

theorem exec_awaitWake_of_hearing (hstage : x.stage ≠ .swapped) (hhears : x.hears who = true) :
    exec (.awaitWake w who) s = .next ((s.select w who).hear.wake (s.select w who)).counted := by
  change execAwaitWake w who s = _
  simp only [execAwaitWake, hwave, hpark, hmet, hstage, hhears, if_false, if_true, State.event_eq_counted]

end

/-- Settles O42, word by word and event by event. -/
theorem ringsAndAwaitsComplete : Obligations.RingsAndAwaitsComplete := by
  unfold Obligations.RingsAndAwaitsComplete
  refine ⟨⟨?qput, ?qtake, ?ringWake⟩, ?await, ?awaitWake, fun s => rfl⟩
  case qput =>
    intro s f hv hsprig htag hahead htx step
    exact ⟨exec_qput_of_nothing hv hsprig htag hahead htx, fun hsome hover reads writes t hstep hfree hclaims =>
      exec_qput_of_step hv hsprig htag hahead htx hsome hover hstep hfree hclaims⟩
  case qtake =>
    intro s f hd hsprig htag hahead htx step
    exact ⟨exec_qtake_of_noLane hd hsprig htag hahead htx, fun hsome hover reads writes t hstep hfree hclaims =>
      exec_qtake_of_step hd hsprig htag hahead htx hsome hover hstep hfree hclaims⟩
  case ringWake =>
    intro s w who x reads writes u hwave hhears t hstep hfree
    exact exec_ringWake_of_step hwave hhears hstep hfree
  case await =>
    intro s f c hnames hsprig hcond
    exact ⟨exec_await_of_met hnames hsprig hcond, exec_await_of_heard hnames hsprig hcond,
      exec_await_of_unheard hnames hsprig hcond⟩
  case awaitWake =>
    intro s w who x c hwave hpark hmet
    exact ⟨exec_awaitWake_of_swapped hwave hpark hmet, exec_awaitWake_of_hearing hwave hpark hmet⟩

end Sys2Proof.Machine
end

section
/-! PROOF. Long instructions and a SAVE that waits (19 R362, R373, R374; 11 R227; 15 R309): where REBAL, TOPK and PATGEN stop short,
what the stop leaves, and the statement O23. -/

namespace Sys2Proof.Machine

/-! A stop at a pre-emption point (19 R374). -/

/-- A thread written with the PC that it has keeps it, whether or not the wave holds the thread. -/
theorem State.pc_setThread_same {s : State} {t : Thread} (h : t.pc = s.thread.pc) : (s.setThread t).thread.pc = s.thread.pc := by
  unfold State.thread State.setThread Wave.setThread Wave.thread at *
  cases hw : s.who with
  | split n => simpa [hw, NMap.getD] using h
  | sprig j =>
    simp only [hw] at h ⊢
    cases hp : NMap.get? s.cur.sprigs j with
    | none => simp [hp]
    | some p => simpa [hp] using h
  | handler =>
    simp only [hw] at h ⊢
    cases hf : s.cur.frame with
    | none => simp [hf]
    | some f => simpa [hf] using h

theorem State.mark_of_unmarked {s : State} (h : s.issue.marker = false) : s.mark = s := by
  simp only [State.mark, h, Bool.not_false, if_true]

theorem State.settle_of_done {s : State} (hdone : s.issue.transfer = some .done) (slot : Nat) : s.settle slot =
    (s.groupOver.setThread { s.thread with chained := false, heard := false, choice := none }).mark.seeNow := by
  simp only [State.settle, hdone]
  rfl

theorem State.pc_settle_of_done {s : State} (hdone : s.issue.transfer = some .done) (hmarker : s.issue.marker = false)
    (slot : Nat) : (s.settle slot).thread.pc = s.thread.pc := by
  rw [State.settle_of_done hdone, State.mark_of_unmarked (s := s.groupOver.setThread _) hmarker]
  exact State.pc_setThread_same (s := s.groupOver) (t := { s.thread with chained := false, heard := false, choice := none }) rfl

/-- The state of a long instruction that stops before a unit: PROG names the unit, and the SAVE is the next event. -/
def State.stoppedBefore (s t : State) (k : Nat) : State :=
  let u := t.setProg (w64 k)
  State.soon { u with agenda := u.agenda.filter (· != Instr.save s.cur.ctx),
                      issue := { u.issue with marker := false, transfer := some .done } } (.save s.cur.ctx)

theorem State.closeLong_of_cut {s : State} (halone : s.issue.multi = false) (t : State) (k : Nat) :
    s.closeLong t none (some k) = .ok (s.stoppedBefore t k) := by
  simp only [State.closeLong, State.stopShort, halone, Bool.false_eq_true, if_false]
  rfl

theorem State.prog_stoppedBefore (s t : State) (k : Nat) : (s.stoppedBefore t k).cur.prog = w64 k := by
  unfold State.stoppedBefore State.soon
  dsimp only
  split <;> rfl

theorem State.mem_urgent_soon (s : State) (i : Instr) : i ∈ (s.soon i).urgent := by
  unfold State.soon
  split
  next h => simpa using h
  · simp

theorem State.urgent_stoppedBefore {t : State} (h : t.urgent = []) (s : State) (k : Nat) :
    (s.stoppedBefore t k).urgent = [.save s.cur.ctx] := by
  simp [State.stoppedBefore, State.soon, State.setProg, h]

theorem State.pc_closed_stoppedBefore {s t : State} (halone : s.issue.multi = false) (hpc : t.thread.pc = s.thread.pc) (k : Nat) :
    (s.closed (s.stoppedBefore t k)).thread.pc = s.thread.pc := by
  have hsoon (u : State) (i : Instr) : (u.soon i).issue = u.issue ∧ (u.soon i).thread = u.thread := by
    unfold State.soon
    split <;> exact ⟨rfl, rfl⟩
  obtain ⟨hissue, hthread⟩ := hsoon { t.setProg (w64 k) with
    agenda := (t.setProg (w64 k)).agenda.filter (· != Instr.save s.cur.ctx),
    issue := { (t.setProg (w64 k)).issue with marker := false, transfer := some .done } } (.save s.cur.ctx)
  rw [State.closed, if_neg (by rw [halone]; exact Bool.false_ne_true), State.pc_settle_of_done]
  · exact (congrArg Thread.pc hthread).trans hpc
  · exact congrArg Issue.transfer hissue
  · exact congrArg Issue.marker hissue

/-! Long instructions that a SAVE may stop (19 R373). -/

/-- A long instruction has completed, or stopped before one of its units but the first where a SAVE of the context waits. -/
def State.YieldsOnlyToSave (s u : State) (units : List Nat) : Prop := u.cur.prog = 0 ∨
  ∃ k ∈ units.drop 1, u.cur.prog = w64 k ∧ Instr.save s.cur.ctx ∈ s.agenda ∧ Instr.save s.cur.ctx ∈ u.urgent

/-- An instruction stops short only where a SAVE of its context waits. -/
theorem State.save_of_shortAt {s : State} {units : List Nat} {k : Nat} (h : s.shortAt units = some k) :
    k ∈ units.drop 1 ∧ Instr.save s.cur.ctx ∈ s.agenda := by
  refine ⟨List.mem_of_find?_eq_some h, ?_⟩
  have hstops := List.find?_some h
  simp only [State.stopsShort, Bool.and_eq_true, List.contains_iff_mem] at hstops
  exact hstops.1.1

theorem State.closeLong_yields {s : State} (halone : s.issue.multi = false) (t : State) (units : List Nat) :
    ∃ u, s.closeLong t none (s.shortAt units) = .ok u ∧ s.YieldsOnlyToSave u units := by
  cases hcut : s.shortAt units with
  | none => exact ⟨t.endLong, rfl, .inl rfl⟩
  | some k =>
    obtain ⟨hunit, hsave⟩ := State.save_of_shortAt hcut
    exact ⟨_, State.closeLong_of_cut halone t k,
      .inr ⟨k, hunit, s.prog_stoppedBefore t k, hsave, State.mem_urgent_soon _ _⟩⟩

/-- The end of a long instruction without a fault, without an active lane too (11 R227). -/
theorem State.finish_long_yields {s : State} (halone : s.issue.multi = false) (t : State) (units : List Nat) :
    ∃ u, s.finish (if s.active = 0 then .ok s.endLong else s.closeLong t none (s.shortAt units)) = .next (s.closed u) ∧
      s.YieldsOnlyToSave u units := by
  split
  · exact ⟨s.endLong, rfl, .inl rfl⟩
  · obtain ⟨u, hu, hyields⟩ := State.closeLong_yields halone t units
    exact ⟨u, by rw [hu, State.finish_ok], hyields⟩

/-! REBAL, TOPK and PATGEN once their checks pass (11 R222, R223; 15 R307). -/

theorem exec_rebal_yields {s : State} {d a : BitVec 7} {b : BitVec 6} (halone : s.issue.multi = false)
    (hd : s.regOk d.toNat = true) (ha : s.regOk a.toNat = true) (hsprig : s.inSprig = false)
    (htag : s.tagIn (fun t => t == .n32 || t == .idx32 || t == .b64) (.v a) = .ok ())
    (hcount : s.srcTag countTag (.s b) = .ok ()) (hpart : s.partialReady none (.v d) = .ok ()) :
    ∃ u, exec (.rebal d a b) s = .next (s.closed u) ∧ s.YieldsOnlyToSave u s.rebalRest.toList := by
  change ∃ u, execRebal d a b s = _ ∧ _
  simp only [execRebal, hd, ha, hsprig, htag, hcount, hpart, Bool.and_self, Bool.not_false, need_true, stop_ok_bind]
  exact State.finish_long_yields halone _ _

theorem exec_topk_yields {s : State} {f : TopkForm} (halone : s.issue.multi = false)
    (hd : s.regsOk f.d.toNat 2 = true) (ha : s.regOk f.a.toNat = true)
    (hsprig : s.inSprig = false) (htag : s.tagIn (· == f.fmt) (.v f.a) = .ok ()) (hcount : s.srcTag countTag (.s f.b) = .ok ())
    (hvalues : s.awaits (.v f.d.toNat) = false) (hindices : s.awaits (.v (f.d.toNat + 1)) = false)
    (hownValues : s.awaitsOwn (.v f.d.toNat) = false) (hownIndices : s.awaitsOwn (.v (f.d.toNat + 1)) = false) :
    ∃ u, exec (.topk f) s = .next (s.closed u) ∧
      s.YieldsOnlyToSave u ((List.range (f.k1.toNat + 1)).filter fun j => decide (s.cur.prog.toNat ≤ j)) := by
  change ∃ u, execTopk f s = _ ∧ _
  simp only [execTopk, hd, ha, hsprig, htag, hcount, hvalues, hindices, hownValues, hownIndices, Bool.and_self, Bool.not_false,
    need_true, stop_ok_bind]
  exact State.finish_long_yields halone _ _

theorem exec_patgen_yields {s : State} {f : PatgenForm} {b : Bind} {p : Pat} (halone : s.issue.multi = false)
    (hd : s.regOk f.d.toNat = true) (hsprig : s.noSprig = .ok ()) (hbound : s.boundPattern f.slot.toNat = some (b, p))
    (hline : s.srcTag countTag f.a = .ok ()) (hpos : s.srcTag countTag (.s f.b) = .ok ())
    (hwalks : (!f.tr || b.invptr != 0 || p.invertible) = true)
    (hover : (!f.tr || b.invptr == 0 || s.over s.cur s.who .accesses) = true)
    (hready : s.wAllReady (s.wPieces (s.patWalk f b p (s.shortAt s.lanesLeft)).places) = .ok ())
    (hfault : (s.patWalk f b p (s.shortAt s.lanesLeft)).fault = none) :
    ∃ u, exec (.patgen f) s = .next (s.closed u) ∧ s.YieldsOnlyToSave u s.lanesLeft := by
  change ∃ u, execPatgen f s = _ ∧ _
  simp only [execPatgen, hd, hsprig, hbound, hline, hpos, hwalks, hover, hready, hfault, need_true, stop_ok_bind, Option.map_none,
    Option.none_or, Option.isSome_none, Bool.false_eq_true, if_false]
  exact State.finish_long_yields halone _ _

/-- Settles O23: a stop writes PROG and makes the SAVE the next event, and each of the three instructions completes or stops so. -/
theorem longInstructionsYieldToASave : Obligations.LongInstructionsYieldToASave := by
  unfold Obligations.LongInstructionsYieldToASave
  intro yields
  refine ⟨?stop, ?rebal, ?topk, ?patgen⟩
  case stop =>
    intro s t k halone hurgent hpc
    exact ⟨_, State.closeLong_of_cut halone t k, s.prog_stoppedBefore t k, State.urgent_stoppedBefore hurgent s k,
      State.pc_closed_stoppedBefore halone hpc k⟩
  case rebal => exact fun s d a b => exec_rebal_yields
  case topk => exact fun s f => exec_topk_yields
  case patgen =>
    intro s f b p halone hd hsprig hbound hline hpos hwalks hover
    exact exec_patgen_yields halone hd hsprig hbound hline hpos (by simpa [or_assoc] using hwalks) (by simpa [or_assoc] using hover)

end Sys2Proof.Machine
end

section
/-! PROOF. Traps (19 R363 to R371): the state in which a split enters its handler, the state in which a fatal trap leaves its wave, the
return from a handler, and the statements O46, O47 and O48. -/

namespace Sys2Proof.Machine

/-! Entry to the handler (19 R363, R364, R366, R367). -/

/-- The frame of a handler that a split enters (19 R366). -/
def State.entryFrame (s : State) (n : Nat) (t : Thread) (resume : PC) : Frame :=
  { resume := resume, saved := [60, 61, 62, 63].map fun r => s.cur.file.sregs.getD r ⟨.b64, 0⟩, cwin := s.cur.sys.cwin,
    pdepth := t.preds.length, rdepth := t.stack.length, from_ := .split n, sprigSplit := n,
    handler := { t with pc := ⟨s.const s.cur 7 52, 0⟩, park := .run, chained := false, mark := false, heard := false,
                        choice := none } }

/-- TRAPINFO and TRAPADDR written. -/
def State.setTrapRegs (s : State) (info addr : W64) : State :=
  { s with cur := { s.cur with trapinfo := info, trapaddr := addr } }

/-- The machine when split `n`, which issues and stands as `t`, has entered its handler. -/
def State.entered (s : State) (n : Nat) (info addr : W64) (t : Thread) (resume : PC) : State :=
  { s with who := .handler, cur := { s.cur with
      trapinfo := info, trapaddr := addr, splits := NMap.set s.cur.splits n { s.thread with pc := resume, blocked := t.blocked },
      frame := some (s.entryFrame n t resume), sys := { s.cur.sys with cwin := 7 } } }

theorem State.thread_setTrapRegs (s : State) (info addr : W64) : (s.setTrapRegs info addr).thread = s.thread := rfl

theorem State.enterHandler_of_split_eq {s : State} {n : Nat} (hwho : s.who = .split n) (info addr : W64) (t : Thread) (resume : PC) :
    (s.setTrapRegs info addr).enterHandler t resume = s.entered n info addr t resume := by
  have hwho' : (s.setTrapRegs info addr).who = .split n := hwho
  simp only [State.enterHandler, State.setThread, Wave.setThread, State.splitIx, hwho', State.thread_setTrapRegs]
  rfl

theorem State.noteTrap_of_split {s : State} {n : Nat} (hwho : s.who = .split n) (hfatal : s.trapFatal = false) (at_ : PC)
    (tr : Trap) : s.noteTrap at_ tr false =
      s.setTrapRegs (trapInfo tr (tr.lanes.getD s.thread.mask) at_.slot n false false false) (tr.addr.getD at_.pkt) := by
  simp only [State.noteTrap, State.sprig?, State.splitIx, State.recOwner, hwho, hfatal, Option.isSome_none, State.setTrapRegs]

theorem State.takeTrap_of_split {s : State} {n : Nat} {tr : Trap} (hwho : s.who = .split n) (hframe : s.cur.frame = none)
    (htx : s.cur.tx = none) (hdue : s.cur.due = none) (hpark : s.thread.park ≠ .rendezvous) (hab : tr.tx = false)
    (hc : tr.cause ≠ 4) (hfatal : s.trapFatal = false) (at_ : PC) : s.takeTrap s.who at_ tr =
      s.entered n (trapInfo tr (tr.lanes.getD s.thread.mask) at_.slot n false false false) (tr.addr.getD at_.pkt)
        (s.thread.ended s.cycle.toNat) (tr.resume.getD s.thread.pc) := by
  rw [State.takeTrap_self at_ htx hdue hc hframe hpark hab, hfatal, if_neg Bool.false_ne_true,
    State.noteTrap_of_split hwho hfatal, State.enterHandler_of_split_eq hwho]

theorem State.thread_groupStopped (s : State) : s.groupStopped.thread = s.thread := rfl

/-- A split that takes its trap at once enters its handler; what TRAPINFO then holds is kept apart from the state. -/
theorem State.halt_of_split {s : State} {n : Nat} {tr : Trap} (hwho : s.who = .split n) (hframe : s.cur.frame = none)
    (htx : s.cur.tx = none) (hpend : s.cur.pending = []) (hdue : s.cur.due = none) (hpark : s.thread.park ≠ .rendezvous)
    (hab : tr.tx = false) (hc : tr.cause ≠ 4) (haway : awaySector tr.cause = none) (hz : s.const s.cur 7 52 ≠ 0)
    (hland : s.counted.landing s.cur (s.const s.cur 7 52) = true) (slot : Nat) :
    ∃ info, info = trapInfo tr (tr.lanes.getD s.thread.mask) slot n false false false ∧ s.halt slot (.trap tr) =
      (s.groupStopped.entered n info (tr.addr.getD s.packet) (s.thread.ended s.cycle.toNat) (tr.resume.getD s.thread.pc)).seeNow := by
  have hh : s.groupStopped.landing s.groupStopped.cur (s.groupStopped.const s.groupStopped.cur 7 52) = true :=
    (s.landing_groupStopped _).trans hland
  have hfatal : s.groupStopped.trapFatal = false := State.trapFatal_of_landing (s := s.groupStopped) hframe hh hz
  refine ⟨_, rfl, ?_⟩
  rw [State.halt_of_trap haway, State.raise_takes (s := s.groupStopped) ⟨s.packet, slot⟩ htx hdue hframe hpend hh hz,
    State.takeTrap_of_split (s := s.groupStopped) hwho hframe htx hdue hpark hab hc hfatal, State.thread_groupStopped]
  rfl

/-- Settles O46: the trap is taken at once, and the handler starts with what the split and the frame say. -/
theorem trapEntry : Obligations.TrapEntry := by
  unfold Obligations.TrapEntry
  intro s n slot tr hwho hframe htx hpend hdue hab hc haway hpark hz hland t
  obtain ⟨info, hinfo, ht⟩ : ∃ info, _ ∧ t = _ :=
    State.halt_of_split hwho hframe htx hpend hdue hpark hab hc haway hz hland slot
  rw [← hinfo, ht]
  exact ⟨rfl, ⟨_, rfl, rfl, rfl, rfl, rfl, rfl, rfl, rfl, rfl, rfl⟩, rfl, rfl, fun k hk => nmap_get_set_other _ _ _ _ hk,
    ⟨_, nmap_get_set _ _ _, rfl, rfl, rfl, rfl⟩, rfl, rfl, rfl, rfl, rfl, rfl⟩

/-! A trap that is fatal (19 R370). -/

/-- What tells a stopped wave, with the launch that STOPREC is read from. -/
structure State.FatalView where
  stage : Stage
  frame : Option Frame
  trapinfo : W64
  who : Who
  launches : NMap Launch
  launch : Nat

def State.fatalView (s : State) : State.FatalView :=
  ⟨s.cur.stage, s.cur.frame, s.cur.trapinfo, s.who, s.launches, s.cur.launch⟩

theorem State.stopBase_of_fatalView {s r : State} (h : r.fatalView = s.fatalView) : r.stopBase = s.stopBase := by
  obtain ⟨-, -, -, -, hlaunches, hlaunch⟩ := State.FatalView.mk.inj h
  unfold State.stopBase State.const State.launchOf
  rw [hlaunches, hlaunch]

/-- What no event that waits is part of, posting one leaves. -/
theorem State.postOnce_keeps {β : Type} (part : State → β) (h : ∀ s i, part (State.post s i) = part s) (s : State) (i : Instr) :
    part (s.postOnce i) = part s := by
  unfold State.postOnce
  split
  · rfl
  · exact h s i

theorem State.fatalView_postOnce (s : State) (i : Instr) : (s.postOnce i).fatalView = s.fatalView :=
  State.postOnce_keeps _ (fun _ _ => rfl) s i

theorem State.fatalView_recall (s : State) (j : Nat) : (s.recall j).fatalView = s.fatalView := by
  unfold State.recall
  split <;> rfl

theorem State.fatalView_sendTokens (s : State) (w : Wave) (reason : Byte) : (s.sendTokens w reason).fatalView = s.fatalView := by
  refine State.foldl_keeps (fun t x => ?_) _ _
  obtain ⟨_, m⟩ := x
  dsimp only
  split
  · rfl
  · refine (State.fatalView_postOnce _ _).trans ((State.fatalView_postOnce _ _).trans ?_)
    refine State.foldl_keeps (part := State.fatalView) (fun t y => ?_) _ t
    obtain ⟨r, x⟩ := y
    dsimp only
    split
    · rfl
    · split
      · rfl
      · split
        · rfl
        · split <;> rfl

/-- The wave stopped in place with its sprigs recalled: the first part of the fatal path. -/
def State.stoppedInPlace (s : State) : State :=
  s.cur.sprigs.foldl (fun s (j, _) => s.recall j) { s with cur := { s.cur with stage := .stopped, due := none } }

theorem State.stopWave_eq (s : State) (cause : Nat) (resume : PC) (splits : W64) : s.stopWave cause resume splits =
    if cause = 0x13 then s.stoppedInPlace.stopLog resume splits
    else (s.stoppedInPlace.stopLog resume splits).sendTokens (s.stoppedInPlace.stopLog resume splits).cur 1 := rfl

theorem State.fatalView_stoppedInPlace (s : State) : s.stoppedInPlace.fatalView = { s.fatalView with stage := .stopped } :=
  State.foldl_keeps (fun t (x : Nat × Sprig) => t.fatalView_recall x.1) _ _

theorem State.stopLog_none {s : State} (h : s.stopBase = none) (resume : PC) (splits : W64) : s.stopLog resume splits = s := by
  simp only [State.stopLog, h]

theorem State.stopBase_stoppedInPlace (s : State) : s.stoppedInPlace.stopBase = s.stopBase :=
  (State.stopBase_of_fatalView (s := { s with cur := { s.cur with stage := .stopped } }) s.fatalView_stoppedInPlace).trans rfl

theorem State.fatalView_stopWave {s : State} (hbase : s.stopBase = none) (cause : Nat) (resume : PC) (splits : W64) :
    (s.stopWave cause resume splits).fatalView = { s.fatalView with stage := .stopped } := by
  rw [State.stopWave_eq, State.stopLog_none (s.stopBase_stoppedInPlace.trans hbase)]
  split
  · exact s.fatalView_stoppedInPlace
  · exact (State.fatalView_sendTokens _ _ _).trans s.fatalView_stoppedInPlace

/-- Bit 10 of a word that has it beside a part of whole 2048s and a part below 1024. -/
theorem w64_fatal_bit (a b : Nat) (hb : b < 1024) : w64 (a * 2048 + 1024 + b) &&& 0x400 = 0x400 := by
  have hbit : ((a * 2048 + 1024 + b) % 2 ^ 64).testBit 10 = true := by
    rw [Nat.testBit_eq_decide_div_mod_eq, decide_eq_true_eq]
    omega
  refine BitVec.eq_of_toNat_eq ?_
  rw [BitVec.toNat_and, w64, BitVec.toNat_ofNat]
  exact (Nat.and_two_pow _ 10).trans (by rw [hbit]; rfl)

/-- TRAPINFO.FATAL (19 R364). -/
theorem trapInfo_fatal (tr : Trap) (lanes : Mask) (slot split : Nat) (sprig tx : Bool) :
    trapInfo tr lanes slot split sprig true tx &&& 0x400 = 0x400 := by
  have htx : tx.toNat ≤ 1 := tx.toNat_le
  have hwrite : tr.write.toNat ≤ 1 := tr.write.toNat_le
  have hcause : tr.cause % 256 < 256 := Nat.mod_lt _ (by decide)
  have hsplit : trapInfo tr lanes slot split sprig true tx =
      w64 ((lanes.toNat * 2 ^ 21 + tr.code % 2 ^ 16 * 2 ^ 5 + slot % 4 * 2 ^ 3 + split % 4 * 2 + sprig.toNat) * 2048 + 1024 +
        (tx.toNat * 2 ^ 9 + tr.write.toNat * 2 ^ 8 + tr.cause % 256)) := by
    rw [trapInfo, Bool.toNat_true]
    exact congrArg w64 (by omega)
  rw [hsplit]
  exact w64_fatal_bit _ _ (by omega)

theorem State.beforeTrap_issuing {s : State} {tr : Trap} (htx : s.cur.tx = none) (hdue : s.cur.due = none) :
    s.beforeTrap s.who tr = if tr.cause = 4 then s.count 6 1 else s := by
  have e : ({ s.cur with due := none } : Wave) = s.cur := by rw [← hdue]
  simp only [State.beforeTrap, State.abortTx_none htx]
  exact congrArg (fun w => if tr.cause = 4 then ({ s with cur := w } : State).count 6 1 else { s with cur := w }) e

theorem State.readsLike_count (s : State) (h bin : Nat) : s.ReadsLike (s.count h bin) := by
  constructor <;> intros <;> rfl

theorem State.trapFatal_count (s : State) (h bin : Nat) : (s.count h bin).trapFatal = s.trapFatal :=
  congrArg (fun b => s.inHandler || s.const s.cur 7 52 == 0 || !b)
    ((s.readsLike_count h bin).landing (v := s.cur) (w := s.cur) (fun _ => rfl) rfl rfl rfl _)

theorem State.noteTrap_of_fatal {s : State} (hfatal : s.trapFatal = true) (at_ : PC) (tr : Trap) (tx : Bool) :
    ∃ info addr, info &&& 0x400 = 0x400 ∧ s.noteTrap at_ tr tx = s.setTrapRegs info addr := by
  refine ⟨(s.noteTrap at_ tr tx).cur.trapinfo, (s.noteTrap at_ tr tx).cur.trapaddr, ?_, rfl⟩
  unfold State.noteTrap
  rw [hfatal]
  exact trapInfo_fatal ..

/-- A trap of the issuing thread that no handler takes: the wave has no transaction and no other trap, and in handler mode it is the
handler's. -/
structure State.TrapsFatally (s : State) : Prop where
  tx : s.cur.tx = none
  due : s.cur.due = none
  handler : s.cur.frame.isSome = true → s.who = .handler
  park : s.thread.park ≠ .rendezvous
  fatal : s.trapFatal = true

theorem State.TrapsFatally.notLater {s : State} (h : s.TrapsFatally) : (s.inHandler && s.who != .handler) = false := by
  rw [Bool.and_eq_false_imp]
  intro hin
  rw [h.handler hin, bne_self_eq_false]

theorem State.TrapsFatally.count {s : State} (h : s.TrapsFatally) (i bin : Nat) : (s.count i bin).TrapsFatally :=
  ⟨h.tx, h.due, h.handler, h.park, (s.trapFatal_count i bin).trans h.fatal⟩

theorem State.TrapsFatally.takeTrap_fatalView {s : State} (h : s.TrapsFatally) (hbase : s.stopBase = none) (at_ : PC) (tr : Trap) :
    ∃ info, info &&& 0x400 = 0x400 ∧
      (s.takeTrap s.who at_ tr).fatalView = { s.fatalView with stage := .stopped, trapinfo := info } := by
  obtain ⟨b, hbefore, hb, hview⟩ : ∃ b, s.beforeTrap s.who tr = b ∧ b.TrapsFatally ∧ b.fatalView = s.fatalView := by
    rw [State.beforeTrap_issuing h.tx h.due]
    split
    · exact ⟨_, rfl, h.count 6 1, rfl⟩
    · exact ⟨_, rfl, h, rfl⟩
  obtain ⟨info, addr, hbit, hnote⟩ := State.noteTrap_of_fatal hb.fatal at_ tr (s.cur.tx.isSome || tr.tx)
  have hwho : b.who = s.who := congrArg State.FatalView.who hview
  have hpark : (b.thread.ended b.cycle.toNat).park ≠ .rendezvous := hb.park
  have hstop : (b.setTrapRegs info addr).stopBase = none := (State.stopBase_of_fatalView hview).trans hbase
  have hmine : (b.inHandler && s.who != .handler) = false := hwho ▸ hb.notLater
  refine ⟨info, hbit, ?_⟩
  simp only [State.takeTrap, hbefore, hmine, Bool.false_eq_true, if_false, if_neg hpark, hb.fatal, if_true, hnote]
  rw [State.fatalView_stopWave hstop, ← hview]
  rfl

theorem State.TrapsFatally.raise_eq {s : State} (h : s.TrapsFatally) (hpend : s.cur.pending = []) (haway : s.handlerAway s.cur = none)
    (at_ : PC) (tr : Trap) : s.raise at_ tr = if s.stopBase.isSome then
      { s with cur := { s.cur with due := some (s.who, at_, tr) } }.postOnce (.trapTake s.cur.id) else s.takeTrap s.who at_ tr := by
  simp only [State.raise, State.trapsLater, h.due, h.notLater, State.abortFirst, h.tx, hpend, haway, State.logsTrap, h.fatal,
    Option.isSome_none, Bool.or_self, Bool.false_eq_true, if_false, List.isEmpty_nil, Option.isNone_none, Bool.and_self,
    Bool.true_and, Bool.not_eq_true']
  cases s.stopBase.isSome <;> rfl

theorem State.trapFatal_iff (s : State) : s.trapFatal = true ↔
    s.cur.frame.isSome = true ∨ s.const s.cur 7 52 = 0 ∨ s.landing s.cur (s.const s.cur 7 52) = false := by
  simp only [State.trapFatal, State.inHandler, Bool.or_eq_true, beq_iff_eq, Bool.not_eq_true', or_assoc]

theorem State.handlerAway_eq_none {s : State}
    (h : s.cur.frame.isSome = true ∨ s.const s.cur 7 52 = 0 ∨ s.fetchAway s.cur (s.const s.cur 7 52) = none) :
    s.handlerAway s.cur = none := by
  unfold State.handlerAway
  split
  · rfl
  · next hno =>
    rw [Bool.or_eq_true, beq_iff_eq, not_or] at hno
    exact (h.resolve_left hno.1).resolve_left hno.2

theorem State.fetchAway_groupStopped (s : State) (t : W64) : s.groupStopped.fetchAway s.cur t = s.counted.fetchAway s.cur t := by
  unfold State.fetchAway
  rw [s.readsLike_groupStopped.fetch (v := s.cur) (w := s.cur) (fun _ => rfl) rfl rfl rfl]

/-- Settles O47: no handler takes the trap; where no record is asked for the wave stops at once. -/
theorem fatalTraps : Obligations.FatalTraps := by
  unfold Obligations.FatalTraps
  intro s slot tr htx hpend hdue haway hpark hhandler hwhy t
  have ht : t = (s.groupStopped.raise ⟨s.packet, slot⟩ tr).seeNow := State.halt_of_trap haway slot
  have hfatal : s.groupStopped.trapFatal = true := (State.trapFatal_iff _).mpr <|
    hwhy.imp_right fun hz => hz.imp_right fun hland => (s.landing_groupStopped _).trans hland.2
  have hnear : s.groupStopped.handlerAway s.groupStopped.cur = none := State.handlerAway_eq_none <|
    hwhy.imp_right fun hz => hz.imp_right fun hland => (s.fetchAway_groupStopped _).trans hland.1
  have h : s.groupStopped.TrapsFatally := ⟨htx, hdue, hhandler, hpark, hfatal⟩
  have hraise := h.raise_eq hpend hnear ⟨s.packet, slot⟩ tr
  refine ⟨fun hbase => ?stops, fun hbase => ?records⟩
  case stops =>
    have hnone : s.groupStopped.stopBase = none := hbase
    obtain ⟨info, hbit, hview⟩ := h.takeTrap_fatalView hnone ⟨s.packet, slot⟩ tr
    rw [hnone, Option.isSome_none, if_neg Bool.false_ne_true] at hraise
    rw [← hraise] at hview
    obtain ⟨hstage, hframe, hinfo, hwho, -, -⟩ := State.FatalView.mk.inj hview
    rw [ht]
    exact ⟨hstage, (congrArg (·.isSome = true) hframe).to_iff, hwho, (congrArg (· &&& 0x400) hinfo).trans hbit⟩
  case records =>
    have hsome : s.groupStopped.stopBase.isSome = true := hbase
    rw [hsome, if_pos rfl] at hraise
    rw [ht, hraise]
    exact ⟨State.postOnce_keeps (fun t : State => t.cur.due) (fun _ _ => rfl) _ _, State.mem_postOnce _ _,
      State.postOnce_keeps (fun t : State => t.cur.stage) (fun _ _ => rfl) _ _,
      State.postOnce_keeps (fun t : State => t.cur.frame) (fun _ _ => rfl) _ _,
      State.postOnce_keeps State.file (fun _ _ => rfl) _ _, State.postOnce_keeps State.mem (fun _ _ => rfl) _ _⟩

/-! The return from a handler (19 R368). -/

/-- What TRAP.ret gives back, and what it leaves. -/
structure State.ReturnView where
  frame : Option Frame
  sys : ThreadSys
  file : RegFile
  splits : NMap Thread
  who : Who
  mem : Memory

def State.returnView (s : State) : State.ReturnView := ⟨s.cur.frame, s.cur.sys, s.cur.file, s.cur.splits, s.who, s.mem⟩

theorem State.returnView_postOnce (s : State) (i : Instr) : (s.postOnce i).returnView = s.returnView :=
  State.postOnce_keeps _ (fun _ _ => rfl) s i

theorem State.returnView_noteWrote (s : State) (r : RegName) : (s.noteWrote r).returnView = s.returnView := by
  unfold State.noteWrote
  split
  · split
    · split <;> rfl
    · rfl
  · rfl

theorem State.returnView_pushOut (s : State) (r : RegName) : (s.pushOut r).returnView = s.returnView := by
  unfold State.pushOut
  split
  · rfl
  · refine State.foldl_keeps (fun t ⟨j, p⟩ => ?_) _ _
    dsimp only
    split
    · rfl
    · exact t.returnView_postOnce _

theorem State.returnView_beforeWrite (s : State) (r : RegName) (m : Mask) : (s.beforeWrite r m).returnView = s.returnView :=
  (State.returnView_pushOut _ r).trans ((State.returnView_noteWrote _ r).trans rfl)

theorem State.returnView_takeHeld (s : State) : s.takeHeld.returnView = s.returnView := by
  unfold State.takeHeld
  split <;> rfl

theorem State.returnView_rewake (s : State) (w : Wave) : (s.rewake w).returnView = s.returnView := by
  refine State.foldl_keeps (fun t x => ?_) _ _
  dsimp only
  split
  case h_5 =>
    split
    · exact t.returnView_postOnce _
    · rfl
  case h_6 => rfl
  all_goals exact t.returnView_postOnce _

theorem State.returnView_recheck (s : State) : s.recheck.returnView = s.returnView := by
  have hmerges : (s.cur.recs.foldl (fun s (e, r) => if r.arrived != 0 then s.postOnce (.joinMerge s.cur.id e) else s) s).returnView =
      s.returnView := by
    refine State.foldl_keeps (fun t ⟨e, r⟩ => ?_) _ _
    dsimp only
    split
    · exact t.returnView_postOnce _
    · rfl
  unfold State.recheck
  dsimp only
  split
  · exact (State.returnView_postOnce _ _).trans hmerges
  · exact hmerges

/-- s60 to s63 with the four values of a frame. -/
def Frame.restore (f : Frame) (sregs : List SReg) : List SReg :=
  (List.range 4).foldl (fun rs k => rs.set (60 + k) (f.saved.getD k ⟨.b64, 0⟩)) sregs

theorem Frame.restore_saved {f : Frame} (hf : f.saved.length = 4) {sregs : List SReg} (hs : 64 ≤ sregs.length) {k : Nat} (hk : k < 4) :
    (f.restore sregs)[60 + k]? = f.saved[k]? := by
  have hget : f.saved[k]? = some (f.saved.getD k ⟨.b64, 0⟩) := by
    rw [List.getD_eq_getElem?_getD, List.getElem?_eq_getElem (hf ▸ hk), Option.getD_some]
  rw [hget]
  simp only [Frame.restore, List.range_succ, List.range_zero, List.nil_append, List.foldl_append, List.foldl_cons, List.foldl_nil]
  interval_cases k <;> simp [List.getElem?_set] <;> omega

theorem Frame.restore_below (f : Frame) (sregs : List SReg) {r : Nat} (hr : r < 60) : (f.restore sregs)[r]? = sregs[r]? := by
  have hne (k : Nat) : 60 + k ≠ r := by omega
  simp only [Frame.restore, List.range_succ, List.range_zero, List.nil_append, List.foldl_append, List.foldl_cons, List.foldl_nil,
    List.getElem?_set_ne (hne _)]

theorem State.returnView_trapReturn {s : State} {f : Frame} {n : Nat} (hfrom : f.from_ = .split n) (t : PC) (same : Bool) :
    ∃ u : Thread, u.pc = t ∧ u.mask = s.thread.mask ∧ (s.trapReturn f t same).returnView =
      ⟨none, { s.cur.sys with cwin := f.cwin }, { s.cur.file with sregs := f.restore s.cur.file.sregs },
        NMap.set s.cur.splits n u, .split n, s.mem⟩ := by
  have hbefore : ((List.range 4).foldl (fun s k => s.beforeWrite (.s (60 + k)) (-1)) s).returnView = s.returnView :=
    State.foldl_keeps (fun t k => t.returnView_beforeWrite _ _) _ _
  unfold State.trapReturn
  generalize (List.range 4).foldl (fun s k => s.beforeWrite (.s (60 + k)) (-1)) s = b at hbefore ⊢
  obtain ⟨-, hsys, hfile, hsplits, -, hmem⟩ := State.ReturnView.mk.inj hbefore
  dsimp only
  rw [hfrom, State.returnView_takeHeld, State.returnView_rewake, ← hsys, ← hfile, ← hsplits, ← hmem]
  refine ⟨_, ?pc, ?mask, rfl⟩
  case pc => rfl
  case mask => rfl

/-- Settles O48: the frame's values come back, and the split has the handler's lanes at the resume point. -/
theorem trapReturnRestores : Obligations.TrapReturnRestores := by
  unfold Obligations.TrapReturnRestores
  intro s f n _ _ hfrom hsaved hlen t
  obtain ⟨u, hpc, hmask, hreturn⟩ := State.returnView_trapReturn (s := s) hfrom f.resume true
  have ht : t.returnView = (s.trapReturn f f.resume true).returnView := State.returnView_recheck _
  obtain ⟨hframe, hsys, hfile, hsplits, hwho, hmem⟩ := State.ReturnView.mk.inj (ht.trans hreturn)
  rw [hframe, hsys, hfile, hsplits]
  exact ⟨rfl, hwho, rfl, fun k hk => Frame.restore_saved hsaved hlen hk, fun r hr => f.restore_below _ hr, rfl,
    ⟨u, nmap_get_set _ _ _, hpc, hmask⟩, hmem⟩

end Sys2Proof.Machine
end

section
/-! PROOF. SAVE and RESTORE (19 R374 to R376, R379), and the statement O60. -/

namespace Sys2Proof.Machine

section
variable {s : State} {n : Nat}

/-! Commands that change nothing but the registers of the slot. -/

theorem exec_save_of_busy (hbusy : (s.ctx n).pre.state = 1) : exec (.save n) s = .next s.counted := by
  change execSave n s = _
  rw [execSave, if_pos hbusy, State.event_eq_counted]

theorem exec_restore_of_busy (hbusy : (s.ctx n).pre.state = 1) : exec (.restore n) s = .next s.counted := by
  change execRestore n s = _
  rw [execRestore, if_pos hbusy, State.event_eq_counted]

section
variable (hidle : (s.ctx n).pre.state ≠ 1)
include hidle

theorem exec_save_of_stopped (hrun : (s.ctx n).state ≠ .run) : exec (.save n) s = .next (s.endPre n 5).counted := by
  change execSave n s = _
  rw [execSave, if_neg hidle, if_pos hrun, State.event_eq_counted]

theorem exec_restore_of_stopped (hrun : (s.ctx n).state ≠ .run) : exec (.restore n) s = .next (s.endPre n 5).counted := by
  change execRestore n s = _
  have hrefused : (decide ((s.ctx n).state ≠ .run) || !s.holdsNone n) = true := by rw [decide_eq_true hrun, Bool.true_or]
  rw [execRestore, if_neg hidle, if_pos hrefused, State.event_eq_counted]

variable (hrun : (s.ctx n).state = .run)
include hrun

/-! SAVE (19 R376). -/

theorem exec_save_of_small (hsize : (s.ctx n).pre.size.toNat < (s.offsets (s.roster n)).getD 5 0) :
    exec (.save n) s = .next (s.endPre n 2).counted := by
  change execSave n s = _
  rw [execSave, if_neg hidle, if_neg (not_not_intro hrun), if_pos hsize, State.event_eq_counted]

theorem exec_save_of_room (hsize : (s.offsets (s.roster n)).getD 5 0 ≤ (s.ctx n).pre.size.toNat) :
    let t := s.setCtx n { s.ctx n with held := true, pre :=
      { (s.ctx n).pre with cmd := 0, err := 0, state := 1, job := 1, target := (s.ctx n).pre.area } }
    exec (.save n) s = .next (((t.roster n).waves.foldl State.stopForSave t).post (.saveComplete n)).counted := by
  change execSave n s = _
  rw [execSave, if_neg hidle, if_neg (not_not_intro hrun), if_neg (Nat.not_lt.mpr hsize), State.event_eq_counted]

/-! RESTORE (19 R379) whose header can be read. -/

section
variable {h b : List Byte} (hnone : s.holdsNone n = true)
  (hhead : s.heldAny (s.frontSectors n (s.ctx n).pre.area.toNat 256 .rd) (.restore n) = none)
  (hread : s.frontRead n (s.ctx n).pre.area.toNat 256 = some h)
include hnone hhead hread

theorem exec_restore_of_bad_head (hbad : areaHeadOk h (s.ctx n).pre.size.toNat = false) :
    exec (.restore n) s = .next (s.endPre n 3).counted := by
  change execRestore n s = _
  simp only [execRestore, if_neg hidle, hrun, hnone, hhead, hread, hbad, State.event_eq_counted]
  rfl

theorem exec_restore_of_area (hgood : areaHeadOk h (s.ctx n).pre.size.toNat = true)
    (hfree : s.heldAny (s.frontSectors n (s.ctx n).pre.area.toNat (recField h 0x48 8) .rd) (.restore n) = none)
    (harea : s.frontRead n (s.ctx n).pre.area.toNat (recField h 0x48 8) = some b) :
    exec (.restore n) s = .next (s.takeArea n b).counted := by
  change execRestore n s = _
  simp only [execRestore, if_neg hidle, hrun, hnone, hhead, hread, hgood, hfree, harea, State.event_eq_counted]
  rfl

end
end

/-! What ends a command. -/

theorem exec_saveComplete_of_quiet (hjob : (s.ctx n).pre.job = 1) (hrun : (s.ctx n).state = .run) (hquiet : s.quiet n = true)
    (hfree : s.heldWrite (s.frontSectors n (s.ctx n).pre.target.toNat ((s.offsets (s.roster n)).getD 5 0) .wr ++ s.savedWords n)
      .outside (.saveComplete n) = none) :
    exec (.saveComplete n) s = .next (((s.roster n).waves.foldl State.readyImage s).writeArea n).counted := by
  change execSaveComplete n s = _
  simp only [execSaveComplete, hjob, hrun, hquiet, hfree, State.event_eq_counted]
  rfl

theorem exec_restoreComplete_of_running (hjob : (s.ctx n).pre.job = 2) (hrun : (s.ctx n).state = .run) :
    exec (.restoreComplete n) s =
      .next (((s.setCtx n { s.ctx n with held := false }).endPre n 0).resumeContext n).counted := by
  change execRestoreComplete n s = _
  rw [execRestoreComplete, if_neg (not_not_intro hjob), if_neg (not_not_intro hrun), State.event_eq_counted]

end

/-- Settles O60: each branch of the four events. -/
theorem saveAndRestoreComplete : Obligations.SaveAndRestoreComplete := by
  unfold Obligations.SaveAndRestoreComplete
  refine ⟨?busy, ?stopped, ?save, ?saved, ?restore, ?restored⟩
  case busy => exact fun s n hbusy => ⟨exec_save_of_busy hbusy, exec_restore_of_busy hbusy⟩
  case stopped => exact fun s n hidle hrun => ⟨exec_save_of_stopped hidle hrun, exec_restore_of_stopped hidle hrun⟩
  case save => exact fun s n hidle hrun => ⟨exec_save_of_small hidle hrun, exec_save_of_room hidle hrun⟩
  case saved => exact fun s n => exec_saveComplete_of_quiet
  case restore =>
    exact fun s n h b hidle hrun hnone hhead hread => ⟨exec_restore_of_bad_head hidle hrun hnone hhead hread,
      exec_restore_of_area hidle hrun hnone hhead hread⟩
  case restored => exact fun s n => exec_restoreComplete_of_running

end Sys2Proof.Machine
end

section
/-! PROOF. Collectives, their steps and agreement (20 R384 to R392), and the statement O44. -/

namespace Sys2Proof.Machine

/-! The instructions (20 R387, R390). -/

theorem exec_collJoin_of_record {s t : State} {a : Src} {ws : List W64} (hrec : s.collRecord a 16 = .ok (ws, t))
    (hgroup : groupOk ws = true) (sc : Scope) (d : BitVec 6) :
    exec (.collJoin sc d a) s = .next (s.closed ((t.join ws).2.deferS d .n64 (t.join ws).1)) := by
  change execCollJoin sc d a s = _
  simp only [execCollJoin, hrec, stop_ok_bind, hgroup, need_true, State.finish_ok]

/-- A collective whose descriptor is accepted posts its step and answers what posting it gave. -/
theorem State.coll_of_posted {s t u : State} {op : CollOp} {fn : RedFn} {fmt : Fmt} {sc : Scope} {a : Src} {ws : List W64} {v : W64}
    (hrec : s.collRecord a 8 = .ok (ws, t)) (hfields : collFields op (fmt.width / 8) ws = true)
    (hpost : t.postStep (wordsField ws 0 1) (s.stepOf op fn fmt sc ws) = .ok (v, u)) (d : BitVec 6) :
    s.coll op fn fmt sc d a = .ok (u.deferS d .n64 v) := by
  simp only [State.coll, hrec, stop_ok_bind, hfields, need_true, hpost]

theorem State.finish_of_ok {s r : State} {x : Except Stop State} (h : x = .ok r) : s.finish x = .next (s.closed r) := by
  rw [h, State.finish_ok]

section
variable {s : State} {h : Src}

theorem exec_stepagrRead_of_unheld (hhead : s.stepagrHead h none = .ok none) (d : BitVec 6) :
    exec (.stepagrRead d h) s = .next (s.closed (s.stepagrGives d (w64 (2 ^ 63 + 2)))) := by
  change execStepagrRead d h s = _
  simp only [execStepagrRead, hhead, stop_ok_bind, State.finish_ok]

theorem exec_stepagrRead_of_member {m : Member} (hhead : s.stepagrHead h none = .ok (some m)) (d : BitVec 6) :
    exec (.stepagrRead d h) s = .next (s.closed
      (s.stepagrGives d (w64 (((NMap.get? s.groups m.gid).map fun g => g.agreed.toNat).getD 0)))) := by
  change execStepagrRead d h s = _
  simp only [execStepagrRead, hhead, stop_ok_bind, State.finish_ok]

variable {x : Src}

theorem exec_stepagr_of_unheld (hhead : s.stepagrHead h (some x) = .ok none) (d : BitVec 6) :
    exec (.stepagr d h x) s = .next (s.closed (s.stepagrGives d (w64 (2 ^ 63 + 2)))) := by
  change execStepagr d h x s = _
  simp only [execStepagr, hhead, stop_ok_bind, State.finish_ok]

theorem exec_stepagr_of_member {m : Member} (hhead : s.stepagrHead h (some x) = .ok (some m)) (d : BitVec 6) :
    exec (.stepagr d h x) s =
      .next (s.halted (.park (.stepagr d (s.image h).toNat ((s.image x).truncate 32)) none)) := by
  change execStepagr d h x s = _
  simp only [execStepagr, hhead, stop_ok_bind, State.finish_error]

end

/-! The event of a step (20 R388). -/

/-- The machine in which a step of a group is looked at: the peers that have gone or joined are noted, and the steps of stopped
members cancelled. -/
def State.stepSeen (s : State) (gid : Nat) (peers : List PeerPost) (gone : List Nat) : State :=
  ((s.vacate gid gone).peersJoined gid (peers.map (·.rank))).dropStopped gid

section
variable {s : State} {gid : Nat} {peers : List PeerPost} {gone : List Nat} {g : Group}
  (hgroup : NMap.get? (s.stepSeen gid peers gone).groups gid = some g)
include hgroup

theorem exec_collStepRun_of_step {k : Nat} (hfailing : g.failing = []) (hstep : g.step = some k) (e : FabricEnd) :
    exec (.collStepRun gid peers gone e) s = .next ((s.stepSeen gid peers gone).runStep gid k g peers e).counted := by
  change execCollStepRun gid peers gone e s = _
  rw [State.stepSeen] at hgroup
  simp only [execCollStepRun, hgroup, hfailing, hstep, State.event_eq_counted, State.stepSeen]

theorem exec_collStepRun_of_failing {x : Failing} {rest : List Failing} (hfailing : g.failing = x :: rest) (e : FabricEnd) :
    exec (.collStepRun gid peers gone e) s =
      .next ((s.stepSeen gid peers gone).runFailing gid g x rest (.collStepRun gid peers [] e)).counted := by
  change execCollStepRun gid peers gone e s = _
  rw [State.stepSeen] at hgroup
  simp only [execCollStepRun, hgroup, hfailing, State.event_eq_counted, State.stepSeen]

end

/-! What a step that every member has posted does (20 R388, R392). -/

/-- A rank has brought its part of step `k`. -/
def Group.brought (g : Group) (k : Nat) (peers : List PeerPost) (r : Nat) : Prop :=
  (NMap.get? (g.posted k) r).isSome = true ∨ (peers.any fun p => p.rank == r) = true

/-- What the ranks of a step on this device and on peers must agree in. -/
def Group.shapes (g : Group) (k : Nat) (peers : List PeerPost) : List (CollOp × RedFn × Fmt × Nat × Nat) :=
  (g.posted k).map (fun x => x.2.2.shape) ++ peers.map peerShape

section
variable {s : State} {gid k : Nat} {g : Group} {peers : List PeerPost} {e : FabricEnd}

/-- Ranks that have joined and not brought their part. -/
def Group.awaited (g : Group) (k : Nat) (peers : List PeerPost) : Bool :=
  (g.ranks.filter fun x => (NMap.get? (g.posted k) x.1).isNone && !(peers.any fun p => p.rank == x.1)).any fun x => !x.2.vacant

theorem State.runStep_eq (s : State) (gid k : Nat) (g : Group) (peers : List PeerPost) (e : FabricEnd) : s.runStep gid k g peers e =
    if g.awaited k peers then s
    else if (g.posted k).any fun x => !s.engineRuns x.2.2.ctx then s
    else match s.heldStep g.size (g.posted k) (.collStepRun gid peers [] e) with
    | some t => t
    | none => s.runFreeStep gid k g peers e (g.posted k) (g.ranks.any fun x => x.2.vacant)
        ((g.shapes k peers).any fun x => some x != (g.shapes k peers).head?) := rfl

/-- No rank is missing, no engine is stopped and no sector is awaited: the step goes on. -/
theorem State.runStep_of_all (hall : ∀ r x, (r, x) ∈ g.ranks → x.vacant = true ∨ g.brought k peers r)
    (hruns : ∀ x ∈ g.posted k, s.engineRuns x.2.2.ctx = true)
    (hfree : s.heldStep g.size (g.posted k) (.collStepRun gid peers [] e) = none) : s.runStep gid k g peers e =
      s.runFreeStep gid k g peers e (g.posted k) (g.ranks.any fun x => x.2.vacant)
        ((g.shapes k peers).any fun x => some x != (g.shapes k peers).head?) := by
  have hmissing : g.awaited k peers = false := by
    rw [Group.awaited, List.any_eq_false]
    intro ⟨r, x⟩ hx
    obtain ⟨hmem, hno⟩ := List.mem_filter.mp hx
    simp only [Bool.and_eq_true, Option.isNone_iff_eq_none, Bool.not_eq_true'] at hno
    rcases hall r x hmem with hvacant | hposted | hpeer
    · simp only [hvacant, Bool.not_true, Bool.false_eq_true, not_false_eq_true]
    · simp [hno.1] at hposted
    · simp [hno.2] at hpeer
  have hengines : ((g.posted k).any fun x => !s.engineRuns x.2.2.ctx) = false := by
    rw [List.any_eq_false]
    intro x hx
    simp only [hruns x hx, Bool.not_true, Bool.false_eq_true, not_false_eq_true]
  rw [State.runStep_eq, hmissing, if_neg Bool.false_ne_true, hengines, if_neg Bool.false_ne_true, hfree]

theorem State.runFreeStep_of_vacant (differ : Bool) :
    s.runFreeStep gid k g peers e (g.posted k) true differ = s.failAll gid k g 6 [] := if_pos rfl

/-- The machine after a step has read its sources: the copies of their sectors are noted. -/
def State.stepRead (s : State) (g : Group) (k : Nat) : State :=
  s.touchSectors (((s.rangesSectors (stepRanges g.size (g.posted k))).filter fun x => !x.2.1).map (·.2.2)) false

theorem State.runFreeStep_eq (vacant differ : Bool) : s.runFreeStep gid k g peers e (g.posted k) vacant differ =
    if vacant then s.failAll gid k g 6 []
    else if differ then s.failAll gid k g 5 []
    else if e = .refused then s.failAll gid k g 1 []
    else if e = .linkLost || g.ranks.any fun x => s.lostPeers.contains x.2.dev then s.failAll gid k g 2 []
    else if e = .poisoned then s.failAll gid k g 3 []
    else match (s.stepRead g k).sources g (g.posted k) peers with
      | .error (c, x) => (s.stepRead g k).stopStep gid k g c false x
      | .ok srcs => (s.stepRead g k).deliverStep gid k g (g.posted k) srcs := rfl

theorem State.runFreeStep_of_sources {srcs : List (List Nat)} (hlost : ∀ x ∈ g.ranks, s.lostPeers.contains x.2.dev = false)
    (hsrcs : (s.stepRead g k).sources g (g.posted k) peers = .ok srcs) :
    s.runFreeStep gid k g peers .done (g.posted k) false false = (s.stepRead g k).deliverStep gid k g (g.posted k) srcs := by
  have hpeers : (g.ranks.any fun x => s.lostPeers.contains x.2.dev) = false := by
    rw [List.any_eq_false]
    intro x hx
    rw [hlost x hx]
    exact Bool.false_ne_true
  rw [State.runFreeStep_eq, if_neg Bool.false_ne_true, if_neg Bool.false_ne_true, if_neg (by decide), hpeers,
    if_neg (by decide), if_neg (by decide), hsrcs]

end

/-! Agreement (20 R390). -/

/-- The machine in which an agreement is looked at: the peers that have gone or joined are noted. -/
def State.agreementSeen (s : State) (gid : Nat) (peers : List (Nat × W32)) (gone : List Nat) : State :=
  (s.vacate gid gone).peersJoined gid (peers.map (·.1))

/-- A group of the machine replaced. -/
def State.withGroup (s : State) (gid : Nat) (g : Group) : State := { s with groups := NMap.set s.groups gid g }

/-- The machine when a group has agreed on step `a`. -/
def State.agreeAll (s : State) (gid : Nat) (g : Group) (a : W32) : State :=
  ((g.ranks.filterMap fun x => x.2.wave.bind s.wave?).foldl (fun t w => t.agreeWave gid a w) (s.unwind gid g a)).postOnce
    (.stepagrAgreed gid [] [])

theorem exec_stepagrAgreed_eq (s : State) (gid : Nat) (peers : List (Nat × W32)) (gone : List Nat) :
    exec (.stepagrAgreed gid peers gone) s = match NMap.get? (s.agreementSeen gid peers gone).groups gid with
      | none => (s.agreementSeen gid peers gone).event
      | some g =>
        match ((s.agreementSeen gid peers gone).withGroup gid (g.propose peers)).agreement gid (g.propose peers) with
        | none => ((s.agreementSeen gid peers gone).withGroup gid (g.propose peers)).event
        | some a =>
          (((s.agreementSeen gid peers gone).withGroup gid (g.propose peers)).agreeAll gid (g.propose peers) a).event := rfl

theorem exec_stepagrAgreed_of_agreement {s : State} {gid : Nat} {peers : List (Nat × W32)} {gone : List Nat} {g : Group} {a : W32}
    (hgroup : NMap.get? (s.agreementSeen gid peers gone).groups gid = some g)
    (hagree : ((s.agreementSeen gid peers gone).withGroup gid (g.propose peers)).agreement gid (g.propose peers) = some a) :
    exec (.stepagrAgreed gid peers gone) s = .next
      (((s.agreementSeen gid peers gone).withGroup gid (g.propose peers)).agreeAll gid (g.propose peers) a).counted := by
  simp only [exec_stepagrAgreed_eq, hgroup, hagree, State.event_eq_counted]

/-- Settles O44: the instructions, then the events, each by its own rule. -/
theorem collectivesComplete : Obligations.CollectivesComplete := by
  unfold Obligations.CollectivesComplete
  refine ⟨⟨?join, ?post, ?agree⟩, ?event, ?step, ?agreed⟩
  case join => exact fun s t sc d a ws hrec hgroup => exec_collJoin_of_record hrec hgroup sc d
  case post =>
    intro s t u fmt fn sc d a op ws v hrec hfields hpost r
    have hr : s.finish (s.coll op fn fmt sc d a) = .next r := State.finish_of_ok (State.coll_of_posted hrec hfields hpost d)
    refine ⟨?ared, ?rsc, ?agat, ?bcast, ?bar⟩
    case ared =>
      rintro rfl
      exact hr
    case rsc =>
      rintro rfl
      exact hr
    case agat =>
      rintro rfl rfl
      exact hr
    case bcast =>
      rintro rfl rfl
      exact hr
    case bar =>
      rintro rfl rfl rfl
      exact hr
  case agree =>
    intro s d h x m gives
    refine ⟨fun hhead => ?read, fun hhead => ?propose⟩
    case read =>
      cases m with
      | none => exact exec_stepagrRead_of_unheld hhead d
      | some m => exact exec_stepagrRead_of_member hhead d
    case propose =>
      cases m with
      | none => exact exec_stepagr_of_unheld hhead d
      | some m => exact exec_stepagr_of_member hhead d
  case event =>
    intro s gid k peers gone e g t hgroup
    exact ⟨fun hfailing hstep => exec_collStepRun_of_step hgroup hfailing hstep e,
      fun x rest hfailing => exec_collStepRun_of_failing hgroup hfailing e⟩
  case step =>
    intro s gid k g peers e here hall hruns hfree
    have hstep := State.runStep_of_all hall hruns hfree
    refine ⟨?vacant, ?runs⟩
    case vacant =>
      rintro ⟨r, x, hmem, hvacant⟩
      have hany : (g.ranks.any fun x => x.2.vacant) = true := List.any_eq_true.mpr ⟨(r, x), hmem, hvacant⟩
      rw [hstep, hany, State.runFreeStep_of_vacant]
    case runs =>
      intro shapes reads u srcs hfull hshapes hend hlost hsrcs
      have hany : (g.ranks.any fun x => x.2.vacant) = false := by
        rw [List.any_eq_false]
        intro x hx
        rw [hfull x.1 x.2 hx]
        exact Bool.false_ne_true
      have halike : ((g.shapes k peers).any fun x => some x != (g.shapes k peers).head?) = false := by
        rw [List.any_eq_false]
        intro x hx
        rw [show (g.shapes k peers).head? = some x from hshapes x hx, bne_self_eq_false]
        exact Bool.false_ne_true
      subst hend
      rw [hstep, hany, halike]
      exact State.runFreeStep_of_sources hlost hsrcs
  case agreed =>
    intro s gid peers gone g a t h u hgroup hagree
    exact exec_stepagrAgreed_of_agreement hgroup hagree

end Sys2Proof.Machine
end
